-- ==== Sys2Proof/Word.lean ====
section
/-! DEFINITION. The word types of the X4: 32-bit values (R5, R27), bytes and the 64-bit tag (R36). -/

namespace Sys2Proof

/-- A 32-bit data value (R27). -/
abbrev Word := BitVec 32

/-- A byte of memory (R5). -/
abbrev Byte := BitVec 8

/-- The 64-bit tag of a pooled token (R36). -/
abbrev Tag := BitVec 64

/-- A virtual address: object id in [63:40], offset in [39:0] (R306). -/
abbrev VA := BitVec 64

end Sys2Proof
end

