-- ==== Sys2Proof/Syntax.lean ====
section
/-! DEFINITION. The instructions of the Xamaino X4: the named values of the record fields (R59, R53, R83 to R85, R175, R197),
the `Shell` of a node record (R69, R72, R73), and `Instr`, with one constructor for each row of the opcode table. -/

namespace Sys2Proof

/-- Where a record is placed (R20, R86): pinned in an element of a forme, or pooled in a dataflow tile. -/
inductive Placement where
  | pinned
  | pooled
  deriving DecidableEq, Repr

/-- Integer lane types (R59, Table 4-6). -/
inductive LaneType where
  | i32
  | i16x2
  | i8x4
  deriving DecidableEq, Repr

/-- Rounding modes (Table 3-4). -/
inductive Rnd where
  | rne
  | rtz
  | rup
  | rdn
  | sr
  deriving DecidableEq, Repr

/-- Conditions of ICMP and ICMPV (Table 4-7). -/
inductive ICond where
  | eq
  | ne
  | lt
  | le
  | gt
  | ge
  | ltu
  | leu
  | gtu
  | geu
  deriving DecidableEq, Repr

/-- Conditions of FCMP, FCMPV and HCMP (Table 4-7). -/
inductive FCond where
  | eq
  | ne
  | lt
  | le
  | gt
  | ge
  | un
  | ord
  deriving DecidableEq, Repr

/-- The target format of SCQ (R116). -/
inductive ScqFmt where
  | e4m3
  | e5m2
  | tw8
  deriving DecidableEq, Repr

/-- The three forms of MERGE (R128). -/
inductive MergeKind where
  | pred
  | any
  | pick
  deriving DecidableEq, Repr

/-- Width codes of a present tag field (R36). -/
inductive WidthCode where
  | w4
  | w8
  | w16
  deriving DecidableEq, Repr

/-- What GETTAG reads (Table 6-2). -/
inductive GetSel where
  | field (i : BitVec 3)
  | lo
  | hi
  | ctx
  deriving DecidableEq, Repr

/-- What SETTAG writes (Table 6-2). -/
inductive SetSel where
  | field (i : BitVec 3)
  | ctx
  deriving DecidableEq, Repr

/-- Access and element sizes of group 0x8 (Table 4-6). -/
inductive Size where
  | w32
  | w16
  | w8
  deriving DecidableEq, Repr

/-- Scopes (Table 4-8). -/
inductive Scope where
  | element
  | forme
  | die
  | package
  | system
  deriving DecidableEq, Repr

/-- Combine operations of CMB and RED (Table 7-11). -/
inductive CombineOp where
  | add
  | min
  | max
  | minu
  | maxu
  | and
  | or
  | xor
  | fadd
  | fmin
  | fmax
  deriving DecidableEq, Repr

/-- Operand formats of the matrix records (Table 4-9). -/
inductive MFmt where
  | bf16
  | fp16
  | e4m3
  | e5m2
  | tw8
  deriving DecidableEq, Repr

/-- Output formats of MDRAIN (Table 8-2). -/
inductive OFmt where
  | fp32
  | fp16
  | bf16
  deriving DecidableEq, Repr

/-- The fields that every node record has (Table 4-1): INMASK, PIN, the literal port if LITEN = 1 with its value (R72), AUX,
and the two destinations (R73). -/
structure Shell where
  inmask : BitVec 3
  pin : Bool
  lit : Option (BitVec 2 × Word)
  aux : BitVec 5
  dsta : BitVec 16
  dstb : BitVec 16
  deriving DecidableEq, Repr

/-- An entry of the readiness map (R375): a bay row group, or entry `e` of READY_UNITS and MOD_CTL. -/
inductive ReadyEntry where
  | group (die row : Nat)
  | unit (e : Nat)
  deriving DecidableEq, Repr

/-- A place in physical memory that a lease message names (Table 23-2): tier, die or package, first page. -/
structure LeasePlace where
  tier : Nat
  loc : Nat
  page : Nat
  deriving DecidableEq, Repr

/-- What TAKE_ACK carries (Table 23-2). -/
structure LeaseGrant where
  gran : Nat
  wt : Bool
  rbw : Nat
  page : Nat
  deriving DecidableEq, Repr

/-- The stall that a watchdog reports (R360): a round, an access of an element, an access of a galley, a silent galley. An access is
given with its address, size and kind (Table 22-2). -/
inductive Stall where
  | round (h : Nat)
  | access (h x y : Nat) (va : BitVec 64) (size kind : Nat)
  | galleyAccess (tile hdr : Nat) (tag : Tag) (node : Nat) (va : BitVec 64) (size kind : Nat)
  | galley (tile hdr : Nat) (tag : Tag)
  deriving DecidableEq, Repr

/-- The work whose read met an uncorrectable error (R357), whether the data has an intact source, and where the data lies; or data of
no context: the image of a swapped forme, a spilled entry, the staging area of a forme. Further: the source of a running copy, the image
that a door loads, and a line of an object of a partition that a host access or a patrol read finds (R381). -/
inductive EccSite where
  | round (h x y : Nat) (intact : Bool) (va : BitVec 64)
  | galley (tile hdr : Nat) (tag : Tag) (node : Nat) (intact : Bool) (va : BitVec 64)
  | shadow (h : Nat)
  | spill (tile node : Nat) (tag : Tag)
  | staging (h : Nat)
  | copy (die id : Nat) (intact : Bool) (va : BitVec 64)
  | door (part door : Nat) (va : BitVec 64)
  | line (part : Nat) (intact : Bool) (va : BitVec 64)
  deriving DecidableEq, Repr

/-- A host access to a register through BAR0 (R339): the low word, the high word, or all 8 bytes. -/
inductive RegAccess where
  | low (part : Nat)
  | high (part : Nat)
  | full (part : Nat)
  deriving DecidableEq, Repr

/-- An atomic that a borrower performs at the lender's home (R177, R180, R365): one that combines, an exchange, a compare and swap with its
new word, a lock taken or given back for a context. -/
inductive LeaseOp where
  | combine (op : CombineOp)
  | exchange
  | compareSwap (new : BitVec 32)
  | acquire (ctx : BitVec 12)
  | release (ctx : BitVec 12)
  deriving DecidableEq, Repr

/-- What a flit asks for at its destination package (R344, R365): a borrower's load, store or atomic of a lease, a RED
contribution to a reduction line, or copy data. Addresses are byte offsets in the lease, or physical addresses. -/
inductive FlitBody where
  | leaseLoad (die idx off size : Nat)
  | leaseStore (die idx off : Nat) (data : List (BitVec 8))
  | leaseAtomic (die idx off : Nat) (op : LeaseOp) (v : Word)
  | red (addr : Nat) (op : CombineOp) (v : Word)
  | copyData (addr : Nat) (data : List (BitVec 8))
  deriving DecidableEq, Repr

/-- A flit from another package (R343, R344): the package it is for, its traffic class, and its work. -/
structure Flit where
  dest : Nat
  cls : Nat
  body : FlitBody
  deriving DecidableEq, Repr


/-- The instructions and the steps of the part: one constructor for each row of the table of operations and events.
The first 200 are node records (R69), each with its typed modifier, variant and packed fields and the `Shell` that every
record shares. The other 85 are steps of the device, of the host and of the links, named with the unit they happen at. -/
inductive Instr where
  | add (lt : LaneType) (sat : Bool) (r : Shell)
  | sub (lt : LaneType) (sat : Bool) (r : Shell)
  | mul (lt : LaneType) (sat : Bool) (r : Shell)
  | mulh (lt : LaneType) (r : Shell)
  | mulhu (lt : LaneType) (r : Shell)
  | mad (lt : LaneType) (sat : Bool) (r : Shell)
  | div (lt : LaneType) (sat : Bool) (r : Shell)
  | divu (lt : LaneType) (r : Shell)
  | rem (lt : LaneType) (r : Shell)
  | remu (lt : LaneType) (r : Shell)
  | min (lt : LaneType) (r : Shell)
  | max (lt : LaneType) (r : Shell)
  | minu (lt : LaneType) (r : Shell)
  | maxu (lt : LaneType) (r : Shell)
  | abs (lt : LaneType) (sat : Bool) (r : Shell)
  | neg (lt : LaneType) (sat : Bool) (r : Shell)
  | andW (r : Shell)
  | orW (r : Shell)
  | xorW (r : Shell)
  | andn (r : Shell)
  | lut3 (tt : BitVec 8) (r : Shell)
  | maj (r : Shell)
  | shl (lt : LaneType) (r : Shell)
  | shr (lt : LaneType) (r : Shell)
  | sar (lt : LaneType) (r : Shell)
  | fshl (lt : LaneType) (r : Shell)
  | fshr (lt : LaneType) (r : Shell)
  | popc (lt : LaneType) (r : Shell)
  | clz (lt : LaneType) (r : Shell)
  | brev (lt : LaneType) (r : Shell)
  | bfx (lt : LaneType) (pos : BitVec 5) (len : BitVec 6) (sx : Bool) (r : Shell)
  | bfi (lt : LaneType) (pos : BitVec 5) (len : BitVec 6) (r : Shell)
  | icmp (cond : ICond) (r : Shell)
  | icmpv (cond : ICond) (x2 : Bool) (r : Shell)
  | fcmp (cond : FCond) (r : Shell)
  | fcmpv (cond : FCond) (r : Shell)
  | sel (r : Shell)
  | fclass (r : Shell)
  | pand (r : Shell)
  | por (r : Shell)
  | pxor (r : Shell)
  | pnot (r : Shell)
  | pconst (val : Bool) (r : Shell)
  | ptest (z : Bool) (r : Shell)
  | fadd (rnd : Rnd) (r : Shell)
  | fsub (rnd : Rnd) (r : Shell)
  | fmul (rnd : Rnd) (r : Shell)
  | ffma (rnd : Rnd) (r : Shell)
  | fmin (r : Shell)
  | fmax (r : Shell)
  | fabs (r : Shell)
  | fneg (r : Shell)
  | fdiv (rnd : Rnd) (r : Shell)
  | fsqrt (rnd : Rnd) (r : Shell)
  | frcpe (r : Shell)
  | frsqe (r : Shell)
  | fexp2 (rnd : Rnd) (r : Shell)
  | flog2 (rnd : Rnd) (r : Shell)
  | fsin (cos : Bool) (rnd : Rnd) (r : Shell)
  | frnd (rnd : Rnd) (x : Bool) (r : Shell)
  | hadd (bf : Bool) (rnd : Rnd) (r : Shell)
  | hsub (bf : Bool) (rnd : Rnd) (r : Shell)
  | hmul (bf : Bool) (rnd : Rnd) (r : Shell)
  | hfma (bf : Bool) (rnd : Rnd) (r : Shell)
  | hmin (bf : Bool) (r : Shell)
  | hmax (bf : Bool) (r : Shell)
  | habs (bf : Bool) (r : Shell)
  | hneg (bf : Bool) (r : Shell)
  | hdot2 (bf : Bool) (rnd : Rnd) (r : Shell)
  | hcmp (bf : Bool) (cond : FCond) (r : Shell)
  | hsel (bf : Bool) (r : Shell)
  | hmask (bf : Bool) (r : Shell)
  | cvtif (half : Bool) (uns : Bool) (rnd : Rnd) (r : Shell)
  | cvtfi (half : Bool) (uns : Bool) (rnd : Rnd) (r : Shell)
  | cvtff (toFp16 : Bool) (rnd : Rnd) (r : Shell)
  | packh (bf : Bool) (rnd : Rnd) (r : Shell)
  | unpkh (hi : Bool) (bf : Bool) (r : Shell)
  | cvtf8 (e5 : Bool) (sat : Bool) (rnd : Rnd) (from32 : Bool) (r : Shell)
  | cvt8f (e5 : Bool) (hi : Bool) (r : Shell)
  | twenc (bf : Bool) (r : Shell)
  | twdec (bf : Bool) (hi : Bool) (r : Shell)
  | scq (fmt : ScqFmt) (r : Shell)
  | scdq (quot : Bool) (rnd : Rnd) (r : Shell)
  | copy (r : Shell)
  | steer (nul : Bool) (r : Shell)
  | merge (kind : MergeKind) (r : Shell)
  | gate (nul : Bool) (r : Shell)
  | sink (r : Shell)
  | join (r : Shell)
  | const (value : BitVec 32) (r : Shell)
  | repeatN (eos : Bool) (raw : BitVec 32) (r : Shell)
  | seq (eos : Bool) (r : Shell)
  | nullout (r : Shell)
  | eosout (r : Shell)
  | eoswait (fwd : Bool) (r : Shell)
  | loopin (wc : WidthCode) (start : BitVec 16) (rt : BitVec 4) (r : Shell)
  | nexti (rt : BitVec 4) (r : Shell)
  | loopout (rt : BitVec 4) (r : Shell)
  | call (callSite : BitVec 16) (rt : BitVec 4) (r : Shell)
  | ret (rt : BitVec 4) (r : Shell)
  | gettag (sel : GetSel) (r : Shell)
  | settag (sel : SetSel) (rt : BitVec 4) (r : Shell)
  | window (k : BitVec 8) (r : Shell)
  | route (mask : BitVec 16) (r : Shell)
  | unroute (pdest : BitVec 16) (r : Shell)
  | ctxnew (r : Shell)
  | ctxfree (r : Shell)
  | nextg (r : Shell)
  | ld (sz : Size) (sx : Bool) (disp : BitVec 24) (kb : BitVec 6) (r : Shell)
  | st (sz : Size) (disp : BitVec 24) (kb : BitVec 6) (r : Shell)
  | ldi (sz : Size) (sx : Bool) (disp : BitVec 24) (r : Shell)
  | sti (sz : Size) (disp : BitVec 24) (r : Shell)
  | kld (hi : Bool) (kn : BitVec 6) (r : Shell)
  | kst (hi : Bool) (kn : BitVec 6) (r : Shell)
  | gather (sz : Size) (sx : Bool) (raw : BitVec 32) (r : Shell)
  | scatter (sz : Size) (raw : BitVec 32) (r : Shell)
  | sopen (sz : Size) (wport : Bool) (dir : Bool) (slot : BitVec 3) (r : Shell)
  | sclose (slot : BitVec 3) (r : Shell)
  | sseek (slot : BitVec 3) (r : Shell)
  | pref (raw : BitVec 32) (r : Shell)
  | tld (sz : Size) (sx : Bool) (base : BitVec 19) (dx : BitVec 6) (dy : BitVec 6) (r : Shell)
  | tst (sz : Size) (base : BitVec 19) (dx : BitVec 6) (dy : BitVec 6) (r : Shell)
  | pshift (dy : BitVec 6) (dx : BitVec 6) (pid : BitVec 3) (slot : BitVec 3) (r : Shell)
  | pbound (all : Bool) (slot : BitVec 3) (hw : BitVec 5) (kind : BitVec 2) (edges : BitVec 4) (r : Shell)
  | pact (on : Bool) (all : Bool) (slot : BitVec 3) (r : Shell)
  | pmark (pid : BitVec 3) (r : Shell)
  | prule (mask : BitVec 16) (r : Shell)
  | phalo (hw : BitVec 5) (edge : BitVec 2) (pid : BitVec 3) (r : Shell)
  | pflip (pid : BitVec 3) (r : Shell)
  | pcnt (pid : BitVec 3) (r : Shell)
  | cmb (cop : CombineOp) (r : Shell)
  | aadd (acq : Bool) (scope : Scope) (rel : Bool) (raw : BitVec 32) (r : Shell)
  | amin (acq : Bool) (scope : Scope) (rel : Bool) (raw : BitVec 32) (r : Shell)
  | amax (acq : Bool) (scope : Scope) (rel : Bool) (raw : BitVec 32) (r : Shell)
  | aand (acq : Bool) (scope : Scope) (rel : Bool) (raw : BitVec 32) (r : Shell)
  | aor (acq : Bool) (scope : Scope) (rel : Bool) (raw : BitVec 32) (r : Shell)
  | axor (acq : Bool) (scope : Scope) (rel : Bool) (raw : BitVec 32) (r : Shell)
  | axchg (acq : Bool) (scope : Scope) (rel : Bool) (raw : BitVec 32) (r : Shell)
  | acas (acq : Bool) (scope : Scope) (rel : Bool) (raw : BitVec 32) (r : Shell)
  | afadd (acq : Bool) (scope : Scope) (rel : Bool) (raw : BitVec 32) (r : Shell)
  | red (scope : Scope) (rel : Bool) (cop : CombineOp) (r : Shell)
  | redwait (acq : Bool) (scope : Scope) (r : Shell)
  | lockacq (acq : Bool) (scope : Scope) (raw : BitVec 32) (r : Shell)
  | lockrel (scope : Scope) (rel : Bool) (raw : BitVec 32) (r : Shell)
  | fence (acq : Bool) (scope : Scope) (rel : Bool) (r : Shell)
  | bararr (scope : Scope) (rel : Bool) (r : Shell)
  | bardrop (scope : Scope) (rel : Bool) (r : Shell)
  | barwait (acq : Bool) (scope : Scope) (r : Shell)
  | waitw (acq : Bool) (scope : Scope) (disp : BitVec 24) (kb : BitVec 6) (r : Shell)
  | wakew (scope : Scope) (rel : Bool) (r : Shell)
  | roundend (r : Shell)
  | quiesce (r : Shell)
  | handover (nslot : BitVec 3) (oslot : BitVec 3) (r : Shell)
  | ordtok (scope : Scope) (slot : BitVec 3) (r : Shell)
  | event (code : BitVec 16) (r : Shell)
  | yield (r : Shell)
  | mma (fmt : MFmt) (n1 : BitVec 7) (m1 : BitVec 7) (r : Shell)
  | mmas (fmt : MFmt) (spkt : Bool) (sp24 : Bool) (bmap : Bool) (n1 : BitVec 7) (m1 : BitVec 7) (r : Shell)
  | mdrain (zero : Bool) (ofmt : OFmt) (n1 : BitVec 7) (m1 : BitVec 7) (r : Shell)
  | mzero (n1 : BitVec 7) (m1 : BitVec 7) (r : Shell)
  | mtask (isl : BitVec 5) (pdest : BitVec 16) (r : Shell)
  | scin (r : Shell)
  | smul (fmt : MFmt) (r : Shell)
  | sfma (fmt : MFmt) (r : Shell)
  | spchk (r : Shell)
  | mstat (sel : BitVec 3) (isl : BitVec 5) (r : Shell)
  | tex (ssr : BitVec 12) (r : Shell)
  | texn (ssr : BitVec 12) (r : Shell)
  | march (base : BitVec 19) (dx : BitVec 6) (dy : BitVec 6) (r : Shell)
  | cadd (page : BitVec 4) (dx : BitVec 6) (dy : BitVec 6) (r : Shell)
  | cwmk (dx : BitVec 6) (dy : BitVec 6) (r : Shell)
  | cres (dx : BitVec 6) (dy : BitVec 6) (r : Shell)
  | cclr (dx : BitVec 6) (dy : BitVec 6) (r : Shell)
  | clog (dx : BitVec 6) (dy : BitVec 6) (r : Shell)
  | cadj (r : Shell)
  | frel (r : Shell)
  | copye (r : Shell)
  | copyw (r : Shell)
  | qresv (r : Shell)
  | qcommit (r : Shell)
  | qtake (r : Shell)
  | loffer (r : Shell)
  | ltake (r : Shell)
  | lreclaim (r : Shell)
  | lquery (r : Shell)
  | degrade (r : Shell)
  | fload (r : Shell)
  | fswap (r : Shell)
  | ovld (r : Shell)
  | ovfree (r : Shell)
  | nop (r : Shell)
  | trap (code : BitVec 16) (r : Shell)
  | brk (code : BitVec 16) (r : Shell)
  | halt (r : Shell)
  | sysrd (clr : Bool) (hi : Bool) (index : BitVec 16) (r : Shell)
  | syswr (hi : Bool) (index : BitVec 16) (r : Shell)
  | eret (r : Shell)
  | perf (hi : Bool) (sel : BitVec 8) (r : Shell)
  | marker (r : Shell)
  | snap (r : Shell)
  | elementTokenArrival (h : Nat) (n : Nat)
  | islandPacket (isl : Nat) (n : Nat)
  | copyComplete (die : Nat) (id : Nat)
  | formeRestore (part : Nat)
  | matchTokenAccept (tile : Nat) (n : Nat)
  | spillRefill (tile : Nat)
  | galleyCommit (tile : Nat)
  | roundCommit (h : Nat)
  | fifoTileDequeue (h : Nat) (bay : Nat)
  | fifoTileEnqueue (h : Nat) (bay : Nat)
  | winFill (h : Nat) (bay : Nat) (w : Nat)
  | streamReadWord (h : Nat) (bay : Nat) (slot : Nat)
  | streamWriteWord (h : Nat) (bay : Nat) (wport : Bool)
  | planePassWord (h : Nat) (bay : Nat) (slot : Nat)
  | quiescenceReport (h : Nat)
  | fswapBoundExpiry (h : Nat)
  | planeExchange (h : Nat)
  | formeFirstLiveCycle (h : Nat)
  | elementMarkerArrival (h : Nat) (n : Nat)
  | fifoMarkerArrival (h : Nat) (n : Nat)
  | markerSaveComplete (h : Nat)
  | markerBoundExpiry (h : Nat)
  | formePreempt (h : Nat)
  | shadowSwap (h : Nat)
  | pooledPreempt (tile : Nat) (ctx : Nat)
  | queueLaunch (part : Nat)
  | favourSliceExpiry (tile : Nat)
  | ingressWrite (part : Nat) (off : Nat) (len : Nat) (data : BitVec 128)
  | doorEntryWrite (part : Nat) (door : Nat) (entry : BitVec 128)
  | doorLoadDone (part : Nat) (door : Nat)
  | doorLoadRetry (part : Nat) (door : Nat)
  | jobEntryWrite (part : Nat) (job : Nat) (entry : BitVec 256)
  | extChgBegin (part : Nat) (value : BitVec 64)
  | extChgHeld (part : Nat)
  | extChgEnd (part : Nat) (value : BitVec 64)
  | extChgAbort (part : Nat) (value : BitVec 64)
  | walkerWalk (die : Nat) (xl : Nat) (part : Nat) (va : BitVec 64)
  | dieSplitWrite (die : Nat) (value : BitVec 64)
  | issueStatClr (tile : Nat)
  | ingressStatClr (part : Nat)
  | ctxCmdReplay (part : Nat)
  | ctxCmdContinue (part : Nat)
  | ctxCmdKill (part : Nat)
  | ctxCmdKillForme (part : Nat) (h : Nat)
  | ctxCmdResume (part : Nat)
  | ctxCmdReplayUnposted (part : Nat)
  | pmodeWrite (mode : BitVec 3)
  | clockDomainSwitch (dom : Nat)
  | clockThrottle (dom : Nat) (mhz : Nat)
  | fwgo
  | fwCheckDone
  | ceclr
  | powerUp
  | functionReady (entry : ReadyEntry) (code : BitVec 2)
  | ppsEdge (offset : Int)
  | fruPpsTimeout
  | fruNowsRead
  | fruReleaseFire (now : Nat)
  | linkRetrain (link : Nat)
  | linkDown (link : Nat)
  | hostMemAccess (write : Bool) (addr : Nat) (size : Nat) (data : BitVec 512)
  | leaseZeroDone (die : Nat) (idx : Nat)
  | take (die : Nat) (idx : Nat) (borrower : Nat) (fallback : LeasePlace)
  | takeAck (die : Nat) (lender : Nat) (lease : Nat) (grant : LeaseGrant)
  | takeNak (die : Nat) (lender : Nat) (lease : Nat) (reason : Nat)
  | reclaim (die : Nat) (lender : Nat) (lease : Nat)
  | stopped (die : Nat) (idx : Nat)
  | push (addr : Nat) (data : List (BitVec 8))
  | done (die : Nat) (lender : Nat) (lease : Nat)
  | demoted (die : Nat) (idx : Nat)
  | lost (die : Nat) (lender : Nat) (lease : Nat) (pushed : Bool)
  | leaseStopTimerExpiry (die : Nat) (idx : Nat) (reachable : Bool)
  | leaseTermExpiry (die : Nat) (idx : Nat)
  | leaseCfgDemand (die : Nat) (value : BitVec 64)
  | qtimeExpiry (die : Nat) (idx : Nat)
  | leaseReplyTimeout (die : Nat) (lender : Nat) (lease : Nat)
  | watchdogExpiry (stall : Stall)
  | eccUncorrectable (err : EccSite)
  | eccCorrectable
  | patrolScrub (addr : Nat)
  | registerWrite (acc : RegAccess) (index : Nat) (value : BitVec 64)
  | linkRetrainDone (link : Nat)
  | quiesceBoundExpiry (tile : Nat) (node : Nat) (tag : BitVec 64)
  | registerRead (acc : RegAccess) (index : Nat)
  | fijanFlitArrival (flit : Flit)
  deriving DecidableEq, Repr

end Sys2Proof
end

