-- ==== Sys2Proof/Machine/Forms.lean ====
section
/-! DEFINITION. What a record may look like: the operand forms of the group tables (R94, R123, R149, R158, R163, R166, R175, R181, R191),
AUX (R71), destinations (R73 to R76), networks (R27) and placement (R86), with the reason codes of Table 4-11. A check here looks at
one record alone; the checks that need the overlay or the forme around it are made by the loader. -/

namespace Sys2Proof

/-- The reasons for which a record is illegal (Table 4-11), in the order of their codes 1 to 10. -/
inductive Reject where
  | opcode
  | reserved
  | modVar
  | form
  | aux
  | dest
  | network
  | placement
  | galley
  | structure
  deriving DecidableEq, Repr

/-- The reason code of Table 4-11. -/
def Reject.code : Reject → Nat
  | .opcode => 1
  | .reserved => 2
  | .modVar => 3
  | .form => 4
  | .aux => 5
  | .dest => 6
  | .network => 7
  | .placement => 8
  | .galley => 9
  | .structure => 10

/-- An operand form: the INMASK values it may have, whether PIN may be 1 and may be 0, the ports a literal may replace. -/
structure Form where
  masks : List Nat
  pin : List Bool := [false]
  lit : Nat := 0
  deriving DecidableEq, Repr

/-- Exactly the ports of `m`, none of them a literal. -/
def Form.ports (m : Nat) : Form := { masks := [m] }

/-- Exactly the ports of `m`, any one of which may be a literal. -/
def Form.anyLit (m : Nat) : Form := { masks := [m], lit := m }

/-- The operand forms of a record in a placement. -/
def Instr.form (pl : Placement) : Instr → Form
  | .abs .. | .neg .. | .popc .. | .clz .. | .brev .. | .fclass .. | .pconst .. | .fabs .. | .fneg .. | .fsqrt .. | .frcpe ..
  | .frsqe .. | .fexp2 .. | .flog2 .. | .fsin .. | .frnd .. | .habs .. | .hneg .. | .cvtif .. | .cvtfi .. | .cvtff .. | .unpkh ..
  | .cvt8f .. | .twdec .. | .spchk .. | .ctxnew .. | .ctxfree .. => .anyLit 1
  | .mad .. | .maj .. | .fshl .. | .fshr .. | .ffma .. | .hfma .. | .hdot2 .. | .hsel .. | .seq .. | .sfma .. => .anyLit 7
  | .lut3 .. => .ports 7
  | .bfx .. | .scq .. => .ports 1
  | .bfi .. | .hcmp .. | .cvtf8 .. => .ports 3
  | .sel .. => { masks := [3], pin := [true], lit := 3 }
  | .pand .. | .por .. | .pxor .. => { masks := [1], pin := [true], lit := 1 }
  | .pnot .. => { masks := [0], pin := [true] }
  | .copy .. | .sink .. | .nullout .. | .eoswait .. => .ports 1
  | .steer .. | .gate .. => { masks := [1], pin := [true] }
  | .merge .pred _ => { masks := [3], pin := [true] }
  | .merge .any _ | .merge .pick _ => .ports 3
  | .join .. => { masks := [3, 5, 7] }
  | .const .. => match pl with
    | .pinned => { masks := [0, 1] }
    | .pooled => .ports 1
  | .repeatN .. => match pl with
    | .pinned => { masks := [0, 3], lit := 2 }
    | .pooled => { masks := [3], lit := 2 }
  | .eosout .. | .nextg .. => { masks := [1], pin := [false, true] }
  | .loopin .. | .nexti .. | .loopout .. | .ret .. | .gettag .. | .route .. | .unroute .. => .ports 1
  | .call .. => match pl with
    | .pooled => { masks := [3], lit := 2 }
    | .pinned => .ports 1
  | .settag .. => match pl with
    | .pooled => { masks := [3], lit := 2 }
    | .pinned => .ports 3
  | .window .. => .ports 3
  | .ld .. | .kld .. | .kst .. | .pref .. | .sclose .. | .sseek .. => .ports 1
  | .st .. | .ldi .. => .ports 3
  | .sti .. | .sopen .. => .ports 7
  | .gather .. => match pl with
    | .pooled => .ports 1
    | .pinned => { masks := [1, 3] }
  | .scatter .. => match pl with
    | .pooled => .ports 3
    | .pinned => { masks := [3, 7] }
  | .tld .. => { masks := [1, 3] }
  | .tst .. => { masks := [3, 7] }
  | .pshift .. | .pbound .. | .pact .. | .pmark .. | .pflip .. | .pcnt .. => .ports 1
  | .prule .. | .phalo .. => .ports 3
  | .cmb .. | .lockacq .. | .lockrel .. => .ports 1
  | .aadd .. | .amin .. | .amax .. | .aand .. | .aor .. | .axor .. | .axchg .. | .afadd .. | .redwait .. => .ports 3
  | .acas .. | .red .. => .ports 7
  | .fence .. | .roundend .. | .quiesce .. | .handover .. | .event .. | .yield .. => .ports 1
  | .bararr .. | .bardrop .. | .waitw .. => .ports 3
  | .barwait .. => .ports 7
  | .wakew .. => { masks := [7], lit := 4 }
  | .ordtok .. => { masks := [1, 3, 5, 7] }
  | .mma .. | .mmas .. | .mdrain .. => .ports 3
  | .mzero .. | .mtask .. | .mstat .. => .ports 1
  | .scin .. => { masks := [3], lit := 2 }
  | .tex .. | .texn .. | .march .. | .cwmk .. | .cadj .. | .frel .. => .ports 3
  | .cadd .. => .ports 7
  | .cres .. | .clog .. => match pl with
    | .pinned => .ports 3
    | .pooled => .ports 7
  | .cclr .. => .ports 1
  | .copye .. | .loffer .. | .ltake .. => .ports 3
  | .copyw .. | .lreclaim .. | .lquery .. | .fswap .. | .ovfree .. => .ports 1
  | .qresv .. | .qtake .. => { masks := [7], lit := 4 }
  | .qcommit .. | .fload .. | .ovld .. => .ports 7
  | .degrade .. => { masks := [3], lit := 2 }
  | .nop .. | .trap .. | .brk .. | .halt .. | .sysrd .. | .syswr .. | .eret .. | .perf .. | .marker .. => .ports 1
  | .snap .. => .ports 7
  | _ => .anyLit 3

/-- Bits [hi:lo] of a 32-bit LIT are zero. -/
def litZero (v : Word) (lo w : Nat) : Bool := v.toNat / 2 ^ lo % 2 ^ w == 0

/-- The field of BFX and BFI fits its lane (R102). -/
def fieldFits (lt : LaneType) (pos : BitVec 5) (len : BitVec 6) : Bool :=
  let w := match lt with
    | .i32 => 32
    | .i16x2 => 16
    | .i8x4 => 8
  decide (pos.toNat < w) && decide (1 ≤ len.toNat) && decide (pos.toNat + len.toNat ≤ w)

/-- The LIT of an atomic or lock record (R175): K form with UNS in [6] and IMM in [7], or the atomic tile form. -/
def atomicLit (pl : Placement) (unsOk immOk : Bool) (raw : Word) : Bool :=
  match pl with
  | .pooled => (unsOk || litZero raw 6 1) && (immOk || litZero raw 7 1)
  | .pinned => litZero raw 14 18 && (unsOk || litZero raw 12 1) && (immOk || litZero raw 13 1)

/-- A START fits its field width (R131). -/
def startFits (wc : WidthCode) (start : BitVec 16) : Bool :=
  match wc with
  | .w4 => decide (start.toNat < 16)
  | .w8 => decide (start.toNat < 256)
  | .w16 => true

/-- MOD and VAR values that only some placements, sizes or LIT values give a meaning to (reason code 3). -/
def Instr.modOk (pl : Placement) : Instr → Bool
  | .ld sz sx .. | .ldi sz sx .. | .gather sz sx .. | .tld sz sx .. => !(sx && sz == .w32)
  | .settag .ctx .. => pl == .pooled
  | .sysrd clr _ index _ => !clr || index == 0
  | _ => true

/-- LIT values that the fields of a record leave to be checked (reason code 4). -/
def Instr.litOk (pl : Placement) : Instr → Bool
  | .bfx lt pos len _ _ | .bfi lt pos len _ => fieldFits lt pos len
  | .repeatN _ raw r => r.inmask == 0 || raw == 0
  | .loopin wc start rt _ => startFits wc start && (pl == .pinned || rt == 0)
  | .nexti rt _ | .loopout rt _ | .ret rt _ | .settag _ rt _ => pl == .pinned || rt == 0
  | .call callSite rt _ => pl == .pinned || (callSite == 0 && rt == 0)
  | .window k _ => k != 0
  | .route mask _ => mask != 0
  | .gather _ _ raw _ | .scatter _ raw _ => match pl with
    | .pooled => litZero raw 6 2
    | .pinned => litZero raw 31 1
  | .pref raw _ => match pl with
    | .pooled => litZero raw 6 2
    | .pinned => litZero raw 3 29
  | .pbound _ _ hw kind _ _ => if kind == 3 then decide (1 ≤ hw.toNat) && decide (hw.toNat ≤ 16) else hw == 0
  | .phalo hw _ _ _ => decide (1 ≤ hw.toNat) && decide (hw.toNat ≤ 16)
  | .amin _ _ _ raw _ | .amax _ _ _ raw _ => atomicLit pl true true raw
  | .aadd _ _ _ raw _ | .aand _ _ _ raw _ | .aor _ _ _ raw _ | .axor _ _ _ raw _ | .axchg _ _ _ raw _ | .acas _ _ _ raw _
  | .afadd _ _ _ raw _ => atomicLit pl false true raw
  | .lockacq _ _ raw _ | .lockrel _ _ raw _ => atomicLit pl false false raw
  | .mtask isl _ _ => pl == .pooled || isl == 0
  | .cres dx dy _ | .cclr dx dy _ | .clog dx dy _ => pl == .pinned || (dx == 0 && dy == 0)
  | _ => true

/-- Read a named form: INMASK, PIN and the literal port are one of the record's forms (R71, R72, R94). -/
def Form.allows (f : Form) (r : Shell) : Bool :=
  f.masks.contains r.inmask.toNat && f.pin.contains r.pin &&
    match r.lit with
    | none => true
    | some (p, _) => decide (p.toNat < 3) && f.lit / 2 ^ p.toNat % 2 == 1 && r.inmask.toNat / 2 ^ p.toNat % 2 == 1

/-! ## Destinations -/

/-- The value that means no destination (R73). -/
def noDest : BitVec 16 := 0xFFFF

/-- The port field of a destination. -/
def destPort (d : BitVec 16) : Nat := d.toNat / 2 ^ 14

/-- The class of a pinned destination (Table 4-2). -/
def destClass (d : BitVec 16) : Nat := d.toNat / 2 ^ 12 % 4

/-- A signed 6-bit offset (R75). -/
def signed6 (n : Nat) : Int := if n % 64 < 32 then ((n % 64 : Nat) : Int) else ((n % 64 : Nat) : Int) - 64

/-- dx of a pinned destination. -/
def destDx (d : BitVec 16) : Int := signed6 (d.toNat / 64)

/-- dy of a pinned destination. -/
def destDy (d : BitVec 16) : Int := signed6 d.toNat

/-- A control input `p` of an AG. -/
def isAg (p : Nat) (d : BitVec 16) : Bool := d != noDest && destClass d == 2 && destPort d == p

/-- Where results of a record may go, A and B. -/
inductive DestRule where
  | none
  | any
  | agPort (p : Nat)
  | island
  | dftile
  | element
  deriving DecidableEq, Repr

/-- The destinations of a record: for each field what it may name, and whether at least one must be given (R125). -/
def Instr.destRule (pl : Placement) : Instr → DestRule × DestRule × Bool
  | .sink .. | .kst .. | .red .. | .bardrop .. | .cadd .. | .trap .. | .brk .. | .halt .. | .eret .. => (.none, .none, false)
  | .ret .. => if pl == .pooled then (.none, .none, false) else (.any, .any, false)
  | .copy .. | .steer .. | .merge .. | .gate .. | .join .. | .const .. | .repeatN .. | .seq .. | .nullout .. | .eosout ..
  | .eoswait .. => (.any, .any, true)
  | .unroute .. => (.dftile, .none, false)
  | .sopen _ _ dir _ _ => (.agPort 0, if dir then .none else .any, false)
  | .sclose .. => (.agPort 0, .any, false)
  | .sseek .. => (.agPort 0, .none, false)
  | .handover .. => (.agPort 0, .agPort 0, false)
  | .pshift .. => (.agPort 1, .any, false)
  | .pbound .. | .pact .. | .phalo .. | .pflip .. => (.agPort 1, .none, false)
  | .pmark .. | .pcnt .. => (.agPort 1, .any, false)
  | .mtask .. => if pl == .pinned then (.island, .any, false) else (.any, .any, false)
  | .scin .. => if pl == .pinned then (.element, .element, false) else (.any, .any, false)
  | _ => (.any, .any, false)

/-- The results of ORDTOK may enter an AG's control input 0 (R188). -/
def Instr.sendsControl : Instr → Bool
  | .ordtok .. => true
  | _ => false

/-- One destination field obeys its rule. A pooled destination is a node number, whatever its bits. -/
def destOk (pl : Placement) (rule : DestRule) (control : Bool) (d : BitVec 16) : Bool :=
  match rule with
  | .none => d == noDest
  | .agPort p => isAg p d
  | .island => d != noDest && destClass d == 3 && destPort d == 1
  | .dftile => d != noDest && destClass d == 3 && destPort d == 3
  | .element => d == noDest || destClass d == 0
  | .any => d == noDest || pl == .pooled ||
      match destClass d with
      | 2 => decide (2 ≤ destPort d) || (control && destPort d == 0)
      | 3 => destPort d != 3
      | _ => true

/-- The destinations of a record, taken alone (reason code 6): not twice the same, each of a kind the record sends to. -/
def Instr.destsOk (pl : Placement) (i : Instr) (r : Shell) : Bool :=
  let (a, b, need) := i.destRule pl
  !(r.dsta == r.dstb && r.dsta != noDest) && destOk pl a i.sendsControl r.dsta && destOk pl b i.sendsControl r.dstb &&
    (!need || r.dsta != noDest || r.dstb != noDest)

/-- The network of a result (R27). -/
inductive Net where
  | data
  | pred
  | scale
  deriving DecidableEq, Repr

/-- The network on which a record's results travel. -/
def Instr.net (pl : Placement) : Instr → Net
  | .icmp .. | .fcmp .. | .pand .. | .por .. | .pxor .. | .pnot .. | .pconst .. | .ptest .. => .pred
  | .scin .. => if pl == .pinned then .scale else .data
  | _ => .data

/-- A destination is on the network of the result (reason code 7). Only elements and dataflow nodes have ports of both networks. -/
def netOk (pl : Placement) (n : Net) (d : BitVec 16) : Bool :=
  d == noDest || (pl == .pinned && destClass d != 0 && n != .scale) ||
    match n with
    | .data => destPort d != 3
    | .pred => destPort d == 3
    | .scale => destPort d == 0

/-- The placements of Table 4-10 (reason code 8). -/
def Instr.placeOk (pl : Placement) : Instr → Bool
  | .nextg .. | .ctxnew .. | .ctxfree .. | .ld .. | .st .. | .ldi .. | .sti .. | .kld .. | .kst .. | .waitw .. | .quiesce ..
  | .mma .. | .mmas .. | .mdrain .. | .mzero .. | .copye .. | .copyw .. | .qresv .. | .qcommit .. | .qtake .. | .loffer ..
  | .ltake .. | .lreclaim .. | .lquery .. | .degrade .. | .fload .. | .fswap .. | .ovld .. | .ovfree .. | .trap .. | .brk ..
  | .halt .. | .sysrd .. | .syswr .. | .eret .. | .perf .. | .marker .. | .snap .. => pl == .pooled
  | .route .. | .unroute .. | .tld .. | .tst .. | .sopen .. | .sclose .. | .sseek .. | .pshift .. | .pbound .. | .pact ..
  | .pmark .. | .prule .. | .phalo .. | .pflip .. | .pcnt .. | .roundend .. | .handover .. | .smul .. | .sfma .. | .march ..
  | .cadd .. | .cwmk .. => pl == .pinned
  | _ => true

/-- The reason-code-9 checks of a pooled record that look at nothing around it (R133, R145). -/
def Instr.galleyOk (pl : Placement) : Instr → Bool
  | .steer nul _ | .gate nul _ => pl == .pinned || nul
  | .call _ _ r => pl == .pinned || (r.dstb == noDest && r.dsta != noDest)
  | _ => true

/-- Records whose AUX is an LSID in pooled placement (R71): those of group 0x8 other than KLD and KST, those that no pooled placement
may hold among them, and those of group 0xA other than CMB. -/
def Instr.hasLsid : Instr → Bool
  | .tld .. | .tst .. | .sopen .. | .sclose .. | .sseek .. | .ld .. | .st .. | .ldi .. | .sti .. | .gather .. | .scatter .. | .pref .. | .aadd .. | .amin .. | .amax .. | .aand .. | .aor ..
  | .axor .. | .axchg .. | .acas .. | .afadd .. | .red .. | .redwait .. | .lockacq .. | .lockrel .. => true
  | _ => false

/-- AUX is an LSID, an arrival count or zero (reason code 5). -/
def Instr.auxOk (pl : Placement) (r : Shell) : Instr → Bool
  | .cmb .. => r.aux != 0
  | i => (pl == .pooled && i.hasLsid) || r.aux == 0

/-- The first check that a record with shell `r` fails, apart from those of its encoding. -/
def Instr.check (pl : Placement) (i : Instr) (r : Shell) (codeMod codeLit : Bool) : Option Reject :=
  if !(codeMod && i.modOk pl) then some .modVar
  else if !(codeLit && i.litOk pl && (i.form pl).allows r) then some .form
  else if !(i.auxOk pl r) then some .aux
  else if !(i.destsOk pl r) then some .dest
  else if !(netOk pl (i.net pl) r.dsta && netOk pl (i.net pl) r.dstb) then some .network
  else if !(i.placeOk pl) then some .placement
  else if !(i.galleyOk pl) then some .galley
  else none

end Sys2Proof
end

