-- ==== Sys2Proof/WellFormed.lean ====
section
/-! DEFINITION. When an instruction is a legal record of a placement, looked at alone (R71 to R73, R86, R88). -/

namespace Sys2Proof

/-- The shell of a record; none for an event. -/
def Instr.shell? : Instr → Option Shell
  | .add _ _ r => some r
  | .sub _ _ r => some r
  | .mul _ _ r => some r
  | .mulh _ r => some r
  | .mulhu _ r => some r
  | .mad _ _ r => some r
  | .div _ _ r => some r
  | .divu _ r => some r
  | .rem _ r => some r
  | .remu _ r => some r
  | .min _ r => some r
  | .max _ r => some r
  | .minu _ r => some r
  | .maxu _ r => some r
  | .abs _ _ r => some r
  | .neg _ _ r => some r
  | .andW r => some r
  | .orW r => some r
  | .xorW r => some r
  | .andn r => some r
  | .lut3 _ r => some r
  | .maj r => some r
  | .shl _ r => some r
  | .shr _ r => some r
  | .sar _ r => some r
  | .fshl _ r => some r
  | .fshr _ r => some r
  | .popc _ r => some r
  | .clz _ r => some r
  | .brev _ r => some r
  | .bfx _ _ _ _ r => some r
  | .bfi _ _ _ r => some r
  | .icmp _ r => some r
  | .icmpv _ _ r => some r
  | .fcmp _ r => some r
  | .fcmpv _ r => some r
  | .sel r => some r
  | .fclass r => some r
  | .pand r => some r
  | .por r => some r
  | .pxor r => some r
  | .pnot r => some r
  | .pconst _ r => some r
  | .ptest _ r => some r
  | .fadd _ r => some r
  | .fsub _ r => some r
  | .fmul _ r => some r
  | .ffma _ r => some r
  | .fmin r => some r
  | .fmax r => some r
  | .fabs r => some r
  | .fneg r => some r
  | .fdiv _ r => some r
  | .fsqrt _ r => some r
  | .frcpe r => some r
  | .frsqe r => some r
  | .fexp2 _ r => some r
  | .flog2 _ r => some r
  | .fsin _ _ r => some r
  | .frnd _ _ r => some r
  | .hadd _ _ r => some r
  | .hsub _ _ r => some r
  | .hmul _ _ r => some r
  | .hfma _ _ r => some r
  | .hmin _ r => some r
  | .hmax _ r => some r
  | .habs _ r => some r
  | .hneg _ r => some r
  | .hdot2 _ _ r => some r
  | .hcmp _ _ r => some r
  | .hsel _ r => some r
  | .hmask _ r => some r
  | .cvtif _ _ _ r => some r
  | .cvtfi _ _ _ r => some r
  | .cvtff _ _ r => some r
  | .packh _ _ r => some r
  | .unpkh _ _ r => some r
  | .cvtf8 _ _ _ _ r => some r
  | .cvt8f _ _ r => some r
  | .twenc _ r => some r
  | .twdec _ _ r => some r
  | .scq _ r => some r
  | .scdq _ _ r => some r
  | .copy r => some r
  | .steer _ r => some r
  | .merge _ r => some r
  | .gate _ r => some r
  | .sink r => some r
  | .join r => some r
  | .const _ r => some r
  | .repeatN _ _ r => some r
  | .seq _ r => some r
  | .nullout r => some r
  | .eosout r => some r
  | .eoswait _ r => some r
  | .loopin _ _ _ r => some r
  | .nexti _ r => some r
  | .loopout _ r => some r
  | .call _ _ r => some r
  | .ret _ r => some r
  | .gettag _ r => some r
  | .settag _ _ r => some r
  | .window _ r => some r
  | .route _ r => some r
  | .unroute _ r => some r
  | .ctxnew r => some r
  | .ctxfree r => some r
  | .nextg r => some r
  | .ld _ _ _ _ r => some r
  | .st _ _ _ r => some r
  | .ldi _ _ _ r => some r
  | .sti _ _ r => some r
  | .kld _ _ r => some r
  | .kst _ _ r => some r
  | .gather _ _ _ r => some r
  | .scatter _ _ r => some r
  | .sopen _ _ _ _ r => some r
  | .sclose _ r => some r
  | .sseek _ r => some r
  | .pref _ r => some r
  | .tld _ _ _ _ _ r => some r
  | .tst _ _ _ _ r => some r
  | .pshift _ _ _ _ r => some r
  | .pbound _ _ _ _ _ r => some r
  | .pact _ _ _ r => some r
  | .pmark _ r => some r
  | .prule _ r => some r
  | .phalo _ _ _ r => some r
  | .pflip _ r => some r
  | .pcnt _ r => some r
  | .cmb _ r => some r
  | .aadd _ _ _ _ r => some r
  | .amin _ _ _ _ r => some r
  | .amax _ _ _ _ r => some r
  | .aand _ _ _ _ r => some r
  | .aor _ _ _ _ r => some r
  | .axor _ _ _ _ r => some r
  | .axchg _ _ _ _ r => some r
  | .acas _ _ _ _ r => some r
  | .afadd _ _ _ _ r => some r
  | .red _ _ _ r => some r
  | .redwait _ _ r => some r
  | .lockacq _ _ _ r => some r
  | .lockrel _ _ _ r => some r
  | .fence _ _ _ r => some r
  | .bararr _ _ r => some r
  | .bardrop _ _ r => some r
  | .barwait _ _ r => some r
  | .waitw _ _ _ _ r => some r
  | .wakew _ _ r => some r
  | .roundend r => some r
  | .quiesce r => some r
  | .handover _ _ r => some r
  | .ordtok _ _ r => some r
  | .event _ r => some r
  | .yield r => some r
  | .mma _ _ _ r => some r
  | .mmas _ _ _ _ _ _ r => some r
  | .mdrain _ _ _ _ r => some r
  | .mzero _ _ r => some r
  | .mtask _ _ r => some r
  | .scin r => some r
  | .smul _ r => some r
  | .sfma _ r => some r
  | .spchk r => some r
  | .mstat _ _ r => some r
  | .tex _ r => some r
  | .texn _ r => some r
  | .march _ _ _ r => some r
  | .cadd _ _ _ r => some r
  | .cwmk _ _ r => some r
  | .cres _ _ r => some r
  | .cclr _ _ r => some r
  | .clog _ _ r => some r
  | .cadj r => some r
  | .frel r => some r
  | .copye r => some r
  | .copyw r => some r
  | .qresv r => some r
  | .qcommit r => some r
  | .qtake r => some r
  | .loffer r => some r
  | .ltake r => some r
  | .lreclaim r => some r
  | .lquery r => some r
  | .degrade r => some r
  | .fload r => some r
  | .fswap r => some r
  | .ovld r => some r
  | .ovfree r => some r
  | .nop r => some r
  | .trap _ r => some r
  | .brk _ r => some r
  | .halt r => some r
  | .sysrd _ _ _ r => some r
  | .syswr _ _ r => some r
  | .eret r => some r
  | .perf _ _ r => some r
  | .marker r => some r
  | .snap r => some r
  | _ => none

/-- A record that a loader may accept in a placement: every check of Table 4-11 that looks at one record alone passes. -/
def Instr.wf (pl : Placement) (i : Instr) : Bool :=
  match i.shell? with
  | some r => i.check pl r true true == none
  | none => false

/-- An instruction that is one of the 200 node records. -/
def Instr.isRecord (i : Instr) : Bool := i.shell?.isSome

end Sys2Proof
end

