-- ==== Sys2Proof/Decode.lean ====
section
/-! DEFINITION. Decoding and encoding of node records (R69, Tables 4-1, 4-5 and 4-6) and the loader's record-local checks with
their reason codes (R88). The bits of a record are numbered as Table 4-1 numbers them; a record is stored little-endian (R70).
The arms of `encodeParts` and `decodeOp` follow the group tables row by row. -/

namespace Sys2Proof

/-- Bits [lo+w-1:lo] of a number. -/
def fld (lo w n : Nat) : Nat := n / 2 ^ lo % 2 ^ w

/-- The code of a LaneType (Table 4-6). -/
def LaneType.bits : LaneType → Nat
  | .i32 => 0
  | .i16x2 => 1
  | .i8x4 => 2

/-- The LaneType of a code. -/
def LaneType.ofBits : Nat → Option LaneType
  | 0 => some .i32
  | 1 => some .i16x2
  | 2 => some .i8x4
  | _ => none

/-- The code of a Rnd (Table 3-4). -/
def Rnd.bits : Rnd → Nat
  | .rne => 0
  | .rtz => 1
  | .rup => 2
  | .rdn => 3
  | .sr => 4

/-- The Rnd of a code. -/
def Rnd.ofBits : Nat → Option Rnd
  | 0 => some .rne
  | 1 => some .rtz
  | 2 => some .rup
  | 3 => some .rdn
  | 4 => some .sr
  | _ => none

/-- The code of a ICond (Table 4-7). -/
def ICond.bits : ICond → Nat
  | .eq => 0
  | .ne => 1
  | .lt => 2
  | .le => 3
  | .gt => 4
  | .ge => 5
  | .ltu => 6
  | .leu => 7
  | .gtu => 8
  | .geu => 9

/-- The ICond of a code. -/
def ICond.ofBits : Nat → Option ICond
  | 0 => some .eq
  | 1 => some .ne
  | 2 => some .lt
  | 3 => some .le
  | 4 => some .gt
  | 5 => some .ge
  | 6 => some .ltu
  | 7 => some .leu
  | 8 => some .gtu
  | 9 => some .geu
  | _ => none

/-- The code of a FCond (Table 4-7). -/
def FCond.bits : FCond → Nat
  | .eq => 0
  | .ne => 1
  | .lt => 2
  | .le => 3
  | .gt => 4
  | .ge => 5
  | .un => 6
  | .ord => 7

/-- The FCond of a code. -/
def FCond.ofBits : Nat → Option FCond
  | 0 => some .eq
  | 1 => some .ne
  | 2 => some .lt
  | 3 => some .le
  | 4 => some .gt
  | 5 => some .ge
  | 6 => some .un
  | 7 => some .ord
  | _ => none

/-- The code of a ScqFmt (R116). -/
def ScqFmt.bits : ScqFmt → Nat
  | .e4m3 => 0
  | .e5m2 => 1
  | .tw8 => 2

/-- The ScqFmt of a code. -/
def ScqFmt.ofBits : Nat → Option ScqFmt
  | 0 => some .e4m3
  | 1 => some .e5m2
  | 2 => some .tw8
  | _ => none

/-- The code of a MergeKind (R128). -/
def MergeKind.bits : MergeKind → Nat
  | .pred => 0
  | .any => 1
  | .pick => 2

/-- The MergeKind of a code. -/
def MergeKind.ofBits : Nat → Option MergeKind
  | 0 => some .pred
  | 1 => some .any
  | 2 => some .pick
  | _ => none

/-- The code of a Size (Table 4-6). -/
def Size.bits : Size → Nat
  | .w32 => 0
  | .w16 => 1
  | .w8 => 2

/-- The Size of a code. -/
def Size.ofBits : Nat → Option Size
  | 0 => some .w32
  | 1 => some .w16
  | 2 => some .w8
  | _ => none

/-- The code of a Scope (Table 4-8). -/
def Scope.bits : Scope → Nat
  | .element => 0
  | .forme => 1
  | .die => 2
  | .package => 3
  | .system => 4

/-- The Scope of a code. -/
def Scope.ofBits : Nat → Option Scope
  | 0 => some .element
  | 1 => some .forme
  | 2 => some .die
  | 3 => some .package
  | 4 => some .system
  | _ => none

/-- The code of a CombineOp (Table 7-11). -/
def CombineOp.bits : CombineOp → Nat
  | .add => 0
  | .min => 1
  | .max => 2
  | .minu => 3
  | .maxu => 4
  | .and => 5
  | .or => 6
  | .xor => 7
  | .fadd => 8
  | .fmin => 9
  | .fmax => 10

/-- The CombineOp of a code. -/
def CombineOp.ofBits : Nat → Option CombineOp
  | 0 => some .add
  | 1 => some .min
  | 2 => some .max
  | 3 => some .minu
  | 4 => some .maxu
  | 5 => some .and
  | 6 => some .or
  | 7 => some .xor
  | 8 => some .fadd
  | 9 => some .fmin
  | 10 => some .fmax
  | _ => none

/-- The code of a MFmt (Table 4-9). -/
def MFmt.bits : MFmt → Nat
  | .bf16 => 0
  | .fp16 => 1
  | .e4m3 => 2
  | .e5m2 => 3
  | .tw8 => 4

/-- The MFmt of a code. -/
def MFmt.ofBits : Nat → Option MFmt
  | 0 => some .bf16
  | 1 => some .fp16
  | 2 => some .e4m3
  | 3 => some .e5m2
  | 4 => some .tw8
  | _ => none

/-- The code of a OFmt (R197). -/
def OFmt.bits : OFmt → Nat
  | .fp32 => 0
  | .fp16 => 1
  | .bf16 => 2

/-- The OFmt of a code. -/
def OFmt.ofBits : Nat → Option OFmt
  | 0 => some .fp32
  | 1 => some .fp16
  | 2 => some .bf16
  | _ => none

/-- The code of a WidthCode (R36). -/
def WidthCode.bits : WidthCode → Nat
  | .w4 => 1
  | .w8 => 2
  | .w16 => 3

/-- The WidthCode of a code. -/
def WidthCode.ofBits : Nat → Option WidthCode
  | 1 => some .w4
  | 2 => some .w8
  | 3 => some .w16
  | _ => none

/-- The code of a GetSel (Table 6-2). -/
def GetSel.bits : GetSel → Nat
  | .field i => i.toNat
  | .lo => 8
  | .hi => 9
  | .ctx => 10

/-- The GetSel of a code. -/
def GetSel.ofBits (n : Nat) : Option GetSel :=
  if n < 8 then some (.field (BitVec.ofNat 3 n)) else if n = 8 then some .lo else if n = 9 then some .hi
  else if n = 10 then some .ctx else none

/-- The code of a SetSel (Table 6-2). -/
def SetSel.bits : SetSel → Nat
  | .field i => i.toNat
  | .ctx => 8

/-- The SetSel of a code. -/
def SetSel.ofBits (n : Nat) : Option SetSel :=
  if n < 8 then some (.field (BitVec.ofNat 3 n)) else if n = 8 then some .ctx else none

/-- What a record's bits are made of: opcode, MOD, VAR, packed LIT and shell. -/
structure Parts where
  op : Nat
  mod : Nat
  var : Bool
  lit : Nat
  shell : Shell
  deriving DecidableEq, Repr

/-- The parts of a record; none for an event. -/
def encodeParts : Instr → Option Parts
  | .add lt sat r => some ⟨0x00, lt.bits, sat, 0, r⟩
  | .sub lt sat r => some ⟨0x01, lt.bits, sat, 0, r⟩
  | .mul lt sat r => some ⟨0x02, lt.bits, sat, 0, r⟩
  | .mulh lt r => some ⟨0x03, lt.bits, false, 0, r⟩
  | .mulhu lt r => some ⟨0x04, lt.bits, false, 0, r⟩
  | .mad lt sat r => some ⟨0x05, lt.bits, sat, 0, r⟩
  | .div lt sat r => some ⟨0x06, lt.bits, sat, 0, r⟩
  | .divu lt r => some ⟨0x07, lt.bits, false, 0, r⟩
  | .rem lt r => some ⟨0x08, lt.bits, false, 0, r⟩
  | .remu lt r => some ⟨0x09, lt.bits, false, 0, r⟩
  | .min lt r => some ⟨0x0A, lt.bits, false, 0, r⟩
  | .max lt r => some ⟨0x0B, lt.bits, false, 0, r⟩
  | .minu lt r => some ⟨0x0C, lt.bits, false, 0, r⟩
  | .maxu lt r => some ⟨0x0D, lt.bits, false, 0, r⟩
  | .abs lt sat r => some ⟨0x0E, lt.bits, sat, 0, r⟩
  | .neg lt sat r => some ⟨0x0F, lt.bits, sat, 0, r⟩
  | .andW r => some ⟨0x10, 0, false, 0, r⟩
  | .orW r => some ⟨0x11, 0, false, 0, r⟩
  | .xorW r => some ⟨0x12, 0, false, 0, r⟩
  | .andn r => some ⟨0x13, 0, false, 0, r⟩
  | .lut3 tt r => some ⟨0x14, 0, false, tt.toNat, r⟩
  | .maj r => some ⟨0x15, 0, false, 0, r⟩
  | .shl lt r => some ⟨0x16, lt.bits, false, 0, r⟩
  | .shr lt r => some ⟨0x17, lt.bits, false, 0, r⟩
  | .sar lt r => some ⟨0x18, lt.bits, false, 0, r⟩
  | .fshl lt r => some ⟨0x19, lt.bits, false, 0, r⟩
  | .fshr lt r => some ⟨0x1A, lt.bits, false, 0, r⟩
  | .popc lt r => some ⟨0x1B, lt.bits, false, 0, r⟩
  | .clz lt r => some ⟨0x1C, lt.bits, false, 0, r⟩
  | .brev lt r => some ⟨0x1D, lt.bits, false, 0, r⟩
  | .bfx lt pos len sx r => some ⟨0x1E, lt.bits, false, pos.toNat + len.toNat * 256 + sx.toNat * 65536, r⟩
  | .bfi lt pos len r => some ⟨0x1F, lt.bits, false, pos.toNat + len.toNat * 256, r⟩
  | .icmp cond r => some ⟨0x20, cond.bits, false, 0, r⟩
  | .icmpv cond x2 r => some ⟨0x21, cond.bits, x2, 0, r⟩
  | .fcmp cond r => some ⟨0x22, cond.bits, false, 0, r⟩
  | .fcmpv cond r => some ⟨0x23, cond.bits, false, 0, r⟩
  | .sel r => some ⟨0x24, 0, false, 0, r⟩
  | .fclass r => some ⟨0x25, 0, false, 0, r⟩
  | .pand r => some ⟨0x26, 0, false, 0, r⟩
  | .por r => some ⟨0x27, 0, false, 0, r⟩
  | .pxor r => some ⟨0x28, 0, false, 0, r⟩
  | .pnot r => some ⟨0x29, 0, false, 0, r⟩
  | .pconst val r => some ⟨0x2A, val.toNat, false, 0, r⟩
  | .ptest z r => some ⟨0x2B, z.toNat, false, 0, r⟩
  | .fadd rnd r => some ⟨0x30, rnd.bits, false, 0, r⟩
  | .fsub rnd r => some ⟨0x31, rnd.bits, false, 0, r⟩
  | .fmul rnd r => some ⟨0x32, rnd.bits, false, 0, r⟩
  | .ffma rnd r => some ⟨0x33, rnd.bits, false, 0, r⟩
  | .fmin r => some ⟨0x34, 0, false, 0, r⟩
  | .fmax r => some ⟨0x35, 0, false, 0, r⟩
  | .fabs r => some ⟨0x36, 0, false, 0, r⟩
  | .fneg r => some ⟨0x37, 0, false, 0, r⟩
  | .fdiv rnd r => some ⟨0x38, rnd.bits, false, 0, r⟩
  | .fsqrt rnd r => some ⟨0x39, rnd.bits, false, 0, r⟩
  | .frcpe r => some ⟨0x3A, 0, false, 0, r⟩
  | .frsqe r => some ⟨0x3B, 0, false, 0, r⟩
  | .fexp2 rnd r => some ⟨0x3C, rnd.bits, false, 0, r⟩
  | .flog2 rnd r => some ⟨0x3D, rnd.bits, false, 0, r⟩
  | .fsin cos rnd r => some ⟨0x3E, cos.toNat * 8 + rnd.bits, false, 0, r⟩
  | .frnd rnd x r => some ⟨0x3F, rnd.bits, x, 0, r⟩
  | .hadd bf rnd r => some ⟨0x40, bf.toNat + rnd.bits * 2, false, 0, r⟩
  | .hsub bf rnd r => some ⟨0x41, bf.toNat + rnd.bits * 2, false, 0, r⟩
  | .hmul bf rnd r => some ⟨0x42, bf.toNat + rnd.bits * 2, false, 0, r⟩
  | .hfma bf rnd r => some ⟨0x43, bf.toNat + rnd.bits * 2, false, 0, r⟩
  | .hmin bf r => some ⟨0x44, bf.toNat, false, 0, r⟩
  | .hmax bf r => some ⟨0x45, bf.toNat, false, 0, r⟩
  | .habs bf r => some ⟨0x46, bf.toNat, false, 0, r⟩
  | .hneg bf r => some ⟨0x47, bf.toNat, false, 0, r⟩
  | .hdot2 bf rnd r => some ⟨0x48, bf.toNat + rnd.bits * 2, false, 0, r⟩
  | .hcmp bf cond r => some ⟨0x49, bf.toNat, false, cond.bits, r⟩
  | .hsel bf r => some ⟨0x4A, bf.toNat, false, 0, r⟩
  | .hmask bf r => some ⟨0x4B, bf.toNat, false, 0, r⟩
  | .cvtif half uns rnd r => some ⟨0x50, half.toNat * 8 + rnd.bits, uns, 0, r⟩
  | .cvtfi half uns rnd r => some ⟨0x51, half.toNat * 8 + rnd.bits, uns, 0, r⟩
  | .cvtff toFp16 rnd r => some ⟨0x52, toFp16.toNat * 8 + rnd.bits, false, 0, r⟩
  | .packh bf rnd r => some ⟨0x53, bf.toNat * 8 + rnd.bits, false, 0, r⟩
  | .unpkh hi bf r => some ⟨0x54, hi.toNat * 8, bf, 0, r⟩
  | .cvtf8 e5 sat rnd from32 r => some ⟨0x55, e5.toNat * 8 + rnd.bits, sat, from32.toNat, r⟩
  | .cvt8f e5 hi r => some ⟨0x56, e5.toNat * 8, hi, 0, r⟩
  | .twenc bf r => some ⟨0x57, bf.toNat * 8, false, 0, r⟩
  | .twdec bf hi r => some ⟨0x58, bf.toNat * 8, hi, 0, r⟩
  | .scq fmt r => some ⟨0x59, 0, false, fmt.bits, r⟩
  | .scdq quot rnd r => some ⟨0x5A, quot.toNat * 8 + rnd.bits, false, 0, r⟩
  | .copy r => some ⟨0x60, 0, false, 0, r⟩
  | .steer nul r => some ⟨0x61, 0, nul, 0, r⟩
  | .merge kind r => some ⟨0x62, kind.bits, false, 0, r⟩
  | .gate nul r => some ⟨0x63, 0, nul, 0, r⟩
  | .sink r => some ⟨0x64, 0, false, 0, r⟩
  | .join r => some ⟨0x65, 0, false, 0, r⟩
  | .const value r => some ⟨0x66, 0, false, value.toNat, r⟩
  | .repeatN eos raw r => some ⟨0x67, 0, eos, raw.toNat, r⟩
  | .seq eos r => some ⟨0x68, 0, eos, 0, r⟩
  | .nullout r => some ⟨0x69, 0, false, 0, r⟩
  | .eosout r => some ⟨0x6A, 0, false, 0, r⟩
  | .eoswait fwd r => some ⟨0x6B, 0, fwd, 0, r⟩
  | .loopin wc start rt r => some ⟨0x70, wc.bits, false, start.toNat + rt.toNat * 65536, r⟩
  | .nexti rt r => some ⟨0x71, 0, false, rt.toNat * 65536, r⟩
  | .loopout rt r => some ⟨0x72, 0, false, rt.toNat * 65536, r⟩
  | .call callSite rt r => some ⟨0x73, 0, false, callSite.toNat + rt.toNat * 65536, r⟩
  | .ret rt r => some ⟨0x74, 0, false, rt.toNat * 65536, r⟩
  | .gettag sel r => some ⟨0x75, sel.bits, false, 0, r⟩
  | .settag sel rt r => some ⟨0x76, sel.bits, false, rt.toNat * 65536, r⟩
  | .window k r => some ⟨0x77, 0, false, k.toNat, r⟩
  | .route mask r => some ⟨0x78, 0, false, mask.toNat, r⟩
  | .unroute pdest r => some ⟨0x79, 0, false, pdest.toNat, r⟩
  | .ctxnew r => some ⟨0x7A, 0, false, 0, r⟩
  | .ctxfree r => some ⟨0x7B, 0, false, 0, r⟩
  | .nextg r => some ⟨0x7C, 0, false, 0, r⟩
  | .ld sz sx disp kb r => some ⟨0x80, sz.bits + sx.toNat * 4, false, disp.toNat * 256 + kb.toNat, r⟩
  | .st sz disp kb r => some ⟨0x81, sz.bits, false, disp.toNat * 256 + kb.toNat, r⟩
  | .ldi sz sx disp r => some ⟨0x82, sz.bits + sx.toNat * 4, false, disp.toNat * 256, r⟩
  | .sti sz disp r => some ⟨0x83, sz.bits, false, disp.toNat * 256, r⟩
  | .kld hi kn r => some ⟨0x84, 0, false, hi.toNat * 64 + kn.toNat, r⟩
  | .kst hi kn r => some ⟨0x85, 0, false, hi.toNat * 64 + kn.toNat, r⟩
  | .gather sz sx raw r => some ⟨0x86, sz.bits + sx.toNat * 4, false, raw.toNat, r⟩
  | .scatter sz raw r => some ⟨0x87, sz.bits, false, raw.toNat, r⟩
  | .sopen sz wport dir slot r => some ⟨0x88, sz.bits, false, wport.toNat * 16 + dir.toNat * 8 + slot.toNat, r⟩
  | .sclose slot r => some ⟨0x89, 0, false, slot.toNat, r⟩
  | .sseek slot r => some ⟨0x8A, 0, false, slot.toNat, r⟩
  | .pref raw r => some ⟨0x8B, 0, false, raw.toNat, r⟩
  | .tld sz sx base dx dy r => some ⟨0x8C, sz.bits + sx.toNat * 4, false, base.toNat * 4096 + dx.toNat * 64 + dy.toNat, r⟩
  | .tst sz base dx dy r => some ⟨0x8D, sz.bits, false, base.toNat * 4096 + dx.toNat * 64 + dy.toNat, r⟩
  | .pshift dy dx pid slot r => some ⟨0x90, 0, false, dy.toNat * 4096 + dx.toNat * 64 + pid.toNat * 8 + slot.toNat, r⟩
  | .pbound all slot hw kind edges r => some ⟨0x91, 0, false, all.toNat * 16384 + slot.toNat * 2048 + hw.toNat * 64 + kind.toNat * 16 + edges.toNat, r⟩
  | .pact on all slot r => some ⟨0x92, 0, false, on.toNat * 16 + all.toNat * 8 + slot.toNat, r⟩
  | .pmark pid r => some ⟨0x93, 0, false, pid.toNat * 8, r⟩
  | .prule mask r => some ⟨0x94, 0, false, mask.toNat, r⟩
  | .phalo hw edge pid r => some ⟨0x95, 0, false, hw.toNat * 256 + edge.toNat * 64 + pid.toNat * 8, r⟩
  | .pflip pid r => some ⟨0x96, 0, false, pid.toNat * 8, r⟩
  | .pcnt pid r => some ⟨0x97, 0, false, pid.toNat * 8, r⟩
  | .cmb cop r => some ⟨0xA0, cop.bits, false, 0, r⟩
  | .aadd acq scope rel raw r => some ⟨0xA1, acq.toNat * 8 + scope.bits, rel, raw.toNat, r⟩
  | .amin acq scope rel raw r => some ⟨0xA2, acq.toNat * 8 + scope.bits, rel, raw.toNat, r⟩
  | .amax acq scope rel raw r => some ⟨0xA3, acq.toNat * 8 + scope.bits, rel, raw.toNat, r⟩
  | .aand acq scope rel raw r => some ⟨0xA4, acq.toNat * 8 + scope.bits, rel, raw.toNat, r⟩
  | .aor acq scope rel raw r => some ⟨0xA5, acq.toNat * 8 + scope.bits, rel, raw.toNat, r⟩
  | .axor acq scope rel raw r => some ⟨0xA6, acq.toNat * 8 + scope.bits, rel, raw.toNat, r⟩
  | .axchg acq scope rel raw r => some ⟨0xA7, acq.toNat * 8 + scope.bits, rel, raw.toNat, r⟩
  | .acas acq scope rel raw r => some ⟨0xA8, acq.toNat * 8 + scope.bits, rel, raw.toNat, r⟩
  | .afadd acq scope rel raw r => some ⟨0xA9, acq.toNat * 8 + scope.bits, rel, raw.toNat, r⟩
  | .red scope rel cop r => some ⟨0xAA, scope.bits, rel, cop.bits, r⟩
  | .redwait acq scope r => some ⟨0xAB, acq.toNat * 8 + scope.bits, false, 0, r⟩
  | .lockacq acq scope raw r => some ⟨0xAC, acq.toNat * 8 + scope.bits, false, raw.toNat, r⟩
  | .lockrel scope rel raw r => some ⟨0xAD, scope.bits, rel, raw.toNat, r⟩
  | .fence acq scope rel r => some ⟨0xB0, acq.toNat * 8 + scope.bits, rel, 0, r⟩
  | .bararr scope rel r => some ⟨0xB1, scope.bits, rel, 0, r⟩
  | .bardrop scope rel r => some ⟨0xB2, scope.bits, rel, 0, r⟩
  | .barwait acq scope r => some ⟨0xB3, acq.toNat * 8 + scope.bits, false, 0, r⟩
  | .waitw acq scope disp kb r => some ⟨0xB4, acq.toNat * 8 + scope.bits, false, disp.toNat * 256 + kb.toNat, r⟩
  | .wakew scope rel r => some ⟨0xB5, scope.bits, rel, 0, r⟩
  | .roundend r => some ⟨0xB6, 0, false, 0, r⟩
  | .quiesce r => some ⟨0xB7, 0, false, 0, r⟩
  | .handover nslot oslot r => some ⟨0xB8, 0, false, nslot.toNat * 8 + oslot.toNat, r⟩
  | .ordtok scope slot r => some ⟨0xB9, scope.bits, false, slot.toNat, r⟩
  | .event code r => some ⟨0xBA, 0, false, code.toNat, r⟩
  | .yield r => some ⟨0xBB, 0, false, 0, r⟩
  | .mma fmt n1 m1 r => some ⟨0xC0, fmt.bits, false, n1.toNat * 128 + m1.toNat, r⟩
  | .mmas fmt spkt sp24 bmap n1 m1 r => some ⟨0xC1, fmt.bits, false, spkt.toNat * 65536 + sp24.toNat * 32768 + bmap.toNat * 16384 + n1.toNat * 128 + m1.toNat, r⟩
  | .mdrain zero ofmt n1 m1 r => some ⟨0xC2, 0, false, zero.toNat * 65536 + ofmt.bits * 16384 + n1.toNat * 128 + m1.toNat, r⟩
  | .mzero n1 m1 r => some ⟨0xC3, 0, false, n1.toNat * 128 + m1.toNat, r⟩
  | .mtask isl pdest r => some ⟨0xC4, 0, false, isl.toNat * 65536 + pdest.toNat, r⟩
  | .scin r => some ⟨0xC5, 0, false, 0, r⟩
  | .smul fmt r => some ⟨0xC6, fmt.bits, false, 0, r⟩
  | .sfma fmt r => some ⟨0xC7, fmt.bits, false, 0, r⟩
  | .spchk r => some ⟨0xC8, 0, false, 0, r⟩
  | .mstat sel isl r => some ⟨0xC9, 0, false, sel.toNat * 32 + isl.toNat, r⟩
  | .tex ssr r => some ⟨0xD0, 0, false, ssr.toNat, r⟩
  | .texn ssr r => some ⟨0xD1, 0, false, ssr.toNat, r⟩
  | .march base dx dy r => some ⟨0xD2, 0, false, base.toNat * 4096 + dx.toNat * 64 + dy.toNat, r⟩
  | .cadd page dx dy r => some ⟨0xD3, 0, false, page.toNat * 4096 + dx.toNat * 64 + dy.toNat, r⟩
  | .cwmk dx dy r => some ⟨0xD4, 0, false, dx.toNat * 64 + dy.toNat, r⟩
  | .cres dx dy r => some ⟨0xD5, 0, false, dx.toNat * 64 + dy.toNat, r⟩
  | .cclr dx dy r => some ⟨0xD6, 0, false, dx.toNat * 64 + dy.toNat, r⟩
  | .clog dx dy r => some ⟨0xD7, 0, false, dx.toNat * 64 + dy.toNat, r⟩
  | .cadj r => some ⟨0xD8, 0, false, 0, r⟩
  | .frel r => some ⟨0xD9, 0, false, 0, r⟩
  | .copye r => some ⟨0xE0, 0, false, 0, r⟩
  | .copyw r => some ⟨0xE1, 0, false, 0, r⟩
  | .qresv r => some ⟨0xE2, 0, false, 0, r⟩
  | .qcommit r => some ⟨0xE3, 0, false, 0, r⟩
  | .qtake r => some ⟨0xE4, 0, false, 0, r⟩
  | .loffer r => some ⟨0xE5, 0, false, 0, r⟩
  | .ltake r => some ⟨0xE6, 0, false, 0, r⟩
  | .lreclaim r => some ⟨0xE7, 0, false, 0, r⟩
  | .lquery r => some ⟨0xE8, 0, false, 0, r⟩
  | .degrade r => some ⟨0xE9, 0, false, 0, r⟩
  | .fload r => some ⟨0xEA, 0, false, 0, r⟩
  | .fswap r => some ⟨0xEB, 0, false, 0, r⟩
  | .ovld r => some ⟨0xEC, 0, false, 0, r⟩
  | .ovfree r => some ⟨0xED, 0, false, 0, r⟩
  | .nop r => some ⟨0xF0, 0, false, 0, r⟩
  | .trap code r => some ⟨0xF1, 0, false, code.toNat, r⟩
  | .brk code r => some ⟨0xF2, 0, false, code.toNat, r⟩
  | .halt r => some ⟨0xF3, 0, false, 0, r⟩
  | .sysrd clr hi index r => some ⟨0xF4, 0, clr, hi.toNat * 65536 + index.toNat, r⟩
  | .syswr hi index r => some ⟨0xF5, 0, false, hi.toNat * 65536 + index.toNat, r⟩
  | .eret r => some ⟨0xF6, 0, false, 0, r⟩
  | .perf hi sel r => some ⟨0xF7, 0, false, hi.toNat * 256 + sel.toNat, r⟩
  | .marker r => some ⟨0xF8, 0, false, 0, r⟩
  | .snap r => some ⟨0xF9, 0, false, 0, r⟩
  | _ => none

/-- The 96 bits of parts (Table 4-1): LIT holds the literal if there is one, and the packed parameters otherwise. -/
def Parts.word (p : Parts) : Nat :=
  let (liten, litport, lit) := match p.shell.lit with
    | some (q, v) => (1, q.toNat, v.toNat)
    | none => (0, 0, p.lit)
  lit + p.shell.dstb.toNat * 2 ^ 32 + p.shell.dsta.toNat * 2 ^ 48 + p.shell.pin.toNat * 2 ^ 71 +
    p.shell.inmask.toNat * 2 ^ 72 + p.shell.aux.toNat * 2 ^ 75 + p.var.toNat * 2 ^ 80 + litport * 2 ^ 81 +
    liten * 2 ^ 83 + p.mod * 2 ^ 84 + p.op * 2 ^ 88

/-- The word of a record (R69). -/
def encode (i : Instr) : Option (BitVec 96) := (encodeParts i).map fun p => BitVec.ofNat 96 p.word

/-- The parts that the bits of a record give, before the opcode is looked at. LITPORT is read only if LITEN = 1 (R72, log 10). -/
def splitWord (n : Nat) : Parts :=
  let liten := fld 83 1 n = 1
  { op := fld 88 8 n
    mod := fld 84 4 n
    var := fld 80 1 n = 1
    lit := if liten then 0 else fld 0 32 n
    shell :=
      { inmask := BitVec.ofNat 3 (fld 72 3 n)
        pin := fld 71 1 n = 1
        lit := if liten then some (BitVec.ofNat 2 (fld 81 2 n), BitVec.ofNat 32 (fld 0 32 n)) else none
        aux := BitVec.ofNat 5 (fld 75 5 n)
        dsta := BitVec.ofNat 16 (fld 48 16 n)
        dstb := BitVec.ofNat 16 (fld 32 16 n) } }

/-- A named value, or the reason that it has none. -/
def need {α : Type} (e : Reject) : Option α → Except Reject α
  | some a => .ok a
  | none => .error e

/-- Group 0x0: the instruction of low nibble `o` with MOD `m`, VAR `v`, packed LIT `l` and shell `r`. -/
def decodeG0 (o m : Nat) (v : Bool) (_l : Nat) (r : Shell) : Except Reject Instr :=
  match o with
    | 0x0 => do let lt ← need .modVar (LaneType.ofBits (fld 0 2 m)); .ok (.add lt v r)
    | 0x1 => do let lt ← need .modVar (LaneType.ofBits (fld 0 2 m)); .ok (.sub lt v r)
    | 0x2 => do let lt ← need .modVar (LaneType.ofBits (fld 0 2 m)); .ok (.mul lt v r)
    | 0x3 => do let lt ← need .modVar (LaneType.ofBits (fld 0 2 m)); .ok (.mulh lt r)
    | 0x4 => do let lt ← need .modVar (LaneType.ofBits (fld 0 2 m)); .ok (.mulhu lt r)
    | 0x5 => do let lt ← need .modVar (LaneType.ofBits (fld 0 2 m)); .ok (.mad lt v r)
    | 0x6 => do let lt ← need .modVar (LaneType.ofBits (fld 0 2 m)); .ok (.div lt v r)
    | 0x7 => do let lt ← need .modVar (LaneType.ofBits (fld 0 2 m)); .ok (.divu lt r)
    | 0x8 => do let lt ← need .modVar (LaneType.ofBits (fld 0 2 m)); .ok (.rem lt r)
    | 0x9 => do let lt ← need .modVar (LaneType.ofBits (fld 0 2 m)); .ok (.remu lt r)
    | 0xA => do let lt ← need .modVar (LaneType.ofBits (fld 0 2 m)); .ok (.min lt r)
    | 0xB => do let lt ← need .modVar (LaneType.ofBits (fld 0 2 m)); .ok (.max lt r)
    | 0xC => do let lt ← need .modVar (LaneType.ofBits (fld 0 2 m)); .ok (.minu lt r)
    | 0xD => do let lt ← need .modVar (LaneType.ofBits (fld 0 2 m)); .ok (.maxu lt r)
    | 0xE => do let lt ← need .modVar (LaneType.ofBits (fld 0 2 m)); .ok (.abs lt v r)
    | 0xF => do let lt ← need .modVar (LaneType.ofBits (fld 0 2 m)); .ok (.neg lt v r)
    | _ => .error .opcode

/-- Group 0x1: the instruction of low nibble `o` with MOD `m`, VAR `v`, packed LIT `l` and shell `r`. -/
def decodeG1 (o m : Nat) (_v : Bool) (l : Nat) (r : Shell) : Except Reject Instr :=
  match o with
    | 0x0 => .ok (.andW r)
    | 0x1 => .ok (.orW r)
    | 0x2 => .ok (.xorW r)
    | 0x3 => .ok (.andn r)
    | 0x4 => .ok (.lut3 (BitVec.ofNat 8 (fld 0 8 l)) r)
    | 0x5 => .ok (.maj r)
    | 0x6 => do let lt ← need .modVar (LaneType.ofBits (fld 0 2 m)); .ok (.shl lt r)
    | 0x7 => do let lt ← need .modVar (LaneType.ofBits (fld 0 2 m)); .ok (.shr lt r)
    | 0x8 => do let lt ← need .modVar (LaneType.ofBits (fld 0 2 m)); .ok (.sar lt r)
    | 0x9 => do let lt ← need .modVar (LaneType.ofBits (fld 0 2 m)); .ok (.fshl lt r)
    | 0xA => do let lt ← need .modVar (LaneType.ofBits (fld 0 2 m)); .ok (.fshr lt r)
    | 0xB => do let lt ← need .modVar (LaneType.ofBits (fld 0 2 m)); .ok (.popc lt r)
    | 0xC => do let lt ← need .modVar (LaneType.ofBits (fld 0 2 m)); .ok (.clz lt r)
    | 0xD => do let lt ← need .modVar (LaneType.ofBits (fld 0 2 m)); .ok (.brev lt r)
    | 0xE => do let lt ← need .modVar (LaneType.ofBits (fld 0 2 m)); .ok (.bfx lt (BitVec.ofNat 5 (fld 0 5 l)) (BitVec.ofNat 6 (fld 8 6 l)) (decide (fld 16 1 l = 1)) r)
    | 0xF => do let lt ← need .modVar (LaneType.ofBits (fld 0 2 m)); .ok (.bfi lt (BitVec.ofNat 5 (fld 0 5 l)) (BitVec.ofNat 6 (fld 8 6 l)) r)
    | _ => .error .opcode

/-- Group 0x2: the instruction of low nibble `o` with MOD `m`, VAR `v`, packed LIT `l` and shell `r`. -/
def decodeG2 (o m : Nat) (v : Bool) (_l : Nat) (r : Shell) : Except Reject Instr :=
  match o with
    | 0x0 => do let cond ← need .modVar (ICond.ofBits (fld 0 4 m)); .ok (.icmp cond r)
    | 0x1 => do let cond ← need .modVar (ICond.ofBits (fld 0 4 m)); .ok (.icmpv cond v r)
    | 0x2 => do let cond ← need .modVar (FCond.ofBits (fld 0 4 m)); .ok (.fcmp cond r)
    | 0x3 => do let cond ← need .modVar (FCond.ofBits (fld 0 4 m)); .ok (.fcmpv cond r)
    | 0x4 => .ok (.sel r)
    | 0x5 => .ok (.fclass r)
    | 0x6 => .ok (.pand r)
    | 0x7 => .ok (.por r)
    | 0x8 => .ok (.pxor r)
    | 0x9 => .ok (.pnot r)
    | 0xA => .ok (.pconst (decide (fld 0 1 m = 1)) r)
    | 0xB => .ok (.ptest (decide (fld 0 1 m = 1)) r)
    | _ => .error .opcode

/-- Group 0x3: the instruction of low nibble `o` with MOD `m`, VAR `v`, packed LIT `l` and shell `r`. -/
def decodeG3 (o m : Nat) (v : Bool) (_l : Nat) (r : Shell) : Except Reject Instr :=
  match o with
    | 0x0 => do let rnd ← need .modVar (Rnd.ofBits (fld 0 3 m)); .ok (.fadd rnd r)
    | 0x1 => do let rnd ← need .modVar (Rnd.ofBits (fld 0 3 m)); .ok (.fsub rnd r)
    | 0x2 => do let rnd ← need .modVar (Rnd.ofBits (fld 0 3 m)); .ok (.fmul rnd r)
    | 0x3 => do let rnd ← need .modVar (Rnd.ofBits (fld 0 3 m)); .ok (.ffma rnd r)
    | 0x4 => .ok (.fmin r)
    | 0x5 => .ok (.fmax r)
    | 0x6 => .ok (.fabs r)
    | 0x7 => .ok (.fneg r)
    | 0x8 => do let rnd ← need .modVar (Rnd.ofBits (fld 0 3 m)); .ok (.fdiv rnd r)
    | 0x9 => do let rnd ← need .modVar (Rnd.ofBits (fld 0 3 m)); .ok (.fsqrt rnd r)
    | 0xA => .ok (.frcpe r)
    | 0xB => .ok (.frsqe r)
    | 0xC => do let rnd ← need .modVar (Rnd.ofBits (fld 0 3 m)); .ok (.fexp2 rnd r)
    | 0xD => do let rnd ← need .modVar (Rnd.ofBits (fld 0 3 m)); .ok (.flog2 rnd r)
    | 0xE => do let rnd ← need .modVar (Rnd.ofBits (fld 0 3 m)); .ok (.fsin (decide (fld 3 1 m = 1)) rnd r)
    | 0xF => do let rnd ← need .modVar (Rnd.ofBits (fld 0 3 m)); .ok (.frnd rnd v r)
    | _ => .error .opcode

/-- Group 0x4: the instruction of low nibble `o` with MOD `m`, VAR `v`, packed LIT `l` and shell `r`. -/
def decodeG4 (o m : Nat) (v : Bool) (l : Nat) (r : Shell) : Except Reject Instr :=
  match o with
    | 0x0 => do let rnd ← need .modVar (Rnd.ofBits (fld 1 3 m)); .ok (.hadd (decide (fld 0 1 m = 1)) rnd r)
    | 0x1 => do let rnd ← need .modVar (Rnd.ofBits (fld 1 3 m)); .ok (.hsub (decide (fld 0 1 m = 1)) rnd r)
    | 0x2 => do let rnd ← need .modVar (Rnd.ofBits (fld 1 3 m)); .ok (.hmul (decide (fld 0 1 m = 1)) rnd r)
    | 0x3 => do let rnd ← need .modVar (Rnd.ofBits (fld 1 3 m)); .ok (.hfma (decide (fld 0 1 m = 1)) rnd r)
    | 0x4 => .ok (.hmin (decide (fld 0 1 m = 1)) r)
    | 0x5 => .ok (.hmax (decide (fld 0 1 m = 1)) r)
    | 0x6 => .ok (.habs (decide (fld 0 1 m = 1)) r)
    | 0x7 => .ok (.hneg (decide (fld 0 1 m = 1)) r)
    | 0x8 => do let rnd ← need .modVar (Rnd.ofBits (fld 1 3 m)); .ok (.hdot2 (decide (fld 0 1 m = 1)) rnd r)
    | 0x9 => if 2 ≤ m || v then .error .modVar else do let cond ← need .form (FCond.ofBits (fld 0 4 l)); .ok (.hcmp (decide (fld 0 1 m = 1)) cond r)
    | 0xA => .ok (.hsel (decide (fld 0 1 m = 1)) r)
    | 0xB => .ok (.hmask (decide (fld 0 1 m = 1)) r)
    | _ => .error .opcode

/-- Group 0x5: the instruction of low nibble `o` with MOD `m`, VAR `v`, packed LIT `l` and shell `r`. -/
def decodeG5 (o m : Nat) (v : Bool) (l : Nat) (r : Shell) : Except Reject Instr :=
  match o with
    | 0x0 => do let rnd ← need .modVar (Rnd.ofBits (fld 0 3 m)); .ok (.cvtif (decide (fld 3 1 m = 1)) v rnd r)
    | 0x1 => do let rnd ← need .modVar (Rnd.ofBits (fld 0 3 m)); .ok (.cvtfi (decide (fld 3 1 m = 1)) v rnd r)
    | 0x2 => do let rnd ← need .modVar (Rnd.ofBits (fld 0 3 m)); .ok (.cvtff (decide (fld 3 1 m = 1)) rnd r)
    | 0x3 => do let rnd ← need .modVar (Rnd.ofBits (fld 0 3 m)); .ok (.packh (decide (fld 3 1 m = 1)) rnd r)
    | 0x4 => .ok (.unpkh (decide (fld 3 1 m = 1)) v r)
    | 0x5 => do let rnd ← need .modVar (Rnd.ofBits (fld 0 3 m)); .ok (.cvtf8 (decide (fld 3 1 m = 1)) v rnd (decide (fld 0 1 l = 1)) r)
    | 0x6 => .ok (.cvt8f (decide (fld 3 1 m = 1)) v r)
    | 0x7 => .ok (.twenc (decide (fld 3 1 m = 1)) r)
    | 0x8 => .ok (.twdec (decide (fld 3 1 m = 1)) v r)
    | 0x9 => if 1 ≤ m || v then .error .modVar else do let fmt ← need .form (ScqFmt.ofBits (fld 0 2 l)); .ok (.scq fmt r)
    | 0xA => do let rnd ← need .modVar (Rnd.ofBits (fld 0 3 m)); .ok (.scdq (decide (fld 3 1 m = 1)) rnd r)
    | _ => .error .opcode

/-- Group 0x6: the instruction of low nibble `o` with MOD `m`, VAR `v`, packed LIT `l` and shell `r`. -/
def decodeG6 (o m : Nat) (v : Bool) (l : Nat) (r : Shell) : Except Reject Instr :=
  match o with
    | 0x0 => .ok (.copy r)
    | 0x1 => .ok (.steer v r)
    | 0x2 => do let kind ← need .modVar (MergeKind.ofBits (fld 0 4 m)); .ok (.merge kind r)
    | 0x3 => .ok (.gate v r)
    | 0x4 => .ok (.sink r)
    | 0x5 => .ok (.join r)
    | 0x6 => .ok (.const (BitVec.ofNat 32 (fld 0 32 l)) r)
    | 0x7 => .ok (.repeatN v (BitVec.ofNat 32 (fld 0 32 l)) r)
    | 0x8 => .ok (.seq v r)
    | 0x9 => .ok (.nullout r)
    | 0xA => .ok (.eosout r)
    | 0xB => .ok (.eoswait v r)
    | _ => .error .opcode

/-- Group 0x7: the instruction of low nibble `o` with MOD `m`, VAR `v`, packed LIT `l` and shell `r`. -/
def decodeG7 (o m : Nat) (_v : Bool) (l : Nat) (r : Shell) : Except Reject Instr :=
  match o with
    | 0x0 => do let wc ← need .modVar (WidthCode.ofBits (fld 0 2 m)); .ok (.loopin wc (BitVec.ofNat 16 (fld 0 16 l)) (BitVec.ofNat 4 (fld 16 4 l)) r)
    | 0x1 => .ok (.nexti (BitVec.ofNat 4 (fld 16 4 l)) r)
    | 0x2 => .ok (.loopout (BitVec.ofNat 4 (fld 16 4 l)) r)
    | 0x3 => .ok (.call (BitVec.ofNat 16 (fld 0 16 l)) (BitVec.ofNat 4 (fld 16 4 l)) r)
    | 0x4 => .ok (.ret (BitVec.ofNat 4 (fld 16 4 l)) r)
    | 0x5 => do let sel ← need .modVar (GetSel.ofBits (fld 0 4 m)); .ok (.gettag sel r)
    | 0x6 => do let sel ← need .modVar (SetSel.ofBits (fld 0 4 m)); .ok (.settag sel (BitVec.ofNat 4 (fld 16 4 l)) r)
    | 0x7 => .ok (.window (BitVec.ofNat 8 (fld 0 8 l)) r)
    | 0x8 => .ok (.route (BitVec.ofNat 16 (fld 0 16 l)) r)
    | 0x9 => .ok (.unroute (BitVec.ofNat 16 (fld 0 16 l)) r)
    | 0xA => .ok (.ctxnew r)
    | 0xB => .ok (.ctxfree r)
    | 0xC => .ok (.nextg r)
    | _ => .error .opcode

/-- Group 0x8: the instruction of low nibble `o` with MOD `m`, VAR `v`, packed LIT `l` and shell `r`. -/
def decodeG8 (o m : Nat) (_v : Bool) (l : Nat) (r : Shell) : Except Reject Instr :=
  match o with
    | 0x0 => do let sz ← need .modVar (Size.ofBits (fld 0 2 m)); .ok (.ld sz (decide (fld 2 1 m = 1)) (BitVec.ofNat 24 (fld 8 24 l)) (BitVec.ofNat 6 (fld 0 6 l)) r)
    | 0x1 => do let sz ← need .modVar (Size.ofBits (fld 0 2 m)); .ok (.st sz (BitVec.ofNat 24 (fld 8 24 l)) (BitVec.ofNat 6 (fld 0 6 l)) r)
    | 0x2 => do let sz ← need .modVar (Size.ofBits (fld 0 2 m)); .ok (.ldi sz (decide (fld 2 1 m = 1)) (BitVec.ofNat 24 (fld 8 24 l)) r)
    | 0x3 => do let sz ← need .modVar (Size.ofBits (fld 0 2 m)); .ok (.sti sz (BitVec.ofNat 24 (fld 8 24 l)) r)
    | 0x4 => .ok (.kld (decide (fld 6 1 l = 1)) (BitVec.ofNat 6 (fld 0 6 l)) r)
    | 0x5 => .ok (.kst (decide (fld 6 1 l = 1)) (BitVec.ofNat 6 (fld 0 6 l)) r)
    | 0x6 => do let sz ← need .modVar (Size.ofBits (fld 0 2 m)); .ok (.gather sz (decide (fld 2 1 m = 1)) (BitVec.ofNat 32 (fld 0 32 l)) r)
    | 0x7 => do let sz ← need .modVar (Size.ofBits (fld 0 2 m)); .ok (.scatter sz (BitVec.ofNat 32 (fld 0 32 l)) r)
    | 0x8 => do let sz ← need .modVar (Size.ofBits (fld 0 2 m)); .ok (.sopen sz (decide (fld 4 1 l = 1)) (decide (fld 3 1 l = 1)) (BitVec.ofNat 3 (fld 0 3 l)) r)
    | 0x9 => .ok (.sclose (BitVec.ofNat 3 (fld 0 3 l)) r)
    | 0xA => .ok (.sseek (BitVec.ofNat 3 (fld 0 3 l)) r)
    | 0xB => .ok (.pref (BitVec.ofNat 32 (fld 0 32 l)) r)
    | 0xC => do let sz ← need .modVar (Size.ofBits (fld 0 2 m)); .ok (.tld sz (decide (fld 2 1 m = 1)) (BitVec.ofNat 19 (fld 12 19 l)) (BitVec.ofNat 6 (fld 6 6 l)) (BitVec.ofNat 6 (fld 0 6 l)) r)
    | 0xD => do let sz ← need .modVar (Size.ofBits (fld 0 2 m)); .ok (.tst sz (BitVec.ofNat 19 (fld 12 19 l)) (BitVec.ofNat 6 (fld 6 6 l)) (BitVec.ofNat 6 (fld 0 6 l)) r)
    | _ => .error .opcode

/-- Group 0x9: the instruction of low nibble `o` with MOD `m`, VAR `v`, packed LIT `l` and shell `r`. -/
def decodeG9 (o _m : Nat) (_v : Bool) (l : Nat) (r : Shell) : Except Reject Instr :=
  match o with
    | 0x0 => .ok (.pshift (BitVec.ofNat 6 (fld 12 6 l)) (BitVec.ofNat 6 (fld 6 6 l)) (BitVec.ofNat 3 (fld 3 3 l)) (BitVec.ofNat 3 (fld 0 3 l)) r)
    | 0x1 => .ok (.pbound (decide (fld 14 1 l = 1)) (BitVec.ofNat 3 (fld 11 3 l)) (BitVec.ofNat 5 (fld 6 5 l)) (BitVec.ofNat 2 (fld 4 2 l)) (BitVec.ofNat 4 (fld 0 4 l)) r)
    | 0x2 => .ok (.pact (decide (fld 4 1 l = 1)) (decide (fld 3 1 l = 1)) (BitVec.ofNat 3 (fld 0 3 l)) r)
    | 0x3 => .ok (.pmark (BitVec.ofNat 3 (fld 3 3 l)) r)
    | 0x4 => .ok (.prule (BitVec.ofNat 16 (fld 0 16 l)) r)
    | 0x5 => .ok (.phalo (BitVec.ofNat 5 (fld 8 5 l)) (BitVec.ofNat 2 (fld 6 2 l)) (BitVec.ofNat 3 (fld 3 3 l)) r)
    | 0x6 => .ok (.pflip (BitVec.ofNat 3 (fld 3 3 l)) r)
    | 0x7 => .ok (.pcnt (BitVec.ofNat 3 (fld 3 3 l)) r)
    | _ => .error .opcode

/-- Group 0xA: the instruction of low nibble `o` with MOD `m`, VAR `v`, packed LIT `l` and shell `r`. -/
def decodeGA (o m : Nat) (v : Bool) (l : Nat) (r : Shell) : Except Reject Instr :=
  match o with
    | 0x0 => do let cop ← need .modVar (CombineOp.ofBits (fld 0 4 m)); .ok (.cmb cop r)
    | 0x1 => do let scope ← need .modVar (Scope.ofBits (fld 0 3 m)); .ok (.aadd (decide (fld 3 1 m = 1)) scope v (BitVec.ofNat 32 (fld 0 32 l)) r)
    | 0x2 => do let scope ← need .modVar (Scope.ofBits (fld 0 3 m)); .ok (.amin (decide (fld 3 1 m = 1)) scope v (BitVec.ofNat 32 (fld 0 32 l)) r)
    | 0x3 => do let scope ← need .modVar (Scope.ofBits (fld 0 3 m)); .ok (.amax (decide (fld 3 1 m = 1)) scope v (BitVec.ofNat 32 (fld 0 32 l)) r)
    | 0x4 => do let scope ← need .modVar (Scope.ofBits (fld 0 3 m)); .ok (.aand (decide (fld 3 1 m = 1)) scope v (BitVec.ofNat 32 (fld 0 32 l)) r)
    | 0x5 => do let scope ← need .modVar (Scope.ofBits (fld 0 3 m)); .ok (.aor (decide (fld 3 1 m = 1)) scope v (BitVec.ofNat 32 (fld 0 32 l)) r)
    | 0x6 => do let scope ← need .modVar (Scope.ofBits (fld 0 3 m)); .ok (.axor (decide (fld 3 1 m = 1)) scope v (BitVec.ofNat 32 (fld 0 32 l)) r)
    | 0x7 => do let scope ← need .modVar (Scope.ofBits (fld 0 3 m)); .ok (.axchg (decide (fld 3 1 m = 1)) scope v (BitVec.ofNat 32 (fld 0 32 l)) r)
    | 0x8 => do let scope ← need .modVar (Scope.ofBits (fld 0 3 m)); .ok (.acas (decide (fld 3 1 m = 1)) scope v (BitVec.ofNat 32 (fld 0 32 l)) r)
    | 0x9 => do let scope ← need .modVar (Scope.ofBits (fld 0 3 m)); .ok (.afadd (decide (fld 3 1 m = 1)) scope v (BitVec.ofNat 32 (fld 0 32 l)) r)
    | 0xA => do let scope ← need .modVar (Scope.ofBits (fld 0 3 m)); let cop ← need .modVar (CombineOp.ofBits (fld 0 4 l)); .ok (.red scope v cop r)
    | 0xB => do let scope ← need .modVar (Scope.ofBits (fld 0 3 m)); .ok (.redwait (decide (fld 3 1 m = 1)) scope r)
    | 0xC => do let scope ← need .modVar (Scope.ofBits (fld 0 3 m)); .ok (.lockacq (decide (fld 3 1 m = 1)) scope (BitVec.ofNat 32 (fld 0 32 l)) r)
    | 0xD => do let scope ← need .modVar (Scope.ofBits (fld 0 3 m)); .ok (.lockrel scope v (BitVec.ofNat 32 (fld 0 32 l)) r)
    | _ => .error .opcode

/-- Group 0xB: the instruction of low nibble `o` with MOD `m`, VAR `v`, packed LIT `l` and shell `r`. -/
def decodeGB (o m : Nat) (v : Bool) (l : Nat) (r : Shell) : Except Reject Instr :=
  match o with
    | 0x0 => do let scope ← need .modVar (Scope.ofBits (fld 0 3 m)); .ok (.fence (decide (fld 3 1 m = 1)) scope v r)
    | 0x1 => do let scope ← need .modVar (Scope.ofBits (fld 0 3 m)); .ok (.bararr scope v r)
    | 0x2 => do let scope ← need .modVar (Scope.ofBits (fld 0 3 m)); .ok (.bardrop scope v r)
    | 0x3 => do let scope ← need .modVar (Scope.ofBits (fld 0 3 m)); .ok (.barwait (decide (fld 3 1 m = 1)) scope r)
    | 0x4 => do let scope ← need .modVar (Scope.ofBits (fld 0 3 m)); .ok (.waitw (decide (fld 3 1 m = 1)) scope (BitVec.ofNat 24 (fld 8 24 l)) (BitVec.ofNat 6 (fld 0 6 l)) r)
    | 0x5 => do let scope ← need .modVar (Scope.ofBits (fld 0 3 m)); .ok (.wakew scope v r)
    | 0x6 => .ok (.roundend r)
    | 0x7 => .ok (.quiesce r)
    | 0x8 => .ok (.handover (BitVec.ofNat 3 (fld 3 3 l)) (BitVec.ofNat 3 (fld 0 3 l)) r)
    | 0x9 => do let scope ← need .modVar (Scope.ofBits (fld 0 3 m)); .ok (.ordtok scope (BitVec.ofNat 3 (fld 0 3 l)) r)
    | 0xA => .ok (.event (BitVec.ofNat 16 (fld 0 16 l)) r)
    | 0xB => .ok (.yield r)
    | _ => .error .opcode

/-- Group 0xC: the instruction of low nibble `o` with MOD `m`, VAR `v`, packed LIT `l` and shell `r`. -/
def decodeGC (o m : Nat) (v : Bool) (l : Nat) (r : Shell) : Except Reject Instr :=
  match o with
    | 0x0 => do let fmt ← need .modVar (MFmt.ofBits (fld 0 4 m)); .ok (.mma fmt (BitVec.ofNat 7 (fld 7 7 l)) (BitVec.ofNat 7 (fld 0 7 l)) r)
    | 0x1 => do let fmt ← need .modVar (MFmt.ofBits (fld 0 4 m)); .ok (.mmas fmt (decide (fld 16 1 l = 1)) (decide (fld 15 1 l = 1)) (decide (fld 14 1 l = 1)) (BitVec.ofNat 7 (fld 7 7 l)) (BitVec.ofNat 7 (fld 0 7 l)) r)
    | 0x2 => if 1 ≤ m || v then .error .modVar else do let ofmt ← need .form (OFmt.ofBits (fld 14 2 l)); .ok (.mdrain (decide (fld 16 1 l = 1)) ofmt (BitVec.ofNat 7 (fld 7 7 l)) (BitVec.ofNat 7 (fld 0 7 l)) r)
    | 0x3 => .ok (.mzero (BitVec.ofNat 7 (fld 7 7 l)) (BitVec.ofNat 7 (fld 0 7 l)) r)
    | 0x4 => .ok (.mtask (BitVec.ofNat 5 (fld 16 5 l)) (BitVec.ofNat 16 (fld 0 16 l)) r)
    | 0x5 => .ok (.scin r)
    | 0x6 => do let fmt ← need .modVar (MFmt.ofBits (fld 0 4 m)); .ok (.smul fmt r)
    | 0x7 => do let fmt ← need .modVar (MFmt.ofBits (fld 0 4 m)); .ok (.sfma fmt r)
    | 0x8 => .ok (.spchk r)
    | 0x9 => .ok (.mstat (BitVec.ofNat 3 (fld 5 3 l)) (BitVec.ofNat 5 (fld 0 5 l)) r)
    | _ => .error .opcode

/-- Group 0xD: the instruction of low nibble `o` with MOD `m`, VAR `v`, packed LIT `l` and shell `r`. -/
def decodeGD (o _m : Nat) (_v : Bool) (l : Nat) (r : Shell) : Except Reject Instr :=
  match o with
    | 0x0 => .ok (.tex (BitVec.ofNat 12 (fld 0 12 l)) r)
    | 0x1 => .ok (.texn (BitVec.ofNat 12 (fld 0 12 l)) r)
    | 0x2 => .ok (.march (BitVec.ofNat 19 (fld 12 19 l)) (BitVec.ofNat 6 (fld 6 6 l)) (BitVec.ofNat 6 (fld 0 6 l)) r)
    | 0x3 => .ok (.cadd (BitVec.ofNat 4 (fld 12 4 l)) (BitVec.ofNat 6 (fld 6 6 l)) (BitVec.ofNat 6 (fld 0 6 l)) r)
    | 0x4 => .ok (.cwmk (BitVec.ofNat 6 (fld 6 6 l)) (BitVec.ofNat 6 (fld 0 6 l)) r)
    | 0x5 => .ok (.cres (BitVec.ofNat 6 (fld 6 6 l)) (BitVec.ofNat 6 (fld 0 6 l)) r)
    | 0x6 => .ok (.cclr (BitVec.ofNat 6 (fld 6 6 l)) (BitVec.ofNat 6 (fld 0 6 l)) r)
    | 0x7 => .ok (.clog (BitVec.ofNat 6 (fld 6 6 l)) (BitVec.ofNat 6 (fld 0 6 l)) r)
    | 0x8 => .ok (.cadj r)
    | 0x9 => .ok (.frel r)
    | _ => .error .opcode

/-- Group 0xE: the instruction of low nibble `o` with MOD `m`, VAR `v`, packed LIT `l` and shell `r`. -/
def decodeGE (o _m : Nat) (_v : Bool) (_l : Nat) (r : Shell) : Except Reject Instr :=
  match o with
    | 0x0 => .ok (.copye r)
    | 0x1 => .ok (.copyw r)
    | 0x2 => .ok (.qresv r)
    | 0x3 => .ok (.qcommit r)
    | 0x4 => .ok (.qtake r)
    | 0x5 => .ok (.loffer r)
    | 0x6 => .ok (.ltake r)
    | 0x7 => .ok (.lreclaim r)
    | 0x8 => .ok (.lquery r)
    | 0x9 => .ok (.degrade r)
    | 0xA => .ok (.fload r)
    | 0xB => .ok (.fswap r)
    | 0xC => .ok (.ovld r)
    | 0xD => .ok (.ovfree r)
    | _ => .error .opcode

/-- Group 0xF: the instruction of low nibble `o` with MOD `m`, VAR `v`, packed LIT `l` and shell `r`. -/
def decodeGF (o _m : Nat) (v : Bool) (l : Nat) (r : Shell) : Except Reject Instr :=
  match o with
    | 0x0 => .ok (.nop r)
    | 0x1 => .ok (.trap (BitVec.ofNat 16 (fld 0 16 l)) r)
    | 0x2 => .ok (.brk (BitVec.ofNat 16 (fld 0 16 l)) r)
    | 0x3 => .ok (.halt r)
    | 0x4 => .ok (.sysrd v (decide (fld 16 1 l = 1)) (BitVec.ofNat 16 (fld 0 16 l)) r)
    | 0x5 => .ok (.syswr (decide (fld 16 1 l = 1)) (BitVec.ofNat 16 (fld 0 16 l)) r)
    | 0x6 => .ok (.eret r)
    | 0x7 => .ok (.perf (decide (fld 8 1 l = 1)) (BitVec.ofNat 8 (fld 0 8 l)) r)
    | 0x8 => .ok (.marker r)
    | 0x9 => .ok (.snap r)
    | _ => .error .opcode

/-- The instruction of parts, by group (Table 4-5). Enumerated fields without a meaning are refused by reason 3, or 4 in LIT. -/
def decodeOp (p : Parts) : Except Reject Instr :=
  let o := p.op % 16
  match p.op / 16 with
  | 0 => decodeG0 o p.mod p.var p.lit p.shell
  | 1 => decodeG1 o p.mod p.var p.lit p.shell
  | 2 => decodeG2 o p.mod p.var p.lit p.shell
  | 3 => decodeG3 o p.mod p.var p.lit p.shell
  | 4 => decodeG4 o p.mod p.var p.lit p.shell
  | 5 => decodeG5 o p.mod p.var p.lit p.shell
  | 6 => decodeG6 o p.mod p.var p.lit p.shell
  | 7 => decodeG7 o p.mod p.var p.lit p.shell
  | 8 => decodeG8 o p.mod p.var p.lit p.shell
  | 9 => decodeG9 o p.mod p.var p.lit p.shell
  | 10 => decodeGA o p.mod p.var p.lit p.shell
  | 11 => decodeGB o p.mod p.var p.lit p.shell
  | 12 => decodeGC o p.mod p.var p.lit p.shell
  | 13 => decodeGD o p.mod p.var p.lit p.shell
  | 14 => decodeGE o p.mod p.var p.lit p.shell
  | 15 => decodeGF o p.mod p.var p.lit p.shell
  | _ => .error .opcode

/-- Why a galley header is no record: reserved bits, its placement in an element, else its place (R78, R86, R88). -/
def headerReject (pl : Placement) (n : Nat) : Reject :=
  if fld 64 17 n ≠ 0 ∨ fld 0 16 n ≠ 0 then .reserved
  else match pl with
    | .pinned => .placement
    | .pooled => .galley

/-- Decode a record of a placement: the instruction, or the lowest reason for which it is illegal (R81, R88). A GHDR is no record. -/
def decode (pl : Placement) (w : BitVec 96) : Except Reject Instr :=
  let p := splitWord w.toNat
  match decodeOp p with
  | .error .opcode => if p.op = 0xFE then .error (headerReject pl w.toNat) else .error .opcode
  | .error e => if fld 64 7 w.toNat ≠ 0 then .error .reserved else .error e
  | .ok i =>
    match encodeParts i with
    | none => .error .opcode
    | some q =>
      if fld 64 7 w.toNat ≠ 0 then .error .reserved
      else match i.check pl p.shell (decide (q.mod = p.mod) && q.var == p.var) (decide (q.lit = p.lit)) with
        | some e => .error e
        | none => .ok i

/-- The decoder on a word numbered as the opcode table numbers it: as a pooled record, else as a pinned one. -/
def decodeTableWord (nbits w : Nat) : Option Instr :=
  if nbits ≤ 96 then
    match decode .pooled (BitVec.ofNat 96 (w % 2 ^ nbits)) with
    | .ok i => some i
    | .error _ => match decode .pinned (BitVec.ofNat 96 (w % 2 ^ nbits)) with
      | .ok i => some i
      | .error _ => none
  else none

end Sys2Proof
end

