-- ==== Sys2Proof/Config.lean ====
section
/-! DEFINITION. What an implementation fixes, and the free values of the X4: values that the manual leaves open although the
part goes on. A free value is opaque: nothing here can say what it is. -/

namespace Sys2Proof.Config

/-- FREE VALUE (log 7). The place, among the stored blocks of a texture, of the block that holds texel (x, y) of a mip level,
counted modulo their number: the manual gives no layout of texels in memory (R205, R206). -/
opaque texelPlace (ssr : BitVec 256) (level x y : Nat) : Nat

/-- FREE VALUE (log 7). One decoded channel, in FP32, of texel (x, y) in a block of the compressed formats BC1 to BC7 and
ASTC: the manual leaves the decoding to standards it does not give (R205, R206). -/
opaque texelDecode (ssr : BitVec 256) (level x y : Nat) (block : List Byte) (channel : Nat) : Word

/-- FREE VALUE (log 7). The place, among the bytes of a latent grid, of latent channel `c` of latent texel (x, y), counted modulo
their number: no layout is given (R207). -/
opaque latentPlace (ssr : BitVec 256) (level x y c : Nat) : Nat

/-- FREE VALUE (log 7). The place, among those bytes, of the E8M0 scale of a block of 32 latent channels (R207). -/
opaque latentScalePlace (ssr : BitVec 256) (level x y block : Nat) : Nat

/-- FREE VALUE (log 8). A result channel that the manual does not state, drawn afresh at each use: TEX with an infinite
coordinate or a NaN LOD (R206), and the sampled latents of such a TEXN (R207). -/
opaque freeValue : Nat → BitVec 32

/-- FREE VALUE (log 8). A halo site that no PHALO has filled, or that lies beyond the ends of its halo: the manual gives no value
(R167, R172). Keyed by bay, plane, edge, halo index and position along the edge. -/
opaque haloSite (bay pid edge k : Nat) (pos : Int) : BitVec 32

/-- FREE VALUE (log 9). Whether arcs can be routed where the direct path of R241 meets a fenced bay and more than 32 arcs go over bay edges:
the manual does not give the detour, so whether the 32 arcs of an edge suffice is open. Keyed by the origin and the image's arcs. -/
opaque detourFits (die ox oy arcs : Nat) : Bool

/-- Bytes of DRAM of one die (R15). -/
def dramBytes : Nat := 64 * 2 ^ 30

/-- Bytes at the end of each die's DRAM that firmware reserves for the device, outside every object (R312). -/
def reservedBytes : Nat := 96 * 2 ^ 20

/-- FREE VALUE (log 16). Bytes that the far-memory device would put behind a die's CXL port: the manual bounds only the sum of the four
(R21, R347). -/
opaque cxlShare (die : Nat) : Nat

/-- Bytes of the ports before port `d` and of port `d` itself: what is left of 4 TiB bounds each (R21, R347). -/
def cxlUpTo : Nat → Nat × Nat
  | 0 => (0, min (cxlShare 0) (2 ^ 42))
  | d + 1 =>
    let before := (cxlUpTo d).1 + (cxlUpTo d).2
    (before, min (cxlShare (d + 1)) (2 ^ 42 - before))

/-- Bytes of far memory behind a die's port. -/
def cxlBytes (die : Nat) : Nat := (cxlUpTo die).2

/-- Spacing of the physical spaces in the model's flat address line: larger than any page number of 36 bits reaches. -/
def spaceSize : Nat := 2 ^ 48

end Sys2Proof.Config
end

