-- ==== Sys2Proof/Machine/Fp.lean ====
section
/-! DEFINITION. Floating-point formats, exact values, rounding and the status flags (R49 to R62), and the arithmetic of groups
0x3 to 0x5 on them (R108 to R111). Values are exact natural numbers over powers of two until the one rounding. -/

namespace Sys2Proof.Machine

/-- A floating-point layout (Table 3-1): exponent and fraction widths, bias, the E4M3 encoding rule, the BF16 flush (R50). -/
structure Fmt where
  ew : Nat
  mw : Nat
  bias : Int
  e4m3 : Bool := false
  flush : Bool := false
  deriving DecidableEq, Repr

def Fmt.fp32 : Fmt := { ew := 8, mw := 23, bias := 127 }
def Fmt.fp16 : Fmt := { ew := 5, mw := 10, bias := 15 }
def Fmt.bf16 : Fmt := { ew := 8, mw := 7, bias := 127, flush := true }
def Fmt.e5m2 : Fmt := { ew := 5, mw := 2, bias := 15 }
def Fmt.fe4m3 : Fmt := { ew := 4, mw := 3, bias := 7, e4m3 := true }

/-- FP16 or BF16, as MOD[0] of group 0x4 selects (R112). -/
def Fmt.half (bf : Bool) : Fmt := if bf then .bf16 else .fp16

/-- E4M3 or E5M2 (R116). -/
def Fmt.fp8 (e5 : Bool) : Fmt := if e5 then .e5m2 else .fe4m3

/-- Sticky bits NV, DZ, OF, UF, NX in bits 0 to 4 (Table 3-6). -/
abbrev Sticky := BitVec 5

def stNV : Sticky := 1
def stDZ : Sticky := 2
def stOF : Sticky := 4
def stUF : Sticky := 8
def stNX : Sticky := 16

/-- A decoded value: a NaN with its signalling mark (R51), an infinity, or `(-1)^neg * m * 2^e`. -/
inductive FVal where
  | nan (signalling : Bool)
  | inf (neg : Bool)
  | fin (neg : Bool) (m : Nat) (e : Int)
  deriving DecidableEq, Repr

namespace FVal

def isNan : FVal → Bool
  | nan _ => true
  | _ => false

def isSnan : FVal → Bool
  | nan s => s
  | _ => false

def isInf : FVal → Bool
  | inf _ => true
  | _ => false

def isZero : FVal → Bool
  | fin _ m _ => m == 0
  | _ => false

def neg? : FVal → Bool
  | nan _ => false
  | inf n => n
  | fin n _ _ => n

def negate : FVal → FVal
  | nan s => nan s
  | inf n => inf (!n)
  | fin n m e => fin (!n) m e

end FVal

/-- The value that an encoding stands for (R49), with the BF16 subnormals read as zero (R50). -/
def Fmt.decode (f : Fmt) (b : Nat) : FVal :=
  let frac := b % 2 ^ f.mw
  let ex := b / 2 ^ f.mw % 2 ^ f.ew
  let neg := b / 2 ^ (f.ew + f.mw) % 2 == 1
  if f.e4m3 && ex == 15 && frac == 7 then .nan false
  else if !f.e4m3 && ex == 2 ^ f.ew - 1 then
    if frac == 0 then .inf neg else .nan (frac < 2 ^ (f.mw - 1))
  else if ex == 0 then
    if f.flush then .fin neg 0 0 else .fin neg frac (1 - f.bias - f.mw)
  else .fin neg (2 ^ f.mw + frac) (ex - f.bias - f.mw)

/-- The canonical quiet NaN (Table 3-3). -/
def Fmt.canonicalNan (f : Fmt) : Nat :=
  if f.e4m3 then 0x7F else (2 ^ f.ew - 1) * 2 ^ f.mw + 2 ^ (f.mw - 1)

/-- The largest finite encoding, without the sign (Table 3-1). -/
def Fmt.maxFinite (f : Fmt) : Nat :=
  if f.e4m3 then 0x7E else (2 ^ f.ew - 1) * 2 ^ f.mw - 1

/-- The encoding of an infinity without the sign. E4M3 has none and gives its NaN instead (R54). -/
def Fmt.infBits (f : Fmt) : Nat :=
  if f.e4m3 then 0x7F else (2 ^ f.ew - 1) * 2 ^ f.mw

def Fmt.signBit (f : Fmt) (neg : Bool) : Nat :=
  if neg then 2 ^ (f.ew + f.mw) else 0

/-- An infinity of the format: E4M3 gives 0x7F whatever the sign (R54). -/
def Fmt.infinity (f : Fmt) (neg : Bool) : Nat :=
  if f.e4m3 then 0x7F else f.signBit neg + f.infBits

/-- A rounded result: its encoding and the flags it sets. -/
structure FRes where
  bits : Nat
  flags : Sticky
  deriving DecidableEq, Repr

/-- `num / den` in units of `2^q`: quotient, remainder, divisor. -/
def quant (num den : Nat) (q : Int) : Nat × Nat × Nat :=
  if 0 ≤ q then
    let d := den * 2 ^ q.toNat
    (num / d, num % d, d)
  else
    let n := num * 2 ^ (-q).toNat
    (n / den, n % den, den)

/-- Whether a remainder `rem / d` above quotient `k` rounds away from zero (Table 3-4, R55). `st` says that the exact value
lies above `rem / d`, by less than the next step of its fine grid. `r` is the stepped LFSR state of an SR rounding. -/
def roundsUp (rm : Rnd) (r : Nat) (neg : Bool) (k rem d : Nat) (st : Bool) : Bool :=
  let inexact := rem != 0 || st
  match rm with
  | .rne => decide (2 * rem > d) || (2 * rem == d && (st || k % 2 == 1))
  | .rtz => false
  | .rup => !neg && inexact
  | .rdn => neg && inexact
  | .sr => inexact && decide (r ≤ rem * 65536 / d)

/-- floor of log2 of `num / den`, both positive. -/
def ilog2 (num den : Nat) : Int :=
  let e : Int := (num.log2 : Int) - den.log2
  let (k, _, _) := quant num den e
  if k == 0 then e - 1 else e

/-- Result of an overflow (Table 3-5). -/
def Fmt.overflow (f : Fmt) (rm : Rnd) (neg : Bool) : Nat :=
  let toInf := match rm with
    | .rne => true
    | .rtz => false
    | .rup => !neg
    | .rdn => neg
    | .sr => true
  if toInf then f.infinity neg else f.signBit neg + f.maxFinite

/-- Rounds the exact magnitude `num / den` (just above it when `st`) to the format (R50, R53 to R55, R57). An SR conversion to
E4M3 of a magnitude above 448 takes its upper neighbour as 512 (R55) and where it stays at 448 sets NX alone: R54 and R55 leave OF open
there (DESIGN CHOICE, log 80). -/
def Fmt.round (f : Fmt) (rm : Rnd) (r : Nat) (neg : Bool) (num den : Nat) (st : Bool := false) : FRes :=
  if num == 0 && !st then { bits := f.signBit neg, flags := 0 }
  else
    let ex := ilog2 num den
    let emin : Int := 1 - f.bias
    let (ku, remu, du) := quant num den (ex - f.mw)
    let ku' := if roundsUp rm r neg ku remu du st then ku + 1 else ku
    let inexactU := remu != 0 || st
    let tiny := decide (ex < emin) && !(ex == emin - 1 && ku' == 2 ^ (f.mw + 1))
    if f.flush && tiny then { bits := f.signBit neg, flags := stUF ||| stNX }
    else
      let q : Int := (if ex < emin then emin else ex) - f.mw
      let (k, rem, d) := quant num den q
      let k' := if roundsUp rm r neg k rem d st then k + 1 else k
      let inexact := rem != 0 || st
      let mag := (q + f.mw + f.bias - 1).toNat * 2 ^ f.mw + k'
      let srE4 := f.e4m3 && rm == .sr && decide (num > 448 * den)
      let ovf := if srE4 then decide (r ≤ (num - 448 * den) * 65536 / (64 * den)) else decide (mag > f.maxFinite)
      if ovf then { bits := f.overflow rm neg, flags := stOF ||| stNX }
      else if srE4 then { bits := f.signBit neg + f.maxFinite, flags := stNX }
      else
        { bits := f.signBit neg + mag
          flags := (if inexact || (f.flush && inexactU) then stNX else 0) ||| (if tiny && inexact then stUF else 0) }

/-- An exact sum before its one rounding: NaN, infinity, or `i * 2^e` with the sign of an exact zero under RNE. -/
inductive Exact where
  | nan
  | inf (neg : Bool)
  | fin (i : Int) (e : Int) (zeroNeg : Bool) (mixedZero : Bool)
  deriving DecidableEq, Repr

def scaleInt (i : Int) (k : Int) : Int := i * 2 ^ k.toNat

/-- The signed integer and exponent of a finite value. -/
def FVal.dyadic : FVal → Int × Int
  | .fin n m e => (if n then -(m : Int) else m, e)
  | _ => (0, 0)

def addDyadic (a b : Int × Int) : Int × Int :=
  if a.1 == 0 then b
  else if b.1 == 0 then a
  else
    let e := min a.2 b.2
    (scaleInt a.1 (a.2 - e) + scaleInt b.1 (b.2 - e), e)

/-- Product of two values, and whether it is the invalid 0 × ∞ (R52). -/
def FVal.mul (a b : FVal) : FVal × Bool :=
  match a, b with
  | .nan _, _ => (.nan false, false)
  | _, .nan _ => (.nan false, false)
  | .inf n, .inf m => (.inf (n != m), false)
  | .inf n, .fin m k _ => if k == 0 then (.nan false, true) else (.inf (n != m), false)
  | .fin m k _, .inf n => if k == 0 then (.nan false, true) else (.inf (n != m), false)
  | .fin n m e, .fin n' m' e' => (.fin (n != n') (m * m') (e + e'), false)

/-- Exact sum of a list of terms (R52): a NaN term, or infinities of both signs, make a NaN; the second part says whether
the sum itself is invalid, which infinities of both signs make it also beside a NaN term (R67, R114). An exact zero is −0 when every term is −0 (R67), and otherwise takes the sign R52 gives. -/
def sumExact (ts : List FVal) : Exact × Bool :=
  let both := ts.any (fun t => t == .inf true) && ts.any (fun t => t == .inf false)
  if both || ts.any FVal.isNan then (.nan, both)
  else if ts.any (fun t => t == .inf true) then (.inf true, false)
  else if ts.any (fun t => t == .inf false) then (.inf false, false)
  else
    let d := ts.foldl (fun acc t => addDyadic acc t.dyadic) (0, 0)
    let allNeg := !ts.isEmpty && ts.all (fun t => t.isZero && t.neg?)
    let allPos := ts.all (fun t => t.isZero && !t.neg?)
    (.fin d.1 d.2 allNeg (!allNeg && !allPos), false)

/-- Rounds an exact sum. A zero that is neither all −0 nor all +0 is +0, and −0 under RDN (R52). -/
def Fmt.roundExact (f : Fmt) (rm : Rnd) (r : Nat) : Exact → FRes
  | .nan => { bits := f.canonicalNan, flags := 0 }
  | .inf n => { bits := f.infinity n, flags := 0 }
  | .fin i e zn mixed =>
    if i == 0 then { bits := f.signBit (zn || (mixed && rm == .rdn)), flags := 0 }
    else
      let neg := decide (i < 0)
      if 0 ≤ e then f.round rm r neg (i.natAbs * 2 ^ e.toNat) 1
      else f.round rm r neg i.natAbs (2 ^ (-e).toNat)

def nvIf (b : Bool) : Sticky := if b then stNV else 0

/-- NV of signalling operands (R51). -/
def snanFlags (vs : List FVal) : Sticky := nvIf (vs.any FVal.isSnan)

/-- The sum of terms, rounded once to `f`, with the flags of R57. `ops` are the operands, for signalling NaNs; `bad` marks an
invalid product among the terms. -/
def Fmt.sum (f : Fmt) (rm : Rnd) (r : Nat) (ops terms : List FVal) (bad : Bool) : FRes :=
  let (x, bad') := sumExact terms
  let y := f.roundExact rm r x
  { y with flags := y.flags ||| snanFlags ops ||| nvIf (bad || bad') }

def Fmt.add (f : Fmt) (rm : Rnd) (r : Nat) (a b : FVal) : FRes := f.sum rm r [a, b] [a, b] false

def Fmt.sub (f : Fmt) (rm : Rnd) (r : Nat) (a b : FVal) : FRes := f.sum rm r [a, b] [a, b.negate] false

def Fmt.fma (f : Fmt) (rm : Rnd) (r : Nat) (a b c : FVal) : FRes :=
  let (p, bad) := a.mul b
  f.sum rm r [a, b, c] [p, c] bad

def Fmt.mul (f : Fmt) (rm : Rnd) (r : Nat) (a b : FVal) : FRes :=
  let (p, bad) := a.mul b
  f.sum rm r [a, b] [p] bad

/-- A finite magnitude as a fraction. -/
def ratio (m : Nat) (e : Int) : Nat × Nat :=
  if 0 ≤ e then (m * 2 ^ e.toNat, 1) else (m, 2 ^ (-e).toNat)

def Fmt.div (f : Fmt) (rm : Rnd) (r : Nat) (a b : FVal) : FRes :=
  let nan (fl : Sticky) : FRes := { bits := f.canonicalNan, flags := fl ||| snanFlags [a, b] }
  match a, b with
  | .nan _, _ => nan 0
  | _, .nan _ => nan 0
  | .inf _, .inf _ => nan stNV
  | .inf n, .fin m _ _ => { bits := f.infinity (n != m), flags := 0 }
  | .fin n _ _, .inf m => { bits := f.signBit (n != m), flags := 0 }
  | .fin n k e, .fin n' k' e' =>
    let neg := n != n'
    if k' == 0 then
      if k == 0 then nan stNV else { bits := f.infinity neg, flags := stDZ }
    else if k == 0 then { bits := f.signBit neg, flags := 0 }
    else
      let (x, y) := ratio k (e - e')
      f.round rm r neg x (y * k')

/-- Integer square root by bits from the top: structural in `fuel`. -/
def isqrtAux (n : Nat) : Nat → Nat → Nat
  | 0, acc => acc
  | k + 1, acc =>
    let t := acc + 2 ^ k
    isqrtAux n k (if t * t ≤ n then t else acc)

def isqrt (n : Nat) : Nat := isqrtAux n (n.log2 / 2 + 1) 0

/-- `sqrt (m * 2^e)` as a fraction with a mark for what lies beyond it: 2^-80 or finer relative steps. -/
def sqrtRatio (m : Nat) (e : Int) : Nat × Nat × Bool :=
  let e2 := if e % 2 == 0 then e else e - 1
  let m2 := if e % 2 == 0 then m else m * 2
  let s : Nat := 100
  let n := m2 * 2 ^ (2 * s)
  let q := isqrt n
  let (x, y) := ratio q (e2 / 2 - s)
  (x, y, q * q != n)

def Fmt.sqrt (f : Fmt) (rm : Rnd) (r : Nat) (a : FVal) : FRes :=
  match a with
  | .nan s => { bits := f.canonicalNan, flags := nvIf s }
  | .inf false => { bits := f.infinity false, flags := 0 }
  | .inf true => { bits := f.canonicalNan, flags := stNV }
  | .fin n m e =>
    if m == 0 then { bits := f.signBit n, flags := 0 }
    else if n then { bits := f.canonicalNan, flags := stNV }
    else
      let (x, y, st) := sqrtRatio m e
      f.round rm r false x y st

/-- Order of two non-NaN values: compares exact values; −0 equals +0. -/
def FVal.compare (a b : FVal) : Ordering :=
  match a, b with
  | .inf n, .inf m => if n == m then .eq else if n then .lt else .gt
  | .inf n, _ => if n then .lt else .gt
  | _, .inf m => if m then .gt else .lt
  | _, _ =>
    let d := addDyadic a.dyadic b.negate.dyadic
    if d.1 < 0 then .lt else if d.1 == 0 then .eq else .gt

/-- The condition of Table 4-7 on two values, with the unordered rule of R83. -/
def FCond.holds (c : FCond) (a b : FVal) : Bool :=
  if a.isNan || b.isNan then
    match c with
    | .ne => true
    | .un => true
    | _ => false
  else
    let o := a.compare b
    match c with
    | .eq => o == .eq
    | .ne => o != .eq
    | .lt => o == .lt
    | .le => o != .gt
    | .gt => o == .gt
    | .ge => o != .lt
    | .un => false
    | .ord => true

/-- Encoding of an operand as a result of FMIN, FMAX, FABS and FNEG: a NaN becomes canonical, and a BF16 subnormal is a zero
of its sign (R50, R108, R113). -/
def Fmt.encodeVal (f : Fmt) (bits : Nat) : Nat :=
  match f.decode bits with
  | .nan _ => f.canonicalNan
  | .inf n => f.infinity n
  | .fin n m _ => if m == 0 then f.signBit n else bits

/-- FMIN and FMAX: minimumNumber and maximumNumber (R108), with −0 below +0. -/
def Fmt.minmax (f : Fmt) (isMax : Bool) (x y : Nat) : FRes :=
  let a := f.decode x
  let b := f.decode y
  let fl := snanFlags [a, b]
  if a.isNan && b.isNan then { bits := f.canonicalNan, flags := fl }
  else if a.isNan then { bits := f.encodeVal y, flags := fl }
  else if b.isNan then { bits := f.encodeVal x, flags := fl }
  else
    let aLess := match a.compare b with
      | .lt => true
      | .gt => false
      | .eq => a.neg?
    { bits := f.encodeVal (if aLess != isMax then x else y), flags := fl }

/-- FABS and FNEG (R108). -/
def Fmt.signOp (f : Fmt) (flip : Bool) (x : Nat) : FRes :=
  let a := f.decode x
  match a with
  | .nan s => { bits := f.canonicalNan, flags := nvIf s }
  | .inf n => { bits := f.infinity (flip && !n), flags := 0 }
  | .fin n m _ =>
    let mag := if m == 0 then 0 else x % 2 ^ (f.ew + f.mw)
    { bits := f.signBit (flip && !n) + mag, flags := 0 }

/-- The second rounding of FRCPE and FRSQE (R109): to a multiple of 2^12 of the encoding; `x` is the exact magnitude. -/
def estimate (neg : Bool) (num den : Nat) (st : Bool) : FRes :=
  let e := Fmt.fp32.round .rne 0 neg num den st
  let m := e.bits % 2 ^ 31
  let k := m / 4096
  let rem := m % 4096
  let m' := (if rem > 2048 || (rem == 2048 && k % 2 == 1) then k + 1 else k) * 4096
  let ovf := decide (m' ≥ 0x7F800000)
  let mag := if ovf then 0x7F800000 else m'
  let bits := (if neg then 2 ^ 31 else 0) + mag
  let same := !st && (match Fmt.fp32.decode mag with
    | .fin _ a ea => let (p, q) := ratio a ea; p * den == num * q
    | _ => false)
  { bits := bits, flags := e.flags &&& ~~~stNX ||| (if ovf then stOF else 0) ||| (if same then 0 else stNX) }

/-- FRCPE (R109). -/
def frcpe (x : Nat) : FRes :=
  match Fmt.fp32.decode x with
  | .nan s => { bits := Fmt.fp32.canonicalNan, flags := nvIf s }
  | .inf n => { bits := Fmt.fp32.signBit n, flags := 0 }
  | .fin n m e =>
    if m == 0 then { bits := Fmt.fp32.infinity n, flags := stDZ }
    else
      let (p, q) := ratio m e
      estimate n q p false

/-- FRSQE (R109): 1 / sqrt(a) = sqrt(q * p) / p for a = p / q. -/
def frsqe (x : Nat) : FRes :=
  match Fmt.fp32.decode x with
  | .nan s => { bits := Fmt.fp32.canonicalNan, flags := nvIf s }
  | .inf n => if n then { bits := Fmt.fp32.canonicalNan, flags := stNV } else { bits := 0, flags := 0 }
  | .fin n m e =>
    if m == 0 then { bits := Fmt.fp32.infinity n, flags := stDZ }
    else if n then { bits := Fmt.fp32.canonicalNan, flags := stNV }
    else
      let (p, q) := ratio m e
      let s := 2 ^ 200
      let root := isqrt (q * p * s * s)
      estimate false root (p * s) (root * root != q * p * s * s)

/-! Base-2 exponential and logarithm and the sine of half turns: fixed point with `fixW` fraction bits, truncated downward.
Each gives a lower bound whose distance to the exact value is far below the last kept step, and exact cases apart. -/

def fixW : Nat := 512

/-- π with 256 fraction bits, rounded down. -/
def piFix : Nat := 0x3243F6A8885A308D313198A2E03707344A4093822299F31D0082EFA98EC4E6C89

/-- ln 2 in `fixW` fraction bits as the sum of 2^-k / k. -/
def ln2Aux : Nat → Nat → Nat
  | 0, acc => acc
  | k + 1, acc => ln2Aux k (acc + 2 ^ fixW / (2 ^ (k + 1) * (k + 1)))

def ln2Fix : Nat := ln2Aux 560 0

/-- Σ x^n / n! from the n-th term on. -/
def expAux (x : Nat) : Nat → Nat → Nat → Nat → Nat
  | 0, _, _, acc => acc
  | fuel + 1, n, term, acc =>
    if term == 0 then acc
    else expAux x fuel (n + 1) (term * x / 2 ^ fixW / (n + 1)) (acc + term)

/-- 2^f for a fraction `fr / 2^fixW` in [0, 1). -/
def exp2Frac (fr : Nat) : Nat := expAux (fr * ln2Fix / 2 ^ fixW) 160 0 (2 ^ fixW) 0

/-- Binary digits of log2 of `x / 2^fixW` in [1, 2), by squaring. -/
def log2Digits : Nat → Nat → Nat → Nat
  | 0, _, acc => acc
  | k + 1, x, acc =>
    let y := x * x / 2 ^ fixW
    if y ≥ 2 ^ (fixW + 1) then log2Digits k (y / 2) (2 * acc + 1) else log2Digits k y (2 * acc)

def logBits : Nat := 160

/-- Alternating series of sine (`n` starting at 1, `term` = x) or cosine (`n` at 0, `term` = 1). -/
def trigAux (x2 : Nat) : Nat → Nat → Nat → Bool → Int → Int
  | 0, _, _, _, acc => acc
  | fuel + 1, n, term, sgn, acc =>
    if term == 0 then acc
    else trigAux x2 fuel (n + 2) (term * x2 / 2 ^ fixW / ((n + 1) * (n + 2))) (!sgn) (if sgn then acc - term else acc + term)

/-- Drops the low guard bits, so that truncation errors do not reach the kept grid. -/
def keepTop (x drop : Nat) : Nat := x / 2 ^ drop

/-- 2^a, correctly rounded (R110). -/
def fexp2 (rm : Rnd) (r : Nat) (x : Nat) : FRes :=
  match Fmt.fp32.decode x with
  | .nan s => { bits := Fmt.fp32.canonicalNan, flags := nvIf s }
  | .inf n => if n then { bits := 0, flags := 0 } else { bits := Fmt.fp32.infBits, flags := 0 }
  | .fin n m e =>
    if m == 0 then { bits := 0x3F800000, flags := 0 }
    else
      let (p, q) := ratio m e
      if p / q ≥ 1024 then
        if n then Fmt.fp32.round rm r false 1 (2 ^ 1024) else Fmt.fp32.round rm r false (2 ^ 1024) 1
      else
        let v := p * 2 ^ fixW / q
        let up := (v + 2 ^ fixW - 1) / 2 ^ fixW
        let int : Int := if n then -(up : Int) else (v / 2 ^ fixW : Nat)
        let fr := if n then up * 2 ^ fixW - v else v % 2 ^ fixW
        if fr == 0 then
          let (a, b) := ratio 1 int
          Fmt.fp32.round rm r false a b
        else
          let y := keepTop (exp2Frac fr) 200
          let (a, b) := ratio y (int - (fixW - 200 : Nat))
          Fmt.fp32.round rm r false a b true

/-- log2 a, correctly rounded (R110). -/
def flog2 (rm : Rnd) (r : Nat) (x : Nat) : FRes :=
  match Fmt.fp32.decode x with
  | .nan s => { bits := Fmt.fp32.canonicalNan, flags := nvIf s }
  | .inf n => if n then { bits := Fmt.fp32.canonicalNan, flags := stNV } else { bits := Fmt.fp32.infBits, flags := 0 }
  | .fin n m e =>
    if m == 0 then { bits := Fmt.fp32.infinity true, flags := stDZ }
    else if n then { bits := Fmt.fp32.canonicalNan, flags := stNV }
    else
      let k := m.log2
      let c : Int := e + k
      if m == 2 ^ k then
        if c == 0 then { bits := 0, flags := 0 } else Fmt.fp32.round rm r (decide (c < 0)) c.natAbs 1
      else
        let d := log2Digits logBits (m * 2 ^ fixW / 2 ^ k) 0
        if 0 ≤ c then Fmt.fp32.round rm r false (c.toNat * 2 ^ logBits + d) (2 ^ logBits) true
        else Fmt.fp32.round rm r true ((-c).toNat * 2 ^ logBits - d - 1) (2 ^ logBits) true

/-- sin(πa) or cos(πa), correctly rounded (R110). The argument is reduced exactly to [0, 1/2]. -/
def fsin (cos : Bool) (rm : Rnd) (r : Nat) (x : Nat) : FRes :=
  match Fmt.fp32.decode x with
  | .nan s => { bits := Fmt.fp32.canonicalNan, flags := nvIf s }
  | .inf _ => { bits := Fmt.fp32.canonicalNan, flags := stNV }
  | .fin n m e =>
    if m == 0 then { bits := if cos then 0x3F800000 else Fmt.fp32.signBit n, flags := 0 }
    else
      let (p, q) := ratio m e
      -- t / q = |a| mod 2
      let t := p % (2 * q)
      -- sin(π(1-u)) = sin(πu) for t in [0,1); the sign flips in [1,2)
      let u := t % q
      let second := decide (t ≥ q)
      if cos then
        let neg := second != decide (2 * u > q)
        if u == 0 then { bits := Fmt.fp32.signBit second + 0x3F800000, flags := 0 }
        else if 2 * u == q then { bits := 0, flags := 0 }
        else
          let w := if 2 * u > q then q - u else u
          if 8 * w ≥ q then
            let z := q - 2 * w
            let a := z * (piFix * 2 ^ (fixW - 256)) / (2 * q)
            let y := (trigAux (a * a / 2 ^ fixW) 120 1 a false 0).toNat
            Fmt.fp32.round rm r neg (keepTop y 280) (2 ^ (fixW - 280)) true
          else
            let a := w * (piFix * 2 ^ (fixW - 256)) / q
            let y := (trigAux (a * a / 2 ^ fixW) 120 0 (2 ^ fixW) false 0).toNat
            Fmt.fp32.round rm r neg (if y ≥ 2 ^ fixW then 2 ^ 331 - 1 else keepTop y 181) (2 ^ 331) true
      else
        let neg := n != second
        if u == 0 then { bits := Fmt.fp32.signBit n, flags := 0 }
        else if 2 * u == q then { bits := Fmt.fp32.signBit neg + 0x3F800000, flags := 0 }
        else
          let w := if 2 * u > q then q - u else u
          if w * 2 ^ 40 < q then
            -- sin(πw) lies between πw(1 - 2^-77) and πw
            Fmt.fp32.round rm r neg (w * (piFix / 2 ^ 166) * 2 ^ 90 - w) (q * 2 ^ 180) true
          else if 4 * w ≤ q then
            let a := w * (piFix * 2 ^ (fixW - 256)) / q
            let y := (trigAux (a * a / 2 ^ fixW) 120 1 a false 0).toNat
            Fmt.fp32.round rm r neg (keepTop y 280) (2 ^ (fixW - 280)) true
          else
            let a := (q - 2 * w) * (piFix * 2 ^ (fixW - 256)) / (2 * q)
            let y := (trigAux (a * a / 2 ^ fixW) 120 0 (2 ^ fixW) false 0).toNat
            Fmt.fp32.round rm r neg (if y ≥ 2 ^ fixW then 2 ^ 331 - 1 else keepTop y 181) (2 ^ 331) true

/-- Rounds a finite value to an integer magnitude by the mode; also says whether it was exact (R111, R117). -/
def roundInt (rm : Rnd) (r : Nat) (n : Bool) (m : Nat) (e : Int) : Nat × Bool :=
  let (p, q) := ratio m e
  let k := p / q
  let rem := p % q
  (if roundsUp rm r n k rem q false then k + 1 else k, rem == 0)

/-- FRND (R111). -/
def frnd (rm : Rnd) (exact : Bool) (r : Nat) (x : Nat) : FRes :=
  match Fmt.fp32.decode x with
  | .nan s => { bits := Fmt.fp32.canonicalNan, flags := nvIf s }
  | .inf n => { bits := Fmt.fp32.infinity n, flags := 0 }
  | .fin n m e =>
    if m == 0 then { bits := Fmt.fp32.signBit n, flags := 0 }
    else
      let (k, same) := roundInt rm r n m e
      { bits := (Fmt.fp32.round .rtz 0 n k 1).bits, flags := if exact && !same then stNX else 0 }

/-- FCLASS (R105, Table 5-5). -/
def fclass (x : Nat) : Nat :=
  match Fmt.fp32.decode x with
  | .nan s => if s then 256 else 512
  | .inf n => if n then 1 else 128
  | .fin n m _ =>
    if m == 0 then if n then 8 else 16
    else if m < 2 ^ 23 then if n then 4 else 32
    else if n then 2 else 64

/-- Conversion between floating formats (R61, R118, R119). With `sat`, R62. Without it an infinite operand of a conversion to E4M3, for
which no rule states result or flags, gives 0x7F for either sign and no flag (DESIGN CHOICE, log 79). -/
def convert (src dst : Fmt) (rm : Rnd) (sat : Bool) (r : Nat) (x : Nat) : FRes :=
  match src.decode x with
  | .nan s => { bits := dst.canonicalNan, flags := nvIf s }
  | .inf n => if sat then { bits := dst.signBit n + dst.maxFinite, flags := 0 } else { bits := dst.infinity n, flags := 0 }
  | .fin n m e =>
    let (p, q) := ratio m e
    let y := dst.round rm r n p q
    if sat && y.flags &&& stOF != 0 then { bits := dst.signBit n + dst.maxFinite, flags := stOF ||| stNX } else y

/-- Integer to float (R117). -/
def fromInt (dst : Fmt) (rm : Rnd) (r : Nat) (v : Int) : FRes :=
  dst.round rm r (decide (v < 0)) v.natAbs 1

/-- Float to integer, clamped to [lo, hi] (R117). -/
def toInt (src : Fmt) (rm : Rnd) (r : Nat) (lo hi : Int) (x : Nat) : Int × Sticky :=
  match src.decode x with
  | .nan _ => (0, stNV)
  | .inf n => (if n then lo else hi, stNV)
  | .fin n m e =>
    let (k, same) := roundInt rm r n m e
    let v : Int := if n then -(k : Int) else k
    if v < lo then (lo, stNV) else if v > hi then (hi, stNV) else (v, if same then 0 else stNX)

/-! TW8 (R63 to R65). -/

/-- One term of a TW8 byte in units of 2^-6. -/
def tw8Term (neg : Bool) (e : Nat) : Int :=
  let t : Int := if e == 7 then 0 else 2 ^ (6 - e)
  if neg then -t else t

/-- n of a TW8 byte: the weight is n × 2^-6. -/
def tw8Decode (b : Nat) : Int :=
  tw8Term (b / 128 % 2 == 1) (b / 16 % 8) + tw8Term (b / 8 % 2 == 1) (b % 8)

/-- The order in which R65 prefers encodings: E1, S1, E2, S2. -/
def tw8Order : List Nat :=
  (List.range 256).map fun i => (i / 16 % 2) * 128 + (i / 32) * 16 + (i % 2) * 8 + (i / 2 % 8)

/-- Distance of the value `p / q` (signed) from n × 2^-6, times 64 q. -/
def tw8Dist (i : Int) (q : Nat) (b : Nat) : Nat := (i * 64 - tw8Decode b * q).natAbs

/-- TW8 encoding of a value (R65, R120). -/
def tw8Encode (v : FVal) : Nat × Sticky :=
  match v with
  | .nan _ => (0x08, stNV)
  | .inf n => (if n then 0x88 else 0x00, stNX)
  | .fin n m e =>
    if m == 0 then (0x08, 0)
    else
      let (p, q) := ratio m e
      let i : Int := if n then -(p : Int) else p
      let best := tw8Order.foldl (fun (acc : Nat × Nat) b => let d := tw8Dist i q b; if d < acc.2 then (b, d) else acc)
        (0x00, tw8Dist i q 0x00)
      (best.1, if best.2 == 0 then 0 else stNX)

/-- The E8M0 scale of SCQ (R121). -/
def scq (fmt : ScqFmt) (x : Nat) : Nat × Sticky :=
  let emax : Int := match fmt with
    | .e4m3 => 8
    | .e5m2 => 15
    | .tw8 => 1
  match Fmt.fp32.decode x with
  | .nan _ => (0xFF, stNV)
  | .inf _ => (0xFF, stNV)
  | .fin _ m e =>
    if m == 0 then (127, 0)
    else
      let v := e + m.log2 - emax + 127
      ((if v < 0 then 0 else if v > 254 then 254 else v).toNat, 0)

/-- A value times 2^k, exactly. -/
def FVal.scale (v : FVal) (k : Int) : FVal :=
  match v with
  | .fin n m e => .fin n m (e + k)
  | v => v

/-- SCDQ (R121): times or divided by the scale, rounded once. -/
def scdq (quot : Bool) (rm : Rnd) (r : Nat) (x e : Nat) : FRes :=
  if e == 255 then { bits := Fmt.fp32.canonicalNan, flags := stNV ||| snanFlags [Fmt.fp32.decode x] }
  else
    let v := Fmt.fp32.decode x
    let k : Int := if quot then 127 - e else e - 127
    Fmt.fp32.sum rm r [v] [v.scale k] false

/-- One step of the rounding LFSR (R55). -/
def lfsrStep (s : BitVec 16) : BitVec 16 :=
  let bit := (s.getLsbD 0 != s.getLsbD 2) != (s.getLsbD 3 != s.getLsbD 5)
  (s >>> 1) ||| (if bit then 0x8000 else 0)

end Sys2Proof.Machine
end

