-- ==== Sys2Proof/Machine/State.lean ====
section
/-! DEFINITION. The state of the X4 as plain data: memory, the dies and partitions with their registers, contexts, dataflow
tiles, islands, formes on their chases, the links and the frame release unit, and the reset state. Fields named `agenda`,
`site`, `clock`, `free` and `picks` are the model's own (logs 1, 2 and 23); every other field is state that the manual names. -/

namespace Sys2Proof.Machine

/-! ## Tokens -/

/-- What a token carries besides its value (R31): at most one of NULL, EOS and MARKER. -/
inductive Flag where
  | none
  | null
  | eos
  | marker
  deriving DecidableEq, Repr

/-- A token as a port sees it (Tables 2-1 and 2-2). A predicate holds P in bit 0. -/
structure Tok where
  flag : Flag := .none
  lmask : BitVec 2 := 3
  value : Word := 0
  deriving DecidableEq, Repr

/-- A token in an element queue: its route tag, the arrival that ages it (R39), and the 64-bit tag that a token waiting at a
ROUTE element carries (R135). -/
structure QTok where
  rt : BitVec 4
  tok : Tok
  age : Nat := 0
  tag : Tag := 0
  deriving DecidableEq, Repr

/-- A scale token (Table 2-3). -/
structure ScaleTok where
  rt : BitVec 4
  btag : BitVec 16
  scale : BitVec 8
  deriving DecidableEq, Repr

/-- What sends a token inside a forme (R37). Coordinates are chase-relative; `bay` is by * 16 + bx. An AG sends the words of a stream of slot
n as `ag bay n`, those of a pass as `ag bay (8 + n)`, and the completion of an SCLOSE of the element (x, y) as `closing`. -/
inductive Src where
  | elem (x y : Nat)
  | fifo (bay : Nat)
  | ag (bay slot : Nat)
  | closing (bay x y : Nat)
  | outside (n : Nat)
  deriving DecidableEq, Repr

/-- Where a pinned token goes (Table 4-2): an element port, a FIFO tile, an AG input, an island, a dataflow tile or a memory
port of the die. -/
inductive Dest where
  | none
  | elem (x y port : Nat)
  | tile (bay port : Nat)
  | ag (bay port : Nat)
  | island (i : Nat)
  | dftile (i : Nat)
  | mport (i : Nat)
  deriving DecidableEq, Repr

/-- What a link carries: a token of the operand or control network, or a scale token (R27). -/
inductive Wire where
  | tok (t : Tok)
  | scale (btag : BitVec 16) (e : BitVec 8)
  deriving DecidableEq, Repr

/-- A token that has left its producer and has not been taken by its consumer (R38). -/
structure LinkTok where
  src : Src
  dst : Dest
  rt : BitVec 4
  wire : Wire
  tag : Tag := 0
  deriving DecidableEq, Repr

/-- A token from outside the chase for the ROUTE element at (x, y), with its full tag (R135, R292). -/
structure BoundTok where
  x : Nat
  y : Nat
  tag : Tag
  tok : Tok
  deriving DecidableEq, Repr

/-! ## Pinned state -/

/-- Per-route-tag state of an element (Table 18-9). -/
structure RtState where
  rt : BitVec 4
  lfsr : BitVec 16
  block : BitVec 16 := 0
  value : Word := 0
  count : Word := 0
  index : Word := 0
  flags : BitVec 4 := 0
  deriving DecidableEq, Repr

/-- A REPEAT or SEQ stream that is being emitted (R129, Table 18-6). -/
structure Emit where
  rt : BitVec 4
  left : Nat
  next : Word
  step : Word
  eos : Bool
  deriving DecidableEq, Repr

/-- An element's state (Table 18-6): four queues, oldest first, the scale latch, FIRED, the running stream, the sticky bits
and the per-route-tag state that differs from its seed. -/
structure ElemState where
  x : Nat
  y : Nat
  q0 : List QTok := []
  q1 : List QTok := []
  q2 : List QTok := []
  q3 : List QTok := []
  scales : List ScaleTok := []
  fired : Bool := false
  emit : Option Emit := none
  sticky : Sticky := 0
  rts : List RtState := []
  deriving DecidableEq, Repr

/-- A FIFO tile (Table 10-6): the ring, oldest first, and the slot of the oldest token. -/
structure FifoState where
  bay : Nat
  cap : Nat
  outx : Nat
  outy : Nat
  outport : Nat
  head : Nat := 0
  ring : List QTok := []
  deriving DecidableEq, Repr

/-- One window of a WIN tile (Table 10-7), with the bytes it holds and the 128-byte lines that are dirty (R256). -/
structure WinState where
  bay : Nat
  w : Nat
  lsize : Nat
  valid : Bool := false
  head : Nat := 0
  tail : Nat := 0
  bytes : List Host.Cell := []
  dirty : List Nat := []
  deriving DecidableEq, Repr

/-- An entry of a CA slot's buffer (Table 8-5). -/
structure CaEntry where
  key : BitVec 40
  alpha : BitVec 16
  cr : BitVec 16
  cg : BitVec 16
  cb : BitVec 16
  deriving DecidableEq, Repr

/-- A CA slot (Table 8-5). -/
structure CaSlot where
  slot : Nat
  cr : Word := 0
  cg : Word := 0
  cb : Word := 0
  t : Word := 0x3F800000
  kc : BitVec 40 := 0
  late : BitVec 16 := 0
  drop : BitVec 16 := 0
  retired : Bool := false
  buf : List CaEntry := []
  deriving DecidableEq, Repr

/-- A CA tile: the slots that differ from the CCLR state, the watermark, the threshold exponent (R257) and the log with its NEXT and
OVF (R213). -/
structure CaState where
  bay : Nat
  thresh : Nat
  wmk : BitVec 40 := 0
  slots : List CaSlot := []
  log : VA := 0
  next : Nat := 0
  ovf : Bool := false
  deriving DecidableEq, Repr

/-- A plane descriptor of one tile (Table 10-16) with its current and next activity bitmaps, the PFLIP arm (R169, R173) and
the halo sites that PHALO filled (R172), keyed (edge * 16 + index) * 2^20 + position. -/
structure PlaneState where
  bay : Nat
  pid : Nat
  w : Nat
  h : Nat
  site : Nat
  rows : Nat
  row0 : Nat
  bw : Nat
  bh : Nat
  base : Nat
  count : Nat
  next : Nat
  cur : Nat := 0
  nxt : Nat := 0
  armed : Bool := false
  halo : List (Nat × Word) := []
  haloBack : List (Nat × Word) := []
  deriving DecidableEq, Repr

/-- The edge and activity settings of a slot (Table 10-14): KIND and C of edges N, E, S, W, the halo width, the check. -/
structure Edges where
  kinds : List (BitVec 2) := [0, 0, 0, 0]
  consts : List Word := [0, 0, 0, 0]
  hw : Nat := 0
  act : Bool := false
  deriving DecidableEq, Repr

/-- A running plane pass (R166, R167): its settings as they stood when it started, and the next word. -/
structure Pass where
  pid : Nat
  dx : Int
  dy : Int
  rt : BitVec 4
  consumer : Dest
  row : Nat := 0
  word : Nat := 0
  edges : Edges
  ox : Nat := 0
  oy : Nat := 0
  deriving DecidableEq, Repr

/-- A stream slot (Table 18-10). `eos` says that the stream's EOS has been sent (read) or taken (write); `sent` are
the bytes of the words that a read stream sent, the latest first, as far as they may still be on its arc, and `run` counts those since SOPEN or
SSEEK. -/
structure Slot where
  n : Nat
  opened : Bool := false
  write : Bool := false
  wport : Bool := false
  size : Size := .w32
  base : VA := 0
  len : Nat := 0
  pos : Nat := 0
  lo : Nat := 0
  hi : Nat := 0
  moved : Nat := 0
  wrote : Bool := false
  wroteNow : Bool := false
  eos : Bool := false
  sent : List Nat := []
  run : Nat := 0
  rt : BitVec 4 := 0
  consumer : Dest := .none
  ox : Nat := 0
  oy : Nat := 0
  pass : Option Pass := none
  edges : Edges := {}
  deriving DecidableEq, Repr

/-- A token queued at an AG input: a data word (`instr` absent), or a control token with the record that sent it and the
values of its other operands. -/
structure AgTok where
  x : Nat
  y : Nat
  rt : BitVec 4
  tok : Tok
  instr : Option Instr := none
  b : Word := 0
  c : Word := 0
  dstb : Dest := .none
  dstbRaw : BitVec 16 := 0xFFFF
  deriving DecidableEq, Repr

/-- An address generator (R162): eight slots, four input queues, and the bays to which a HANDOVER has its
write ports forward (R187). -/
structure AgState where
  bay : Nat
  slots : List Slot
  in0 : List AgTok := []
  in1 : List AgTok := []
  in2 : List AgTok := []
  in3 : List AgTok := []
  fwd2 : Option Nat := none
  fwd3 : Option Nat := none
  deriving DecidableEq, Repr

/-- A route-table entry (Table 6-3). -/
structure RouteEntry where
  valid : Bool := false
  tag : Tag := 0
  deriving DecidableEq, Repr

/-- A dirty range that waits for its round's commit (R165): object, LO, HI, and the element of the stream's SOPEN. -/
structure Deposit where
  obj : Nat
  lo : Nat
  hi : Nat
  x : Nat
  y : Nat
  deriving DecidableEq, Repr

/-- The state of a live forme that a round-start copy holds (Table 10-4). `tile` and `back` are the visible and the back
bytes of the BUF tiles, keyed bay * 2^19 + address; `written` lists the lines written in the round; `ends` the ROUNDENDs that have
taken their token, with its route tag; `deposits` the dirty ranges of streams closed in the round (R165). -/
structure Core where
  elems : List ElemState := []
  tile : List Host.Cell := []
  back : List Host.Cell := []
  written : List Nat := []
  fifos : List FifoState := []
  wins : List WinState := []
  cas : List CaState := []
  planes : List PlaneState := []
  ags : List AgState := []
  route : List RouteEntry := []
  links : List LinkTok := []
  ends : List (Nat × Nat × BitVec 4) := []
  deposits : List Deposit := []
  deriving DecidableEq, Repr

/-- What sent a pooled token: a record of an instance on the tile, or anything outside it. -/
inductive PSrc where
  | outside
  | inst (hdr : Nat) (tag : Tag)
  deriving DecidableEq, Repr

/-- A pooled token (Table 2-2). `again` says that it follows the first token of a REPEAT or SEQ stream, which it holds (R145). -/
structure PTok where
  tag : Tag
  port : BitVec 2
  node : BitVec 14
  hnd : Bool := false
  tok : Tok
  src : PSrc := .outside
  age : Nat := 0
  again : Option Tok := none
  deriving DecidableEq, Repr

/-- What a round-mode forme has staged (R185): a store, a record with its operands that acts at the commit, a frame release with its
descriptor and destinations (R193, R215), or what leaves the chase for a dataflow tile or an island, or the report of a token dropped at
an UNROUTE to a dataflow tile, none of which an agent may see before the commit (R354). -/
inductive StagedWork where
  | token (tile : Nat) (k : PTok)
  | stray (tile : Nat) (k : PTok)
  | word (island : Nat) (rt : BitVec 4) (w : Word)
  | store (va : VA) (data : List Byte)
  | act (i : Instr) (a b c : Word)
  | release (desc : Nat) (dsta dstb : BitVec 16)
  deriving DecidableEq, Repr

/-- A staged item with the place that orders it (R178): element y, x, route tag, firing order. -/
structure Staged where
  y : Nat
  x : Nat
  rt : BitVec 4
  n : Nat
  work : StagedWork
  deriving DecidableEq, Repr

/-- Where a delayed result goes: the destinations of a record of a committed galley, under its tag (R193). -/
structure Reply where
  tile : Nat
  node : Nat
  tag : Tag
  hnd : Bool
  dsta : BitVec 16
  dstb : BitVec 16
  deriving DecidableEq, Repr

/-- A pooled CRES, CCLR, CLOG or CADJ handed to a round-mode forme (R212). -/
structure Handed where
  instr : Instr
  a : Word
  b : Word
  bay : Nat
  reply : Reply
  deriving DecidableEq, Repr

/-- Memory that a round or an instance has accessed: bytes of an object, with the size and the kind that a record of the access names (R313,
Table 22-2). -/
structure Touch where
  obj : Nat
  off : Nat
  size : Nat
  acc : Nat
  kind : Nat
  deriving DecidableEq, Repr

/-- A running forme: its state, its round, the round-start copy, what the round has staged, the inputs it logged, the
actions handed to it (R250), and the memory that the round has accessed (object, offset, bytes; R313). `eosSeen` says that an element has
consumed an EOS since the sticky bits last folded (R58), `yielding` that a YIELD has fired in the round (R189);
`replaying` of the tokens at the boundary, the first ones, are logged tokens of a replay; `tileStaged` counts the bytes that TST has staged. -/
structure Run where
  core : Core := {}
  round : Nat := 0
  roundOpen : Bool := true
  start : Core := {}
  staging : List Staged := []
  inlog : List BoundTok := []
  handed : List Handed := []
  touched : List Touch := []
  eosSeen : Bool := false
  yielding : Bool := false
  voids : Nat := 0
  replaying : Nat := 0
  tileStaged : Nat := 0
  deriving DecidableEq, Repr

/-- A tile's role and parameters (Table 10-13). -/
structure TileRole where
  bay : Nat
  role : Nat
  cap : Nat := 1
  outx : Nat := 0
  outy : Nat := 0
  outport : Nat := 0
  per : Nat := 0
  wins : Nat := 0
  lsize : Nat := 0
  thresh : Nat := 8
  deriving DecidableEq, Repr

/-- A fill of a forme image (Table 10-15). -/
structure Fill where
  bay : Nat
  kind : Nat
  pid : Nat
  addr : Nat
  data : List Byte
  deriving DecidableEq, Repr

/-- The configuration planes of a chase and the parts of the image kept with them (R89, R243, R246). `routing` are the bays that each arc
passes, producer to consumer (Table 4-12). `saved` and `savedHeld` are the
state and the boundary tokens of a context image (R325). -/
structure FormeCfg where
  w : Nat
  h : Nat
  stream : Bool
  fseed : BitVec 16
  logobj : Nat := 0
  job : Option Nat := none
  objs : List Nat := []
  ldbay : Nat := 0
  ldaddr : Nat := 0
  ldwords : Nat := 0
  ladder : List (List Word) := []
  routing : List (List Nat) := []
  recs : List (Nat × Nat × BitVec 96) := []
  roles : List TileRole := []
  slots : List (Nat × List Edges) := []
  fills : List Fill := []
  saved : Option Run := none
  savedHeld : List BoundTok := []
  deriving DecidableEq, Repr, Inhabited

/-- FREE VALUE (log 22). What the records of a stock forme of the configuration ROM are: the manual gives the chase, the mode and what the
forme does, not its image (R263). Keyed by the stock index. -/
opaque Config.stockForme : Nat → FormeCfg

/-- FREE VALUE (log 22). The fields of the ROUTE at element (0,0) of a stock forme (R263). -/
opaque Config.stockRoute : Nat → BitVec 88

/-- A link-token record (Table 18-7). -/
structure LinkRec where
  tile : Bool
  x : Nat
  y : Nat
  arc : Nat
  port : Nat
  tok : QTok
  deriving DecidableEq, Repr

/-- The progress of the marker protocol on a chase (R319 to R322): elements that have saved and that have passed their markers on, the
ports and FIFO arcs that have carried a marker, and the link tokens recorded. `roundHeld` says that the first save found the open round
without all its ROUNDEND tokens (R328). -/
structure Mark where
  reply : Option Reply
  saved : List (Nat × Nat) := []
  passed : List (Nat × Nat) := []
  ports : List (Nat × Nat × Nat) := []
  arcs : List (Nat × Nat) := []
  linkToks : List LinkRec := []
  roundHeld : Bool := false
  deriving DecidableEq, Repr

/-- Where a forme is (R244 to R246, R322, R324, R354): in standing planes, live, live and waiting for its first cycle, halted
by a void, halted by a marker, swapped out (with its shadow slot, or in T0), killed. -/
inductive FormeStatus where
  | standing
  | live
  | entering
  | voided
  | marked
  | saved
  | swapped (slot : Option Nat)
  | killed
  deriving DecidableEq, Repr

/-- How far an FSWAP of a standing forme has come (R245). -/
inductive SwapPhase where
  | idle
  | waiting
  | reported
  deriving DecidableEq, Repr

/-- A forme on a chase. `held` are the tokens held at the boundary of the chase (R245). -/
structure Forme where
  handle : Nat
  part : Nat
  ctx : Nat
  die : Nat
  bx : Nat
  oy : Nat
  cfg : FormeCfg
  status : FormeStatus := .standing
  run : Run := {}
  swap : SwapPhase := .idle
  reply : Option Reply := none
  held : List BoundTok := []
  mark : Option Mark := none
  door : Option Nat := none
  since : Nat := 0
  yielded : Bool := false
  deriving DecidableEq, Repr

/-! ## Pooled state -/

/-- A FLOAD that waits for a swap of its chase or for bays that are not ready (R90, R376): its image, read and checked, and where
it is to go. -/
structure LoadWait where
  part : Nat
  ctx : Nat
  cfg : FormeCfg
  placement : Word
  reply : Option Reply
  deriving DecidableEq, Repr

/-- A matching-store entry (R42, R43): the tokens held under one node and tag, or the counter that a node keeps there. `slot` is the
place of a spilled entry in its tile's spill pages (R312). -/
structure MEntry where
  node : Nat
  tag : Tag
  p0 : Option Tok := none
  p1 : Option Tok := none
  p2 : Option Tok := none
  p3 : Option Tok := none
  age : Nat := 0
  hnd : Bool := false
  spilled : Bool := false
  slot : Nat := 0
  state : Bool := false
  value : Word := 0
  count : Word := 0
  flags : BitVec 4 := 0
  deriving DecidableEq, Repr

/-- The issue of an instance (R46): the step at which it was made, and the mode settings of the context as they stood then (R25). -/
structure Issue where
  at_ : Nat
  ordfast : Bool
  spperm : Bool
  deriving DecidableEq, Repr

/-- A ready instance (R42, R46). `issue` is there once it has issued: it then fires, or waits. `gathered` marks an issued one that has not
been tried yet; `parked` one whose condition did not hold when it was last tried. -/
structure Inst where
  node : Nat
  tag : Tag
  p0 : Option Tok := none
  p1 : Option Tok := none
  p2 : Option Tok := none
  p3 : Option Tok := none
  age : Nat := 0
  hnd : Bool := false
  issue : Option Issue := none
  gathered : Bool := false
  parked : Bool := false
  deriving DecidableEq, Repr

/-- An output token that a galley instance holds until its commit (R144): the record, A before B, and the token. -/
structure HeldOut where
  node : Nat
  second : Bool
  tok : PTok
  deriving DecidableEq, Repr

/-- A record of a galley that acts at commit, with its operands (R144, R152, R193). A memory record also keeps the address it formed
at issue and its size in bytes. -/
structure Act where
  node : Nat
  lsid : Nat
  instr : Instr
  a : Word := 0
  b : Word := 0
  c : Word := 0
  obj : Nat := 0
  off : Int := 0
  size : Nat := 0
  hnd : Bool := false
  deriving DecidableEq, Repr

/-- A word that a load of an open galley has read: when, the load's LSID, the aligned word, its bytes in memory, and the uncommitted stores
of the context with the sequence numbers of their galleys (R268, R269). `fixed` marks the word that an IMM atomic found. -/
structure Seen where
  time : Nat
  lsid : Nat
  obj : Nat
  off : Nat
  mem : List Byte
  stores : List (Nat × Act)
  fixed : Bool := false
  deriving DecidableEq, Repr

/-- A take or reservation of a work queue by an open galley (R218). -/
structure QHold where
  va : VA
  take : Bool
  start : Nat
  count : Nat
  deriving DecidableEq, Repr

/-- A galley instance (R142, R144, R355). `base` holds the counters that its nodes kept under its tag when it opened, `issued` says
that it has issued a record, `latch` is the context's read latch as its first SYSRD found it (R339), `past` are the nodes that have fired (R153), `seen` the words that its loads have read, `last` is when it last accepted a
token or issued (R360), `heard` when it last accepted one from outside itself (R272), `fell` the sequence number of the
instance whose drop took it (R355), `drained` the sticky bits of the island that its MDRAIN was to fold (R58). -/
structure Galley where
  hdr : Nat
  tag : Tag
  seq : Nat
  hnd : Bool := false
  stseen : BitVec 32 := 0
  kw : Nat := 0
  ng : Nat := 0
  out : Nat := 0
  acts : List Act := []
  outs : List HeldOut := []
  inputs : List PTok := []
  sticky : Sticky := 0
  dropped : Bool := false
  fell : Nat := 0
  reserved : List Nat := []
  loads : List Touch := []
  past : List Nat := []
  seen : List Seen := []
  holds : List QHold := []
  issued : Bool := false
  base : List MEntry := []
  latch : Option (Option (Nat × Word)) := none
  last : Nat := 0
  heard : Nat := 0
  drained : Sticky := 0
  deriving DecidableEq, Repr

/-- An overlay in node memory (R222): base node, records, the galley headers' offsets, the door that loaded it. -/
structure Overlay where
  base : Nat
  len : Nat
  door : Option Nat := none
  deriving DecidableEq, Repr

/-- The pooled work of a context saved by a pre-emption (R326). -/
structure SavedPool where
  ctx : Nat
  entries : List MEntry
  ready : List Inst
  toks : List PTok
  since : Nat := 0
  deriving DecidableEq, Repr

/-- A dataflow tile: node memory, matching store, ready queue, links in, held tokens, galley instances, and its registers
(R42 to R48, R70, R142, R225, R300). `redone` names, once for each time, the instances dropped and reopened without a record since
their last commit (R357). -/
structure DTile where
  i : Nat
  nodes : List (Nat × BitVec 96) := []
  overlays : List Overlay := []
  inbox : List PTok := []
  held : List PTok := []
  entries : List MEntry := []
  ready : List Inst := []
  galleys : List Galley := []
  seqs : List (Nat × Nat) := []
  redone : List (Nat × Tag) := []
  hwm : Nat := 3072
  lwm : Nat := 2560
  throttle : Bool := false
  instances : Nat := 0
  issues : Nat := 0
  perf : List Nat := [0, 0, 0, 0, 0]
  favoured : Option Nat := none
  savedPools : List SavedPool := []
  deriving DecidableEq, Repr

/-! ## Contexts -/

/-- STATE of a context (Table 18-2). -/
inductive CtxState where
  | free
  | runnable
  | waiting
  | halted
  | faulted
  | swapped
  deriving DecidableEq, Repr

/-- The work that a fault record of a context stopped (R354 to R356, R359). -/
inductive FaultWork where
  | round (h : Nat)
  | galley (tile hdr : Nat) (tag : Tag) (seq : Nat)
  | killed (h : Nat)
  | operation
  | trapped (tile : Nat) (tag : Tag)
  deriving DecidableEq, Repr

/-- A context: its state block (Table 18-2, R358), k0 to k63, the latches of R339, and what the device keeps for its faults:
the work of the posted records from HEAD on, and of those that could not be posted. -/
structure Ctx where
  id : Nat
  part : Nat
  state : CtxState := .runnable
  prio : BitVec 3 := 0
  sys : Bool := false
  dbg : Bool := false
  creator : BitVec 12 := 0
  srseed : BitVec 16 := 1
  ordfast : Bool := false
  spperm : Bool := false
  status : Sticky := 0
  smpb : VA := 0
  fqb : VA := 0
  eqb : VA := 0
  kregs : List (Nat × BitVec 64) := []
  fhnd : BitVec 64 := 0
  writeLatch : Option (Nat × Word) := none
  readLatch : Option (Nat × Word) := none
  before : CtxState := .runnable
  work : List FaultWork := []
  unposted : List FaultWork := []
  trapHold : Bool := false
  noHandler : Bool := false
  deriving DecidableEq, Repr

/-- A context waiting in WAITW on a word (R183). -/
structure Waiter where
  part : Nat
  va : VA
  ctx : Nat
  tile : Nat
  node : Nat
  tag : Tag
  woken : Bool := false
  deriving DecidableEq, Repr

/-- The operations that the home of a barrier word has performed on it in its present cycle (R184, R190): where the word lies, the word before
them, the drops and the arrivals, and the step of the last. The model's own (log 94). -/
structure BarCycle where
  addr : Nat
  word : Nat
  drops : Nat := 0
  arrivals : Nat := 0
  clock : Nat := 0
  deriving DecidableEq, Repr

/-- A record that waits at a barrier, a reduction line, a copy or a lock is simply not issued; a QUIESCE that waits keeps its
start here (R186). -/
structure QuiesceWait where
  tile : Nat
  node : Nat
  tag : Tag
  handle : Nat
  deriving DecidableEq, Repr

/-! ## Islands -/

/-- A packet in the staging buffer (Table 8-1). -/
structure Packet where
  kind : Nat
  task : Nat
  words : List Word
  deriving DecidableEq, Repr

/-- An MTASK binding (R196). -/
structure Bind where
  task : Nat
  pdest : BitVec 16
  ctx : Nat
  tag : Tag
  seq : Nat := 0
  deriving DecidableEq, Repr

/-- The record of an island at the first issue of a galley, with its sticky bits (R58) and the packets that the galley has consumed
(R199). -/
structure IslandRecord where
  hdr : Nat
  tag : Tag
  acc : List (Nat × Word)
  scales : List (Nat × BitVec 8)
  packets : List Packet
  sticky : Sticky := 0
  deriving DecidableEq, Repr

/-- A systolic island (R195 to R203). The accumulator (i, j) has key i * 128 + j. `inq` are tokens of packets in arrival. -/
structure Island where
  i : Nat
  inq : List (BitVec 4 × Word) := []
  packets : List Packet := []
  binds : List Bind := []
  acc : List (Nat × Word) := []
  scales : List (Nat × BitVec 8) := []
  sticky : Sticky := 0
  holder : Nat := 0
  done : Nat := 0
  records : List IslandRecord := []
  deriving DecidableEq, Repr

/-! ## Dies -/

/-- A copy of the copy engine (R217); `hnd` says that a fault-handler instance started it (R358). `status`: 0 running, 1 done, otherwise a failure with the class code plus 2. -/
structure CopyJob where
  id : Nat
  src : VA
  dst : VA
  len : Nat
  cls : Nat
  ctx : Nat
  part : Nat
  status : Nat := 0
  hnd : Bool := false
  deriving DecidableEq, Repr

/-- States of a lease (R219). -/
inductive LeaseState where
  | none
  | offered
  | taken
  | reclaiming
  | quarantined
  | closed
  deriving DecidableEq, Repr

/-- A lease that this package lends (R362, R366, R368). `page` is its first page in T0 of the die, `order` ranks offers and takes by age,
and `closedAt` is the step of its withdrawal. -/
structure Lent where
  idx : Nat
  state : LeaseState
  ctx : Nat
  part : Nat
  va : VA
  page : Nat
  gran : Nat
  term : Nat
  rclass : Nat
  wt : Bool
  rbw : Nat
  zeroed : Bool := false
  heldTake : Option (Nat × LeasePlace) := none
  borrower : Nat := 0
  fallback : LeasePlace := ⟨0, 0, 0⟩
  dirty : List Nat := []
  pushed : Bool := false
  order : Nat := 0
  closedAt : Nat := 0
  deriving DecidableEq, Repr

/-- A lease that this package borrows (R364, R369, R372). `asked`: a RECLAIM waits for a change of the target extent (R374). -/
structure Borrow where
  lender : Nat
  lease : Nat
  state : LeaseState
  ctx : Nat
  part : Nat
  target : VA
  fallback : VA
  grant : LeaseGrant := ⟨0, false, 0, 0⟩
  asked : Bool := false
  reply : Option Reply := none
  deriving DecidableEq, Repr

/-- A lease message (Table 23-2). -/
inductive LeaseMsg where
  | take (lender lease borrower : Nat) (fallback : LeasePlace)
  | takeAck (borrower lease : Nat) (grant : LeaseGrant)
  | takeNak (borrower lease reason : Nat)
  | reclaim (borrower lease : Nat)
  | stopped (lender lease : Nat)
  | push (place : LeasePlace) (offset : Nat) (data : List Byte)
  | done (borrower lease : Nat)
  | demoted (lender lease : Nat)
  | lost (borrower lease : Nat) (pushed : Bool)
  deriving DecidableEq, Repr

/-- A lease message that has left: the package it goes to and the Fijan port it left by (R344). -/
structure Outgoing where
  msg : LeaseMsg
  dest : Nat
  port : Nat
  deriving DecidableEq, Repr

/-- A translation held by a memory port (0 to 63) or, from 64 on, by a dataflow tile's range cache (R309, R310). `used` orders the
entries of one translator by their last use. -/
structure RangeEntry where
  xl : Nat
  part : Nat
  obj : Nat
  first : Nat
  pages : Nat
  tier : Nat
  loc : Nat
  pfn : Nat
  len : Nat
  perms : BitVec 4
  gen : Nat
  used : Nat := 0
  deriving DecidableEq, Repr

/-- One die: DIE_SPLIT, the lease unit with the messages it has sent (R367), the copy engine, its translations and its
fenced bays. -/
structure Die where
  i : Nat
  split : BitVec 2 := 0
  splitRefused : Bool := false
  demand : Nat := 0
  qtime : Nat := 1000
  lent : List Lent := []
  borrowed : List Borrow := []
  outbox : List Outgoing := []
  copies : List CopyJob := []
  ranges : List RangeEntry := []
  fences : List Nat := []
  deriving DecidableEq, Repr

/-! ## Partitions -/

/-- STATE of a door (Table 16-1). -/
inductive DoorState where
  | unbound
  | absent
  | loading
  | resident
  | failed
  deriving DecidableEq, Repr

/-- A door entry (Table 16-1), the tokens it holds while it loads, and an entry write that waits for the load (R290). -/
structure Door where
  d : Nat
  image : VA := 0
  ctx : BitVec 12 := 0
  forme : Bool := false
  nrec : Nat := 0
  base : Nat := 0
  tile : Nat := 0
  state : DoorState := .unbound
  reason : Nat := 0
  held : List PTok := []
  pending : Option (BitVec 128) := none
  deriving DecidableEq, Repr

/-- A job-table entry (Table 16-4) with the DEGRADE request that waits for a round commit (R220); `owed` are the formes of the job that
have yet to take the parameter set of a level that changed at another's commit (R220, R303). -/
structure Job where
  j : Nat
  sec : Nat := 0
  ns : Nat := 0
  guardUs : Nat := 0
  nlevm1 : Nat := 0
  level : Nat := 0
  bestEffort : Bool := false
  valid : Bool := false
  drops : Nat := 0
  total : Nat := 0
  done : Nat := 0
  start : Nat := 0
  request : Option Nat := none
  owed : List Nat := []
  deriving DecidableEq, Repr

/-- An entry of the queue table (R295) with its launch count (R296). Its INFL lies in the descriptor. -/
structure QueueEntry where
  q : Nat
  va : VA
  launches : Nat := 0
  deriving DecidableEq, Repr

/-- What the home of a work queue keeps beside its descriptor (R218, R294): returned takes that a QTAKE will take again, freed and void
records ahead of FREED, the reservations that CMTD has not passed with whether each is committed, the stamp of each committed reservation
that is not all freed (start, count, stamp), and the returns that wait while the descriptor stalls. -/
structure QueueHome where
  va : VA
  part : Nat
  returned : List (Nat × Nat) := []
  freed : List (Nat × Nat) := []
  voids : List (Nat × Nat) := []
  open_ : List (Nat × Nat × Bool) := []
  stamps : List (Nat × Nat × Nat) := []
  late : List QHold := []
  deriving DecidableEq, Repr

/-- STATE of EXT_CHG (Table 17-5). -/
inductive ExtState where
  | idle
  | busy
  | held
  | refused
  deriving DecidableEq, Repr

/-- An extent change that runs (R313): the extent index, the object, and whether it is held. -/
structure ExtChange where
  idx : Nat
  obj : Nat
  held : Bool := false
  deriving DecidableEq, Repr

/-- One partition: its registers, doors, queue table, job table, work-queue homes and the BAR0 latches of its window. -/
structure Part where
  p : Nat
  stgsz : Nat := 64
  qbound : Nat := 65536
  ageb : Nat := 1048576
  slice : Nat := 330000
  otpfn : Nat := 0
  otlen : Nat := 0
  sppfn : Nat := 0
  sppg : Nat := 0
  extState : ExtState := .idle
  extReason : Nat := 0
  extIdx : BitVec 16 := 0
  extObj : BitVec 24 := 0
  change : Option ExtChange := none
  hqlost : Nat := 0
  faild : Nat := 0
  ovrun : Nat := 0
  malf : Nat := 0
  hqb : VA := 0
  ctxSel : BitVec 12 := 0
  doors : List Door := []
  queues : List QueueEntry := []
  jobs : List Job := []
  homes : List QueueHome := []
  barWrite : Option (Nat × Word) := none
  barRead : Option (Nat × Word) := none
  wide : List (Nat × BitVec 64) := []
  deriving DecidableEq, Repr

/-! ## The package -/

/-- STATE of the frame release unit (Table 21-7). -/
inductive FruState where
  | freeRun
  | acquiring
  | locked
  | holdover
  deriving DecidableEq, Repr

/-- A pending release (R215, R349). -/
structure Release where
  slot : Nat
  ctx : Nat
  buf : VA
  size : Nat
  sec : Nat
  ns : Nat
  chan : BitVec 8
  deriving DecidableEq, Repr

/-- The frame release unit (R348, R349). `tod` is absent until software has written FRU_TOD since the last edge. -/
structure Fru where
  sec : Nat := 0
  ns : Nat := 0
  tod : BitVec 48 := 0
  todWritten : Bool := false
  nowns : Nat := 0
  offset : BitVec 32 := 0
  state : FruState := .freeRun
  good : Nat := 0
  pend : List Release := []
  pulses : List (Nat × Nat) := []
  deriving DecidableEq, Repr

/-- A link (R345): 0 to 5 die-to-die, 16 to 31 the Fijan ports, 32 to 35 the CXL ports; `n` is its index less 0x3000; `recent` are
the times of its last retrains. -/
structure LinkState where
  n : Nat
  up : Bool := false
  retraining : Bool := false
  retrains : Nat := 0
  recent : List Nat := []
  peer : BitVec 10 := 0
  deriving DecidableEq, Repr

/-- FWST (Table 24-3). -/
inductive FwState where
  | wait
  | check
  | run
  | rejected
  deriving DecidableEq, Repr

/-- The record position that `exec` issues: none (an event), an element of a forme, or an instance on a dataflow tile. -/
inductive Site where
  | none
  | elem (h x y : Nat)
  | inst (tile node : Nat) (tag : Tag)
  deriving DecidableEq, Repr

/-- An item of the agenda: a step of the device, host or links, or the firing of the record at a site. -/
inductive Action where
  | event (i : Instr)
  | fire (at_ : Site)
  deriving DecidableEq, Repr

/-- The machine. `picks` are the model's own: choices among allowed values that the manual leaves to the part (log 23). -/
structure State where
  clock : Nat
  agenda : List Action
  site : Site
  free : Nat
  picks : List Nat
  mem : List Host.Cell
  dies : List Die
  parts : List Part
  ctxs : List Ctx
  tiles : List DTile
  islands : List Island
  formes : List Forme
  loads : List LoadWait
  waiters : List Waiter
  bar : List BarCycle
  quiesces : List QuiesceWait
  fru : Fru
  links : List LinkState
  fijId : BitVec 10
  routes : List (Nat × BitVec 64)
  forwarded : List (Flit × Nat)
  readyBays : BitVec 64
  readyUnits : List (Nat × BitVec 2)
  pmode : BitVec 3
  clocks : List Nat
  fwst : FwState
  cecnt : Nat
  msix : List Nat
  deriving DecidableEq, Repr

/-- Why a step stops the model. Both are about a record that load checks never let reach an issue point (R81, R88), so no run
of the part reaches them. Safe: the model stops where the part has no behaviour. -/
inductive Fault where
  /-- raised by step: the site named by the agenda holds no record. Safe. -/
  | noRecord
  /-- raised by step: the bits at the site are no legal record of their placement (R88). Safe. -/
  | illegalRecord
  deriving DecidableEq, Repr

/-- Why the model gives an instruction no meaning. -/
inductive Refusal where
  /-- raised by exec for an instruction that has no meaning yet. Safe: nothing is claimed of it. -/
  | notModelled (mnemonic : String)
  deriving DecidableEq, Repr

/-- Memory of the part: address and byte pairs, addresses strictly rising, no entry equal to what an unlisted address reads
as (zero, log 3). -/
abbrev Memory := List Host.Cell

/-- The canonical form of a memory. -/
def Memory.wf : Memory → Bool
  | [] => true
  | [c] => c.2 != 0
  | c :: d :: m => c.2 != 0 && decide (c.1 < d.1) && Memory.wf (d :: m)

/-- The links of the package: die-to-die, Fijan and CXL. Firmware sets their peers (R8; log 4). -/
def State.resetLinks : List LinkState :=
  (List.range 6).map (fun l => { n := l }) ++ (List.range 16).map (fun p => { n := 16 + p }) ++ (List.range 4).map (fun d => { n := 32 + d })

/-- The machine right after power-up reset (R8, R377): no function ready, no context, nothing loaded. Logs 1 to 6 name the
values that the manual does not give. -/
def State.reset : State :=
  { clock := 0
    agenda := []
    site := .none
    free := 0
    picks := []
    mem := []
    dies := [{ i := 0 }, { i := 1 }, { i := 2 }, { i := 3 }]
    parts := (List.range 16).map fun p => { p := p }
    ctxs := []
    tiles := []
    islands := []
    formes := []
    loads := []
    waiters := []
    bar := []
    quiesces := []
    fru := {}
    links := State.resetLinks
    fijId := 0
    routes := []
    forwarded := []
    readyBays := 0
    readyUnits := []
    pmode := 0
    clocks := [3300, 3300]
    fwst := .wait
    cecnt := 0
    msix := [] }

end Sys2Proof.Machine
end

