-- ==== Sys2Proof/Machine/Mem.lean ====
section
/-! DEFINITION. Byte memory in canonical form (R5, log 3), little-endian numbers, bit fields, and the list updates that every
other file uses. -/

namespace Sys2Proof.Machine

/-- `f` with `g` applied to each element that satisfies `p`. -/
def modBy {α : Type} (p : α → Bool) (g : α → α) (l : List α) : List α := l.map fun a => if p a then g a else a

/-- Replace the first element that satisfies `p` by `a`, or append `a`. -/
def putBy {α : Type} (p : α → Bool) (a : α) : List α → List α
  | [] => [a]
  | b :: l => if p b then a :: l else b :: putBy p a l

/-- The value under a key. -/
def lookup {α : Type} (k : Nat) : List (Nat × α) → Option α
  | [] => none
  | (j, a) :: l => if j = k then some a else lookup k l

/-- Set the value under a key. -/
def assign {α : Type} (k : Nat) (a : α) (l : List (Nat × α)) : List (Nat × α) := putBy (fun e => e.1 == k) (k, a) l

/-- Insert behind every element that is not greater (a stable insertion). -/
def insertBy {α : Type} (lt : α → α → Bool) (a : α) : List α → List α
  | [] => [a]
  | b :: l => if lt a b then a :: b :: l else b :: insertBy lt a l

/-- A stable sort. -/
def sortBy {α : Type} (lt : α → α → Bool) (l : List α) : List α := l.foldl (fun acc a => insertBy lt a acc) []

/-- The first least element. -/
def leastBy {α : Type} (lt : α → α → Bool) : List α → Option α
  | [] => none
  | a :: l => some (l.foldl (fun best b => if lt b best then b else best) a)

/-- Lexicographic order of key lists. -/
def keyLt : List Nat → List Nat → Bool
  | a :: l, b :: m => decide (a < b) || (a == b && keyLt l m)
  | [], _ :: _ => true
  | _, [] => false

/-- Thread a state through a list; none as soon as one step has to wait. -/
def foldOpt {α σ : Type} (f : σ → α → Option σ) : σ → List α → Option σ
  | s, [] => some s
  | s, a :: l => match f s a with
    | some t => foldOpt f t l
    | none => none

/-- Bits [lo+w-1:lo]. -/
def bits (lo w n : Nat) : Nat := n / 2 ^ lo % 2 ^ w

/-- One bit as a Bool. -/
def bit (k n : Nat) : Bool := n / 2 ^ k % 2 == 1

/-- A Bool as a bit in place `k`. -/
def atBit (k : Nat) (b : Bool) : Nat := b.toNat * 2 ^ k

/-- Bits [lo+w-1:lo] of `n` replaced by `v`. -/
def setBits (lo w n v : Nat) : Nat := n % 2 ^ lo + v % 2 ^ w * 2 ^ lo + n / 2 ^ (lo + w) * 2 ^ (lo + w)

/-- Addition that stops at `m`. -/
def satAdd (m a b : Nat) : Nat := min m (a + b)

/-- The number that bytes hold, lowest address first (R5). -/
def leNat : List Byte → Nat
  | [] => 0
  | b :: l => b.toNat + 256 * leNat l

/-- The `k` bytes of a number, lowest address first (R5). -/
def leBytes : Nat → Nat → List Byte
  | 0, _ => []
  | k + 1, n => BitVec.ofNat 8 n :: leBytes k (n / 256)

/-- The byte at an address: zero where none is listed (log 3). -/
def Memory.read : Memory → Nat → Byte
  | [], _ => 0
  | c :: m, a => if c.1 = a then c.2 else if a < c.1 then 0 else Memory.read m a

/-- Write one byte, keeping the canonical form. -/
def Memory.write : Memory → Nat → Byte → Memory
  | [], a, b => if b = 0 then [] else [(a, b)]
  | c :: m, a, b =>
    if a < c.1 then (if b = 0 then c :: m else (a, b) :: c :: m)
    else if a = c.1 then (if b = 0 then m else (a, b) :: m)
    else c :: Memory.write m a b

/-- Read `n` bytes upward from an address. -/
def Memory.readN (m : Memory) (a : Nat) : Nat → List Byte
  | 0 => []
  | n + 1 => m.read a :: Memory.readN m (a + 1) n

/-- Write bytes upward from an address. -/
def Memory.writeN (m : Memory) (a : Nat) : List Byte → Memory
  | [] => m
  | b :: l => Memory.writeN (m.write a b) (a + 1) l

/-- Clear the bytes of a range. -/
def Memory.clear (m : Memory) (a n : Nat) : Memory := m.filter fun c => decide (c.1 < a) || decide (a + n ≤ c.1)

/-- The listed bytes of a range, with their offsets in it. -/
def Memory.cells (m : Memory) (a n : Nat) : List Host.Cell :=
  (m.filter fun c => decide (a ≤ c.1) && decide (c.1 < a + n)).map fun c => (c.1 - a, c.2)

/-- Write cells at their offsets from an address. -/
def Memory.putCells (m : Memory) (a : Nat) : List Host.Cell → Memory
  | [] => m
  | c :: l => Memory.putCells (m.write (a + c.1) c.2) a l

end Sys2Proof.Machine
end

