-- ==== Sys2Proof/Machine/Ops.lean ====
section
/-! DEFINITION. The named operations over State that every meaning is built from: the homes of the parts of State, numbering of
units (R77, R317), translation with its checks in order (R150, R306 to R308), the report queues (R341, R342), and taking a fault
with what it stops (R351 to R361). A function that answers `Option State` answers none where the step has to wait: nothing of
it happens then. -/

namespace Sys2Proof.Machine

/-- The outcome of a step. -/
abbrev Out := Host.Outcome State Fault Refusal

/-- The next state of a step that either happens or has to wait with nothing changed. -/
def settle (s : State) (r : Option State) : Out := .next (r.getD s)

/-! ## Homes of the parts of State -/

def State.die? (s : State) (d : Nat) : Option Die := s.dies.find? fun a => a.i == d
def State.setDie (s : State) (d : Die) : State := { s with dies := putBy (fun a => a.i == d.i) d s.dies }
def State.part? (s : State) (p : Nat) : Option Part := s.parts.find? fun a => a.p == p
def State.setPart (s : State) (p : Part) : State := { s with parts := putBy (fun a => a.p == p.p) p s.parts }
def State.ctx? (s : State) (c : Nat) : Option Ctx := s.ctxs.find? fun a => a.id == c
def State.setCtx (s : State) (c : Ctx) : State := { s with ctxs := putBy (fun a => a.id == c.id) c s.ctxs }
/-- Dataflow tile `t` = die × 32 + die index (R77); a tile that nothing has touched is in its reset state. -/
def State.tile (s : State) (t : Nat) : DTile := (s.tiles.find? fun a => a.i == t).getD { i := t }
/-- Counters that open instances found and that have been freed since: a drop of the instance gives each back (R355), so that its place
stays in use until the instance commits (DESIGN CHOICE, log 97). -/
def DTile.owed (d : DTile) : List MEntry :=
  (d.galleys.filter fun g => !g.dropped).flatMap fun g =>
    g.base.filter fun b => !(d.entries.any fun e => e.state && e.node == b.node && e.tag == b.tag)
/-- Entries in use in the matching store itself (R47). Held tokens are kept apart and take no entry (DESIGN CHOICE, log 98). -/
def DTile.occ (d : DTile) : Nat := ((d.entries ++ d.owed).filter fun e => !e.spilled).length
/-- The low-water mark in force: HWM − 1 where LWM is not below HWM (R44). -/
def DTile.low (d : DTile) : Nat := if d.hwm ≤ d.lwm then d.hwm - 1 else d.lwm
/-- THROTTLE by the marks: set from HWM on, cleared at the low-water mark or below, else as it was (R44). -/
def DTile.marks (d : DTile) : DTile :=
  { d with throttle := if d.hwm ≤ d.occ then true else if d.occ ≤ d.low then false else d.throttle }
/-- Favour ends when the favoured context has no held token left (R300). -/
def DTile.spent (d : DTile) : DTile :=
  match d.favoured with
  | some c => if d.held.any fun k => k.tag.toNat / 2 ^ 52 == c then d else { d with favoured := none }
  | none => d
def State.setTile (s : State) (t : DTile) : State := { s with tiles := putBy (fun a => a.i == t.i) t.marks s.tiles }
/-- Island `i` = die × 32 + die index (R77). -/
def State.island (s : State) (i : Nat) : Island := (s.islands.find? fun a => a.i == i).getD { i := i }
def State.setIsland (s : State) (i : Island) : State := { s with islands := putBy (fun a => a.i == i.i) i s.islands }
def State.forme? (s : State) (h : Nat) : Option Forme := s.formes.find? fun a => a.handle == h
def State.setForme (s : State) (f : Forme) : State := { s with formes := putBy (fun a => a.handle == f.handle) f s.formes }
def State.dropForme (s : State) (h : Nat) : State := { s with formes := s.formes.filter fun a => a.handle != h }

/-- Draw a free value (log 2). -/
def State.draw (s : State) : Word × State := (Config.freeValue s.free, { s with free := s.free + 1 })

/-- Take a choice among `n` allowed values, 0 where none is given (log 23). -/
def State.pick (s : State) (n : Nat) : Nat × State := (s.picks.headD 0 % n, { s with picks := s.picks.tail })

/-! ## Numbering -/

/-- The partition, within its die, that holds quadrant `q` (R77, R317). -/
def quadPart (split : BitVec 2) (q : Nat) : Nat :=
  match split.toNat with
  | 0 => 0
  | 1 => q / 2
  | _ => q

/-- The quadrant of a bay (R77). -/
def bayQuad (bx byy : Nat) : Nat := bx / 8 + 2 * (byy / 8)

def State.split (s : State) (d : Nat) : BitVec 2 := ((s.die? d).map Die.split).getD 0

/-- Partitions of a die (R317). -/
def State.partCount (s : State) (d : Nat) : Nat :=
  match (s.split d).toNat with
  | 0 => 1
  | 1 => 2
  | _ => 4

/-- The partition (0 to 15) of dataflow tile or island `t` (R77, R317). -/
def State.unitPart (s : State) (t : Nat) : Nat := t / 32 * 4 + quadPart (s.split (t / 32)) (t % 32 / 8)

/-- The partition of a bay of a die. -/
def State.bayPart (s : State) (d bx byy : Nat) : Nat := d * 4 + quadPart (s.split d) (bayQuad bx byy)

/-- The dataflow tiles of a partition, in ascending die index. -/
def State.partTiles (s : State) (p : Nat) : List Nat :=
  ((List.range 32).map (fun i => p / 4 * 32 + i)).filter fun t => s.unitPart t == p

/-- The bay that a dataflow tile of a die sits beside (Table 4-3, R77). -/
def tileSide (j : Nat) : Nat := (j / 16 * 8 + j % 8) * 16 + if j / 8 % 2 = 0 then 0 else 15

/-- The bay beside a dataflow tile is fenced (R379). -/
def State.tileFenced (s : State) (t : Nat) : Bool := (((s.die? (t / 32)).map Die.fences).getD []).contains (tileSide (t % 32))

/-- A dataflow tile is usable: its bay is not fenced, and the GROUP bit of its row is set (R375, R376). -/
def State.tileUsable (s : State) (t : Nat) : Bool :=
  !(s.tileFenced t) && s.readyBays.getLsbD (16 * (t / 32) + tileSide (t % 32) / 16)

/-- The die index of an edge unit beside a bay, by the DPORT code of Table 4-3 (R76, R77, Table 4-13); none if there is none. -/
def edgeUnit (code bx byy : Nat) : Option Nat :=
  let q := bayQuad bx byy
  match code with
  | 0 => if byy == 0 || byy == 15 then some (16 * q + bx % 8) else none
  | 1 => if byy == 0 || byy == 15 then some (8 * q + bx % 8) else none
  | 2 => if bx == 0 || bx == 15 then some (16 * q + 8 + byy % 8) else none
  | 3 => if bx == 0 || bx == 15 then some (8 * q + byy % 8) else none
  | _ => none

/-- The context id of a tag (Table 2-4). -/
def tagCtx (t : Tag) : Nat := t.toNat / 2 ^ 52

/-- The tag of a context without fields (R36). -/
def ctxTag (c : Nat) : Tag := BitVec.ofNat 12 c ++ (0 : BitVec 52)

/-! ## Physical memory and translation -/

/-- First byte of a physical space in the model's flat line: T0 and T1 of die d (0 to 3), T3 behind port d (4 to 7), the memory
of package p (8 + p). -/
def spaceBase (tier loc : Nat) : Nat :=
  Config.spaceSize * (match tier with
    | 0 | 1 => loc % 4
    | 3 => 4 + loc % 4
    | _ => 8 + loc)

def State.readN (s : State) (a n : Nat) : List Byte := Memory.readN s.mem a n
def State.readLe (s : State) (a n : Nat) : Nat := leNat (Memory.readN s.mem a n)

/-- An object-table entry (Table 17-2). -/
structure Obj where
  len : Nat
  valid : Bool
  pr : Bool
  pw : Bool
  px : Bool
  pl : Bool
  tmask : Nat
  ecnt : Nat
  extp : Nat
  gen : Nat
  deriving DecidableEq, Repr

/-- An extent (Table 17-3). -/
structure Ext where
  start : Nat
  npg : Nat
  tier : Nat
  loc : Nat
  pfn : Nat
  mov : Bool
  deriving DecidableEq, Repr

/-- The entry that 32 bytes give. -/
def Obj.ofNat (n : Nat) : Obj :=
  { len := bits 216 40 n, valid := bit 215 n, pr := bit 214 n, pw := bit 213 n, px := bit 212 n, pl := bit 211 n
    tmask := bits 207 4 n, ecnt := bits 192 15 n, extp := bits 128 64 n, gen := bits 120 8 n }

/-- The extent that 16 bytes give. -/
def Ext.ofNat (n : Nat) : Ext :=
  { start := bits 100 28 n, npg := bits 72 28 n, tier := bits 70 2 n, loc := bits 60 10 n, pfn := bits 24 36 n, mov := bit 23 n }

/-- The physical address of an object's table entry; none for id 0 and ids from OTLEN on (R306). -/
def State.objAddr (s : State) (p id : Nat) : Option Nat :=
  match s.part? p with
  | some q => if id == 0 || decide (q.otlen ≤ id) then none else some (spaceBase 0 (p / 4) + q.otpfn * 4096 + 32 * id)
  | none => none

/-- The valid entry of an object (R306, R307). -/
def State.obj? (s : State) (p id : Nat) : Option Obj :=
  match s.objAddr p id with
  | some a =>
    let o := Obj.ofNat (s.readLe a 32)
    if o.valid && o.ecnt != 0 then some o else none
  | none => none

/-- The physical address of extent `e` of an object. -/
def extAddr (p : Nat) (o : Obj) (e : Nat) : Nat := spaceBase 0 (p / 4) + o.extp % Config.spaceSize + 16 * e

def State.ext (s : State) (p : Nat) (o : Obj) (e : Nat) : Ext := Ext.ofNat (s.readLe (extAddr p o e) 16)

/-- Bytes of the memory that a tier names at a place: the DRAM of a die for T0 and T1, without what the device reserves from every object
table, such as the bring-up area (R312, R378); the far memory behind a die's port for T3; T2's end is the lender's (log 16). -/
def tierBytes (tier loc : Nat) : Option Nat :=
  if tier < 2 then some (Config.dramBytes - Config.reservedBytes)
  else if tier = 3 then some (Config.cxlBytes (loc % 4)) else none

/-- The bytes of a piece of memory that lie below the end of its tier's memory, from a byte address of the space on. -/
def tierRoom (tier loc a : Nat) : Option Nat := (tierBytes tier loc).map fun m => m - a

/-- The index and the extent that cover a page of an object. A page beyond the memory that its tier names is not covered: an access to one
is a translation fault, in T0 and T1 and beyond the far memory of T3 alike (DEDUCED, log 16). -/
def State.findExt (s : State) (p : Nat) (o : Obj) (page : Nat) : Option (Nat × Ext) :=
  (List.range o.ecnt).findSome? fun e =>
    let x := s.ext p o e
    if decide (x.start ≤ page) && decide (page < x.start + x.npg) &&
        ((tierBytes x.tier x.loc).all fun m => decide ((x.pfn + (page - x.start)) * 4096 < m)) then some (e, x) else none

/-- The index and the extent that cover a page whatever tier it is in, by its object's table entry. -/
def State.extOf (s : State) (p id page : Nat) : Option (Nat × Ext) :=
  match s.obj? p id with
  | some o => s.findExt p o page
  | none => none

/-- The byte of the fallback behind a byte of a write-through lease that this package has taken (R365). -/
def State.behind (s : State) (a : Nat) : Option Nat :=
  (s.dies.flatMap Die.borrowed).findSome? fun b =>
    let lo := spaceBase 2 b.lender + b.grant.page * 4096
    if b.state == .taken && b.grant.wt && decide (lo ≤ a) && decide (a < lo + b.grant.gran * 2 ^ 21) then
      let off := b.fallback.toNat % 2 ^ 40 + (a - lo)
      match s.extOf b.part (b.fallback.toNat / 2 ^ 40) (off / 4096) with
      | some (_, x) => some (spaceBase x.tier x.loc + (x.pfn + (off / 4096 - x.start)) * 4096 + off % 4096)
      | none => none
    else none

/-- The places of a write: its address, then the fallbacks behind it. -/
def State.placesOf (s : State) : Nat → Nat → List Nat
  | 0, a => [a]
  | k + 1, a => a :: match s.behind a with
    | some b => State.placesOf s k b
    | none => []

/-- Leases that this package has borrowed. -/
def State.leases (s : State) : Nat := (s.dies.flatMap Die.borrowed).length

/-- Where a write at an address lands (R365). -/
def State.places (s : State) (a : Nat) : List Nat := s.placesOf s.leases a

/-- Write bytes. -/
def State.writeN (s : State) (a : Nat) (b : List Byte) : State :=
  { s with mem := (s.places a).foldl (fun m t => Memory.writeN m t b) s.mem }
def State.writeLe (s : State) (a n v : Nat) : State := s.writeN a (leBytes n v)

/-- A virtual address whose offset may have left the 40 bits (R149). -/
structure Addr where
  obj : Nat
  off : Int
  deriving DecidableEq, Repr

def Addr.ofVa (v : VA) : Addr := ⟨v.toNat / 2 ^ 40, (v.toNat % 2 ^ 40 : Nat)⟩
def Addr.ofWords (lo hi : Word) : Addr := Addr.ofVa (hi ++ lo)
def Addr.plus (a : Addr) (d : Int) : Addr := { a with off := a.off + d }

/-- The 64 bits of an address, as a fault record shows it. -/
def Addr.va (a : Addr) : Nat := a.obj % 2 ^ 24 * 2 ^ 40 + (a.off % 2 ^ 40).toNat

/-- What an access needs (R150). -/
inductive Need where
  | any
  | read
  | write
  | both
  | exec
  | lend
  deriving DecidableEq, Repr

def Need.holds (n : Need) (o : Obj) : Bool :=
  match n with
  | .any => true
  | .read => o.pr
  | .write => o.pw
  | .both => o.pr && o.pw
  | .exec => o.px
  | .lend => o.pl

def clsIllegal : Nat := 1
def clsCollision : Nat := 2
def clsCount : Nat := 3
def clsTag : Nat := 4
def clsTranslation : Nat := 5
def clsBounds : Nat := 6
def clsPermission : Nat := 7
def clsSpill : Nat := 8
def clsSparse : Nat := 9
def clsStray : Nat := 10
def clsQuiesce : Nat := 11
def clsEcc : Nat := 12
def clsLink : Nat := 13
def clsLease : Nat := 14
def clsWatchdog : Nat := 15
def clsTrap : Nat := 16
def clsQueue : Nat := 17

/-- What translating an access gives: the physical address with its tier and the extent, a stall (R313), or a fault class. -/
inductive Xl where
  | ok (pa tier : Nat)
  | stall
  | fault (cls : Nat)
  deriving DecidableEq, Repr

/-- An entry of the readiness map reads READY (R375). -/
def State.unitReady (s : State) (e : Nat) : Bool := lookup e s.readyUnits == some 1

/-- A package can be reached: its route is valid and a port of it is up (R344). -/
def State.reachable (s : State) (p : Nat) : Bool :=
  p != s.fijId.toNat && match lookup p s.routes with
    | some e => e.getLsbD 63 && (List.range 16).any fun i => e.getLsbD i && (s.links.any fun l => l.n == 16 + i && l.up)
    | none => false

/-- The index of the die-to-die link between two dies (R343). -/
def dieLink (a b : Nat) : Nat := if min a b = 0 then max a b - 1 else if min a b = 1 then max a b + 1 else 5

/-- Work of die `d` reaches die `e`: the same die, or the link between them is up (R343, R375). -/
def State.diesJoined (s : State) (d e : Nat) : Bool := d % 4 == e % 4 || s.links.any fun l => l.n == dieLink (d % 4) (e % 4) && l.up

/-- The home of a page is usable for work of die `d` (R376): the L2 and the DRAM of a die, or its CXL port, with the die-to-die link that
leads to it, or a package with a way to it. -/
def State.homeReady (s : State) (d tier loc : Nat) : Bool :=
  match tier with
  | 0 | 1 => s.diesJoined d loc && s.unitReady (loc % 4) && s.unitReady (4 + loc % 4)
  | 3 => s.diesJoined d loc && s.unitReady (loc % 4) && s.unitReady (8 + loc % 4)
  | _ => s.reachable loc

/-- A change of an object's extent `e`, or for 0xFFFF of the whole object, runs in a partition (R313). -/
def State.changing (s : State) (p id e : Nat) : Bool :=
  match (s.part? p).bind Part.change with
  | some c => c.obj == id && c.idx == e
  | none => false

/-- An access to extent `e` of an object waits: a change runs on it, or its home is not ready (R313, R376). -/
def State.waits (s : State) (p id e : Nat) (x : Ext) : Bool := x.mov || s.changing p id e || !(s.homeReady (p / 4) x.tier x.loc)

/-- The walk for an object waits for a change of the whole object, or for the object table's memory (R310, R313, R376). -/
def State.walkWaits (s : State) (p id : Nat) : Bool :=
  s.changing p id 0xFFFF || ((s.objAddr p id).isSome && !(s.homeReady (p / 4) 0 (p / 4)))

/-- A change of any part of an object runs in a partition: a page that no extent covers stalls then (R313, R314). -/
def State.changingAny (s : State) (p id : Nat) : Bool :=
  match (s.part? p).bind Part.change with
  | some c => c.obj == id
  | none => false

/-- A page that no extent covers: a translation fault, but a stall while a change of the object runs. -/
def State.uncovered (s : State) (p id : Nat) : Xl := if s.changingAny p id then .stall else .fault clsTranslation

/-- Translate one naturally aligned access and make its checks in the order of R150. -/
def State.translate (s : State) (p : Nat) (a : Addr) (size : Nat) (need : Need) : Xl :=
  if a.off < 0 || a.off ≥ 2 ^ 40 then .fault clsTranslation
  else if s.walkWaits p a.obj then .stall
  else match s.obj? p a.obj with
    | none => .fault clsTranslation
    | some o =>
      let off := a.off.toNat
      match s.findExt p o (off / 4096) with
      | none => s.uncovered p a.obj
      | some (e, x) =>
        if s.waits p a.obj e x then .stall
        else if o.len < off + size then .fault clsBounds
        else if off % size ≠ 0 then .fault clsBounds
        else if !(need.holds o) then .fault clsPermission
        else .ok (spaceBase x.tier x.loc + (x.pfn + (off / 4096 - x.start)) * 4096 + off % 4096) x.tier

/-! ## Translations (R309, R310) -/

/-- Entries that a translator holds: a memory port's 64, a range cache's 256. -/
def translatorSize (xl : Nat) : Nat := if xl < 64 then 64 else 256

/-- The entry that a walk installs; none for what does not translate or is under a change. -/
def State.walkEntry (s : State) (xl part : Nat) (va : VA) : Option RangeEntry :=
  let id := va.toNat / 2 ^ 40
  match s.obj? part id with
  | none => none
  | some o => match s.findExt part o (va.toNat % 2 ^ 40 / 4096) with
    | none => none
    | some (e, x) =>
      if x.mov || s.changing part id e || s.changing part id 0xFFFF then none
      else some { xl := xl, part := part, obj := id, first := x.start, pages := x.npg, tier := x.tier, loc := x.loc, pfn := x.pfn, len := o.len
                  perms := BitVec.ofNat 4 (atBit 3 o.pr + atBit 2 o.pw + atBit 1 o.px + atBit 0 o.pl), gen := o.gen
                  used := s.clock }

/-- Install an entry, just used, in its translator: in place of the least recently used one when it is full (R310). -/
def installEntry (l : List RangeEntry) (e : RangeEntry) : List RangeEntry :=
  let l := l.filter fun r => !(r.xl == e.xl && r.part == e.part && r.obj == e.obj && r.first == e.first)
  let mine := l.filter fun r => r.xl == e.xl
  (if mine.length < translatorSize e.xl then l else match leastBy (fun (a b : RangeEntry) => decide (a.used < b.used)) mine with
    | some r => l.erase r
    | none => l) ++ [e]

/-- The bay beside which a memory port sits (Table 4-13). -/
def portBay (i : Nat) : Nat × Nat :=
  let j := i % 8
  let q := i / 16
  let far := if q % 2 = 0 then 0 else 15
  let low := if q / 2 = 0 then 0 else 15
  if i / 8 % 2 = 0 then (8 * (q % 2) + j, low) else (far, 8 * (q / 2) + j)

/-- Bays between two points of a die. -/
def bayDist (a b : Nat × Nat) : Nat := (a.1 - b.1) + (b.1 - a.1) + (a.2 - b.2) + (b.2 - a.2)

/-- The memory port of an AG: the partition's nearest to its bay, counted in bays, then the lower index (R309). -/
def State.portOf (s : State) (part : Nat) (p : Nat × Nat) : Option Nat :=
  leastBy (fun a b => keyLt [bayDist (portBay a) p, a] [bayDist (portBay b) p, b])
    ((List.range 64).filter fun i => s.bayPart (part / 4) (portBay i).1 (portBay i).2 == part)

/-- An access goes through a translator: its entry becomes the last used, or a miss has the walker install it (R310). What the access reads
or writes does not depend on it. -/
def State.useXl (s : State) (die xl part : Nat) (a : Addr) : State :=
  match s.die? die, s.walkEntry xl part (BitVec.ofNat 64 (a.obj * 2 ^ 40 + a.off.toNat % 2 ^ 40)) with
  | some d, some e => s.setDie { d with ranges := installEntry d.ranges e }
  | _, _ => s

/-- What translating a whole range gives: pieces (physical address, bytes) in ascending offset. -/
inductive Range where
  | ok (pieces : List (Nat × Nat))
  | stall
  | fault (cls : Nat)
  deriving DecidableEq, Repr

/-- What an access without bytes says of its range. -/
def Xl.range : Xl → Range
  | .ok pa _ => .ok [(pa, 0)]
  | .stall => .stall
  | .fault c => .fault c

/-- The pieces of a range, extent by extent: none if some page has no extent. The Bool says that some extent waits. -/
def State.pieces (s : State) (p id : Nat) (o : Obj) : Nat → Nat → Nat → Option (List (Nat × Nat) × Bool)
  | 0, _, _ => none
  | k + 1, off, len =>
    if len = 0 then some ([], false)
    else match s.findExt p o (off / 4096) with
      | none => none
      | some (e, x) =>
        let a := (x.pfn + (off / 4096 - x.start)) * 4096 + off % 4096
        let room := min ((x.start + x.npg) * 4096 - off) ((tierRoom x.tier x.loc a).getD len)
        let n := min room len
        match State.pieces s p id o k (off + n) (len - n) with
        | none => none
        | some (l, m) =>
          some ((spaceBase x.tier x.loc + a, n) :: l, m || s.waits p id e x)

/-- Check a whole range by R150, without the alignment of a single access (R200, R217, log 17). -/
def State.range (s : State) (p : Nat) (a : Addr) (len : Nat) (need : Need) : Range :=
  if a.off < 0 || a.off ≥ 2 ^ 40 then .fault clsTranslation
  else if s.walkWaits p a.obj then .stall
  else match s.obj? p a.obj with
    | none => .fault clsTranslation
    | some o =>
      match s.findExt p o (a.off.toNat / 4096) with
      | none => (s.uncovered p a.obj).range
      | some (e, x) =>
        if s.waits p a.obj e x then .stall
        else match s.pieces p a.obj o (o.ecnt + 2) a.off.toNat (min len (o.len - a.off.toNat)) with
          | none => (s.uncovered p a.obj).range
          | some (l, m) =>
            if m then .stall
            else if o.len < a.off.toNat + len then .fault clsBounds
            else if !(need.holds o) then .fault clsPermission
            else .ok l

/-- Check one access by R150: as a range, and its offset is a multiple of its size, which comes before its permission. -/
def State.single (s : State) (p : Nat) (a : Addr) (size : Nat) (need : Need) : Range :=
  match s.range p a size need with
  | .stall => .stall
  | .fault c => if c == clsPermission && decide (a.off.toNat % size ≠ 0) then .fault clsBounds else .fault c
  | .ok l => if a.off.toNat % size = 0 then .ok l else .fault clsBounds

/-- Bytes of a translated range. -/
def State.readPieces (s : State) (l : List (Nat × Nat)) : List Byte := l.flatMap fun c => s.readN c.1 c.2

/-- Write bytes over a translated range. -/
def State.writePieces (s : State) : List (Nat × Nat) → List Byte → State
  | [], _ => s
  | (a, n) :: l, b => State.writePieces (s.writeN a (b.take n)) l (b.drop n)

/-- Translate and read a range: the bytes, a stall (none), or a fault class. -/
def State.fetchRange (s : State) (p : Nat) (a : Addr) (len : Nat) (need : Need) : Option (Except Nat (List Byte)) :=
  match s.range p a len need with
  | .ok l => some (.ok (s.readPieces l))
  | .stall => none
  | .fault c => some (.error c)

/-- Translate and read by one access. -/
def State.fetchOne (s : State) (p : Nat) (a : Addr) (size : Nat) (need : Need) : Option (Except Nat (List Byte)) :=
  match s.single p a size need with
  | .ok l => some (.ok (s.readPieces l))
  | .stall => none
  | .fault c => some (.error c)

/-- Tiers of the pieces' spaces: 2 for another package, 3 for CXL memory, else 0. -/
def pieceTier (c : Nat × Nat) : Nat :=
  let k := c.1 / Config.spaceSize
  if k < 4 then 0 else if k < 8 then 3 else 2

/-! ## Report queues -/

/-- How a post ended (R342). `slot` is TAIL before the post; a check that fails names its class, and the address and the bytes of the access
that failed it, the header or the slot. -/
inductive Posted where
  | done (s : State) (slot : Nat)
  | full
  | bad (cls va size : Nat)
  deriving DecidableEq, Repr

/-- Post a record to the ring at `q` of a partition (R341, R342); none if an access stalls. -/
def State.postRing (s : State) (p : Nat) (q : VA) (rec : Nat) : Option Posted :=
  match s.single p (Addr.ofVa q) 64 .both with
  | .stall => none
  | .fault c => some (.bad c q.toNat 64)
  | .ok hdr =>
    let h := leNat (s.readPieces hdr)
    let head := bits 0 32 h
    let tail := bits 32 32 h
    let cap := bits 64 32 h
    let at_ := (Addr.ofVa q).plus (64 + 32 * (if cap = 0 then 0 else tail % cap : Nat))
    match s.single p at_ 32 .both with
    | .stall => none
    | .fault c => some (.bad c at_.va 32)
    | .ok slot =>
      if cap ≤ (tail + 2 ^ 32 - head) % 2 ^ 32 then some .full
      else
        let s := s.writePieces slot (leBytes 32 rec)
        some (.done (s.writePieces hdr (leBytes 64 (setBits 32 32 h (tail + 1)))) tail)

/-- Count a lost record in LOST of a full event or host queue. -/
def State.countLost (s : State) (p : Nat) (q : VA) : State :=
  match s.single p (Addr.ofVa q) 64 .both with
  | .ok hdr =>
    let h := leNat (s.readPieces hdr)
    s.writePieces hdr (leBytes 64 (setBits 96 32 h (satAdd (2 ^ 32 - 1) (bits 96 32 h) 1)))
  | _ => s

/-- Post to a partition's host queue; a record it cannot take is counted (R340, R342). -/
def State.postHost (s : State) (p : Nat) (rec : Nat) : Option State :=
  match s.part? p with
  | none => some s
  | some q =>
    match s.postRing p q.hqb rec with
    | none => none
    | some (.done s _) => some { s with msix := s.msix ++ [p] }
    | some .full => some (s.countLost p q.hqb)
    | some (.bad ..) => some (s.setPart { q with hqlost := satAdd 0x7FFF q.hqlost 1 })

/-- An event record (Table 21-5). -/
def eventRecord (ctx src srcid code value : Nat) : Nat :=
  ctx % 2 ^ 12 * 2 ^ 244 + src % 16 * 2 ^ 240 + srcid % 2 ^ 16 * 2 ^ 224 + code % 2 ^ 16 * 2 ^ 208 + value % 2 ^ 32 * 2 ^ 160

/-- What a fault record says beside its payload (Table 22-1). -/
structure FaultHead where
  ctx : Nat
  src : Nat
  srcid : Nat
  cls : Nat
  prec : Nat
  reason : Nat := 0
  loc : Nat := 0
  multi : Bool := false
  deriving DecidableEq, Repr

/-- The header of a fault record (Table 22-1). -/
def FaultHead.bits (f : FaultHead) : Nat :=
  f.ctx % 2 ^ 12 * 2 ^ 52 + f.src % 16 * 2 ^ 48 + f.srcid % 2 ^ 16 * 2 ^ 32 + f.cls % 64 * 2 ^ 26 + f.prec % 8 * 2 ^ 23 +
    f.reason % 16 * 2 ^ 19 + atBit 18 f.multi + f.loc % 2 ^ 18

/-- A fault record: header and payload. -/
def faultRecord (f : FaultHead) (payload : Nat) : Nat := f.bits * 2 ^ 192 + payload % 2 ^ 192

/-- The access payload (Table 22-2) without SEQ and ROUND. -/
def accessPayload (va size kind : Nat) : Nat := va % 2 ^ 64 * 2 ^ 128 + size % 256 * 2 ^ 120 + kind % 4 * 2 ^ 118

/-- Post an event to a context's event queue (R342). -/
def State.postEvent (s : State) (c : Nat) (src srcid code value : Nat) : Option State :=
  match s.ctx? c with
  | none => some s
  | some x =>
    if x.eqb = 0 then some s
    else match s.postRing x.part x.eqb (eventRecord c src srcid code value) with
      | none => none
      | some (.done s _) => some s
      | some .full => some (s.countLost x.part x.eqb)
      | some (.bad cls va size) =>
        s.postHost x.part (faultRecord { ctx := c, src := src, srcid := srcid, cls := cls, prec := 3 } (accessPayload va size 3))

/-- Append a token to a dataflow tile's links. -/
def State.sendTile (s : State) (t : Nat) (k : PTok) : State :=
  let d := s.tile t
  s.setTile { d with inbox := d.inbox ++ [k] }

/-- Width of a width code (R36). -/
def codeWidth (c : Nat) : Nat := match c with
  | 0 => 0
  | 1 => 4
  | 2 => 8
  | _ => 16

/-- The widths of a tag's eight slots. -/
def tagWidths (t : Tag) : List Nat := (List.range 8).map fun i => codeWidth (bits (36 + 2 * i) 2 t.toNat)

/-- A tag is well formed (R36). -/
def tagWf (t : Tag) : Bool :=
  let ws := tagWidths t
  let used := ws.takeWhile fun w => w != 0
  let sum := used.foldl (· + ·) 0
  (ws.drop used.length).all (fun w => w == 0) && decide (sum ≤ 36) && decide (bits 0 36 t.toNat < 2 ^ sum)

/-- The result of a push, a pop or a SETTAG: a malformed one is a tag overflow, none (R36). -/
def checkTag (t : Tag) : Option Tag := if tagWf t then some t else none

/-- Push a field of `w` bits onto a tag (R36); none is a tag overflow. -/
def pushTag (t : Tag) (w v : Nat) : Option Tag :=
  let n := t.toNat
  let shape := bits 36 16 n
  let code := if w = 4 then 1 else if w = 8 then 2 else 3
  if bits 14 2 shape ≠ 0 ∨ 36 < (tagWidths t).foldl (· + ·) 0 + w then none
  else checkTag (BitVec.ofNat 64 (n / 2 ^ 52 * 2 ^ 52 + (shape * 4 + code) % 2 ^ 16 * 2 ^ 36 +
    (bits 0 36 n * 2 ^ w + v % 2 ^ w) % 2 ^ 36))

/-- The token that tells a context's handler of the record in slot `tail` of its fault queue (R358). -/
def State.tellHandler (s : State) (x : Ctx) (tail : Nat) : State :=
  match pushTag (ctxTag x.id) 16 tail with
  | none => s
  | some t =>
    let v := x.fhnd.toNat
    s.sendTile (x.part / 4 * 32 + bits 26 5 v)
      { tag := t, port := BitVec.ofNat 2 (bits 24 2 v), node := BitVec.ofNat 14 (bits 0 14 v), hnd := true
        tok := { value := BitVec.ofNat 32 tail } }

/-- A context whose fault has been posted or could not be posted: STATE before the first fault is kept (R359). -/
def Ctx.faulting (x : Ctx) : Ctx := { x with state := .faulted, before := if x.state == .faulted then x.before else x.state }

/-- What follows once the fault queue has the record `full` in slot `tail`: its token for the handler; or, where no handler is enabled or
`quiet`, a copy of the record in the host queue, and no further token for a handler until the context leaves FAULTED (R358). -/
def State.recorded (s : State) (x : Ctx) (full tail : Nat) (quiet : Bool) (work : FaultWork) : Option State :=
  let quiet := quiet || !(bit 31 x.fhnd.toNat)
  let s := s.setCtx { x.faulting with work := x.work ++ [work], noHandler := quiet }
  if quiet then s.postHost x.part full else some (s.tellHandler x tail)

/-- A record that the fault queue did not take: a queue fault of the partition carries its header (R342). -/
def State.unrecorded (s : State) (x : Ctx) (f : FaultHead) (reason : Nat) (work : FaultWork) : Option State :=
  (s.setCtx { x.faulting with unposted := x.unposted ++ [work] }).postHost x.part (faultRecord
    { ctx := f.ctx, src := f.src, srcid := f.srcid, cls := clsQueue, prec := 3, reason := reason }
    (x.fqb.toNat * 2 ^ 128 + f.bits * 2 ^ 64))

/-- Post a fault record of a context (R342, R358). `hnd`: a record of a fault-handler instance faulted. `work`: what the fault
stopped, kept until ERET or CTX_CMD acts on the record (R359). -/
def State.postFault (s : State) (f : FaultHead) (payload : Nat) (hnd : Bool) (work : FaultWork) : Option State :=
  match s.ctx? f.ctx with
  | none => some s
  | some x => match s.postRing x.part x.fqb (faultRecord f payload) with
    | none => none
    | some (.done s tail) => s.recorded x (faultRecord f payload) tail (x.noHandler || hnd) work
    | some .full => s.unrecorded x f 0 work
    | some (.bad ..) => s.unrecorded x f 1 work

/-- Post a fault of a partition (PREC 3) to its host queue. -/
def State.postPart (s : State) (p : Nat) (f : FaultHead) (payload : Nat) : Option State :=
  s.postHost p (faultRecord { f with prec := 3 } payload)

/-- The stored form of a pooled token (Table 2-2). -/
def PTok.bits (k : PTok) : Nat :=
  k.tag.toNat * 2 ^ 64 + k.port.toNat * 2 ^ 62 + k.node.toNat * 2 ^ 48 + atBit 47 k.hnd +
    atBit 35 (k.tok.flag == .eos) + atBit 34 (k.tok.flag == .null) + k.tok.lmask.toNat * 2 ^ 32 + k.tok.value.toNat

/-- The stored form of a pinned token (Table 2-1). -/
def pinnedBits (rt : BitVec 4) (k : Tok) : Nat :=
  rt.toNat * 2 ^ 37 + atBit 36 (k.flag == .marker) + atBit 35 (k.flag == .eos) + atBit 34 (k.flag == .null) +
    k.lmask.toNat * 2 ^ 32 + k.value.toNat

/-- The context that owns a pooled token in a partition; 0 where its CTX is not allocated there (R45, R351). -/
def State.owner (s : State) (p : Nat) (t : Tag) : Nat :=
  match s.ctx? (tagCtx t) with
  | some c => if c.part = p then c.id else 0
  | none => 0

/-- Report a dropped pooled token as a stray-token fault of the partition, with the token in the record (R45, Table 10-1). `src` and
`srcid` name where it was dropped: a dataflow tile by its die index, or the forme of a door (R292, R351). -/
def State.stray (s : State) (p : Nat) (src srcid : Nat) (k : PTok) : Option State :=
  s.postPart p { ctx := s.owner p k.tag, src := src, srcid := srcid, cls := clsStray, prec := 3 }
    (k.tag.toNat * 2 ^ 128 + pinnedBits 0 k.tok * 2 ^ 64 + 2 ^ 48)

/-! ## Node memory and galleys -/

/-- Bits of a galley header (Table 4-4). -/
def isHeader (w : BitVec 96) : Bool := w.toNat / 2 ^ 88 == 0xFE
def hdrCount (w : BitVec 96) : Nat := bits 81 7 w.toNat + 1
def hdrStores (w : BitVec 96) : BitVec 32 := BitVec.ofNat 32 (bits 32 32 w.toNat)
def hdrKw (w : BitVec 96) : Nat := bits 24 8 w.toNat
def hdrOut (w : BitVec 96) : Nat := bits 16 8 w.toNat

def DTile.word? (d : DTile) (n : Nat) : Option (BitVec 96) := lookup n d.nodes

/-- The record at a node; none for a header or a node that holds nothing. -/
def DTile.record? (d : DTile) (n : Nat) : Option Instr :=
  match d.word? n with
  | none => none
  | some w => match decode .pooled w with
    | .ok i => some i
    | .error _ => none

/-- The header of the galley that holds node `n`: the nearest header below it (R78). -/
def DTile.header? (d : DTile) (n : Nat) : Option Nat :=
  (List.range 129).findSome? fun k =>
    if k ≤ n then match d.word? (n - k) with
      | some w => if isHeader w && decide (k ≤ hdrCount w) then some (n - k) else none
      | none => none
    else none

/-- A node of the galley headed at `h`. -/
def DTile.inGalley (d : DTile) (h n : Nat) : Bool :=
  match d.word? h with
  | some w => decide (h < n) && decide (n ≤ h + hdrCount w)
  | none => false

def DTile.galley? (d : DTile) (h : Nat) (t : Tag) : Option Galley := d.galleys.find? fun g => g.hdr == h && g.tag == t && !g.dropped
def DTile.setGalley (d : DTile) (g : Galley) : DTile :=
  { d with galleys := putBy (fun a => a.hdr == g.hdr && a.tag == g.tag && a.seq == g.seq) g d.galleys }

/-- Open instances of a context on a tile. -/
def DTile.openOf (d : DTile) (c : Nat) : List Galley := d.galleys.filter fun g => tagCtx g.tag == c && !g.dropped

/-! ## The spill area (R44, R312) -/

/-- Entries that the spill area of a tile holds at most: 128 in each page (R312). -/
def State.spillRoom (s : State) (t : Nat) : Nat := 128 * ((s.part? (s.unitPart t)).map Part.sppg).getD 0

/-- The physical address of a slot of a tile's spill pages: the tiles of a partition count from 0 in ascending die index (R312). -/
def State.spillAddr (s : State) (t slot : Nat) : Nat :=
  match s.part? (s.unitPart t) with
  | some q => spaceBase 0 (t / 32) + (q.sppfn + (s.partTiles q.p).idxOf t * q.sppg) * 4096 + 32 * slot
  | none => 0

def DTile.spilled (d : DTile) : List MEntry := d.entries.filter MEntry.spilled

/-- Entries whose slots of the spill area are in use: those there, and those whose slots are kept. -/
def DTile.spillUsed (d : DTile) : List MEntry := d.spilled ++ d.owed.filter MEntry.spilled

/-- The lowest slot of the spill area that is not in use. -/
def DTile.freeSlot (d : DTile) : Nat :=
  ((List.range (d.spillUsed.length + 1)).find? fun k => !(d.spillUsed.any fun e => e.slot == k)).getD 0

/-- Where a new entry goes: the store, or the spill area when the store is full; none when that is full too (R44). -/
def DTile.place (d : DTile) (room : Nat) (e : MEntry) : Option MEntry :=
  if d.occ < 4096 then some { e with spilled := false }
  else if d.spillUsed.length < room then some { e with spilled := true, slot := d.freeSlot }
  else none

/-- Add entries, each where there is room; none when one finds none. -/
def DTile.addEntries (room : Nat) : List MEntry → DTile → Option DTile
  | [], d => some d
  | e :: l, d => match d.place room e with
    | some e => DTile.addEntries room l { d with entries := d.entries ++ [e] }
    | none => none

/-- Draw free values. -/
def State.drawWords : Nat → State → List Word × State
  | 0, s => ([], s)
  | n + 1, s =>
    let (v, s) := s.draw
    let (l, s) := State.drawWords n s
    (v :: l, s)

/-- Write a spilled entry to its slot. How its 32 bytes hold it is not said, so they are free values (log 30). -/
def State.storeSpilled (t : Nat) (s : State) (e : MEntry) : State :=
  let (l, u) := s.drawWords 8
  u.writeN (s.spillAddr t e.slot) (l.flatMap fun v => leBytes 4 v.toNat)

/-- Entries that come to the spill area of a tile or change there, while its memory is not usable yet: the access stalls (R376). -/
def State.spillWaits (s : State) (d : DTile) : Bool :=
  (d.spilled.any fun e => !((s.tile d.i).entries.contains e)) && !(s.homeReady (d.i / 32) 0 (d.i / 32))

/-- Replace a tile, and write the entries that have come to the spill area or have changed there. -/
def State.keepTile (s : State) (d : DTile) : State :=
  (d.spilled.filter fun e => !((s.tile d.i).entries.contains e)).foldl (State.storeSpilled d.i) (s.setTile d)

/-! ## Dropping a galley (R355) -/

/-- The home of a work queue: what it keeps beside the descriptor (R218). -/
def Part.home (q : Part) (va : VA) : QueueHome := (q.homes.find? fun a => a.va == va && a.part == q.p).getD { va := va, part := q.p }
def Part.setHome (q : Part) (h : QueueHome) : Part :=
  { q with homes := putBy (fun a => a.va == h.va && a.part == h.part) h q.homes }

/-- The end of the contiguous ranges that begin at `x`, with the ranges that are left (modulo 2^32). -/
def runOn : Nat → Nat → List (Nat × Nat) → Nat × List (Nat × Nat)
  | 0, x, l => (x, l)
  | k + 1, x, l => match l.find? fun r => r.1 == x with
    | none => (x, l)
    | some r => runOn k ((x + r.2) % 2 ^ 32) (l.erase r)

/-- Advance CMTD over contiguous committed reservations. -/
def QueueHome.commitOn (h : QueueHome) (cmtd : Nat) : Nat × QueueHome :=
  let done := (h.open_.filter fun o => o.2.2).map fun o => (o.1, o.2.1)
  let (c, rest) := runOn done.length cmtd done
  (c, { h with open_ := h.open_.filter fun o => !o.2.2 || rest.contains (o.1, o.2.1) })

/-- Advance FREED over contiguous freed records. -/
def QueueHome.freeOn (h : QueueHome) (freed : Nat) : Nat × QueueHome :=
  let (f, rest) := runOn h.freed.length freed h.freed
  (f, { h with freed := rest })

/-- Two ranges of record indexes have a record in common (modulo 2^32). -/
def rangesMeet (a n b m : Nat) : Bool :=
  n != 0 && m != 0 && (decide ((b + 2 ^ 32 - a) % 2 ^ 32 < n) || decide ((a + 2 ^ 32 - b) % 2 ^ 32 < m))

/-- A reservation has records that are not taken: it ends past TAKEN, or some of them were returned (R294). -/
def QueueHome.untaken (h : QueueHome) (taken start count : Nat) : Bool :=
  decide ((start + count + 2 ^ 32 - taken - 1) % 2 ^ 32 < 2 ^ 31) || h.returned.any fun r => rangesMeet start count r.1 r.2

/-- A descriptor with OLDEST brought up to date: the stamp of the first committed reservation, in the order of reserving, that is not all
taken; where there is none, the last stamp stays (R294). -/
def QueueHome.dated (h : QueueHome) (d : Nat) : Nat :=
  let freed := bits 256 32 d
  match leastBy (fun (a b : Nat × Nat × Nat) => decide ((a.1 + 2 ^ 32 - freed) % 2 ^ 32 < (b.1 + 2 ^ 32 - freed) % 2 ^ 32))
      (h.stamps.filter fun e => h.untaken (bits 224 32 d) e.1 e.2.1) with
  | some e => setBits 384 32 d e.2.2
  | none => d

/-- Forget the stamps of reservations that are freed whole. -/
def QueueHome.shed (h : QueueHome) (freed : Nat) : QueueHome :=
  { h with stamps := h.stamps.filter fun e => decide ((e.1 + e.2.1 + 2 ^ 32 - freed - 1) % 2 ^ 32 < 2 ^ 31) }

/-- The home and the descriptor after a take or a reservation comes back (R218). -/
def QueueHome.giveBack (home : QueueHome) (d : Nat) (h : QHold) : QueueHome × Nat :=
  let stop := (h.start + h.count) % 2 ^ 32
  if h.take then
    if bits 224 32 d = stop then (home, home.dated (setBits 224 32 d h.start))
    else
      let home := { home with returned := home.returned ++ [(h.start, h.count)] }
      (home, home.dated d)
  else
    let home := { home with open_ := home.open_.filter fun o => o.1 != h.start }
    if bits 160 32 d = stop then (home, setBits 160 32 d h.start)
    else
      let (c, home) := QueueHome.commitOn { home with
        open_ := home.open_ ++ [(h.start, h.count, true)], voids := home.voids ++ [(h.start, h.count)] } (bits 192 32 d)
      (home, setBits 192 32 d c)

/-- Return a take or a reservation to its queue; none if its descriptor stalls. -/
def State.returnNow (s : State) (p : Nat) (h : QHold) : Option State :=
  match s.single p (Addr.ofVa h.va) 64 .any, s.part? p with
  | .stall, _ => none
  | .ok pieces, some q =>
    let (home, d) := (q.home h.va).giveBack (leNat (s.readPieces pieces)) h
    some ((s.setPart (q.setHome home)).writePieces pieces (leBytes 64 d))
  | _, _ => some s

/-- Return a take or a reservation of a dropped galley (R218). The home keeps it while the descriptor stalls (R313). -/
def State.returnHold (s : State) (p : Nat) (h : QHold) : State :=
  if h.count = 0 then s
  else match s.returnNow p h, s.part? p with
    | some u, _ => u
    | none, some q =>
      let home := q.home h.va
      s.setPart (q.setHome { home with late := home.late ++ [h] })
    | none, none => s

/-- The homes of a partition perform the returns that they have kept, as far as their descriptors do not stall. -/
def State.lateReturns (s : State) (p : Nat) : State :=
  match s.part? p with
  | none => s
  | some q => if q.homes.all fun h => h.late.isEmpty then s
    else (q.homes.flatMap QueueHome.late).foldl (fun s h => s.returnHold p h)
      (s.setPart { q with homes := q.homes.map fun h => { h with late := [] } })

/-- Restore an island to one record of it: accumulators, scales, sticky bits, and the packets consumed since (R58, R199). -/
def Island.undo (i : Island) (r : IslandRecord) : Island :=
  { i with acc := r.acc, scales := r.scales, sticky := r.sticky, packets := r.packets ++ i.packets, records := i.records.erase r }

/-- Restore an island for the galleys that fall: each of their records in turn, the one made last first, so that the island ends as the
first of them found it. -/
def Island.undoAll (i : Island) (fall : List Galley) : Island :=
  (i.records.reverse.filter fun r => fall.any fun g => g.hdr == r.hdr && g.tag == r.tag).foldl Island.undo i

/-- A counter that an instance found, back at the place where it lies now, or where it lay when it was freed. -/
def DTile.restored (d : DTile) (b : MEntry) : MEntry :=
  match d.entries.find? fun e => e.state && e.node == b.node && e.tag == b.tag with
  | some e => { b with spilled := e.spilled, slot := e.slot }
  | none => b

/-- What the tile holds after the instance `g` is dropped: nothing of it but its inputs and the counters it found (R355). -/
def DTile.dropOne (lead : Nat) (d : DTile) (g : Galley) : DTile :=
  let mine (n : Nat) (t : Tag) := t == g.tag && d.inGalley g.hdr n
  { d with
    entries := (d.entries.filter fun e => !(mine e.node e.tag)) ++ g.base.map d.restored
    ready := d.ready.filter fun e => !(mine e.node e.tag)
    inbox := d.inbox.filter fun k => k.src != .inst g.hdr g.tag
    held := d.held.filter fun k => k.src != .inst g.hdr g.tag
    galleys := d.galleys.map fun x => if x.hdr == g.hdr && x.tag == g.tag && x.seq == g.seq then
      { x with dropped := true, fell := lead, acts := [], outs := [], stseen := 0, kw := 0, ng := 0, out := 0, sticky := 0, reserved := []
               loads := [], past := [], seen := [], holds := [], latch := none } else x }

/-- The instances that fall with `g`: itself and every younger open instance of its context on the tile (R355). -/
def DTile.fallen (d : DTile) (g : Galley) : List Galley :=
  (d.openOf (tagCtx g.tag)).filter fun x => decide (g.seq ≤ x.seq)

/-- STATE of a context whose last waiter is gone (Table 18-2). -/
def State.stopWaiting (s : State) (c : Nat) : State :=
  match s.ctx? c with
  | none => s
  | some x =>
    if s.waiters.any fun w => w.ctx == c then s
    else if x.state == .waiting then s.setCtx { x with state := .runnable }
    else if x.before == .waiting then s.setCtx { x with before := .runnable }
    else s

/-- Forget the waits of instances that fall (R183, R355). -/
def State.dropWaits (s : State) (t : Nat) (fall : List Galley) : State :=
  let d := s.tile t
  let gone (tile node : Nat) (tag : Tag) : Bool := tile == t && fall.any fun g => g.tag == tag && d.inGalley g.hdr node
  let cs := (s.waiters.filter fun w => gone w.tile w.node w.tag).map Waiter.ctx
  let s := { s with waiters := s.waiters.filter fun w => !(gone w.tile w.node w.tag)
                    quiesces := s.quiesces.filter fun q => !(gone q.tile q.node q.tag) }
  cs.foldl State.stopWaiting s

/-- An instance has issued an MDRAIN. -/
def Galley.drains (g : Galley) : Bool := g.acts.any fun a => match a.instr with
  | .mdrain .. => true
  | _ => false

/-- The sticky bits of an island that the MDRAIN of a dropped instance was to fold go with the instance: a kill discards them, a replay gives
them back (R58). -/
def DTile.keepBits (d : DTile) (fall : List Galley) (st : Sticky) : DTile :=
  match leastBy (fun (a b : Galley) => decide (a.seq < b.seq)) (fall.filter Galley.drains) with
  | none => d
  | some g => { d with galleys := d.galleys.map fun x =>
      if x.hdr == g.hdr && x.tag == g.tag && x.seq == g.seq then { x with drained := st } else x }

/-- Sticky bits that dropped instances kept go back to their island. -/
def State.giveBits (s : State) (t : Nat) (gs : List Galley) : State :=
  let st := gs.foldl (fun st g => st ||| g.drained) 0
  if st = 0 then s else s.setIsland { s.island t with sticky := (s.island t).sticky ||| st }

/-- Drop an instance with those that fall with it (R355). Inputs that a fallen instance sent to another are regenerated. -/
def State.dropGalley (s : State) (t : Nat) (g : Galley) : State :=
  let d := s.tile t
  let fall := d.fallen g
  let young := sortBy (fun (a b : Galley) => decide (b.seq < a.seq)) fall
  let s := (young.foldl (fun s x => x.holds.reverse.foldl (fun s h => s.returnHold (s.unitPart t) h) s) s).dropWaits t fall
  let isl := if (s.island t).records.isEmpty then s.island t else (s.island t).undoAll fall
  let s := if isl.records.isEmpty && !(fall.any Galley.drains) && (s.island t).records.isEmpty then s
    else s.setIsland (if fall.any Galley.drains then { isl with sticky := 0 } else isl)
  let d := (fall.foldl (DTile.dropOne g.seq) (s.tile t)).keepBits fall isl.sticky
  let clean := d.galleys.map fun x => if x.dropped then
    { x with inputs := x.inputs.filter fun k => match k.src with
      | .outside => true
      | .inst h tg => !(fall.any fun y => y.hdr == h && y.tag == tg) } else x
  let s := young.foldl (fun (s : State) x => match x.latch, s.ctx? (tagCtx x.tag) with
    | some l, some c => s.setCtx { c with readLatch := l }
    | _, _ => s) s
  let perf := d.perf.set 2 ((d.perf.getD 2 0 + fall.length) % 2 ^ 64)
  s.setTile { d with galleys := clean, perf := perf }.spent

/-- Give the held inputs of dropped instances back to the tile's links, in their original order (R355, R359). -/
def State.reopen (s : State) (t : Nat) (gs : List Galley) : State :=
  let d := s.tile t
  let same (x y : Galley) := x.hdr == y.hdr && x.tag == y.tag && x.seq == y.seq
  let toks := sortBy (fun a b => decide (a.age < b.age)) (gs.flatMap Galley.inputs)
  (s.giveBits t gs).setTile { d with galleys := d.galleys.filter fun x => !(x.dropped && gs.any (same x)), inbox := toks ++ d.inbox }

/-! ## Voiding and killing a forme (R354, R356) -/

/-- A core without the tokens of its queues and links. -/
def Core.cleared (c : Core) : Core :=
  { c with
    links := []
    elems := c.elems.map fun e => { e with q0 := [], q1 := [], q2 := [], q3 := [], scales := [] }
    ags := c.ags.map fun a => { a with in0 := [], in1 := [], in2 := [], in3 := [] } }

/-- Void the open round of a forme: everything as it stood at its start, every token cleared, halted (R354). -/
def Forme.void (f : Forme) : Forme :=
  { f with
    status := .voided
    run := { f.run with core := f.run.start.cleared, staging := [], touched := [], yielding := false, voids := 0, tileStaged := 0
                        roundOpen := f.run.round == 0 } }

/-- Replay the voided round from its recorded start: the logged tokens enter again, in their order (R354, R250). -/
def Forme.replay (f : Forme) : Forme :=
  if f.status == .voided then
    { f with status := .live, held := f.run.inlog ++ f.held
             run := { f.run with core := f.run.start, inlog := [], replaying := f.run.inlog.length + f.run.replaying } }
  else f

/-- Doors that name a forme return to ABSENT when it leaves its chase (R290, R356). -/
def State.doorsAbsent (s : State) (p h : Nat) : State :=
  match s.part? p with
  | none => s
  | some q => s.setPart { q with doors := q.doors.map fun d =>
      if d.forme && d.state == .resident && d.base == h then { d with state := .absent, base := 0 } else d }

/-- STATE of a context after one of its formes has come or gone: SWAPPED while any is swapped out (R324). -/
def State.refreshSwapped (s : State) (c : Nat) : State :=
  match s.ctx? c with
  | none => s
  | some x =>
    let some_ := s.formes.any fun f => f.ctx == c && match f.status with
      | .swapped _ => true
      | _ => false
    if some_ && (x.state == .runnable || x.state == .waiting) then s.setCtx { x with state := .swapped }
    else if !some_ && x.state == .swapped then s.setCtx { x with state := .runnable }
    else s

/-- A forme that is live on its chase. -/
def Forme.isLive (f : Forme) : Bool := match f.status with
  | .live | .entering | .voided | .marked | .saved => true
  | _ => false

/-- A forme that is on its chase: standing, or live. -/
def Forme.placed (f : Forme) : Bool := f.status == .standing || f.isLive

/-- The formes whose chase meets the rectangle at an origin. -/
def State.meets (s : State) (die : Nat) (g : FormeCfg) (ox oy : Nat) : List Forme :=
  s.formes.filter fun f => f.placed && f.die == die && decide (f.bx < ox + g.w) && decide (ox < f.bx + f.cfg.w) &&
    decide (f.oy < oy + g.h) && decide (oy < f.oy + f.cfg.h)

/-- Kill a forme (R356): nothing of it is left on its chase. With `keep`, its image stays for an ERET that imposes it again. -/
def State.killForme (s : State) (f : Forme) (keep : Bool) : State :=
  let s := s.doorsAbsent f.part f.handle
  let s := if keep then s.setForme { f with status := .killed, run := {}, held := [], mark := none, reply := none }
    else s.dropForme f.handle
  s.refreshSwapped f.ctx

/-! ## Taking a fault -/

/-- The payload of a fault: an access, a token with its tag, or plain bits. -/
inductive Pay where
  | access (va size kind : Nat)
  | token (tag bits : Nat)
  | raw (n : Nat)
  deriving DecidableEq, Repr

def Pay.bits (q : Pay) (seq round : Nat) : Nat :=
  match q with
  | .access va size kind => accessPayload va size kind + seq % 2 ^ 32 * 2 ^ 32 + round % 2 ^ 32
  | .token tag k => tag % 2 ^ 64 * 2 ^ 128 + k % 2 ^ 64 * 2 ^ 64 + round % 2 ^ 32
  | .raw n => n

/-- Take a fault of a forme at element (x, y), port `port`, found by source `src` (Table 22-1): in round mode the round is voided (PREC 0),
in stream mode the forme is killed (PREC 2); the record goes to the forme's context (R351 to R356, R361). Whether the part found further
faults of the round, which MULTI says, is picked (log 18). -/
def State.faultFormeBy (src : Nat) (s : State) (h x y port cls reason : Nat) (pay : Pay) : Option State :=
  match s.forme? h with
  | none => some s
  | some f =>
    let loc := x % 256 * 2 ^ 10 + y % 256 * 4 + port % 4
    let head : FaultHead := { ctx := f.ctx, src := src, srcid := h, cls := cls, prec := if f.cfg.stream then 2 else 0
                              reason := reason, loc := loc }
    if f.cfg.stream then (s.killForme f true).postFault head (pay.bits 0 0) false (.killed h)
    else
      let (more, s) := s.pick 2
      (s.setForme f.void).postFault { head with multi := more == 1 } (pay.bits 0 f.run.round) false (.round h)

/-- Take a fault raised by an element of a forme. -/
def State.faultForme : State → Nat → Nat → Nat → Nat → Nat → Nat → Pay → Option State := State.faultFormeBy 0

/-- Take a fault of the instance `g` on tile `t` at its record at `node`, found by source `src`: the instance is dropped with its younger
ones (PREC 1), and the record goes to the context (R355, R358). MULTI is picked (log 18). -/
def State.faultGalleyBy (src : Nat) (s : State) (t : Nat) (g : Galley) (node cls reason : Nat) (pay : Pay) : Option State :=
  let (more, s) := s.pick 2
  (s.dropGalley t g).postFault
    { ctx := tagCtx g.tag, src := src, srcid := t % 32, cls := cls, prec := 1, reason := reason, loc := node, multi := more == 1 }
    (pay.bits g.seq 0) g.hnd (.galley t g.hdr g.tag g.seq)

/-- Take a fault raised by a record of an instance. -/
def State.faultGalley : State → Nat → Galley → Nat → Nat → Nat → Pay → Option State := State.faultGalleyBy 1

/-- A failed operation (PREC 4): a record that stops nothing (R353, R359). `hnd`: a record of a fault-handler instance started it, so that
the handler itself faults (R358). -/
def State.faultOp (s : State) (c src srcid cls reason : Nat) (payload : Nat) (hnd : Bool) : Option State :=
  s.postFault { ctx := c, src := src, srcid := srcid, cls := cls, prec := 4, reason := reason } payload hnd .operation

/-! ## Returning from a fault (R358, R359) -/

/-- Advance HEAD of a fault queue by one (R341); none if the header's access stalls. -/
def State.advanceHead (s : State) (x : Ctx) : Option State :=
  match s.single x.part (Addr.ofVa x.fqb) 64 .both with
  | .stall => none
  | .fault _ => some s
  | .ok hdr =>
    let h := leNat (s.readPieces hdr)
    some (s.writePieces hdr (leBytes 64 (setBits 0 32 h (bits 0 32 h + 1))))

/-- Records between HEAD and TAIL of a context's fault queue. -/
def State.pendingFaults (s : State) (x : Ctx) : Nat :=
  match s.single x.part (Addr.ofVa x.fqb) 64 .both with
  | .ok hdr =>
    let h := leNat (s.readPieces hdr)
    (bits 32 32 h + 2 ^ 32 - bits 0 32 h) % 2 ^ 32
  | _ => 0

/-- STATE after the last record has been acted on (R359). -/
def State.restoreState (s : State) (c : Nat) : State :=
  match s.ctx? c with
  | none => s
  | some x =>
    if x.state == .faulted && x.work.isEmpty && x.unposted.isEmpty then
      (s.setCtx { x with state := if x.before == .faulted then .runnable else x.before, noHandler := false }).refreshSwapped c
    else s

/-- The dropped instances of a context on a tile that fell with the instance of sequence number `seq`. -/
def DTile.droppedFrom (d : DTile) (c seq : Nat) : List Galley :=
  d.galleys.filter fun g => g.dropped && tagCtx g.tag == c && g.fell == seq

/-- End the thread of dropped instances: the inputs of those that `dead` names are discarded, and the others reopen (Table 22-5). -/
def State.endThread (s : State) (t : Nat) (gs : List Galley) (dead : Galley → Bool) : State :=
  let d := s.tile t
  let same (x y : Galley) := x.hdr == y.hdr && x.tag == y.tag && x.seq == y.seq
  (s.setTile { d with galleys := d.galleys.filter fun x => !(x.dropped && dead x && gs.any (same x)) }).reopen t
    (gs.filter fun x => !(dead x))

/-- Drop the open instances of a tag on a tile, which end there; younger ones that fall with them reopen. -/
def State.endTag (s : State) (t : Nat) (tag : Tag) : State :=
  match leastBy (fun (a b : Galley) => decide (a.seq < b.seq)) ((s.tile t).galleys.filter fun g => g.tag == tag && !g.dropped) with
  | none => s
  | some g =>
    let s := s.dropGalley t g
    s.endThread t ((s.tile t).droppedFrom (tagCtx tag) g.seq) fun x => x.tag == tag

/-- The effect of an ERET action on what one record stopped (Table 22-5): 0 replay, 1 continue, 2 kill. A killed forme is not imposed again
where its chase is no longer free (R240; DEDUCED, log 102). -/
def State.resolve (s : State) (c action : Nat) (w : FaultWork) : State :=
  match w with
  | .round h => match s.forme? h with
    | none => s
    | some f => if action = 2 then s.killForme f false else s.setForme f.replay
  | .galley t h tag seq =>
    let gs := (s.tile t).droppedFrom c seq
    if action = 2 then s.endThread t gs fun x => x.hdr == h && x.tag == tag && x.seq == seq
    else s.reopen t gs
  | .killed h => match s.forme? h with
    | none => s
    | some f =>
      if f.status != .killed then s
      else if action = 0 && (s.meets f.die f.cfg f.bx f.oy).all (fun o => !o.isLive && o.bx == f.bx && o.oy == f.oy &&
          o.cfg.w == f.cfg.w && o.cfg.h == f.cfg.h) then
        s.setForme { f with status := .entering, run := {}, since := s.clock }
      else s.dropForme h
  | .operation => s
  | .trapped t tag =>
    let s := match s.ctx? c with
      | some x => s.setCtx { x with trapHold := false }
      | none => s
    if action = 2 then
      let s := s.endTag t tag
      let d := s.tile t
      s.setTile { d with
        held := d.held.filter fun k => k.tag != tag
        inbox := d.inbox.filter fun k => k.tag != tag
        entries := d.entries.filter fun e => e.tag != tag || e.state
        ready := d.ready.filter fun e => e.tag != tag }.spent
    else s

/-- ERET and CMD 1 to 3: apply an action to the record at HEAD of a context's fault queue and advance HEAD (R359); none if the
queue's header stalls. With no record there, nothing. -/
def State.eret (s : State) (c action : Nat) : Option State :=
  match s.ctx? c with
  | none => some s
  | some x =>
    match s.single x.part (Addr.ofVa x.fqb) 64 .both with
    | .stall => none
    | _ =>
      match x.work with
      | [] => some s
      | w :: rest =>
        if s.pendingFaults x = 0 then some s
        else match (s.setCtx { x with work := rest }).advanceHead x with
          | none => none
          | some s => some ((s.resolve c action w).restoreState c)

/-- CMD 6: replay the work of the fault records that could not be posted (Table 22-4, R359). -/
def State.replayUnposted (s : State) (c : Nat) : State :=
  match s.ctx? c with
  | none => s
  | some x =>
    let s := s.setCtx { x with unposted := [] }
    (x.unposted.foldl (fun s w => match w with
      | .killed _ => s.resolve c 2 w
      | _ => s.resolve c 0 w) s).restoreState c

end Sys2Proof.Machine
end

