-- ==== Sys2Proof/Machine/Flags.lean ====
section
/-! DEFINITION. The flag rules: what a firing set's flags make of a firing (R31 to R34), lane activity (R32), and what an active
firing computes: value, lane mask, sticky bits and steps of the rounding LFSR (R55 to R57). -/

namespace Sys2Proof.Machine

/-- Tokens with a flag carry VALUE 0 and LMASK 0b11 (R31); a dormant token carries VALUE 0 and LMASK 0b00 (R32). -/
def Tok.eos : Tok := { flag := .eos }
def Tok.null : Tok := { flag := .null }
def Tok.marker : Tok := { flag := .marker }
def Tok.dormant : Tok := { lmask := 0 }
def Tok.data (v : Word) : Tok := { value := v }
def Tok.pred (b : Bool) : Tok := { value := if b then 1 else 0 }

def Tok.isEos (t : Tok) : Bool := t.flag == .eos
def Tok.isNull (t : Tok) : Bool := t.flag == .null
/-- A dormant token: no flag and no active half. -/
def Tok.isDormant (t : Tok) : Bool := t.flag == .none && t.lmask == 0
/-- An active value token. -/
def Tok.isActive (t : Tok) : Bool := t.flag == .none && t.lmask != 0
/-- P of a predicate token. -/
def Tok.p (t : Tok) : Bool := t.value.getLsbD 0

/-- What the flags of a firing set make of it. -/
inductive Verdict where
  | mismatch (port : Nat)
  | eos
  | null
  | value
  deriving DecidableEq, Repr

/-- R34, then R33: EOS on every expected port ends, on some is a count mismatch (named at its lowest port); NULL next. -/
def verdict (toks : List (Nat × Tok)) : Verdict :=
  match toks.find? fun e => e.2.isEos with
  | some e => if toks.all fun e => e.2.isEos then .eos else .mismatch e.1
  | none => if toks.any fun e => e.2.isNull then .null else .value

/-- The operands of an active or dormant firing, literals in their places; a port that is not read holds an active 0.
`rs k` is the LFSR value after k + 1 steps (R55). -/
structure Opnds where
  a : Tok := {}
  b : Tok := {}
  c : Tok := {}
  p : Tok := {}
  rs : Nat → Nat

/-- What a firing computes: value, lane mask, sticky bits, LFSR steps. -/
structure Comp where
  v : Word
  lm : BitVec 2 := 3
  st : Sticky := 0
  steps : Nat := 0
  deriving DecidableEq, Repr

/-- A 32-bit instruction or a predicate instruction: dormant when any operand is (R32). -/
def whole (o : Opnds) (f : Comp) : Option Comp :=
  if o.a.isDormant || o.b.isDormant || o.c.isDormant || o.p.isDormant then none else some f

/-- The halves that are active in every data operand (R32). -/
def Opnds.lm (o : Opnds) : BitVec 2 := o.a.lmask &&& o.b.lmask &&& o.c.lmask

/-- The bits of the active halves. -/
def laneMask (lm : BitVec 2) : Word := (if lm.getLsbD 0 then 0xFFFF else 0) ||| (if lm.getLsbD 1 then 0xFFFF0000 else 0)

/-- A packed instruction without flags: inactive halves are zero, and with no active half the firing is dormant (R32). -/
def lanes (o : Opnds) (v : Word) : Option Comp :=
  if o.lm = 0 then none else some { v := v &&& laneMask o.lm, lm := o.lm }

/-- Whether a rounding mode steps the LFSR. -/
def rndSteps (m : Rnd) (n : Nat) : Nat := if m = .sr then n else 0

/-- A packed-half instruction: `f` on each active half with its LFSR value, lane 0 first (R32, R55, R113). -/
def halves (o : Opnds) (m : Rnd) (f : Nat → Nat → FRes) : Option Comp :=
  if o.lm = 0 then none
  else
    let l0 := o.lm.getLsbD 0
    let l1 := o.lm.getLsbD 1
    let r0 := if l0 then f 0 (o.rs 0) else ⟨0, 0⟩
    let r1 := if l1 then f 1 (o.rs (if l0 then 1 else 0)) else ⟨0, 0⟩
    some { v := BitVec.ofNat 32 (r0.bits % 65536 + r1.bits % 65536 * 65536), lm := o.lm, st := r0.flags ||| r1.flags
           steps := rndSteps m (l0.toNat + l1.toNat) }

/-- Half `l` of a word. -/
def half (w : Word) (l : Nat) : Nat := w.toNat / 65536 ^ l % 65536

/-- The lane mask of a token, zero when it is dormant. -/
def Tok.lanesOf (t : Tok) : BitVec 2 := t.lmask

/-- `n` steps of the LFSR. -/
def lfsrN : Nat → BitVec 16 → BitVec 16
  | 0, s => s
  | n + 1, s => lfsrN n (lfsrStep s)

/-- A seed is never zero (R56). -/
def seedOr (s : BitVec 16) : BitVec 16 := if s = 0 then 0x5A3C else s

/-- The seed of an element's route tag (R56). -/
def elemSeed (fseed : BitVec 16) (x y : Nat) (rt : BitVec 4) : BitVec 16 :=
  seedOr (fseed ^^^ BitVec.ofNat 16 (x + 128 * y) ^^^ (rt.setWidth 16 <<< 12))

/-- The seed of a pooled instance (R56). -/
def instSeed (srseed : BitVec 16) (node : Nat) (tag : Tag) : BitVec 16 :=
  seedOr (srseed ^^^ BitVec.ofNat 16 node ^^^ tag.extractLsb' 0 16 ^^^ tag.extractLsb' 16 16 ^^^ tag.extractLsb' 32 16 ^^^
    tag.extractLsb' 48 16)

end Sys2Proof.Machine
end

