-- ==== Sys2Proof/Machine/Operands.lean ====
section
/-! DEFINITION. Operands: the complete set that a record fires on, in both placements (R38 to R40, R42, R46, R72), literals, and
the element and instance state that a firing reads. -/

namespace Sys2Proof.Machine

/-- A firing: where it fires, under which route tag or tag, for which context, and the tokens of its expected ports. `out` is the
tag its results leave under (R93, R132), `again` the first token of a stream that a later one of it follows (R145). -/
structure Firing where
  pinned : Bool
  h : Nat := 0
  x : Nat := 0
  y : Nat := 0
  rt : BitVec 4 := 0
  tile : Nat := 0
  node : Nat := 0
  hdr : Nat := 0
  seq : Nat := 0
  tag : Tag := 0
  out : Tag := 0
  hnd : Bool := false
  ctx : Nat
  part : Nat
  die : Nat
  again : Option Tok := none
  p0 : Option Tok := none
  p1 : Option Tok := none
  p2 : Option Tok := none
  p3 : Option Tok := none
  deriving DecidableEq, Repr

/-- The ports that expect a token: INMASK less the literal port, and port 3 when PIN = 1 (R39, R72). -/
def expectedPorts (r : Shell) : List Nat :=
  ((List.range 3).filter fun k => bit k r.inmask.toNat && match r.lit with
    | some (q, _) => q.toNat != k
    | none => true) ++ if r.pin then [3] else []

/-- The tokens of a firing by port. -/
def Firing.toks (f : Firing) : List (Nat × Tok) :=
  [(0, f.p0), (1, f.p1), (2, f.p2), (3, f.p3)].filterMap fun e => e.2.map fun t => (e.1, t)

/-- The verdict of a firing's flags. -/
def Firing.verdict (f : Firing) : Verdict := Machine.verdict f.toks

/-- The operand on a data port: its token, or the literal (R72). -/
def Firing.port (f : Firing) (r : Shell) (k : Nat) : Tok :=
  match (if k = 0 then f.p0 else if k = 1 then f.p1 else f.p2) with
  | some t => t
  | none => match r.lit with
    | some (q, v) => if q.toNat = k then { value := v } else {}
    | none => {}

def Firing.withToks (f : Firing) (l : List (Nat × Tok)) : Firing :=
  { f with p0 := lookup 0 l, p1 := lookup 1 l, p2 := lookup 2 l, p3 := lookup 3 l }

/-! ## Elements -/

def ElemState.queue (e : ElemState) (k : Nat) : List QTok :=
  match k with
  | 0 => e.q0
  | 1 => e.q1
  | 2 => e.q2
  | _ => e.q3

def ElemState.setQueue (e : ElemState) (k : Nat) (q : List QTok) : ElemState :=
  match k with
  | 0 => { e with q0 := q }
  | 1 => { e with q1 := q }
  | 2 => { e with q2 := q }
  | _ => { e with q3 := q }

/-- The tokens of a queue that a firing can see: a marker blocks its port (R35). -/
def visible (q : List QTok) : List QTok := q.takeWhile fun t => t.tok.flag != .marker

/-- The oldest token of a route tag on a port (R39). -/
def ElemState.head? (e : ElemState) (k : Nat) (rt : BitVec 4) : Option QTok := (visible (e.queue k)).find? fun t => t.rt == rt

/-- Remove the oldest token of a route tag from a port. -/
def removeRt (rt : BitVec 4) : List QTok → List QTok
  | [] => []
  | t :: q => if t.rt == rt then q else t :: removeRt rt q

def ElemState.take (e : ElemState) (rt : BitVec 4) (k : Nat) : ElemState := e.setQueue k (removeRt rt (e.queue k))

/-- The key by which R39 chooses among complete sets: the oldest arrival in the set, then its port, then the route tag. -/
def ElemState.setKey (e : ElemState) (ports : List Nat) (rt : BitVec 4) : Option (List Nat) :=
  if ports.all fun k => (e.head? k rt).isSome then
    leastBy keyLt (ports.filterMap fun k => (e.head? k rt).map fun t => [t.age, k, rt.toNat])
  else none

def allRts : List (BitVec 4) := (List.range 16).map (BitVec.ofNat 4)

/-- The route tag whose complete set fires (R39). -/
def ElemState.pick (e : ElemState) (ports : List Nat) : Option (BitVec 4) :=
  (leastBy (fun a b => keyLt a.1 b.1) (allRts.filterMap fun rt => (e.setKey ports rt).map fun k => (k, rt))).map (·.2)

def Core.elem (c : Core) (x y : Nat) : ElemState := (c.elems.find? fun e => e.x == x && e.y == y).getD { x := x, y := y }
def Core.setElem (c : Core) (e : ElemState) : Core := { c with elems := putBy (fun a => a.x == e.x && a.y == e.y) e c.elems }

/-- The record of an element; none where VALID = 0. -/
def FormeCfg.word? (c : FormeCfg) (x y : Nat) : Option (BitVec 96) :=
  (c.recs.find? fun e => e.1 == x && e.2.1 == y).map (·.2.2)

def Forme.record? (f : Forme) (x y : Nat) : Option Instr :=
  match f.cfg.word? x y with
  | none => none
  | some w => match decode .pinned w with
    | .ok i => some i
    | .error _ => none

/-- The role of a bay's tile: BUF where the image gives none. -/
def Forme.role (f : Forme) (bay : Nat) : TileRole := (f.cfg.roles.find? fun r => r.bay == bay).getD { bay := bay, role := 0 }

def Core.fifo? (c : Core) (bay : Nat) : Option FifoState := c.fifos.find? fun f => f.bay == bay
def Core.setFifo (c : Core) (f : FifoState) : Core := { c with fifos := putBy (fun a => a.bay == f.bay) f c.fifos }
def Core.ag (c : Core) (bay : Nat) : AgState :=
  (c.ags.find? fun a => a.bay == bay).getD { bay := bay, slots := (List.range 8).map fun n => { n := n } }
def Core.setAg (c : Core) (a : AgState) : Core := { c with ags := putBy (fun b => b.bay == a.bay) a c.ags }

def AgState.input (a : AgState) (k : Nat) : List AgTok :=
  match k with
  | 0 => a.in0
  | 1 => a.in1
  | 2 => a.in2
  | _ => a.in3

def AgState.setInput (a : AgState) (k : Nat) (q : List AgTok) : AgState :=
  match k with
  | 0 => { a with in0 := q }
  | 1 => { a with in1 := q }
  | 2 => { a with in2 := q }
  | _ => { a with in3 := q }

/-- A consumer has a free entry for `n` more tokens (R38, R162, R255). An island takes one at a time from each link; whether its buffer has
room is asked when the token arrives (R195). -/
def Core.fits (c : Core) (d : Dest) (n : Nat) : Bool :=
  match d with
  | .island _ => decide (n ≤ 1)
  | .elem x y k => decide (((c.elem x y).queue k).length + n ≤ 8)
  | .tile bay _ => match c.fifo? bay with
    | some f => decide (f.ring.length + n ≤ f.cap)
    | none => true
  | .ag bay k => decide (((c.ag bay).input k).length + n ≤ 8)
  | _ => true

/-- A consumer has a free entry for a token that has arrived. -/
def Core.room (c : Core) (d : Dest) : Bool := c.fits d 1

/-- A link token carries a scale (R27). -/
def LinkTok.isScale (l : LinkTok) : Bool :=
  match l.wire with
  | .scale .. => true
  | .tok _ => false

/-- The consumer of a link token has a free entry for `n` tokens of its network: a scale goes to the latch, which holds two (R41). -/
def Core.fitsLink (c : Core) (l : LinkTok) (n : Nat) : Bool :=
  match l.isScale, l.dst with
  | true, .elem x y _ => decide ((c.elem x y).scales.length + n ≤ 2)
  | _, d => c.fits d n

/-- Tokens of a list that are bound for the same entries as a link token. -/
def LinkTok.rivals (l : LinkTok) (links : List LinkTok) : Nat := (links.filter fun k => k.dst == l.dst && k.isScale == l.isScale).length

/-- A producer has credit for one more token: an entry is free beside those that the tokens under way will take (R38). -/
def Core.credit (c : Core) (d : Dest) : Bool := c.fits d ((c.links.filter fun l => l.dst == d && !l.isScale).length + 1)

/-- No earlier result of a producer waits for a free entry (R38). -/
def Core.unblocked (c : Core) (src : Src) : Bool :=
  c.links.zipIdx.all fun e => e.1.src != src || c.fitsLink e.1 (e.1.rivals (c.links.take (e.2 + 1)))

def Mark.hasSaved (m : Option Mark) (x y : Nat) : Bool :=
  match m with
  | some k => k.saved.contains (x, y)
  | none => false

/-- An element of a live forme that may start a firing: not saved by a marker (R320), not emitting a stream (R129), with no
earlier result held back (R38). -/
def Forme.mayFire (f : Forme) (x y : Nat) : Bool :=
  f.status == .live && !(Mark.hasSaved f.mark x y) && (f.run.core.elem x y).emit.isNone && f.run.core.unblocked (.elem x y)

/-- Replace the state of a forme's core. A round opens with what an element or a FIFO tile does (R244). -/
def Forme.withCore (f : Forme) (c : Core) : Forme := { f with run := { f.run with core := c, roundOpen := true } }

def State.setCore (s : State) (f : Forme) (c : Core) : State := s.setForme (f.withCore c)

/-- Change an element's state. -/
def State.setElem (s : State) (h : Nat) (e : ElemState) : State :=
  match s.forme? h with
  | some f => s.setCore f (f.run.core.setElem e)
  | none => s

/-- The state of a route tag in an element, its seed where it has none yet (R56). -/
def Forme.rtState (f : Forme) (x y : Nat) (rt : BitVec 4) : RtState :=
  ((f.run.core.elem x y).rts.find? fun r => r.rt == rt).getD { rt := rt, lfsr := elemSeed f.cfg.fseed x y rt }

def ElemState.setRt (e : ElemState) (r : RtState) : ElemState := { e with rts := putBy (fun a => a.rt == r.rt) r e.rts }

def State.setRt (s : State) (h x y : Nat) (r : RtState) : State :=
  match s.forme? h with
  | some f => s.setElem h ((f.run.core.elem x y).setRt r)
  | none => s

/-- Note that an element has consumed an EOS (R58). -/
def Forme.noteEos (f : Forme) (eos : Bool) : Forme := { f with run := { f.run with eosSeen := f.run.eosSeen || eos } }

/-- The firing of an element on the given ports under a route tag, with its tokens removed. -/
def State.takeAt (s : State) (f : Forme) (x y : Nat) (ports : List Nat) (rt : BitVec 4) : Firing × State :=
  let e := f.run.core.elem x y
  let toks := ports.filterMap fun k => (e.head? k rt).map fun t => (k, t.tok)
  let e' := ports.foldl (fun e k => e.take rt k) e
  (({ pinned := true, h := f.handle, x := x, y := y, rt := rt, ctx := f.ctx, part := f.part, die := f.die } : Firing).withToks toks,
    s.setCore (f.noteEos (toks.any fun t => t.2.isEos)) (f.run.core.setElem e'))

/-- The complete set of an element with its tokens removed (R39). A record that expects no token has none. -/
def State.gatherElem (s : State) (h x y : Nat) (ports : List Nat) : Option (Firing × State) :=
  match s.forme? h with
  | none => none
  | some f =>
    if ports.isEmpty || !(f.mayFire x y) then none
    else ((f.run.core.elem x y).pick ports).map fun rt => s.takeAt f x y ports rt

/-! ## Instances -/

def Inst.toks (i : Inst) : List (Nat × Tok) :=
  [(0, i.p0), (1, i.p1), (2, i.p2), (3, i.p3)].filterMap fun e => e.2.map fun t => (e.1, t)

/-- Order of issue: age, then node, then tag (R42). -/
def Inst.before (a b : Inst) : Bool := keyLt [a.age, a.node, a.tag.toNat] [b.age, b.node, b.tag.toNat]

/-- The ready instance of a node under a tag that is tried next: the oldest of the open issue, else the oldest that has not been tried in
vain, else the oldest. -/
def DTile.inst? (d : DTile) (node : Nat) (tag : Tag) : Option Inst :=
  let mine := d.ready.filter fun i => i.node == node && i.tag == tag
  ((leastBy Inst.before (mine.filter Inst.gathered)).or (leastBy Inst.before (mine.filter fun i => !i.parked))).or (leastBy Inst.before mine)

/-- The instances that the tile may fire now, in order: those left of the open issue, or else every one not tried in vain (R46). -/
def DTile.due (d : DTile) : List Inst :=
  let left := d.ready.filter Inst.gathered
  if left.isEmpty then d.ready.filter fun i => !i.parked else left

/-- An instance may fire: it is the next of the open issue, it is the oldest and opens one, or it was issued before and waits (R46, R139). -/
def DTile.mayIssue (d : DTile) (i : Inst) : Bool := i.parked || leastBy Inst.before d.due == some i

/-- Remove one ready instance. -/
def removeInst (i : Inst) : List Inst → List Inst
  | [] => []
  | j :: l => if j == i then l else j :: removeInst i l

/-- The instances that an issue opened by `i` gathers beside it: the next ready ones of its node, oldest first, up to 7 (R46). `rest` are the
ready instances without `i`. -/
def gathersFrom (rest : List Inst) (i : Inst) : List Inst :=
  (sortBy Inst.before (rest.filter fun j => j.node == i.node && j.issue.isNone)).take 7

/-- The issue of an instance made now, with the settings of its context (R25). -/
def State.issueNow (s : State) (tag : Tag) : Issue :=
  match s.ctx? (tagCtx tag) with
  | some x => ⟨s.clock, x.ordfast, x.spperm⟩
  | none => ⟨s.clock, false, false⟩

/-- An instance issues: as one of the open issue; or else it opens an issue, which gathers others and is counted with all of them
(R46, R48). What has issued already is not counted again. The result is the tile without the instance, and the instance as issued. -/
def State.issueInst (s : State) (t : Nat) (i : Inst) : DTile × Inst :=
  let d := s.tile t
  let rest := removeInst i d.ready
  if i.issue.isSome then ({ d with ready := rest }, i)
  else
    let more := gathersFrom rest i
    ({ d with issues := satAdd (2 ^ 28 - 1) d.issues 1, instances := satAdd (2 ^ 31 - 1) d.instances (1 + more.length)
              ready := rest.map fun j => if more.contains j then { j with gathered := true, issue := some (s.issueNow j.tag) } else j },
      { i with issue := some (s.issueNow i.tag) })

/-- The firing of a ready instance, with the instance removed from the ready queue. -/
def State.gatherThis (s : State) (t : Nat) (i : Inst) : Option (Firing × State) :=
  let d := s.tile t
  match d.header? i.node with
  | some h =>
    match d.galley? h i.tag with
    | none => none
    | some g =>
      if !(d.mayIssue i) then none
      else
      let d := (s.issueInst t i).1.setGalley { g with issued := true, past := g.past ++ [i.node], last := s.clock }
      some (({ pinned := false, tile := t, node := i.node, hdr := h, seq := g.seq, tag := i.tag, out := i.tag, hnd := i.hnd
               ctx := tagCtx i.tag, part := s.unitPart t, die := t / 32 } : Firing).withToks i.toks, s.setTile d)
  | none => none

/-- The firing of the ready instance of a node under a tag that is next. -/
def State.gatherInst (s : State) (t node : Nat) (tag : Tag) : Option (Firing × State) :=
  ((s.tile t).inst? node tag).bind (s.gatherThis t)

/-- The complete set of the record at the site, with its tokens removed. -/
def State.gather (s : State) (r : Shell) : Option (Firing × State) :=
  match s.site with
  | .none => none
  | .elem h x y => s.gatherElem h x y (expectedPorts r)
  | .inst t node tag => s.gatherInst t node tag

/-- The context of a firing. -/
def State.ctxOf (s : State) (f : Firing) : Ctx := (s.ctx? f.ctx).getD { id := f.ctx, part := f.part }

/-- The open instance of a pooled firing. -/
def State.galleyOf (s : State) (f : Firing) : Option Galley := (s.tile f.tile).galley? f.hdr f.tag

def State.setGalley (s : State) (t : Nat) (g : Galley) : State := s.setTile ((s.tile t).setGalley g)

/-- The LFSR state that a firing starts from (R56). -/
def State.lfsr (s : State) (f : Firing) : BitVec 16 :=
  if f.pinned then match s.forme? f.h with
    | some g => (g.rtState f.x f.y f.rt).lfsr
    | none => 0
  else instSeed (s.ctxOf f).srseed f.node f.tag

/-- The operands of a firing. -/
def State.opnds (s : State) (f : Firing) (r : Shell) : Opnds :=
  { a := f.port r 0, b := f.port r 1, c := f.port r 2, p := f.p3.getD {}
    rs := fun k => (lfsrN (k + 1) (s.lfsr f)).toNat }

end Sys2Proof.Machine
end

