-- ==== Sys2Proof/Machine/Emit.lean ====
section
/-! DEFINITION. Sending results (R73 to R77, R93, R144), what a firing leaves in its element or instance (R56, R57), taking a fault
at a firing, and the common shape of a firing: its set, its flags, its value. -/

namespace Sys2Proof.Machine

/-- A coordinate moved by a signed offset. -/
def moved (n : Nat) (d : Int) : Nat := ((n : Int) + d).toNat

/-- What a pinned destination field of the element (x, y) names (R75, R76). -/
def Forme.dest (f : Forme) (x y : Nat) (d : BitVec 16) : Dest :=
  if d = noDest then .none
  else
    let bx := moved (x / 8) (destDx d)
    let byy := moved (y / 8) (destDy d)
    let k := destPort d
    match destClass d with
    | 0 => .elem (moved x (destDx d)) (moved y (destDy d)) k
    | 1 => .tile (byy * 16 + bx) k
    | 2 => .ag (byy * 16 + bx) k
    | _ => match edgeUnit k (f.bx + bx) (f.oy + byy), k with
      | none, _ => .none
      | some u, 1 => .island (f.die * 32 + u)
      | some u, 3 => .dftile (f.die * 32 + u)
      | some u, _ => .mport (f.die * 64 + u)

/-- Put a token on the links of a forme. A memory port takes its tokens without effect (log 11). -/
def Core.putLink (c : Core) (l : LinkTok) : Core :=
  match l.dst with
  | .none | .mport _ => c
  | _ => { c with links := c.links ++ [l] }

/-- Send a token from a source of a forme. -/
def State.sendLink (s : State) (h : Nat) (l : LinkTok) : State :=
  match s.forme? h with
  | some f => s.setForme { f with run := { f.run with core := f.run.core.putLink l } }
  | none => s

/-- The pooled token of a firing for a destination field. -/
def Firing.token (f : Firing) (hnd : Bool) (d : BitVec 16) (t : Tok) : PTok :=
  { tag := f.out, port := BitVec.ofNat 2 (destPort d), node := BitVec.ofNat 14 (d.toNat % 2 ^ 14), hnd := hnd || f.hnd, tok := t
    src := .inst f.hdr f.tag, again := f.again }

/-- Hold an output of a galley until its commit, and count it (R144). -/
def State.output (s : State) (f : Firing) (second : Bool) (d : BitVec 16) (t : Tok) : State :=
  match s.galleyOf f with
  | none => s
  | some g => s.setGalley f.tile { g with out := (g.out + 1) % 256, outs := g.outs ++ [⟨f.node, second, f.token g.hnd d t⟩] }

/-- Stage work for the round's commit (R185). -/
def State.stage (s : State) (f : Firing) (w : StagedWork) : State :=
  match s.forme? f.h with
  | none => s
  | some g => s.setForme { g with run := { g.run with staging := g.run.staging ++ [⟨f.y, f.x, f.rt, g.run.staging.length, w⟩] } }

/-- Whether a firing is in a round-mode forme. -/
def State.inRound (s : State) (f : Firing) : Bool :=
  f.pinned && match s.forme? f.h with
    | some g => !g.cfg.stream
    | none => false

/-- Send the result `t` of a firing to the destination field `d`. Pinned: onto the links under the firing's route tag. Pooled,
under the tag `out`: a node of its own galley gets it at once, any other node at the galley's commit (R144). -/
def State.send (s : State) (f : Firing) (second : Bool) (d : BitVec 16) (t : Tok) : State :=
  if d = noDest then s
  else if f.pinned then match s.forme? f.h with
    | some g => s.sendLink f.h { src := .elem f.x f.y, dst := g.dest f.x f.y d, rt := f.rt, wire := .tok t }
    | none => s
  else match s.galleyOf f with
    | none => s
    | some g =>
      if (s.tile f.tile).inGalley f.hdr (d.toNat % 2 ^ 14) then s.sendTile f.tile (f.token g.hnd d t) else s.output f second d t

/-- Send one token to both destinations of a record (R73, R93). -/
def State.sendBoth (s : State) (f : Firing) (r : Shell) (t : Tok) : State :=
  (s.send f false r.dsta t).send f true r.dstb t

/-- Send different tokens to the two destinations. -/
def State.sendTwo (s : State) (f : Firing) (r : Shell) (a b : Tok) : State :=
  (s.send f false r.dsta a).send f true r.dstb b

/-- What an active firing leaves: sticky bits in its element or instance, and the LFSR stepped (R56, R57). -/
def State.leave (s : State) (f : Firing) (st : Sticky) (steps : Nat) : State :=
  if f.pinned then match s.forme? f.h with
    | none => s
    | some g =>
      let e := g.run.core.elem f.x f.y
      let e := { e with sticky := e.sticky ||| st }
      let e := if steps = 0 then e else
        let r := g.rtState f.x f.y f.rt
        e.setRt { r with lfsr := lfsrN steps r.lfsr }
      s.setElem f.h e
  else match s.galleyOf f with
    | none => s
    | some g => s.setGalley f.tile { g with sticky := g.sticky ||| st }

/-- The payload that shows the token at a port (Table 22-3, class 3). -/
def Firing.tokenPay (f : Firing) (k : Nat) : Pay :=
  let t := ((lookup k f.toks).getD {})
  if f.pinned then .token 0 (pinnedBits f.rt t)
  else .token f.tag.toNat (pinnedBits 0 t)

/-- Take a fault at a firing, with the precision of its placement (R351 to R356). -/
def State.faultAt (s : State) (f : Firing) (port cls reason : Nat) (pay : Pay) : Option State :=
  if f.pinned then s.faultForme f.h f.x f.y port cls reason pay
  else match s.galleyOf f with
    | some g => s.faultGalley f.tile g f.node cls reason pay
    | none => some s

/-- A count mismatch at a port (R34, R146). -/
def State.countFault (s : State) (f : Firing) (port : Nat) : Option State := s.faultAt f port clsCount 0 (f.tokenPay port)

/-- A tag overflow (R147). -/
def State.tagFault (s : State) (f : Firing) : Option State := s.faultAt f 0 clsTag 0 (f.tokenPay 0)

/-- A permission fault of a privileged record (R87): VA zero. -/
def State.privFault (s : State) (f : Firing) : Option State := s.faultAt f 0 clsPermission 0 (.access 0 0 3)

/-- A match-spill-exhausted fault of a firing that needs an entry of the store (R44). -/
def State.spillFault (s : State) (f : Firing) (port : Nat) : Option State :=
  s.faultAt f port clsSpill 0 (.raw (f.tag.toNat * 2 ^ 128 + f.node * 2 ^ 114 + port * 2 ^ 112))

/-- A fault of R150 on an access. -/
def State.accessFault (s : State) (f : Firing) (cls va size kind : Nat) : Option State :=
  s.faultAt f 0 cls 0 (.access va size kind)

/-- An instance issues and has to wait: it stays in the ready queue as tried in vain (R46, R48). -/
def State.parkInst (s : State) (t : Nat) (i : Inst) : State :=
  let (d, j) := s.issueInst t i
  let g? := if i.issue.isSome then none else (d.header? i.node).bind fun h => d.galley? h i.tag
  let d := match g? with
    | some g => d.setGalley { g with issued := true, last := s.clock }
    | none => d
  s.setTile { d with ready := d.ready ++ [{ j with parked := true, gathered := false }] }

/-- The instance at the site issues and has to wait. One whose turn has not come stays as it is. -/
def State.park (s : State) : State :=
  match s.site with
  | .inst t node tag =>
    let d := s.tile t
    match d.inst? node tag with
    | some i => if d.mayIssue i then s.parkInst t i else s
    | none => s
  | _ => s

/-- The next state of a firing; one that has to wait stays where it is. -/
def settleFire (s : State) (r : Option State) : Out := .next (r.getD s.park)

/-- The shape of every record that follows R33 and R34: its complete set, a count mismatch, EOS or NULL to both destinations, else
its value. -/
def State.fire (s : State) (r : Shell) (value : Firing → State → Option State) : Out :=
  settleFire s (match s.gather r with
    | none => none
    | some (f, t) => match f.verdict with
      | .mismatch k => t.countFault f k
      | .eos => some (t.sendBoth f r .eos)
      | .null => some (t.sendBoth f r .null)
      | .value => value f t)

/-- A record that also sends dormant on any dormant operand and does nothing else (R32, R192). A flag or a dormant operand is passed on
before any check of permission (R87, R193): which comes first is the model's choice (DESIGN CHOICE, log 85). -/
def State.fireActive (s : State) (r : Shell) (value : Firing → State → Option State) : Out :=
  s.fire r fun f t => if f.toks.any fun e => e.2.isDormant then some (t.sendBoth f r .dormant) else value f t

/-- What an active or dormant computation sends and leaves (R93, R95). -/
def State.emitComp (s : State) (f : Firing) (r : Shell) (c : Option Comp) : State :=
  match c with
  | none => s.sendBoth f r .dormant
  | some c => (s.leave f c.st c.steps).sendBoth f r { value := c.v, lmask := c.lm }

/-- A computing record (groups 0x0 to 0x5): its value is a function of its operands (R93, R97). -/
def State.compute (s : State) (r : Shell) (comp : Opnds → Option Comp) : Out :=
  s.fire r fun f t => some (t.emitComp f r (comp (t.opnds f r)))

end Sys2Proof.Machine
end

