-- ==== Sys2Proof/Machine/Integer.lean ====
section
/-! DEFINITION. Group 0x0, integer (R59, R60, R98, R99). -/

namespace Sys2Proof.Machine

/-- Lane width of a lane type (R59). -/
def laneWidth : LaneType → Nat
  | .i32 => 32
  | .i16x2 => 16
  | .i8x4 => 8

/-- Lane `l` of a word in lanes of `w` bits. -/
def lane (w l : Nat) (x : Word) : Nat := x.toNat / 2 ^ (w * l) % 2 ^ w

/-- Two's complement reading of a lane. -/
def signedLane (w n : Nat) : Int := if n % 2 ^ w < 2 ^ (w - 1) then ((n % 2 ^ w : Nat) : Int) else ((n % 2 ^ w : Nat) : Int) - 2 ^ w

/-- The lane bits of an integer (R99). -/
def wrapLane (w : Nat) (v : Int) : Nat := (v % 2 ^ w).toNat

/-- The signed range of .SAT (R59). -/
def clampLane (w : Nat) (v : Int) : Int := if v < -2 ^ (w - 1) then -2 ^ (w - 1) else if 2 ^ (w - 1) - 1 < v then 2 ^ (w - 1) - 1 else v

/-- Apply `f` lane by lane: width and the unsigned lanes of ports 0, 1 and 2 to the lane's bits. -/
def onLanes (lt : LaneType) (a b c : Word) (f : Nat → Nat → Nat → Nat → Nat) : Word :=
  let w := laneWidth lt
  BitVec.ofNat 32 (((List.range (32 / w)).map fun l => f w (lane w l a) (lane w l b) (lane w l c) % 2 ^ w * 2 ^ (w * l)).foldl (· + ·) 0)

/-- A lane-typed computation: 32-bit operands for I32, packed lanes otherwise (R32, R59). -/
def laneComp (lt : LaneType) (f : Nat → Nat → Nat → Nat → Nat) (o : Opnds) : Option Comp :=
  let v := onLanes lt o.a.value o.b.value o.c.value f
  match lt with
  | .i32 => whole o { v := v }
  | _ => lanes o v

/-- The exact lane value `g` on signed lanes, clamped under .SAT and wrapped (R99). -/
def exactLane (sat : Bool) (g : Int → Int → Int → Int) (w x y z : Nat) : Nat :=
  let v := g (signedLane w x) (signedLane w y) (signedLane w z)
  wrapLane w (if sat then clampLane w v else v)

/-- A signed integer record. -/
def intComp (lt : LaneType) (sat : Bool) (g : Int → Int → Int → Int) : Opnds → Option Comp := laneComp lt (exactLane sat g)

/-- Signed quotient, −1 for a zero divisor (R60). -/
def divInt (x y : Int) : Int := if y = 0 then -1 else Int.tdiv x y

/-- Signed remainder, the dividend for a zero divisor (R60). -/
def remInt (x y : Int) : Int := if y = 0 then x else x - y * Int.tdiv x y

def execAdd (lt : LaneType) (sat : Bool) (r : Shell) (s : State) : Out := s.compute r (intComp lt sat fun x y _ => x + y)
def execSub (lt : LaneType) (sat : Bool) (r : Shell) (s : State) : Out := s.compute r (intComp lt sat fun x y _ => x - y)
def execMul (lt : LaneType) (sat : Bool) (r : Shell) (s : State) : Out := s.compute r (intComp lt sat fun x y _ => x * y)
/-- MULH: the high half of the signed product (Table 5-1). -/
def execMulh (lt : LaneType) (r : Shell) (s : State) : Out :=
  s.compute r (laneComp lt fun w x y _ => wrapLane w (signedLane w x * signedLane w y / 2 ^ w))
def execMulhu (lt : LaneType) (r : Shell) (s : State) : Out := s.compute r (laneComp lt fun w x y _ => x * y / 2 ^ w)
def execMad (lt : LaneType) (sat : Bool) (r : Shell) (s : State) : Out := s.compute r (intComp lt sat fun x y z => x * y + z)
def execDiv (lt : LaneType) (sat : Bool) (r : Shell) (s : State) : Out := s.compute r (intComp lt sat fun x y _ => divInt x y)
def execDivu (lt : LaneType) (r : Shell) (s : State) : Out :=
  s.compute r (laneComp lt fun w x y _ => if y = 0 then 2 ^ w - 1 else x / y)
def execRem (lt : LaneType) (r : Shell) (s : State) : Out := s.compute r (intComp lt false fun x y _ => remInt x y)
def execRemu (lt : LaneType) (r : Shell) (s : State) : Out := s.compute r (laneComp lt fun _ x y _ => if y = 0 then x else x % y)
def execMin (lt : LaneType) (r : Shell) (s : State) : Out := s.compute r (intComp lt false fun x y _ => if y < x then y else x)
def execMax (lt : LaneType) (r : Shell) (s : State) : Out := s.compute r (intComp lt false fun x y _ => if x < y then y else x)
def execMinu (lt : LaneType) (r : Shell) (s : State) : Out := s.compute r (laneComp lt fun _ x y _ => if y < x then y else x)
def execMaxu (lt : LaneType) (r : Shell) (s : State) : Out := s.compute r (laneComp lt fun _ x y _ => if x < y then y else x)
def execAbs (lt : LaneType) (sat : Bool) (r : Shell) (s : State) : Out :=
  s.compute r (intComp lt sat fun x _ _ => if x < 0 then -x else x)
def execNeg (lt : LaneType) (sat : Bool) (r : Shell) (s : State) : Out := s.compute r (intComp lt sat fun x _ _ => -x)

end Sys2Proof.Machine
end

