-- ==== Sys2Proof/Machine/Logic.lean ====
section
/-! DEFINITION. Group 0x1, logic (R100 to R102). -/

namespace Sys2Proof.Machine

/-- A record on the whole 32-bit word. -/
def wordComp (f : Word → Word → Word → Word) (o : Opnds) : Option Comp := whole o { v := f o.a.value o.b.value o.c.value }

/-- LUT3: bit i of the result is TT[4 a_i + 2 b_i + c_i] (R100). -/
def lut3 (tt : BitVec 8) (a b c : Word) : Word :=
  BitVec.ofNat 32 (((List.range 32).map fun i =>
    (tt.getLsbD ((a.getLsbD i).toNat * 4 + (b.getLsbD i).toNat * 2 + (c.getLsbD i).toNat)).toNat * 2 ^ i).foldl (· + ·) 0)

/-- Ones among the low `w` bits. -/
def popLane : Nat → Nat → Nat
  | 0, _ => 0
  | w + 1, x => x % 2 + popLane w (x / 2)

/-- Leading zeros of a lane of `w` bits. -/
def clzLane : Nat → Nat → Nat
  | 0, _ => 0
  | w + 1, x => if x / 2 ^ w % 2 = 1 then 0 else 1 + clzLane w x

/-- The low `w` bits in reverse order. -/
def revLane : Nat → Nat → Nat
  | 0, _ => 0
  | w + 1, x => x % 2 * 2 ^ w + revLane w (x / 2)

/-- FSHL and FSHR (R101): the two lanes joined, port 0 high, shifted by min(count, w). -/
def funnel (left : Bool) (w x y z : Nat) : Nat :=
  let n := min z w
  let t := x * 2 ^ w + y
  if left then t * 2 ^ n / 2 ^ w % 2 ^ w else t / 2 ^ n % 2 ^ w

/-- BFX (R102). -/
def bfxLane (pos len : Nat) (sx : Bool) (w x : Nat) : Nat :=
  let v := x / 2 ^ pos % 2 ^ len
  if sx then wrapLane w (signedLane len v) else v

/-- BFI (R102). -/
def bfiLane (pos len : Nat) (x y : Nat) : Nat := setBits pos len x y

def execAnd (r : Shell) (s : State) : Out := s.compute r (wordComp fun a b _ => a &&& b)
def execOr (r : Shell) (s : State) : Out := s.compute r (wordComp fun a b _ => a ||| b)
def execXor (r : Shell) (s : State) : Out := s.compute r (wordComp fun a b _ => a ^^^ b)
def execAndn (r : Shell) (s : State) : Out := s.compute r (wordComp fun a b _ => a &&& ~~~b)
def execLut3 (tt : BitVec 8) (r : Shell) (s : State) : Out := s.compute r (wordComp (lut3 tt))
def execMaj (r : Shell) (s : State) : Out := s.compute r (wordComp fun a b c => (a &&& b) ||| (a &&& c) ||| (b &&& c))
def execShl (lt : LaneType) (r : Shell) (s : State) : Out :=
  s.compute r (laneComp lt fun w x y _ => if w ≤ y then 0 else x * 2 ^ y % 2 ^ w)
def execShr (lt : LaneType) (r : Shell) (s : State) : Out := s.compute r (laneComp lt fun w x y _ => if w ≤ y then 0 else x / 2 ^ y)
def execSar (lt : LaneType) (r : Shell) (s : State) : Out :=
  s.compute r (laneComp lt fun w x y _ => wrapLane w (signedLane w x / 2 ^ min y (w - 1)))
def execFshl (lt : LaneType) (r : Shell) (s : State) : Out := s.compute r (laneComp lt (funnel true))
def execFshr (lt : LaneType) (r : Shell) (s : State) : Out := s.compute r (laneComp lt (funnel false))
def execPopc (lt : LaneType) (r : Shell) (s : State) : Out := s.compute r (laneComp lt fun w x _ _ => popLane w x)
def execClz (lt : LaneType) (r : Shell) (s : State) : Out := s.compute r (laneComp lt fun w x _ _ => clzLane w x)
def execBrev (lt : LaneType) (r : Shell) (s : State) : Out := s.compute r (laneComp lt fun w x _ _ => revLane w x)
def execBfx (lt : LaneType) (pos : BitVec 5) (len : BitVec 6) (sx : Bool) (r : Shell) (s : State) : Out :=
  s.compute r (laneComp lt fun w x _ _ => bfxLane pos.toNat len.toNat sx w x)
def execBfi (lt : LaneType) (pos : BitVec 5) (len : BitVec 6) (r : Shell) (s : State) : Out :=
  s.compute r (laneComp lt fun _ x y _ => bfiLane pos.toNat len.toNat x y)

end Sys2Proof.Machine
end

