-- ==== Sys2Proof/Machine/Compare.lean ====
section
/-! DEFINITION. Group 0x2, compares and predicates (R83, R103 to R106). -/

namespace Sys2Proof.Machine

/-- The integer conditions of Table 4-7 on lanes of `w` bits. -/
def ICond.onLanes (c : ICond) (w x y : Nat) : Bool :=
  let a := signedLane w x
  let b := signedLane w y
  match c with
  | .eq => x == y
  | .ne => x != y
  | .lt => decide (a < b)
  | .le => decide (a ≤ b)
  | .gt => decide (b < a)
  | .ge => decide (b ≤ a)
  | .ltu => decide (x < y)
  | .leu => decide (x ≤ y)
  | .gtu => decide (y < x)
  | .geu => decide (y ≤ x)

/-- An FP32 compare with its NV for a signalling NaN (R104). -/
def fcmp (c : FCond) (x y : Word) : Bool × Sticky :=
  let a := Fmt.fp32.decode x.toNat
  let b := Fmt.fp32.decode y.toNat
  (FCond.holds c a b, snanFlags [a, b])

/-- A predicate result. -/
def predComp (f : Opnds → Bool) (o : Opnds) : Option Comp := whole o { v := if f o then 1 else 0 }

/-- The data word taken as a condition (R106). -/
def Opnds.q (o : Opnds) : Bool := o.a.value != 0

def execIcmp (cond : ICond) (r : Shell) (s : State) : Out :=
  s.compute r (predComp fun o => ICond.onLanes cond 32 o.a.value.toNat o.b.value.toNat)
def execIcmpv (cond : ICond) (x2 : Bool) (r : Shell) (s : State) : Out :=
  s.compute r (laneComp (if x2 then .i16x2 else .i32) fun w x y _ => if ICond.onLanes cond w x y then 2 ^ w - 1 else 0)
def execFcmp (cond : FCond) (r : Shell) (s : State) : Out :=
  s.compute r fun o => let c := fcmp cond o.a.value o.b.value
    whole o { v := if c.1 then 1 else 0, st := c.2 }
def execFcmpv (cond : FCond) (r : Shell) (s : State) : Out :=
  s.compute r fun o => let c := fcmp cond o.a.value o.b.value
    whole o { v := if c.1 then 0xFFFFFFFF else 0, st := c.2 }
/-- SEL: a dormant token on any port makes the firing dormant, whichever operand P selects (R105). -/
def execSel (r : Shell) (s : State) : Out := s.compute r fun o => whole o { v := if o.p.p then o.a.value else o.b.value }
def execFclass (r : Shell) (s : State) : Out := s.compute r (wordComp fun a _ _ => BitVec.ofNat 32 (fclass a.toNat))
def execPand (r : Shell) (s : State) : Out := s.compute r (predComp fun o => o.p.p && o.q)
def execPor (r : Shell) (s : State) : Out := s.compute r (predComp fun o => o.p.p || o.q)
def execPxor (r : Shell) (s : State) : Out := s.compute r (predComp fun o => o.p.p != o.q)
def execPnot (r : Shell) (s : State) : Out := s.compute r (predComp fun o => !o.p.p)
def execPconst (val : Bool) (r : Shell) (s : State) : Out := s.compute r (predComp fun _ => val)
def execPtest (z : Bool) (r : Shell) (s : State) : Out := s.compute r (predComp fun o => ((o.a.value &&& o.b.value) != 0) != z)

end Sys2Proof.Machine
end

