-- ==== Sys2Proof/Machine/Float.lean ====
section
/-! DEFINITION. Group 0x3, FP32 (R50 to R57, R107 to R111). -/

namespace Sys2Proof.Machine

/-- A rounded FP32 result: its bits and sticky bits, one LFSR step under SR. -/
def fpComp (m : Rnd) (o : Opnds) (f : Nat → FRes) : Option Comp :=
  let v := f (o.rs 0)
  whole o { v := BitVec.ofNat 32 v.bits, st := v.flags, steps := rndSteps m 1 }

/-- An FP32 result that is not rounded by a mode. -/
def fpExact (o : Opnds) (v : FRes) : Option Comp := whole o { v := BitVec.ofNat 32 v.bits, st := v.flags }

/-- The decoded FP32 operands. -/
def Opnds.fa (o : Opnds) : FVal := Fmt.fp32.decode o.a.value.toNat
def Opnds.fb (o : Opnds) : FVal := Fmt.fp32.decode o.b.value.toNat
def Opnds.fc (o : Opnds) : FVal := Fmt.fp32.decode o.c.value.toNat

def execFadd (rnd : Rnd) (r : Shell) (s : State) : Out := s.compute r fun o => fpComp rnd o fun k => Fmt.fp32.add rnd k o.fa o.fb
def execFsub (rnd : Rnd) (r : Shell) (s : State) : Out := s.compute r fun o => fpComp rnd o fun k => Fmt.fp32.sub rnd k o.fa o.fb
def execFmul (rnd : Rnd) (r : Shell) (s : State) : Out := s.compute r fun o => fpComp rnd o fun k => Fmt.fp32.mul rnd k o.fa o.fb
def execFfma (rnd : Rnd) (r : Shell) (s : State) : Out :=
  s.compute r fun o => fpComp rnd o fun k => Fmt.fp32.fma rnd k o.fa o.fb o.fc
def execFmin (r : Shell) (s : State) : Out :=
  s.compute r fun o => fpExact o (Fmt.fp32.minmax false o.a.value.toNat o.b.value.toNat)
def execFmax (r : Shell) (s : State) : Out :=
  s.compute r fun o => fpExact o (Fmt.fp32.minmax true o.a.value.toNat o.b.value.toNat)
def execFabs (r : Shell) (s : State) : Out := s.compute r fun o => fpExact o (Fmt.fp32.signOp false o.a.value.toNat)
def execFneg (r : Shell) (s : State) : Out := s.compute r fun o => fpExact o (Fmt.fp32.signOp true o.a.value.toNat)
def execFdiv (rnd : Rnd) (r : Shell) (s : State) : Out := s.compute r fun o => fpComp rnd o fun k => Fmt.fp32.div rnd k o.fa o.fb
def execFsqrt (rnd : Rnd) (r : Shell) (s : State) : Out := s.compute r fun o => fpComp rnd o fun k => Fmt.fp32.sqrt rnd k o.fa
def execFrcpe (r : Shell) (s : State) : Out := s.compute r fun o => fpExact o (frcpe o.a.value.toNat)
def execFrsqe (r : Shell) (s : State) : Out := s.compute r fun o => fpExact o (frsqe o.a.value.toNat)
def execFexp2 (rnd : Rnd) (r : Shell) (s : State) : Out := s.compute r fun o => fpComp rnd o fun k => fexp2 rnd k o.a.value.toNat
def execFlog2 (rnd : Rnd) (r : Shell) (s : State) : Out := s.compute r fun o => fpComp rnd o fun k => flog2 rnd k o.a.value.toNat
def execFsin (cos : Bool) (rnd : Rnd) (r : Shell) (s : State) : Out :=
  s.compute r fun o => fpComp rnd o fun k => fsin cos rnd k o.a.value.toNat
def execFrnd (rnd : Rnd) (x : Bool) (r : Shell) (s : State) : Out :=
  s.compute r fun o => fpComp rnd o fun k => frnd rnd x k o.a.value.toNat

end Sys2Proof.Machine
end

