-- ==== Sys2Proof/Machine/Half.lean ====
section
/-! DEFINITION. Group 0x4, packed half (R112 to R115). -/

namespace Sys2Proof.Machine

/-- The decoded half `l` of an operand. -/
def halfVal (bf : Bool) (t : Tok) (l : Nat) : FVal := (Fmt.half bf).decode (half t.value l)

def execHadd (bf : Bool) (rnd : Rnd) (r : Shell) (s : State) : Out :=
  s.compute r fun o => halves o rnd fun l k => (Fmt.half bf).add rnd k (halfVal bf o.a l) (halfVal bf o.b l)
def execHsub (bf : Bool) (rnd : Rnd) (r : Shell) (s : State) : Out :=
  s.compute r fun o => halves o rnd fun l k => (Fmt.half bf).sub rnd k (halfVal bf o.a l) (halfVal bf o.b l)
def execHmul (bf : Bool) (rnd : Rnd) (r : Shell) (s : State) : Out :=
  s.compute r fun o => halves o rnd fun l k => (Fmt.half bf).mul rnd k (halfVal bf o.a l) (halfVal bf o.b l)
def execHfma (bf : Bool) (rnd : Rnd) (r : Shell) (s : State) : Out :=
  s.compute r fun o => halves o rnd fun l k => (Fmt.half bf).fma rnd k (halfVal bf o.a l) (halfVal bf o.b l) (halfVal bf o.c l)
def execHmin (bf : Bool) (r : Shell) (s : State) : Out :=
  s.compute r fun o => halves o .rne fun l _ => (Fmt.half bf).minmax false (half o.a.value l) (half o.b.value l)
def execHmax (bf : Bool) (r : Shell) (s : State) : Out :=
  s.compute r fun o => halves o .rne fun l _ => (Fmt.half bf).minmax true (half o.a.value l) (half o.b.value l)
def execHabs (bf : Bool) (r : Shell) (s : State) : Out :=
  s.compute r fun o => halves o .rne fun l _ => (Fmt.half bf).signOp false (half o.a.value l)
def execHneg (bf : Bool) (r : Shell) (s : State) : Out :=
  s.compute r fun o => halves o .rne fun l _ => (Fmt.half bf).signOp true (half o.a.value l)

/-- HDOT2 (R114): c plus the exact products of the lanes active in both words, rounded once. -/
def hdot2 (bf : Bool) (rnd : Rnd) (o : Opnds) : Option Comp :=
  let lm := o.a.lmask &&& o.b.lmask
  if o.c.isDormant || lm = 0 then none
  else
    let ls := (List.range 2).filter fun l => lm.getLsbD l
    let prods := ls.map fun l => FVal.mul (halfVal bf o.a l) (halfVal bf o.b l)
    let ops := o.fc :: ls.flatMap fun l => [halfVal bf o.a l, halfVal bf o.b l]
    let v := Fmt.fp32.sum rnd (o.rs 0) ops (o.fc :: prods.map (·.1)) (prods.any (·.2))
    some { v := BitVec.ofNat 32 v.bits, st := v.flags, steps := rndSteps rnd 1 }

def execHdot2 (bf : Bool) (rnd : Rnd) (r : Shell) (s : State) : Out := s.compute r (hdot2 bf rnd)

/-- HCMP (R115): lanes of ones where the condition holds. -/
def execHcmp (bf : Bool) (cond : FCond) (r : Shell) (s : State) : Out :=
  s.compute r fun o => halves o .rne fun l _ =>
    let a := halfVal bf o.a l
    let b := halfVal bf o.b l
    { bits := if FCond.holds cond a b then 0xFFFF else 0, flags := snanFlags [a, b] }

/-- HSEL (R115): each lane from port 0 where the lane of port 2 is non-zero. BF16 or FP16 makes no difference. -/
def execHsel (_bf : Bool) (r : Shell) (s : State) : Out :=
  s.compute r fun o => halves o .rne fun l _ =>
    { bits := if half o.c.value l ≠ 0 then half o.a.value l else half o.b.value l, flags := 0 }

/-- The lanes that HMASK leaves active (R115). -/
def hmaskLm (o : Opnds) : BitVec 2 :=
  o.a.lmask &&& o.b.lmask &&& ((if half o.b.value 0 ≠ 0 then 1 else 0) ||| (if half o.b.value 1 ≠ 0 then 2 else 0))

/-- HMASK (R115): port 0 with the lanes switched off that the mask leaves out; dormant when none is left. -/
def execHmask (_bf : Bool) (r : Shell) (s : State) : Out :=
  s.compute r fun o =>
    let lm := hmaskLm o
    if lm = 0 then none else some { v := o.a.value &&& laneMask lm, lm := lm }

end Sys2Proof.Machine
end

