-- ==== Sys2Proof/Machine/Convert.lean ====
section
/-! DEFINITION. Group 0x5, conversions (R61 to R65, R116 to R122). -/

namespace Sys2Proof.Machine

/-- The integer range that a conversion clamps to (R117). -/
def intRange (uns : Bool) (w : Nat) : Int × Int := if uns then (0, 2 ^ w - 1) else (-2 ^ (w - 1), 2 ^ (w - 1) - 1)

/-- An integer lane read as signed or unsigned. -/
def intLane (uns : Bool) (w n : Nat) : Int := if uns then ((n % 2 ^ w : Nat) : Int) else signedLane w n

def execCvtif (half_ uns : Bool) (rnd : Rnd) (r : Shell) (s : State) : Out :=
  s.compute r fun o =>
    if half_ then halves o rnd fun l k => fromInt .fp16 rnd k (intLane uns 16 (half o.a.value l))
    else fpComp rnd o fun k => fromInt .fp32 rnd k (intLane uns 32 o.a.value.toNat)

/-- CVTFI of one value: clamped, NaN gives 0 (R117). -/
def cvtfi (src : Fmt) (uns : Bool) (w : Nat) (rnd : Rnd) (k x : Nat) : FRes :=
  let rg := intRange uns w
  let v := toInt src rnd k rg.1 rg.2 x
  { bits := wrapLane w v.1, flags := v.2 }

def execCvtfi (half_ uns : Bool) (rnd : Rnd) (r : Shell) (s : State) : Out :=
  s.compute r fun o =>
    if half_ then halves o rnd fun l k => cvtfi .fp16 uns 16 rnd k (half o.a.value l)
    else fpComp rnd o fun k => cvtfi .fp32 uns 32 rnd k o.a.value.toNat

def execCvtff (toFp16 : Bool) (rnd : Rnd) (r : Shell) (s : State) : Out :=
  s.compute r fun o => halves o rnd fun l k =>
    if toFp16 then convert .bf16 .fp16 rnd false k (half o.a.value l) else convert .fp16 .bf16 rnd false k (half o.a.value l)

/-- Combine results of places that are active or not: place `i` of width `w` bits is `f i k` with the LFSR steps taken in order,
zero when it is inactive (R55, R122). The LFSR steps once for each active place, the places of port 0 first: what a lane is for CVTF8 and
PACKH is the model's choice (DESIGN CHOICE, log 81). -/
def places (o : Opnds) (m : Rnd) (w : Nat) (lm : BitVec 2) (act : List Bool) (f : Nat → Nat → FRes) : Comp :=
  let z := act.foldl (fun (acc : Nat × Nat × Nat × Sticky) on =>
    let (i, steps, v, st) := acc
    if on then
      let x := f i (o.rs steps)
      (i + 1, steps + rndSteps m 1, v + x.bits % 2 ^ w * 2 ^ (w * i), st ||| x.flags)
    else (i + 1, steps, v, st)) (0, 0, 0, 0)
  { v := BitVec.ofNat 32 z.2.2.1, lm := lm, st := z.2.2.2, steps := z.2.1 }

/-- PACKH: port 0 into lane 0, port 1 into lane 1 (R118, R122). -/
def packh (bf : Bool) (rnd : Rnd) (o : Opnds) : Option Comp :=
  if o.a.isDormant && o.b.isDormant then none
  else
    let a0 := !o.a.isDormant
    let a1 := !o.b.isDormant
    some (places o rnd 16 ((if a0 then 1 else 0) ||| (if a1 then 2 else 0)) [a0, a1] fun i k =>
      convert .fp32 (.half bf) rnd false k (if i = 0 then o.a else o.b).value.toNat)

def execPackh (bf : Bool) (rnd : Rnd) (r : Shell) (s : State) : Out := s.compute r (packh bf rnd)

/-- UNPKH: the selected lane widened to FP32; dormant when it is inactive (R118). -/
def unpkh (hi bf : Bool) (o : Opnds) : Option Comp :=
  if o.a.lmask.getLsbD hi.toNat then
    let v := convert (.half bf) .fp32 .rne false 0 (half o.a.value hi.toNat)
    some { v := BitVec.ofNat 32 v.bits, st := v.flags }
  else none

def execUnpkh (hi bf : Bool) (r : Shell) (s : State) : Out := s.compute r (unpkh hi bf)

/-- The four places of CVTF8 and TWENC that read lanes: lanes 0 and 1 of port 0, then of port 1. -/
def laneOf (o : Opnds) (i : Nat) : Nat := half (if i < 2 then o.a else o.b).value (i % 2)
def laneActive (o : Opnds) (i : Nat) : Bool := (if i < 2 then o.a else o.b).lmask.getLsbD (i % 2)

/-- LMASK of a result whose half 0 comes from port 0 and half 1 from port 1 (R122). -/
def pairLm (o : Opnds) : BitVec 2 := (if o.a.isDormant then 0 else 1) ||| (if o.b.isDormant then 0 else 2)

/-- CVTF8 (R62, R119, R122). -/
def cvtf8 (e5 sat : Bool) (rnd : Rnd) (from32 : Bool) (o : Opnds) : Option Comp :=
  if o.a.isDormant && o.b.isDormant then none
  else if from32 then
    some (places o rnd 8 1 [!o.a.isDormant, !o.b.isDormant] fun i k =>
      convert .fp32 (.fp8 e5) rnd sat k (if i = 0 then o.a else o.b).value.toNat)
  else
    some (places o rnd 8 (pairLm o) ((List.range 4).map (laneActive o)) fun i k => convert .fp16 (.fp8 e5) rnd sat k (laneOf o i))

def execCvtf8 (e5 sat : Bool) (rnd : Rnd) (from32 : Bool) (r : Shell) (s : State) : Out := s.compute r (cvtf8 e5 sat rnd from32)

/-- Two bytes of half `hi` of port 0, each made one lane by `f`; dormant when that half is inactive (R119, R120). -/
def widen (hi : Bool) (f : Nat → FRes) (o : Opnds) : Option Comp :=
  if o.a.lmask.getLsbD hi.toNat then
    let h := half o.a.value hi.toNat
    let x := f (h % 256)
    let y := f (h / 256)
    some { v := BitVec.ofNat 32 (x.bits % 65536 + y.bits % 65536 * 65536), st := x.flags ||| y.flags }
  else none

def execCvt8f (e5 hi : Bool) (r : Shell) (s : State) : Out := s.compute r (widen hi fun b => convert (.fp8 e5) .fp16 .rne false 0 b)

/-- TWENC (R65, R120, R122). -/
def twenc (bf : Bool) (o : Opnds) : Option Comp :=
  if o.a.isDormant && o.b.isDormant then none
  else some (places o .rne 8 (pairLm o) ((List.range 4).map (laneActive o)) fun i _ =>
    let v := tw8Encode ((Fmt.half bf).decode (laneOf o i))
    { bits := v.1, flags := v.2 })

def execTwenc (bf : Bool) (r : Shell) (s : State) : Out := s.compute r (twenc bf)

/-- A TW8 byte as n × 2^-6 (R64, R120). -/
def twdecByte (bf : Bool) (b : Nat) : FRes :=
  let n := tw8Decode b
  (Fmt.half bf).round .rne 0 (n < 0) n.natAbs 64

def execTwdec (bf hi : Bool) (r : Shell) (s : State) : Out := s.compute r (widen hi (twdecByte bf))

def execScq (fmt : ScqFmt) (r : Shell) (s : State) : Out :=
  s.compute r fun o => let v := scq fmt o.a.value.toNat
    fpExact o { bits := v.1, flags := v.2 }
def execScdq (quot : Bool) (rnd : Rnd) (r : Shell) (s : State) : Out :=
  s.compute r fun o => fpComp rnd o fun k => scdq quot rnd k o.a.value.toNat (o.b.value.toNat % 256)

end Sys2Proof.Machine
end

