-- ==== Sys2Proof/Machine/Flow.lean ====
section
/-! DEFINITION. Group 0x6, dataflow control (R123 to R130). -/

namespace Sys2Proof.Machine

/-! ## Counters and flags that a node or element keeps under a tag or route tag (R128, R130, R138, R176) -/

/-- The counter entry that is there for a node under a tag. -/
def DTile.counter? (d : DTile) (node : Nat) (tag : Tag) : Option MEntry := d.entries.find? fun e => e.node == node && e.tag == tag && e.state

/-- The counter of a node under a tag, at its start where there is no entry. -/
def DTile.counter (d : DTile) (node : Nat) (tag : Tag) : MEntry :=
  (d.counter? node tag).getD { node := node, tag := tag, state := true }

/-- Free a counter entry. An open instance that found it notes where it lay (log 97). -/
def DTile.freeCounter (d : DTile) (node : Nat) (tag : Tag) : DTile :=
  match d.counter? node tag with
  | none => d
  | some x =>
    let place (b : MEntry) : MEntry := if b.node == node && b.tag == tag then { b with spilled := x.spilled, slot := x.slot } else b
    { d with entries := d.entries.filter fun e => !(e.node == node && e.tag == tag && e.state)
             galleys := d.galleys.map fun g => { g with base := g.base.map place } }

/-- Keep a counter entry. One that is there keeps its place, in the store or in the spill area; a new one takes one (R44), and there is none to
change where it finds none. -/
def DTile.setCounter (d : DTile) (room : Nat) (e : MEntry) : DTile :=
  let rest := { d with entries := d.entries.filter fun x => !(x.node == e.node && x.tag == e.tag && x.state) }
  if (d.counter? e.node e.tag).isSome then { rest with entries := rest.entries ++ [e] } else (DTile.addEntries room [e] rest).getD d

/-- The store has a counter entry for a node under a tag, or a place for a new one. -/
def DTile.counterFits (d : DTile) (room node : Nat) (tag : Tag) : Bool :=
  (d.counter? node tag).isSome || (d.place room { node := node, tag := tag }).isSome

/-- Count and flags at a firing's place. -/
def State.kept (s : State) (f : Firing) : Word × BitVec 4 :=
  if f.pinned then match s.forme? f.h with
    | some g => ((g.rtState f.x f.y f.rt).count, (g.rtState f.x f.y f.rt).flags)
    | none => (0, 0)
  else (((s.tile f.tile).counter f.node f.tag).count, ((s.tile f.tile).counter f.node f.tag).flags)

/-- Set count and flags at a firing's place. An entry of a dataflow tile keeps the age of its allocation (R42). -/
def State.holdCounter (s : State) (f : Firing) (count : Word) (flags : BitVec 4) : State :=
  if f.pinned then match s.forme? f.h with
    | some g => s.setRt f.h f.x f.y { g.rtState f.x f.y f.rt with count := count, flags := flags }
    | none => s
  else
    let d := s.tile f.tile
    s.keepTile (d.setCounter (s.spillRoom f.tile) { d.counter f.node f.tag with
      count := count, flags := flags, age := ((d.counter? f.node f.tag).map MEntry.age).getD s.clock })

/-- Set count and flags at a firing's place; an entry of a dataflow tile that is back at its start is freed. -/
def State.keep (s : State) (f : Firing) (count : Word) (flags : BitVec 4) : State :=
  if !f.pinned && count = 0 && flags = 0 then s.setTile ((s.tile f.tile).freeCounter f.node f.tag) else s.holdCounter f count flags

/-- Whether a firing can keep count and flags at its place. -/
def State.canKeep (s : State) (f : Firing) : Bool := f.pinned || (s.tile f.tile).counterFits (s.spillRoom f.tile) f.node f.tag

/-- Set count and flags at a firing's place and go on, or raise the match-spill-exhausted fault of R44. -/
def State.keepThen (s : State) (f : Firing) (port : Nat) (count : Word) (flags : BitVec 4) (go : State → State) : Option State :=
  if !(s.canKeep f) then s.spillFault f port
  else
    let u := s.keep f count flags
    if !f.pinned && s.spillWaits (u.tile f.tile) then none else some (go u)

/-! ## Passing and steering (R126, R127) -/

def execCopy (r : Shell) (s : State) : Out := s.fire r fun f t => some (t.sendBoth f r (f.port r 0))

/-- P as flow instructions read it: a dormant predicate counts as 0 (R124, R127). -/
def Firing.pred (f : Firing) : Bool := match f.p3 with
  | some t => t.isActive && t.p
  | none => false

def execSteer (nul : Bool) (r : Shell) (s : State) : Out :=
  s.fire r fun f t =>
    let k := f.port r 0
    if f.pred then some (if nul then t.sendTwo f r k .null else t.send f false r.dsta k)
    else some (if nul then t.sendTwo f r .null k else t.send f true r.dstb k)

def execGate (nul : Bool) (r : Shell) (s : State) : Out :=
  s.fire r fun f t => some (if f.pred then t.sendBoth f r (f.port r 0) else if nul then t.sendBoth f r .null else t)

def execSink (r : Shell) (s : State) : Out := s.fire r fun _ t => some t
def execJoin (r : Shell) (s : State) : Out := s.fire r fun f t => some (t.sendBoth f r (f.port r 0))
def execNullout (r : Shell) (s : State) : Out := s.fire r fun f t => some (t.sendBoth f r .null)

/-! ## MERGE (R128) -/

/-- The ports that MERGE.PRED consumes for a predicate: all three at an EOS, else port 3 and the selected port. -/
def predPorts (p : Tok) : List Nat := if p.isEos then [0, 1, 3] else if p.isActive && p.p then [0, 3] else [1, 3]

/-- What a MERGE.PRED set sends: one EOS for three, a count mismatch for any other EOS, NULL for a NULL, else the token. -/
def State.mergePred (s : State) (f : Firing) (r : Shell) : Option State :=
  let p := f.p3.getD {}
  if p.isEos then
    if f.toks.all fun e => e.2.isEos then some (s.sendBoth f r .eos) else s.countFault f 3
  else
    let k := if p.isActive && p.p then 0 else 1
    let d := f.port r k
    if d.isEos then s.countFault f k
    else if p.isNull || d.isNull then some (s.sendBoth f r .null)
    else some (s.sendBoth f r d)

/-- The MERGE.PRED set of an element: the oldest by R39 among the route tags whose predicate has its partners. -/
def State.gatherMerge (s : State) (h x y : Nat) : Option (Firing × State) :=
  match s.forme? h with
  | none => none
  | some f =>
    if !(f.mayFire x y) then none
    else
      let e := f.run.core.elem x y
      let cand := allRts.filterMap fun rt => match e.head? 3 rt with
        | none => none
        | some p => (e.setKey (predPorts p.tok) rt).map fun k => (k, rt, predPorts p.tok)
      (leastBy (fun a b => keyLt a.1 b.1) cand).map fun c => s.takeAt f x y c.2.2 c.2.1

/-- One token of MERGE.ANY: an EOS is recorded, and the second one sends one EOS and clears the record. -/
def State.mergeAny (s : State) (f : Firing) (r : Shell) (k : Nat) (t : Tok) : Option State :=
  let (count, flags) := s.kept f
  let other : BitVec 4 := if k = 0 then 2 else 1
  if t.isEos then
    if flags &&& other != 0 then some ((s.keep f count (flags &&& ~~~3)).sendBoth f r .eos)
    else s.keepThen f k count (flags ||| (if k = 0 then 1 else 2)) id
  else some (s.sendBoth f r t)

/-- The older of the heads of ports 0 and 1 whose port has no EOS on record (R128). -/
def State.gatherAny (s : State) (h x y : Nat) : Option (Nat × Firing × State) :=
  match s.forme? h with
  | none => none
  | some f =>
    if !(f.mayFire x y) then none
    else
      let e := f.run.core.elem x y
      let cand := allRts.flatMap fun rt => [0, 1].filterMap fun k =>
        if (f.rtState x y rt).flags.getLsbD k then none else (e.head? k rt).map fun t => ([t.age, k, rt.toNat], rt, k)
      (leastBy (fun a b => keyLt a.1 b.1) cand).map fun c => (c.2.2, s.takeAt f x y [c.2.2] c.2.1)

/-- The port of an instance of MERGE.ANY. -/
def Inst.mergePort (i : Inst) : Nat := if i.p0.isSome then 0 else 1

/-- The firing of the older of the heads of ports 0 and 1 whose port has no EOS on record, in a dataflow tile (R128). -/
def State.anyInst (s : State) (t node : Nat) (tag : Tag) : Option (Nat × Firing × State) :=
  let d := s.tile t
  let free (i : Inst) : Bool := i.node == node && i.tag == tag && !((d.counter node tag).flags.getLsbD i.mergePort)
  (leastBy (fun (a b : Inst) => keyLt [a.age, a.mergePort] [b.age, b.mergePort]) (d.ready.filter free)).bind fun i =>
    (s.gatherThis t i).map fun r => (i.mergePort, r)

def execMerge (kind : MergeKind) (r : Shell) (s : State) : Out :=
  match kind, s.site with
  | .pick, _ =>
    settleFire s (match s.gather r with
      | none => none
      | some (f, t) => match f.verdict with
        | .mismatch k => t.countFault f k
        | .eos => some (t.sendBoth f r .eos)
        | _ =>
          let a := f.port r 0
          let b := f.port r 1
          if a.isNull then some (t.sendBoth f r b) else if b.isNull then some (t.sendBoth f r a) else t.countFault f 1)
  | .pred, .elem h x y => settleFire s (match s.gatherMerge h x y with
      | none => none
      | some (f, t) => t.mergePred f r)
  | .pred, _ => settleFire s (match s.gather r with
      | none => none
      | some (f, t) => t.mergePred f r)
  | .any, .elem h x y => settleFire s (match s.gatherAny h x y with
      | none => none
      | some (k, f, t) => t.mergeAny f r k (f.port r k))
  | .any, .inst n node tag => settleFire s (match s.anyInst n node tag with
      | none => none
      | some (k, f, t) => t.mergeAny f r k (f.port r k))
  | .any, .none => .next s

/-! ## CONST, REPEAT and SEQ (R126, R129) -/

/-- The elements of a forme that hold a ROUNDEND. -/
def Forme.roundEnds (f : Forme) : List (Nat × Nat) :=
  f.cfg.recs.filterMap fun e => match f.record? e.1 e.2.1 with
    | some (.roundend _) => some (e.1, e.2.1)
    | _ => none

/-- Every ROUNDEND has taken its token for the round: the forme admits no new source token (R185, R249). -/
def Forme.sealed (f : Forme) : Bool :=
  !f.cfg.stream && f.roundEnds.all fun p => f.run.core.ends.any fun e => e.1 == p.1 && e.2.1 == p.2

/-- One token of the stream that an element is emitting: the next value, or the EOS that follows the last. An element with no expected
port is a source of its chase (R319): in a sealed round it waits for the commit (R185; log 89). -/
def State.emitNext (s : State) (h x y : Nat) (r : Shell) : Option State :=
  match s.forme? h with
  | none => none
  | some f =>
    let e := f.run.core.elem x y
    match e.emit with
    | none => none
    | some m =>
      if f.status != .live || Mark.hasSaved f.mark x y || !(f.run.core.unblocked (.elem x y)) ||
          (f.sealed && (expectedPorts r).isEmpty) then none
      else
        let g : Firing := { pinned := true, h := h, x := x, y := y, rt := m.rt, ctx := f.ctx, part := f.part, die := f.die }
        if m.left = 0 then
          let s := s.setElem h { e with emit := none }
          some (if m.eos then s.sendBoth g r .eos else s)
        else
          let m' := { m with left := m.left - 1, next := m.next + m.step }
          let s := s.setElem h { e with emit := if m'.left = 0 && !m.eos then none else some m' }
          some (s.sendBoth g r (.data m.next))

/-- Start a stream of `n` values from `v` by `step`. Pinned: the element emits it token by token, the first at once. Pooled: all
tokens go to the destinations of the galley under one tag, each after the first with the first (R129, R145). -/
def State.startStream (s : State) (f : Firing) (r : Shell) (n : Nat) (v step : Word) (eos : Bool) : Option State :=
  if f.pinned then match s.forme? f.h with
    | none => some s
    | some g =>
      if n = 0 && !eos then some s
      else
        let s := s.setElem f.h { g.run.core.elem f.x f.y with emit := some ⟨f.rt, n, v, step, eos⟩ }
        some ((s.emitNext f.h f.x f.y r).getD s)
  else
    let nth (i : Nat) : Firing := { f with again := if i = 0 then none else some (.data v) }
    let s := (List.range n).foldl (fun s i => s.sendBoth (nth i) r (.data (v + BitVec.ofNat 32 i * step))) s
    some (if eos then s.sendBoth (nth n) r .eos else s)

/-- A firing of a no-port record: once per imposition, under route tag 0 (R126, R129). -/
def State.fireOnce (s : State) (go : Firing → State → Option State) : Option State :=
  match s.site with
  | .elem h x y => match s.forme? h with
    | none => none
    | some f =>
      let e := f.run.core.elem x y
      if e.fired || f.status != .live || Mark.hasSaved f.mark x y then none
      else go { pinned := true, h := h, x := x, y := y, ctx := f.ctx, part := f.part, die := f.die }
        (s.setElem h { e with fired := true })
  | _ => none

/-- Whether the element at the site is emitting a stream. -/
def State.emitting (s : State) : Option (Nat × Nat × Nat) :=
  match s.site with
  | .elem h x y => match s.forme? h with
    | some f => if (f.run.core.elem x y).emit.isSome then some (h, x, y) else none
    | none => none
  | _ => none

def execConst (value : BitVec 32) (r : Shell) (s : State) : Out :=
  if r.inmask = 0 then settleFire s (s.fireOnce fun f t => some (t.sendBoth f r (.data value)))
  else s.fireActive r fun f t => some (t.sendBoth f r (.data value))

def execRepeatN (eos : Bool) (raw : BitVec 32) (r : Shell) (s : State) : Out :=
  match s.emitting with
  | some (h, x, y) => settleFire s (s.emitNext h x y r)
  | none =>
    if r.inmask = 0 then settleFire s (s.fireOnce fun f t =>
      t.startStream f r (bits 16 16 raw.toNat) (BitVec.ofNat 32 (bits 0 16 raw.toNat)) 0 eos)
    else s.fireActive r fun f t => t.startStream f r (f.port r 1).value.toNat (f.port r 0).value 0 eos

def execSeq (eos : Bool) (r : Shell) (s : State) : Out :=
  match s.emitting with
  | some (h, x, y) => settleFire s (s.emitNext h x y r)
  | none => s.fireActive r fun f t =>
      t.startStream f r (f.port r 1).value.toNat (f.port r 0).value (f.port r 2).value eos

/-! ## Ending streams (R130) -/

/-- EOSOUT: without P every token becomes one EOS; with P the token passes and an EOS follows it when P = 1. -/
def execEosout (r : Shell) (s : State) : Out :=
  settleFire s (match s.gather r with
    | none => none
    | some (f, t) =>
      if !r.pin then some (t.sendBoth f r .eos)
      else match f.verdict with
        | .mismatch k => t.countFault f k
        | .eos => some (t.sendBoth f r .eos)
        | .null => some (t.sendBoth f r .null)
        | .value =>
          let t := t.sendBoth f r (f.port r 0)
          some (if f.pred then t.sendBoth f r .eos else t))

/-- EOSWAIT: count every token that is not EOS; at EOS send the count, with .FWD the EOS to B. -/
def execEoswait (fwd : Bool) (r : Shell) (s : State) : Out :=
  settleFire s (match s.gather r with
    | none => none
    | some (f, t) =>
      let (count, flags) := t.kept f
      if (f.port r 0).isEos then
        let t := t.keep f 0 flags
        some (t.sendTwo f r (.data count) (if fwd then .eos else .data count))
      else t.keepThen f 0 (count + 1) flags id)

end Sys2Proof.Machine
end

