-- ==== Sys2Proof/Machine/Tags.lean ====
section
/-! DEFINITION. Group 0x7, tags, routes, windows, contexts and NEXTG (R36, R131 to R143, R147). -/

namespace Sys2Proof.Machine

/-! ## Fields of a tag (R36) -/

def WidthCode.width : WidthCode → Nat
  | .w4 => 4
  | .w8 => 8
  | .w16 => 16

/-- Width of field `i`, 0 when it is absent. -/
def fieldWidth (t : Tag) (i : Nat) : Nat := codeWidth (bits (36 + 2 * i) 2 t.toNat)

/-- Lowest bit of field `i`. -/
def fieldLow (t : Tag) : Nat → Nat
  | 0 => 0
  | i + 1 => fieldLow t i + fieldWidth t i

def fieldVal (t : Tag) (i : Nat) : Nat := bits (fieldLow t i) (fieldWidth t i) t.toNat

/-- Set a present field. -/
def setField (t : Tag) (i v : Nat) : Tag := BitVec.ofNat 64 (setBits (fieldLow t i) (fieldWidth t i) t.toNat v)

/-- Pop the innermost field; none when none is present. -/
def popTag (t : Tag) : Option Tag :=
  let w := fieldWidth t 0
  if w = 0 then none
  else
    let n := t.toNat
    checkTag (BitVec.ofNat 64 (n / 2 ^ 52 * 2 ^ 52 + bits 36 16 n / 4 * 2 ^ 36 + bits 0 36 n / 2 ^ w))

/-- NEXTI on a tag. -/
def nextTag (t : Tag) : Option Tag :=
  let w := fieldWidth t 0
  if w = 0 then none else some (setField t 0 ((fieldVal t 0 + 1) % 2 ^ w))

/-- RET on a tag: the popped 16-bit field and the tag without it. -/
def retTag (t : Tag) : Option (Nat × Tag) := if fieldWidth t 0 = 16 then (popTag t).map fun u => (fieldVal t 0, u) else none

/-- SETTAG.Fi on a tag (R132). -/
def setFieldTag (t : Tag) (i v : Nat) : Option Tag :=
  if fieldWidth t i = 0 ∨ 2 ^ fieldWidth t i ≤ v then none else checkTag (setField t i v)

/-- GETTAG (Table 6-2, R132). -/
def getTag (sel : GetSel) (t : Tag) : Word :=
  BitVec.ofNat 32 (match sel with
    | .field i => if fieldWidth t i.toNat = 0 then 0 else fieldVal t i.toNat
    | .lo => bits 0 32 t.toNat
    | .hi => bits 32 32 t.toNat
    | .ctx => bits 52 12 t.toNat)

/-! ## Route table (R134) -/

def Core.routeEntry (c : Core) (rt : BitVec 4) : RouteEntry := c.route.getD rt.toNat {}
def Core.setRoute (c : Core) (rt : BitVec 4) (e : RouteEntry) : Core :=
  { c with route := ((List.range 16).map fun i => c.route.getD i {}).set rt.toNat e }

def State.route (s : State) (h : Nat) (rt : BitVec 4) : RouteEntry :=
  match s.forme? h with
  | some f => f.run.core.routeEntry rt
  | none => {}

def State.setRoute (s : State) (h : Nat) (rt : BitVec 4) (e : RouteEntry) : State :=
  match s.forme? h with
  | some f => s.setCore f (f.run.core.setRoute rt e)
  | none => s

/-! ## Tag instructions -/

/-- The set of a tag instruction: NULL, dormant and EOS sets act as value sets do (R124). -/
def State.fireTag (s : State) (r : Shell) (act : Firing → State → Option State) : Out :=
  settleFire s (match s.gather r with
    | none => none
    | some (f, t) => match f.verdict with
      | .mismatch k => t.countFault f k
      | _ => act f t)

/-- The tag T of a firing: the instance's, or the route table's; none for a cleared entry (R137). -/
def State.tagOf (s : State) (f : Firing) : Option Tag :=
  if f.pinned then
    let e := s.route f.h f.rt
    if e.valid then some e.tag else none
  else some f.tag

/-- The place that results leave from under T': its tag, or the entry RT written and the route tag RT (R137). -/
def State.retag (s : State) (f : Firing) (rt : BitVec 4) (t : Tag) : Firing × State :=
  if f.pinned then ({ f with rt := rt }, s.setRoute f.h rt ⟨true, t⟩) else ({ f with out := t }, s)

/-- A tag instruction with one result tag for its port-0 token. -/
def State.tagStep (s : State) (r : Shell) (rt : BitVec 4) (g : Tag → Option Tag) : Out :=
  s.fireTag r fun f t => match (t.tagOf f).bind g with
    | none => t.tagFault f
    | some u =>
      let (f', t) := t.retag f rt u
      some (t.sendBoth f' r (f.port r 0))

def execLoopin (wc : WidthCode) (start : BitVec 16) (rt : BitVec 4) (r : Shell) (s : State) : Out :=
  s.tagStep r rt fun t => pushTag t (WidthCode.width wc) start.toNat
def execNexti (rt : BitVec 4) (r : Shell) (s : State) : Out := s.tagStep r rt nextTag
def execLoopout (rt : BitVec 4) (r : Shell) (s : State) : Out := s.tagStep r rt popTag

/-- CALL (R132, R133, R137): pooled, the value goes to the node named on port 1 under the tag with DSTA pushed, as an output of
the galley, whatever the field names; without an active destination the output is counted and nothing is sent, an EOS on port 1 included
(DESIGN CHOICE, log 113). Pinned, SITE is pushed. -/
def execCall (callSite : BitVec 16) (rt : BitVec 4) (r : Shell) (s : State) : Out :=
  s.fireTag r fun f t =>
    if f.pinned then match (t.tagOf f).bind fun u => pushTag u 16 callSite.toNat with
      | none => t.tagFault f
      | some u =>
        let (f', t) := t.retag f rt u
        some (t.sendBoth f' r (f.port r 0))
    else if (f.port r 1).isActive then match pushTag f.tag 16 r.dsta.toNat with
      | none => t.tagFault f
      | some u => some (t.output { f with out := u } false ((f.port r 1).value.extractLsb' 0 16) (f.port r 0))
    else match t.galleyOf f with
      | none => some t
      | some g => some (t.setGalley f.tile { g with out := (g.out + 1) % 256 })

/-- RET (R132, R133, R137). -/
def execRet (rt : BitVec 4) (r : Shell) (s : State) : Out :=
  s.fireTag r fun f t => match (t.tagOf f).bind retTag with
    | none => t.tagFault f
    | some (d, u) =>
      let (f', t) := t.retag f rt u
      let k := f.port r 0
      if f.pinned then some (t.sendTwo f' r k (if k.isEos then .eos else .data (BitVec.ofNat 32 d)))
      else some (t.output f' false (BitVec.ofNat 16 d) k)

/-- GETTAG (R132, R134): the trigger's flag and lane mask stay (R124); a cleared entry reads as zero. -/
def execGettag (sel : GetSel) (r : Shell) (s : State) : Out :=
  s.fireTag r fun f t =>
    let k := f.port r 0
    let v := getTag sel ((t.tagOf f).getD 0)
    some (t.sendBoth f r (if k.isActive then { k with value := v } else k))

/-- Whether SETTAG.CTX may name a context (R133): one that the current context created, or from a system context any of the
partition. -/
def State.mayTag (s : State) (f : Firing) (target : Nat) : Bool :=
  match s.ctx? target with
  | none => false
  | some x => x.part == f.part && ((s.ctxOf f).sys || x.creator.toNat == f.ctx)

def execSettag (sel : SetSel) (rt : BitVec 4) (r : Shell) (s : State) : Out :=
  s.fireTag r fun f t =>
    let k := f.port r 0
    let b := f.port r 1
    match t.tagOf f with
    | none => t.tagFault f
    | some u =>
      if !b.isActive then
        let (f', t) := t.retag f rt u
        some (t.sendBoth f' r (if k.isEos then .eos else if k.isNull || b.isNull then .null else .dormant))
      else match sel with
        | .field i => match setFieldTag u i.toNat b.value.toNat with
          | none => t.tagFault f
          | some u =>
            let (f', t) := t.retag f rt u
            some (t.sendBoth f' r k)
        | .ctx =>
          let c := b.value.toNat % 2 ^ 12
          if !(t.mayTag f c) then t.privFault f
          else match checkTag (BitVec.ofNat 64 (setBits 52 12 u.toNat c)) with
            | none => t.tagFault f
            | some u => some (t.sendBoth { f with out := u } r k)

/-! ## WINDOW (R138) -/

/-- A release: an EOS is absorbed, a release of an empty window is a count mismatch. The count's entry stays until the reset at an EOS frees it. -/
def State.release (s : State) (f : Firing) (t : Tok) : Option State :=
  if t.isEos then some s
  else
    let (c, flags) := s.kept f
    if c = 0 then s.countFault f 1 else some (s.holdCounter f (c - 1) flags)

/-- Whether a token on port 0 can be admitted: below K with admission open, or an EOS with nothing in flight. -/
def State.admits (s : State) (f : Firing) (k : BitVec 8) (t : Tok) : Bool :=
  let c := (s.kept f).1
  if t.isEos then c = 0 else decide (c.toNat < k.toNat) && (f.pinned || !(s.tile f.tile).throttle)

/-- Admit a token; a first one in a dataflow tile needs an entry of the store (R44). -/
def State.letIn (s : State) (f : Firing) (r : Shell) (t : Tok) : Option State :=
  let (c, flags) := s.kept f
  if t.isEos then some ((s.keep f 0 flags).sendBoth f r t)
  else s.keepThen f 0 (c + 1) flags fun s => s.sendBoth f r t

/-- WINDOW in an element: one release, then one admission, of the route tag with the oldest token that can move. -/
def State.windowElem (s : State) (h x y : Nat) (k : BitVec 8) (r : Shell) : Option State :=
  match s.forme? h with
  | none => none
  | some f =>
    if !(f.mayFire x y) then none
    else
      let e := f.run.core.elem x y
      let at_ (rt : BitVec 4) : Firing :=
        { pinned := true, h := h, x := x, y := y, rt := rt, ctx := f.ctx, part := f.part, die := f.die }
      let cand := allRts.flatMap fun rt =>
        ((e.head? 1 rt).toList.map fun t => ([t.age, 1, rt.toNat], rt)) ++
        (((e.head? 0 rt).toList.filter fun t => s.admits (at_ rt) k t.tok).map fun t => ([t.age, 0, rt.toNat], rt))
      match leastBy (fun a b => keyLt a.1 b.1) cand with
      | none => none
      | some (_, rt) =>
        let after : Option State := match e.head? 1 rt with
          | none => some s
          | some t => ((s.takeAt f x y [1] rt).2).release ((s.takeAt f x y [1] rt).1) t.tok
        match after with
        | none => none
        | some s1 => match s1.forme? h, e.head? 0 rt with
          | some f1, some t =>
            if f1.status == .live && s1.admits (at_ rt) k t.tok then
              let (g, s2) := s1.takeAt f1 x y [0] rt
              s2.letIn g r t.tok
            else some s1
          | _, _ => some s1

/-- The token of a WINDOW in a dataflow tile that is next: the oldest release, or, where there is none, the oldest token of port 0. -/
def DTile.windowNext (d : DTile) (node : Nat) (tag : Tag) : Option Inst :=
  let mine := d.ready.filter fun i => i.node == node && i.tag == tag
  (leastBy Inst.before (mine.filter fun i => i.p1.isSome)).or (leastBy Inst.before mine)

/-- WINDOW in a dataflow tile: every token is an instance by itself; releases go before admissions, oldest first (R138, log 12). -/
def State.windowInst (s : State) (t node : Nat) (tag : Tag) (k : BitVec 8) (r : Shell) : Option State :=
  ((s.tile t).windowNext node tag).bind fun i => (s.gatherThis t i).bind fun g =>
    match g.1.p1, g.1.p0 with
    | some u, _ => g.2.release g.1 u
    | none, some u => if g.2.admits g.1 k u then g.2.letIn g.1 r u else none
    | none, none => none

def execWindow (k : BitVec 8) (r : Shell) (s : State) : Out :=
  settleFire s (match s.site with
    | .elem h x y => s.windowElem h x y k r
    | .inst t node tag => s.windowInst t node tag k r
    | .none => none)

/-! ## ROUTE and UNROUTE (R134 to R136) -/

/-- The route tag for an arriving tag: the one that binds it, else the lowest free one of MASK. -/
def Core.bindTag (c : Core) (mask : BitVec 16) (t : Tag) : Option (BitVec 4 × Core) :=
  match allRts.find? fun rt => (c.routeEntry rt).valid && (c.routeEntry rt).tag == t with
  | some rt => some (rt, c)
  | none => (allRts.find? fun rt => mask.getLsbD rt.toNat && !(c.routeEntry rt).valid).map fun rt => (rt, c.setRoute rt ⟨true, t⟩)

/-- ROUTE: the token at the head of port 0 leaves under the route tag of its tag; without a free entry it waits there. -/
def execRoute (mask : BitVec 16) (r : Shell) (s : State) : Out :=
  settleFire s (match s.site with
    | .elem h x y => match s.forme? h with
      | none => none
      | some f =>
        if !(f.mayFire x y) then none
        else
          let e := f.run.core.elem x y
          match e.q0 with
          | [] => none
          | t :: q =>
            if t.tok.flag == .marker then none
            else match f.run.core.bindTag mask t.tag with
              | none => none
              | some (rt, c) =>
                let g : Firing := { pinned := true, h := h, x := x, y := y, rt := rt, ctx := f.ctx, part := f.part, die := f.die }
                some ((s.setCore f (c.setElem { e with q0 := q })).sendBoth g r t.tok)
    | _ => none)

/-- UNROUTE: the token leaves for a dataflow tile under its entry's tag; without a valid entry it is dropped and reported. In round mode
either happens at the round's commit (R354, log 27). An EOS frees the entry. NULL and dormant tokens pass with their flags (R124). -/
def execUnroute (pdest : BitVec 16) (r : Shell) (s : State) : Out :=
  s.fireTag r fun f t =>
    let e := t.route f.h f.rt
    let k := f.port r 0
    match t.forme? f.h with
    | none => some t
    | some g => match g.dest f.x f.y r.dsta with
      | .dftile i =>
        let out : PTok := { tag := e.tag, port := BitVec.ofNat 2 (destPort pdest), node := BitVec.ofNat 14 (pdest.toNat % 2 ^ 14), tok := k }
        if !e.valid then if t.inRound f then some (t.stage f (.stray i out)) else t.stray f.part 1 (i % 32) out
        else
          let t := if k.isEos then t.setRoute f.h f.rt { e with valid := false } else t
          some (if t.inRound f then t.stage f (.token i out) else t.sendTile i out)
      | _ => some t

/-! ## Contexts (R140, R141) and NEXTG (R143) -/

/-- A record of group 0x7 that acts only on an active token and passes any flag on (R124). -/
def State.fireTrigger (s : State) (r : Shell) (act : Firing → State → Word → Option State) : Out :=
  s.fireTag r fun f t =>
    let k := f.port r 0
    if k.isActive then act f t k.value else some (t.sendBoth f r k)

/-- Context ids that are allocated or reserved by an open galley. -/
def State.ctxTaken (s : State) (c : Nat) : Bool :=
  (s.ctxs.any fun x => x.id == c) || s.tiles.any fun d => d.galleys.any fun g => g.reserved.contains c

/-- The lowest free context id (R318). -/
def State.freeCtx (s : State) : Option Nat := ((List.range 4095).map (· + 1)).find? fun c => !(s.ctxTaken c)

/-- Add an action for the galley's commit. -/
def State.addAct (s : State) (f : Firing) (a : Act) : State :=
  match s.galleyOf f with
  | none => s
  | some g => s.setGalley f.tile { g with acts := g.acts ++ [a] }

/-- CTXNEW: reserve the lowest free id; the context becomes allocated at the galley's commit (R140). Where several reasons hold, 3 goes before
2, and 2 before 1 (DESIGN CHOICE, log 112). -/
def execCtxnew (r : Shell) (s : State) : Out :=
  s.fireTrigger r fun f t v =>
    let me := t.ctxOf f
    let fail (n : Nat) := some (t.sendBoth f r (.data (BitVec.ofNat 32 (2 ^ 31 + n))))
    if v.getLsbD 3 && !me.sys then t.privFault f
    else if v.toNat / 16 ≠ 0 ∨ me.prio.toNat < v.toNat % 8 then fail 3
    else if (t.tile f.tile).throttle then fail 2
    else match t.freeCtx, t.galleyOf f with
      | some c, some g =>
        let t := t.setGalley f.tile { g with reserved := g.reserved ++ [c] }
        let t := t.addAct f { node := f.node, lsid := 0, instr := .ctxnew r, a := v, b := BitVec.ofNat 32 c }
        some (t.sendBoth f r (.data (BitVec.ofNat 32 c)))
      | _, _ => fail 1

/-- Why a CTXFREE is refused (R141): 2 for a context that the issuer may not free, 0 for one with live work, 1 for none. -/
def State.freeCode (s : State) (f : Firing) (c : Nat) : Nat :=
  match s.ctx? c with
  | none => 2
  | some x =>
    if c == f.ctx || x.part != f.part || (!(s.ctxOf f).sys && x.creator.toNat != f.ctx) then 2
    else
      let live := s.formes.any fun g => g.ctx == c && g.status != .standing && g.status != .killed
      let mine (t : Tag) := tagCtx t == c
      let pooled := s.tiles.any fun d => (d.galleys.any fun g => mine g.tag) || (d.entries.any fun e => mine e.tag) ||
        (d.inbox.any fun k => mine k.tag) || (d.held.any fun k => mine k.tag) || (d.ready.any fun i => mine i.tag) || d.savedPools.any fun p => p.ctx == c
      let doors := s.parts.any fun p => p.doors.any fun d => d.held.any fun k => mine k.tag
      if live || pooled || doors then 0 else 1

/-- CTXFREE: the context is freed at the galley's commit (R141). -/
def execCtxfree (r : Shell) (s : State) : Out :=
  s.fireTrigger r fun f t v =>
    let c := v.toNat % 2 ^ 12
    let code := t.freeCode f c
    let t := if code = 1 then t.addAct f { node := f.node, lsid := 0, instr := .ctxfree r, a := BitVec.ofNat 32 c } else t
    some (t.sendBoth f r (.data (BitVec.ofNat 32 code)))

/-- NEXTG (R143): counted as the galley's one branch; with P the untaken destination gets NULL. What a NULL predicate does beside a token
on port 0 that is not NULL is the model's choice: NULL goes to both destinations (log 76). -/
def execNextg (r : Shell) (s : State) : Out :=
  s.fireTag r fun f t =>
    let k := f.port r 0
    let t := match t.galleyOf f with
      | some g => t.setGalley f.tile { g with ng := g.ng + 1 }
      | none => t
    if !r.pin then some (t.sendBoth f r k)
    else if k.isNull || (f.p3.getD {}).isNull then some (t.sendBoth f r .null)
    else if k.isEos then some (t.sendBoth f r .eos)
    else if f.pred then some (t.sendTwo f r k .null)
    else some (t.sendTwo f r .null k)

end Sys2Proof.Machine
end

