-- ==== Sys2Proof/Machine/Access.lean ====
section
/-! DEFINITION. Memory accesses of records: address forms (R149), galley loads with forwarding (R156), tile accesses in both modes
(R159, R251), and the atomic operations (R177 to R180). -/

namespace Sys2Proof.Machine

/-- Bytes of an access size (Table 4-6). -/
def Size.bytes : Size → Nat
  | .w32 => 4
  | .w16 => 2
  | .w8 => 1

/-- A loaded value extended to 32 bits (R156). -/
def extendTo (sz : Size) (sx : Bool) (n : Nat) : Word :=
  let w := 8 * Size.bytes sz
  if sx then BitVec.ofNat 32 (wrapLane 32 (signedLane w n)) else BitVec.ofNat 32 (n % 2 ^ w)

/-- A context register (R155); zero until written. -/
def Ctx.k (c : Ctx) (n : Nat) : BitVec 64 := (lookup n c.kregs).getD 0

/-- The address of the K form (Table 7-1). -/
def State.kAddr (s : State) (f : Firing) (kb : BitVec 6) (n : Nat) (disp : BitVec 24) : Addr :=
  (Addr.ofVa ((s.ctxOf f).k kb.toNat)).plus (n + disp.toInt)

/-- KB and DISP of a K-form LIT kept raw. -/
def rawKb (raw : Word) : BitVec 6 := raw.extractLsb' 0 6
def rawDisp (raw : Word) : BitVec 24 := raw.extractLsb' 8 24

/-! ## Galley order (R142, R156) -/

/-- Store-kind records that stay to be seen in an instance, below LSID `i`. -/
def DTile.unseen (d : DTile) (g : Galley) (i : Nat) : Bool :=
  match d.word? g.hdr with
  | none => false
  | some w => (hdrStores w &&& ~~~g.stseen) &&& BitVec.ofNat 32 (2 ^ i - 1) != 0

/-- Records that read and write memory in one step. -/
def isAtomic : Instr → Bool
  | .aadd .. | .amin .. | .amax .. | .aand .. | .aor .. | .axor .. | .axchg .. | .acas .. | .afadd .. | .red .. | .lockacq ..
  | .lockrel .. => true
  | _ => false

/-- Plain stores. -/
def isStore : Instr → Bool
  | .st .. | .sti .. | .scatter .. => true
  | _ => false

/-- The byte ranges of a memory record: the bytes it names, and for a contribution also COUNT, EXPECT and READY of its line (R179). -/
def Act.ranges (a : Act) : List (Int × Nat) :=
  (a.off, a.size) :: match a.instr with
    | .red .. => [(a.off / 128 * 128 + 120, 8)]
    | _ => []

/-- A memory record and a byte range of an object meet. -/
def Act.meets (a : Act) (x : Addr) (size : Nat) : Bool :=
  a.obj == x.obj && a.ranges.any fun r => decide (r.1 < x.off + size) && decide (x.off < r.1 + r.2)

/-! ## Records that order others (R153, R182) -/

/-- IMM of a galley atomic: it acts at issue. -/
def Instr.atIssue : Instr → Bool
  | .aadd _ _ _ raw _ | .amin _ _ _ raw _ | .amax _ _ _ raw _ | .aand _ _ _ raw _ | .aor _ _ _ raw _ | .axor _ _ _ raw _
  | .axchg _ _ _ raw _ | .acas _ _ _ raw _ | .afadd _ _ _ raw _ | .lockacq _ _ raw _ | .lockrel _ _ raw _ => raw.getLsbD 7
  | _ => true

/-- A record that acquires: .ACQ, a FENCE that has it or no suffix, and COPYW (R217). -/
def Instr.acquires : Instr → Bool
  | .aadd acq .. | .amin acq .. | .amax acq .. | .aand acq .. | .aor acq .. | .axor acq .. | .axchg acq .. | .acas acq .. | .afadd acq ..
  | .lockacq acq .. | .redwait acq .. | .barwait acq .. | .waitw acq .. => acq
  | .fence acq _ rel _ => acq || !rel
  | .copyw .. => true
  | _ => false

/-- .REL of an atomic. -/
def Instr.releases : Instr → Bool
  | .aadd _ _ rel .. | .amin _ _ rel .. | .amax _ _ rel .. | .aand _ _ rel .. | .aor _ _ rel .. | .axor _ _ rel .. | .axchg _ _ rel ..
  | .acas _ _ rel .. | .afadd _ _ rel .. | .lockrel _ rel .. => rel
  | _ => false

/-- The nodes of a galley. -/
def DTile.galleyNodes (d : DTile) (h : Nat) : List Nat :=
  match d.word? h with
  | some w => (List.range (hdrCount w)).map fun k => h + 1 + k
  | none => []

/-- The nodes of a galley that a node sends to. -/
def DTile.feeds (d : DTile) (h n : Nat) : List Nat :=
  match (d.record? n).bind Instr.shell? with
  | some r => ([r.dsta, r.dstb].filter fun x => x != noDest).filterMap fun x =>
    if d.inGalley h (x.toNat % 2 ^ 14) then some (x.toNat % 2 ^ 14) else none
  | none => []

/-- The nodes that tokens from a list of nodes reach in `k` firings, with those. -/
def DTile.reached (d : DTile) (h : Nat) : Nat → List Nat → List Nat
  | 0, l => l
  | k + 1, l => DTile.reached d h k (l ++ (l.flatMap (d.feeds h)).eraseDups.filter fun n => !(l.contains n))

/-- The LSID of a record (R71). -/
def Instr.lsid (i : Instr) : Nat := (i.shell?.map fun r => r.aux.toNat).getD 0

/-- Record `a` comes before record `b` of its galley: by LSID where both carry one; else by node, unless `b` feeds `a` (log 77). -/
def DTile.comesBefore (d : DTile) (h a b : Nat) : Bool :=
  match d.record? a, d.record? b with
  | some i, some j =>
    if i.hasLsid && j.hasLsid then
      decide (Instr.lsid i < Instr.lsid j)
    else decide (a < b) && !((d.reached h (d.galleyNodes h).length [b]).contains a)
  | _, _ => false

/-- A record with .ACQ of an open instance has not been performed: it has not fired, or waits for its galley's commit. -/
def DTile.unperformed (d : DTile) (o : Galley) (n : Nat) : Bool :=
  match d.record? n with
  | some i => Instr.acquires i && (!(o.past.contains n) || (!(Instr.atIssue i) && o.acts.any fun a => a.node == n))
  | none => false

/-- An access of an instance at a node has to wait for a record with .ACQ that it follows, of its own galley or of an earlier one (R153). -/
def DTile.mustFollow (d : DTile) (g : Galley) (node : Nat) : Bool :=
  (d.openOf (tagCtx g.tag)).any fun o => (d.galleyNodes o.hdr).any fun n => d.unperformed o n &&
    (decide (o.seq < g.seq) || (o.seq == g.seq && d.comesBefore g.hdr n node))

/-- A record of an instance with an LSID below `i` has not fired. -/
def DTile.unfired (d : DTile) (o : Galley) (i : Nat) : Bool :=
  (d.galleyNodes o.hdr).any fun n => match d.record? n with
    | some j => j.hasLsid && decide (Instr.lsid j < i) && !(o.past.contains n)
    | none => false

/-- An access that precedes a record with .REL at a node has not been performed: one of an earlier galley, whose commit is to come, or one of
its own with a lower LSID that has not fired or waits for the commit (R153). -/
def DTile.mustPrecede (d : DTile) (g : Galley) (lsid : Nat) : Bool :=
  (d.openOf (tagCtx g.tag)).any fun o => decide (o.seq < g.seq) || (o.seq == g.seq && (d.unseen o lsid || d.unfired o lsid ||
    o.acts.any fun a => (isStore a.instr || isAtomic a.instr) && decide (a.lsid < lsid)))

/-- A record of an instance has to wait for one with .ACQ that it follows (R153). -/
def State.follows (s : State) (f : Firing) : Bool :=
  !f.pinned && match s.galleyOf f with
    | some g => (s.tile f.tile).mustFollow g f.node
    | none => false

/-- A record that reads or writes memory when it fires, not at its galley's commit (Table 7-2, R178, R204, R218). -/
def Instr.accessesNow (i : Instr) : Bool :=
  match i with
  | .ld .. | .ldi .. | .gather .. | .redwait .. | .tex .. | .texn .. | .qresv .. | .qtake .. | .barwait .. | .waitw .. | .copyw .. => true
  | i => isAtomic i && Instr.atIssue i && match i with
    | .red .. => false
    | _ => true

/-- A record of the instance at a node has to wait for an access of its own galley that precedes it and is performed when it fires (R182). -/
def DTile.mustAwait (d : DTile) (g : Galley) (node : Nat) : Bool :=
  (d.galleyNodes g.hdr).any fun n => n != node && !(g.past.contains n) && d.comesBefore g.hdr n node && match d.record? n with
    | some i => Instr.accessesNow i
    | none => false

/-- A load of an instance may issue (R156): every older store-kind record has been seen, no older atomic on its bytes waits. -/
def DTile.loadReady (d : DTile) (g : Galley) (lsid : Nat) (x : Addr) (size : Nat) : Bool :=
  (d.openOf (tagCtx g.tag)).all fun o =>
    if o.seq < g.seq then !(d.unseen o 32) && !(o.acts.any fun a => isAtomic a.instr && a.meets x size)
    else if o.seq = g.seq then
      !(d.unseen o lsid) && !(o.acts.any fun a => isAtomic a.instr && decide (a.lsid < lsid) && a.meets x size)
    else true

/-- The uncommitted stores of a context on its tile, oldest first, each with the sequence number of its galley. -/
def DTile.keyedStores (d : DTile) (g : Galley) : List (Nat × Act) :=
  (sortBy (fun a b => decide (a.seq < b.seq)) (d.openOf (tagCtx g.tag))).flatMap fun o =>
    (sortBy (fun (a b : Act) => decide (a.lsid < b.lsid)) (o.acts.filter fun a => isStore a.instr)).map fun a => (o.seq, a)

/-- Those of a list of stores that are older than (galley, LSID). -/
def olderOf (l : List (Nat × Act)) (seq lsid : Nat) : List Act :=
  (l.filter fun e => decide (e.1 < seq) || (e.1 == seq && decide (e.2.lsid < lsid))).map (·.2)

/-- The uncommitted stores of a context older than (galley, LSID), oldest first. -/
def DTile.olderStores (d : DTile) (g : Galley) (lsid : Nat) : List Act := olderOf (d.keyedStores g) g.seq lsid

/-- One byte as a load sees it: of the youngest older store that wrote it, else of memory (R156). -/
def forwardByte (stores : List Act) (obj : Nat) (off : Int) (m : Byte) : Byte :=
  stores.foldl (fun b a =>
    if a.obj == obj && decide (a.off ≤ off) && decide (off < a.off + a.size) then
      BitVec.ofNat 8 (a.a.toNat / 256 ^ (off - a.off).toNat) else b) m

/-- The word that a younger load of the context has read already, as the first of them found it: an older load of the word returns nothing
later in coherence order (R268). -/
def DTile.seenFor (d : DTile) (g : Galley) (lsid : Nat) (x : Addr) : Option Seen :=
  leastBy (fun (a b : Seen) => decide (a.time < b.time)) ((d.openOf (tagCtx g.tag)).flatMap fun o =>
    o.seen.filter fun v => (decide (g.seq < o.seq) || (o.seq == g.seq && decide (lsid < v.lsid))) && v.obj == x.obj &&
      v.off == x.off.toNat / 4 * 4)

/-- What a load of (galley, LSID) reads of a word as it was seen. -/
def Seen.read (v : Seen) (seq lsid : Nat) (x : Addr) (size : Nat) : Nat :=
  leNat ((List.range size).map fun (i : Nat) =>
    forwardByte (olderOf v.stores seq lsid) x.obj (x.off + (i : Int)) (v.mem.getD (x.off.toNat % 4 + i) 0))

/-- A galley load of one aligned access: none while it has to wait, a fault class with its address, or the value. -/
def State.galleyLoad (s : State) (f : Firing) (g : Galley) (lsid : Nat) (x : Addr) (size : Nat) : Option (Except Nat Nat) :=
  let d := s.tile f.tile
  if !(d.loadReady g lsid x size) || d.mustFollow g f.node then none
  else match s.translate f.part x size .read with
    | .stall => none
    | .fault c => some (.error c)
    | .ok pa _ => match d.seenFor g lsid x with
      | some v => some (.ok (v.read g.seq lsid x size))
      | none =>
        let st := d.olderStores g lsid
        some (.ok (leNat ((List.range size).map fun (i : Nat) => forwardByte st x.obj (x.off + (i : Int)) (Memory.read s.mem (pa + i)))))

/-- Note that an instance has read memory (R313). -/
def State.noteRead (s : State) (f : Firing) (x : Addr) (size kind acc : Nat) : State :=
  match s.galleyOf f with
  | some g => (s.useXl (f.tile / 32) (64 + f.tile % 32) f.part x).setGalley f.tile { g with loads := g.loads ++ [⟨x.obj, x.off.toNat, size, acc, kind⟩] }
  | none => s

/-- A word of memory as a record of an instance finds it now. -/
def State.seeWord (s : State) (f : Firing) (g : Galley) (lsid : Nat) (x : Addr) (pa : Nat) : Seen :=
  { time := s.clock, lsid := lsid, obj := x.obj, off := x.off.toNat / 4 * 4, mem := s.readN (pa / 4 * 4) 4, stores := (s.tile f.tile).keyedStores g }

/-- Note that an instance has performed a load, with the word as the load found it (R268, R313). -/
def State.noteLoad (s : State) (f : Firing) (lsid : Nat) (x : Addr) (size : Nat) : State :=
  match s.galleyOf f, s.translate f.part x size .read with
  | some g, .ok pa _ =>
    let v := ((s.tile f.tile).seenFor g lsid x).getD (s.seeWord f g lsid x pa)
    (s.useXl (f.tile / 32) (64 + f.tile % 32) f.part x).setGalley f.tile { g with
      loads := g.loads ++ [⟨x.obj, x.off.toNat, size, size, 0⟩], seen := g.seen ++ [{ v with lsid := lsid }] }
  | _, _ => s

/-- Note the word that an IMM atomic is about to change: an older load of it returns it as it was before (R269). -/
def State.noteAtomic (s : State) (f : Firing) (lsid : Nat) (x : Addr) : State :=
  match s.galleyOf f, s.translate f.part x 4 .both with
  | some g, .ok pa _ => s.setGalley f.tile { g with seen := g.seen ++ [{ s.seeWord f g lsid x pa with fixed := true }] }
  | _, _ => s

/-- The instance whose younger load of a word must run again before a load of the instance `g` may return it: the word has changed since the
younger load read it, and `g` has accepted a token since, which acquires what the host wrote before (R272). -/
def State.overtaken (s : State) (f : Firing) (g : Galley) (lsid : Nat) (x : Addr) (size : Nat) : Option Galley :=
  let d := s.tile f.tile
  match s.translate f.part x size .read, d.seenFor g lsid x with
  | .ok pa _, some v =>
    if v.fixed || decide (g.heard ≤ v.time) || v.mem == s.readN (pa / 4 * 4) 4 then none
    else leastBy (fun (a b : Galley) => decide (a.seq < b.seq)) ((d.openOf (tagCtx g.tag)).filter fun o => decide (g.seq ≤ o.seq) &&
      o.seen.any fun w => w.obj == v.obj && w.off == v.off && (decide (g.seq < o.seq) || decide (lsid < w.lsid)))
  | _, _ => none

/-- Drop an instance with its younger ones and reopen them all from their inputs, with no record. -/
def State.runAgain (s : State) (t : Nat) (o : Galley) : State :=
  let u := s.dropGalley t o
  u.reopen t ((u.tile t).droppedFrom (tagCtx o.tag) o.seq)

/-- Before the instance `g` loads words: the younger loads of them that must run again do so. The Bool says that the load's own instance is
among them, and that the load is gone with it (R272; log 99). -/
def State.runOvertaken (s : State) (f : Firing) (g : Galley) (lsid size : Nat) : List Addr → State × Bool
  | [] => (s, false)
  | x :: l => match s.overtaken f g lsid x size with
    | none => State.runOvertaken s f g lsid size l
    | some o => if o.seq = g.seq then (s.runAgain f.tile o, true) else State.runOvertaken (s.runAgain f.tile o) f g lsid size l

/-- Note that the open round of a forme has accessed memory, by accesses of `acc` bytes (R313). -/
def Forme.touch (f : Forme) (x : Addr) (size : Nat) (kind : Nat := 0) (acc : Nat := size) : Forme :=
  if f.cfg.stream then f else { f with run := { f.run with touched := f.run.touched ++ [⟨x.obj, x.off.toNat, size, acc, kind⟩] } }

/-- An access of a forme's agent at a bay goes through the partition's memory port nearest to it (R309; log 31). -/
def State.usePort (s : State) (f : Forme) (bay : Nat) (x : Addr) : State :=
  match s.portOf f.part (f.bx + bay % 16, f.oy + bay / 16) with
  | some xl => s.useXl f.die xl f.part x
  | none => s

/-- Note an access of a firing with its round or its instance (R313). -/
def State.touch (s : State) (f : Firing) (x : Addr) (size : Nat) (kind : Nat := 0) (acc : Nat := size) : State :=
  if f.pinned then match s.forme? f.h with
    | some g => (s.usePort g (f.y / 8 * 16 + f.x / 8) x).setForme (g.touch x size kind acc)
    | none => s
  else s.noteRead f x size kind acc

/-- Count a store-kind record of an instance as fired (R144). -/
def State.seeStore (s : State) (f : Firing) (aux : BitVec 5) : State :=
  match s.galleyOf f with
  | some g => s.setGalley f.tile { g with stseen := g.stseen ||| BitVec.ofNat 32 (2 ^ aux.toNat) }
  | none => s

/-- Count the outputs of a commit-performed record: its tokens leave after the commit (R144, R193). -/
def State.countOuts (s : State) (f : Firing) (r : Shell) : State :=
  match s.galleyOf f with
  | some g => s.setGalley f.tile { g with out := (g.out + (if r.dsta = noDest then 0 else 1) + (if r.dstb = noDest then 0 else 1)) % 256 }
  | none => s

/-! ## Tile accesses (R149, R150, R159, R251) -/

/-- The bay that a tile-form LIT names from an element (R149). -/
def tileBay (x y : Nat) (dx dy : BitVec 6) : Nat := moved (y / 8) (signed6 dy.toNat) * 16 + moved (x / 8) (signed6 dx.toNat)

/-- Bytes that a BUF tile shows (R22, R150). -/
def Forme.tileBytes (f : Forme) : Nat := if f.cfg.stream then 2 ^ 19 else 2 ^ 18

/-- Key of a tile byte. -/
def tileKey (bay a : Nat) : Nat := bay * 2 ^ 19 + a

/-- The bounds and alignment of a tile access (R150). -/
def Forme.tileOk (f : Forme) (a size : Nat) : Bool := decide (a + size ≤ f.tileBytes) && decide (a % size = 0)

/-- Read a tile: the round-start word in round mode, the present word in stream mode (R159). -/
def Core.tileRead (c : Core) (bay a size : Nat) : Nat := leNat (Memory.readN c.tile (tileKey bay a) size)

/-- Write a tile in stream mode. -/
def Core.tileWrite (c : Core) (bay a : Nat) (b : List Byte) : Core := { c with tile := Memory.writeN c.tile (tileKey bay a) b }

/-- Open a line for writing in the round: its front is copied into its back first (R251). -/
def Core.openLine (c : Core) (line : Nat) : Core :=
  if c.written.contains line then c
  else { c with written := c.written ++ [line]
                back := Memory.putCells (Memory.clear c.back (line * 128) 128) (line * 128) (Memory.cells c.tile (line * 128) 128) }

/-- Write bytes that lie in one line to the back half (R251). -/
def Core.backWrite (c : Core) (bay a : Nat) (b : List Byte) : Core :=
  let c := c.openLine (tileKey bay a / 128)
  { c with back := Memory.writeN c.back (tileKey bay a) b }

/-- The word that a staged operation acts on: the back of a written line, else the front (R185). -/
def Core.stagedRead (c : Core) (bay a size : Nat) : Nat :=
  if c.written.contains (tileKey bay a / 128) then leNat (Memory.readN c.back (tileKey bay a) size) else c.tileRead bay a size

/-- A tile store by a record (R159). -/
def Forme.tileStore (f : Forme) (bay a : Nat) (b : List Byte) : Forme :=
  let c := f.run.core
  f.withCore (if f.cfg.stream then c.tileWrite bay a b else c.backWrite bay a b)

/-- Count staged tile stores of a round (R252). -/
def Forme.countStaged (f : Forme) (n : Nat) : Forme :=
  if f.cfg.stream then f else { f with run := { f.run with tileStaged := f.run.tileStaged + n } }

/-! ## Combine and atomic operations (Table 7-11, R177, R180) -/

def CombineOp.apply (op : CombineOp) (x y : Word) : Word × Sticky :=
  let fp (v : FRes) : Word × Sticky := (BitVec.ofNat 32 v.bits, v.flags)
  match op with
  | .add => (x + y, 0)
  | .min => (if y.slt x then y else x, 0)
  | .max => (if x.slt y then y else x, 0)
  | .minu => (if y.ult x then y else x, 0)
  | .maxu => (if x.ult y then y else x, 0)
  | .and => (x &&& y, 0)
  | .or => (x ||| y, 0)
  | .xor => (x ^^^ y, 0)
  | .fadd => fp (Fmt.fp32.add .rne 0 (Fmt.fp32.decode x.toNat) (Fmt.fp32.decode y.toNat))
  | .fmin => fp (Fmt.fp32.minmax false x.toNat y.toNat)
  | .fmax => fp (Fmt.fp32.minmax true x.toNat y.toNat)

/-- UNS of an atomic's raw LIT in its form (R175). -/
def rawUns (pinned : Bool) (raw : Word) : Bool := raw.getLsbD (if pinned then 12 else 6)
/-- IMM of an atomic's raw LIT in its form (R175). -/
def rawImm (pinned : Bool) (raw : Word) : Bool := raw.getLsbD (if pinned then 13 else 7)

/-- The new word, the result and the sticky bits of an atomic on the old word (R177, R180). `v` and `w` are ports 1 and 2, `ctx`
the issuing context. -/
def atomicStep (i : Instr) (pinned : Bool) (ctx : Nat) (old v w : Word) : Word × Word × Sticky :=
  match i with
  | .aadd .. => (old + v, old, 0)
  | .aand .. => (old &&& v, old, 0)
  | .aor .. => (old ||| v, old, 0)
  | .axor .. => (old ^^^ v, old, 0)
  | .axchg .. => (v, old, 0)
  | .acas .. => (if old = v then w else old, old, 0)
  | .amin _ _ _ raw _ => ((CombineOp.apply (if rawUns pinned raw then .minu else .min) old v).1, old, 0)
  | .amax _ _ _ raw _ => ((CombineOp.apply (if rawUns pinned raw then .maxu else .max) old v).1, old, 0)
  | .afadd .. => let x := CombineOp.apply .fadd old v
    (x.1, old, x.2)
  | .lockacq .. => if old = 0 then (BitVec.ofNat 32 (2 ^ 31 + ctx), 1, 0) else (old, 0, 0)
  | .lockrel .. => if old.getLsbD 31 && old.toNat % 2 ^ 12 == ctx then (0, 1, 0) else (old, 0, 0)
  | _ => (old, old, 0)

end Sys2Proof.Machine
end

