-- ==== Sys2Proof/Machine/Streams.lean ====
section
/-! DEFINITION. The address generators: taking control tokens (R162 to R165, R187, R188, R384), the words of read and write streams
(R164, R165, R237), windows (R256), and the dirty-range log (R165). -/

namespace Sys2Proof.Machine

/-- A live forme whose streams and passes run: none does while a marker is under way (R319). -/
def Forme.flows (f : Forme) : Bool := f.status == .live && f.mark.isNone

def AgState.slot (a : AgState) (n : Nat) : Slot := (a.slots.find? fun s => s.n == n).getD { n := n }
def AgState.setSlot (a : AgState) (s : Slot) : AgState := { a with slots := putBy (fun b => b.n == s.n) s a.slots }
def Core.slot (c : Core) (bay n : Nat) : Slot := (c.ag bay).slot n
def Core.setSlot (c : Core) (bay : Nat) (s : Slot) : Core := c.setAg ((c.ag bay).setSlot s)

/-- Change the core of a forme without opening a round: what an AG or a tile does by itself (R244). -/
def State.putCore (s : State) (f : Forme) (c : Core) : State := s.setForme { f with run := { f.run with core := c } }

/-- A fault at an AG: LOC names the element whose record is behind it, port 0 (R351). -/
def State.agFault (s : State) (h x y cls : Nat) (pay : Pay) : Option State := s.faultForme h x y 0 cls 0 pay

/-! ## Regions (R164, R260) -/

/-- Object and byte range of a stream's region: the whole object for a length of 0. -/
def Slot.region (sl : Slot) : Nat × Nat × Nat :=
  let o := sl.base.toNat / 2 ^ 40
  let b := sl.base.toNat % 2 ^ 40
  if sl.len = 0 then (o, 0, 2 ^ 41) else (o, b, b + sl.len)

def regionsMeet (a b : Nat × Nat × Nat) : Bool := a.1 == b.1 && decide (a.2.1 < b.2.2) && decide (b.2.1 < a.2.2)

/-- Another AG of a live forme of the partition owns part of a region (R260). -/
def State.regionOwned (s : State) (part h bay : Nat) (sl : Slot) : Bool :=
  s.formes.any fun f => f.part == part && f.isLive && f.run.core.ags.any fun a => !(f.handle == h && a.bay == bay) &&
    a.slots.any fun o => o.opened && o.write && regionsMeet o.region sl.region

/-- Bytes of a stream: its length, or what remains of its object. -/
def State.streamLimit (s : State) (part : Nat) (sl : Slot) : Nat :=
  if sl.len ≠ 0 then sl.len
  else match s.obj? part (sl.base.toNat / 2 ^ 40) with
    | some o => o.len - sl.base.toNat % 2 ^ 40
    | none => 2 ^ 40

/-- The length of a stream is that of its object, and a change of the object's entry runs: the stream waits (R313, R314). -/
def State.limitWaits (s : State) (part : Nat) (sl : Slot) : Bool := sl.len = 0 && s.walkWaits part (sl.base.toNat / 2 ^ 40)

/-- Translate the elements of one word: physical addresses, a stall (none), or the class and address of the first that fails. -/
def State.elems (s : State) (p : Nat) (a : Addr) (size : Nat) (need : Need) : Nat → Option (Except (Nat × Nat) (List Nat))
  | 0 => some (.ok [])
  | k + 1 => match s.translate p a size need with
    | .stall => none
    | .fault c => some (.error (c, a.va))
    | .ok pa _ => match State.elems s p (a.plus size) size need k with
      | some (.ok l) => some (.ok (pa :: l))
      | r => r

/-- Elements that `n` bytes take. -/
def elemCount (n size : Nat) : Nat := (n + size - 1) / size

/-- An access passes the length of its object. -/
def State.beyond (s : State) (part : Nat) (a : Addr) (size : Nat) : Bool :=
  match s.obj? part a.obj with
  | some o => decide ((o.len : Int) < a.off + size)
  | none => false

/-! ## The dirty-range log (R165, Tables 7-8) -/

/-- Deposit a record in the log object of a forme (R165, R311): none while the log stalls, the class and address of a failed check,
or the state after it. A record that would pass the object's length sets OVF and is dropped. Object 0 is no log. -/
def State.deposit (s : State) (part logobj : Nat) (d : Deposit) : Option (Except (Nat × Nat) State) :=
  let a : Addr := ⟨logobj, 0⟩
  if logobj = 0 then some (.ok s)
  else match s.single part a 16 .write with
    | .stall => none
    | .fault c => some (.error (c, a.va))
    | .ok hdr =>
      let h := leNat (s.readPieces hdr)
      let n := bits 0 31 h
      let b := a.plus ((16 : Nat) + 16 * n : Nat)
      if s.beyond part b 16 then
        some (.ok (s.writePieces hdr (leBytes 16 (setBits 31 1 h 1))))
      else match s.single part b 16 .write with
      | .stall => none
      | .fault c => some (.error (c, b.va))
      | .ok slot =>
        let s := s.writePieces slot (leBytes 16 (d.obj % 2 ^ 24 * 2 ^ 104 + d.lo % 2 ^ 40 * 2 ^ 64 + d.hi % 2 ^ 40 * 2 ^ 24))
        some (.ok (s.writePieces hdr (leBytes 16 (setBits 0 31 h (n + 1)))))

/-- The deposit of a stream as it stands. -/
def Slot.deposit (sl : Slot) : Deposit := { obj := sl.base.toNat / 2 ^ 40, lo := sl.lo, hi := sl.hi, x := sl.ox, y := sl.oy }

/-! ## Windows (R256) -/

def Core.win? (c : Core) (bay w : Nat) : Option WinState := c.wins.find? fun a => a.bay == bay && a.w == w
def Core.setWin (c : Core) (w : WinState) : Core := { c with wins := putBy (fun a => a.bay == w.bay && a.w == w.w) w c.wins }

/-- Bytes of a window. -/
def WinState.size (w : WinState) : Nat := 2 ^ (w.lsize + 12)

/-- Write one held line of a window to memory; none if an access stalls. -/
def State.writeLine (s : State) (part : Nat) (sl : Slot) (w : WinState) (line : Nat) : Option State :=
  let lo := max line w.tail
  let n := min (line + 128) w.head - lo
  match s.range part ((Addr.ofVa sl.base).plus lo) n .write with
  | .ok pieces => some (s.writePieces pieces (Memory.readN w.bytes lo n))
  | .stall => none
  | .fault _ => some s

/-- Write back the dirty lines of a window below a position. -/
def State.writeBack (s : State) (h : Nat) (sl : Slot) (w : WinState) (below : Nat) : Option State :=
  match s.forme? h with
  | none => some s
  | some f =>
    let out := w.dirty.filter fun l => decide (l < below)
    match foldOpt (fun s l => s.writeLine f.part sl w l) s out with
    | none => none
    | some s => some (s.putCore f (f.run.core.setWin { w with dirty := w.dirty.filter fun l => decide (below ≤ l) }))

/-- Flush the window of a write stream (SCLOSE, HANDOVER, a save). -/
def State.flushSlot (s : State) (h bay : Nat) (sl : Slot) : Option State :=
  match s.forme? h with
  | none => some s
  | some f => match f.run.core.win? bay sl.n with
    | some w => if w.valid && sl.write then s.writeBack h sl w (2 ^ 41) else some s
    | none => some s

/-- The window of a slot when its stream opens or closes. -/
def Core.winValid (c : Core) (bay n : Nat) (v : Bool) : Core :=
  match c.win? bay n with
  | some w => c.setWin { w with valid := v, head := 0, tail := 0, bytes := [], dirty := [] }
  | none => c

/-- A window holds the byte at a position. -/
def WinState.holds (w : WinState) (p : Nat) : Bool := decide (w.tail ≤ p) && decide (p < w.head)

/-- SSEEK of a window: outside TAIL to HEAD it is empty at the line that holds the position. -/
def Core.winSeek (c : Core) (bay n p : Nat) : Core :=
  match c.win? bay n with
  | some w =>
    if w.valid && !(w.holds p) then
      c.setWin { w with head := p / 128 * 128, tail := p / 128 * 128, bytes := [], dirty := [] }
    else c
  | none => c

/-! ## Control input 0 -/

/-- An open write stream of an AG on a write port. -/
def AgState.writer (a : AgState) (wport : Bool) : Option Slot := a.slots.find? fun o => o.opened && o.write && o.wport == wport

/-- Tokens of a source that are still on the links. -/
def Core.undelivered (c : Core) (src : Src) : List LinkTok := c.links.filter fun l => l.src == src

/-- The payload of a count mismatch at an AG. -/
def AgTok.pay (k : AgTok) : Pay := .token 0 (pinnedBits k.rt k.tok)

/-- The stream that the token at the head of an AG's control input 0 would open for writing. -/
def AgState.opening (a : AgState) : Option Slot :=
  match a.in0 with
  | k :: _ => match k.instr with
    | some (.sopen _ _ true n _) => some { n := n.toNat, base := k.b ++ k.tok.value, len := k.c.toNat }
    | _ => none
  | [] => none

/-- The bay of an AG on its die, row first. -/
def Forme.dieBay (f : Forme) (bay : Nat) : List Nat := [f.oy + bay / 16, f.bx + bay % 16]

/-- Another AG of the partition, at a lower y or then x of the die, is about to open a write stream over the region: that one takes
effect first (R260). -/
def State.opensFirst (s : State) (f : Forme) (bay : Nat) (sl : Slot) : Bool :=
  s.formes.any fun g => g.part == f.part && g.status == .live && g.run.core.ags.any fun a =>
    !(g.handle == f.handle && a.bay == bay) && keyLt (g.dieBay a.bay) (f.dieBay bay) &&
      match a.opening with
      | some o => regionsMeet o.region sl.region
      | none => false

/-- SOPEN at the head of control input 0 (R162, R164, R260). -/
def State.agOpen (s : State) (f : Forme) (bay : Nat) (k : AgTok) (sz : Size) (wport dir : Bool) (n : Nat) : Option State :=
  let c := f.run.core
  let a := c.ag bay
  let old := a.slot n
  let base : VA := k.b ++ k.tok.value
  let len := k.c.toNat
  let sl : Slot := { n := n, opened := true, write := dir, wport := wport, size := sz, base := base, len := len, rt := k.rt
                     consumer := if dir then .none else k.dstb, ox := k.x, oy := k.y, pass := old.pass, edges := old.edges }
  if old.opened || (dir && (a.writer wport).isSome) then s.agFault f.handle k.x k.y clsCount k.pay
  else if len % Size.bytes sz ≠ 0 then
    s.agFault f.handle k.x k.y clsBounds (.access base.toNat (Size.bytes sz) (if dir then 1 else 0))
  else if dir && s.opensFirst f bay sl then none
  else if dir && s.regionOwned f.part f.handle bay sl then
    s.agFault f.handle k.x k.y clsPermission (.access base.toNat (Size.bytes sz) 1)
  else
    let a := a.setSlot sl
    let a := if dir then (if wport then { a with fwd3 := none } else { a with fwd2 := none }) else a
    some (s.putCore f ((c.setAg a).winValid bay n true))

/-- Bytes of the last `k` words that a read stream sent. -/
def Slot.sentBytes (sl : Slot) (k : Nat) : Nat := (sl.sent.take k).foldl (· + ·) 0

/-- A read stream has sent a word of `n` bytes, with `k` words before it still to be delivered. -/
def Slot.sends (sl : Slot) (k n : Nat) : Slot :=
  { sl with pos := sl.pos + n, moved := sl.moved + n, sent := (n :: sl.sent).take (k + 1), run := sl.run + 1 }

/-- A data word that the stream of a slot has sent to its consumer. -/
def Slot.wordOf (sl : Slot) (bay : Nat) (l : LinkTok) : Bool := l.src == .ag bay sl.n && l.dst == sl.consumer && match l.wire with
  | .tok t => t.flag == .none
  | .scale .. => false

/-- The link token that SCLOSE sends to its completion destination. -/
def AgTok.reply (k : AgTok) (bay : Nat) (v : Word) : LinkTok :=
  { src := .closing bay k.x k.y, dst := k.dstb, rt := k.rt, wire := .tok (.data v) }

/-- SCLOSE at the head of control input 0 (R165, R237); none while it waits. -/
def State.agClose (s : State) (f : Forme) (bay : Nat) (k : AgTok) (n : Nat) : Option State :=
  let c := f.run.core
  let sl := c.slot bay n
  let shut (c : Core) (moved : Nat) : Core :=
    ((c.setSlot bay { n := n, pass := sl.pass, edges := sl.edges, ox := sl.ox, oy := sl.oy }).winValid bay n false).putLink
      (k.reply bay (BitVec.ofNat 32 moved))
  if !sl.opened then s.agFault f.handle k.x k.y clsCount k.pay
  else if sl.write then
    if !sl.eos then none
    else match s.flushSlot f.handle bay sl with
      | none => none
      | some s => match s.forme? f.handle with
        | none => some s
        | some f =>
          let c := f.run.core
          if f.cfg.stream then match (if sl.wrote then s.deposit f.part f.cfg.logobj sl.deposit else some (.ok s)) with
            | none => none
            | some (.error e) => s.agFault f.handle sl.ox sl.oy e.1 (.access e.2 16 3)
            | some (.ok s) => some (s.putCore f (shut c sl.moved))
          else
            let c := if sl.wroteNow then { c with deposits := c.deposits ++ [sl.deposit] } else c
            some (s.putCore f (shut c sl.moved))
  else
    let lost := sl.sentBytes (c.links.filter (sl.wordOf bay)).length
    let c := { c with links := c.links.filter fun l => !(sl.wordOf bay l) }
    let c := if sl.eos then c else c.putLink { src := .ag bay n, dst := sl.consumer, rt := sl.rt, wire := .tok .eos }
    some (s.putCore f (shut c (sl.moved - lost)))

/-- SSEEK at the head of control input 0 (R165, R256). A window that the position leaves loses its lines, so that the dirty ones are
written back; one that holds the position keeps them. -/
def State.agSeek (s : State) (f : Forme) (bay : Nat) (k : AgTok) (n : Nat) : Option State :=
  let sl := f.run.core.slot bay n
  let p := k.tok.value.toNat
  let held := match f.run.core.win? bay n with
    | some w => w.holds p
    | none => false
  if !sl.opened then s.agFault f.handle k.x k.y clsCount k.pay
  else match (if held then some s else s.flushSlot f.handle bay sl) with
    | none => none
    | some s => match s.forme? f.handle with
      | none => some s
      | some f =>
        let sl := f.run.core.slot bay n
        some (s.putCore f ((f.run.core.setSlot bay { sl with pos := p, eos := sl.write && sl.eos, run := 0 }).winSeek bay n p))

/-- HANDOVER at the head of the old owner's control input 0 (R187). A slot that is not an open write stream, or a new slot or write
port that is taken, is a count mismatch. The words that wait at the old owner's write port are written first (R190). -/
def State.agHand (s : State) (f : Forme) (bay : Nat) (k : AgTok) (nslot oslot : Nat) : Option State :=
  let c := f.run.core
  let sl := c.slot bay oslot
  match k.dstb with
  | .ag nbay _ =>
    if !sl.opened || !sl.write then s.agFault f.handle k.x k.y clsCount k.pay
    else if (c.slot nbay nslot).opened && !(nbay == bay && nslot == oslot) then s.agFault f.handle k.x k.y clsCount k.pay
    else if nbay != bay && ((c.ag nbay).writer sl.wport).isSome then s.agFault f.handle k.x k.y clsCount k.pay
    else if nbay != bay && !sl.eos && !((c.ag bay).input (if sl.wport then 3 else 2)).isEmpty then none
    else match s.flushSlot f.handle bay sl with
      | none => none
      | some s => match s.forme? f.handle with
        | none => some s
        | some f =>
          let c := f.run.core
          let c := (c.setSlot bay { n := oslot, pass := sl.pass, edges := sl.edges }).winValid bay oslot false
          let old := c.slot nbay nslot
          let c := (c.setSlot nbay { sl with n := nslot, pass := old.pass, edges := old.edges }).winValid nbay nslot true
          let c := if nbay == bay then c else
            let a := c.ag bay
            let c := c.setAg (if sl.wport then { a with fwd3 := some nbay } else { a with fwd2 := some nbay })
            let b := c.ag nbay
            c.setAg (if sl.wport then { b with fwd3 := none } else { b with fwd2 := none })
          some (s.putCore f c)
  | _ => some s

/-- Take the token at the head of control input 0. A token of any other record, an ORDTOK among them, has no effect (R188). -/
def State.agControl0 (s : State) (f : Forme) (bay : Nat) (k : AgTok) : Option State :=
  match k.instr with
  | some (.sopen sz wport dir slot _) => s.agOpen f bay k sz wport dir slot.toNat
  | some (.sclose slot _) => s.agClose f bay k slot.toNat
  | some (.sseek slot _) => s.agSeek f bay k slot.toNat
  | some (.handover nslot oslot _) => s.agHand f bay k nslot.toNat oslot.toNat
  | _ => some s

/-! ## Words of streams -/

/-- Where a read stream's word comes from: bytes, the words that a window has not filled yet (none), or a fault. -/
def State.streamBytes (s : State) (f : Forme) (bay : Nat) (sl : Slot) (n : Nat) : Option (Except (Nat × Nat) (List Byte)) :=
  let direct : Option (Except (Nat × Nat) (List Byte)) :=
    let sz := Size.bytes sl.size
    match s.elems f.part ((Addr.ofVa sl.base).plus sl.pos) sz .read (elemCount n sz) with
    | none => none
    | some (.error e) => some (.error e)
    | some (.ok l) => some (.ok (l.flatMap fun pa => s.readN pa sz))
  match f.run.core.win? bay sl.n with
  | none => direct
  | some w =>
    if !w.valid then direct
    else if decide (w.tail ≤ sl.pos) && decide (sl.pos + n ≤ w.head) then some (.ok (Memory.readN w.bytes sl.pos n))
    else none

/-- Values of the elements that a last, partial word does not have are not stated: each is a free value (log 8). -/
def State.fillWord (s : State) (b : List Byte) : Word × State :=
  if b.length = 4 then (BitVec.ofNat 32 (leNat b), s)
  else
    let (v, s) := s.draw
    (BitVec.ofNat 32 (leNat b + v.toNat / 256 ^ b.length * 256 ^ b.length), s)

/-- A read stream sends its next word, or the EOS that follows the last (R164, R165). It is a source (R319): it sends nothing into a sealed
round (R185). -/
def State.streamRead (s : State) (h bay n : Nat) : Option State :=
  match s.forme? h with
  | none => none
  | some f =>
    let c := f.run.core
    let sl := c.slot bay n
    if !f.flows || f.sealed || !sl.opened || sl.write || sl.eos || !(c.unblocked (.ag bay n)) || s.limitWaits f.part sl then none
    else
      let lim := s.streamLimit f.part sl
      if lim < sl.pos then
        s.agFault h sl.ox sl.oy clsBounds (.access ((Addr.ofVa sl.base).plus sl.pos).va (Size.bytes sl.size) 0)
      else if sl.pos = lim then
        some (s.putCore f ((c.setSlot bay { sl with eos := true }).putLink
          { src := .ag bay n, dst := sl.consumer, rt := sl.rt, wire := .tok .eos }))
      else
        let n' := min 4 (lim - sl.pos)
        match s.streamBytes f bay sl n' with
        | none => none
        | some (.error (cls, va)) => s.agFault h sl.ox sl.oy cls (.access va (Size.bytes sl.size) 0)
        | some (.ok b) =>
          let (v, s) := s.fillWord (b.take n')
          let x := (Addr.ofVa sl.base).plus sl.pos
          let f := f.touch x n' 0 (Size.bytes sl.size)
          some ((s.usePort f bay x).putCore f ((c.setSlot bay (sl.sends (c.links.filter (sl.wordOf bay)).length n')).putLink
            { src := .ag bay n, dst := sl.consumer, rt := sl.rt, wire := .tok (.data v) }))

/-- Bytes of the staging area that a staged item takes: the spec gives the size of data and of records in memory; the others count as
operands (log 90). -/
def StagedWork.bytes : StagedWork → Nat
  | .store _ d => d.length
  | .act (.event ..) .. | .release .. => 32
  | .act .. | .word .. => 4
  | .token .. | .stray .. => 16

/-- Items of a list that another does not hold. -/
def newIn {α : Type} [DecidableEq α] (a b : List α) : Nat := (a.filter fun x => !(b.contains x)).length

/-- The ring slots of a FIFO tile that hold a token. -/
def FifoState.stored (t : FifoState) : List (Nat × QTok) := t.ring.zipIdx.map fun p => ((t.head + p.2) % t.cap, p.1)

/-- Bytes of the images that a round has saved at their first change (Table 10-4): FIFO slots, CA slots, window lines. -/
def Core.savedBytes (c start : Core) : Nat :=
  (c.fifos.foldl (fun n t => match start.fifos.find? fun u => u.bay == t.bay with
    | some u => n + 8 * (newIn t.stored u.stored + newIn u.stored t.stored)
    | none => n) 0) +
  (c.cas.foldl (fun n t => match start.cas.find? fun u => u.bay == t.bay with
    | some u => n + 128 * newIn t.slots u.slots
    | none => n) 0) +
  (c.wins.foldl (fun n t => match start.wins.find? fun u => u.bay == t.bay && u.w == t.w with
    | some u => n + (if t = u then 0 else 16 + (min u.head t.tail - u.tail))
    | none => n) 0)

/-- Bytes that the round of a forme has staged in L2 (R252, Table 10-4). -/
def Run.stagedBytes (r : Run) : Nat :=
  r.staging.foldl (fun n w => n + w.work.bytes) 0 + r.tileStaged + 8 * r.inlog.length + 16 * r.core.deposits.length + r.core.savedBytes r.start

def State.stagedBytes (s : State) (part : Nat) : Nat :=
  (s.formes.filter fun f => f.part == part && !f.cfg.stream).foldl (fun n f => n + f.run.stagedBytes) 0

/-- Room for `n` more staged bytes (R248, R252). -/
def State.stageRoom (s : State) (part n : Nat) : Bool :=
  match s.part? part with
  | some q => decide (s.stagedBytes part + n ≤ q.stgsz * 2 ^ 20)
  | none => true

/-- Stage work for the round's commit under an element and route tag (R185). -/
def Forme.stageAt (f : Forme) (x y : Nat) (rt : BitVec 4) (w : StagedWork) : Forme :=
  { f with run := { f.run with staging := f.run.staging ++ [⟨y, x, rt, f.run.staging.length, w⟩] } }

/-- Store a word of a write stream: staged in round mode, else into its window's line or to memory. -/
def State.streamStore (s : State) (f : Forme) (bay : Nat) (sl : Slot) (pas : List Nat) (b : List Byte) : Forme × State :=
  if !f.cfg.stream then
    (f.stageAt sl.ox sl.oy sl.rt (.store (BitVec.ofNat 64 ((Addr.ofVa sl.base).plus sl.pos).va) b), s)
  else
    let sz := Size.bytes sl.size
    let direct := (pas.zipIdx.foldl (fun (s : State) (e : Nat × Nat) => s.writeN e.1 ((b.drop (e.2 * sz)).take sz)) s)
    match f.run.core.win? bay sl.n with
    | some w =>
      if w.valid && decide (w.tail ≤ sl.pos) && decide (sl.pos + b.length ≤ w.head) then
        let line := sl.pos / 128 * 128
        let w := { w with bytes := Memory.writeN w.bytes sl.pos b
                          dirty := if w.dirty.contains line then w.dirty else w.dirty ++ [line] }
        ({ f with run := { f.run with core := f.run.core.setWin w } }, s)
      else (f, direct)
    | none => (f, direct)

/-- A write stream takes the data token `t` (R164, R165). -/
def State.streamWrite (s : State) (f : Forme) (bay : Nat) (sl : Slot) (t : Tok) : Option State :=
  let c := f.run.core
  if t.isEos then some (s.putCore f (c.setSlot bay { sl with eos := true }))
  else if !t.isActive then some (s.putCore f (c.setSlot bay { sl with pos := sl.pos + 4 }))
  else if s.limitWaits f.part sl then none
  else
    let lim := s.streamLimit f.part sl
    let sz := Size.bytes sl.size
    let a := (Addr.ofVa sl.base).plus sl.pos
    if lim ≤ sl.pos then s.agFault f.handle sl.ox sl.oy clsBounds (.access a.va sz 1)
    else
      let n := min 4 (lim - sl.pos)
      match s.elems f.part a sz .write (elemCount n sz) with
      | none => none
      | some (.error (cls, va)) => s.agFault f.handle sl.ox sl.oy cls (.access va sz 1)
      | some (.ok pas) =>
        if !f.cfg.stream && !(s.stageRoom f.part n) then none
        else
          let (f, s) := (s.usePort f bay a).streamStore (f.touch a n 1 sz) bay sl pas (leBytes n t.value.toNat)
          let off := a.off.toNat
          some (s.putCore f (f.run.core.setSlot bay { sl with
            pos := sl.pos + n, moved := sl.moved + n, wrote := true, wroteNow := true
            lo := if sl.wrote then min sl.lo off else off
            hi := if sl.wrote then max sl.hi (off + n - 1) else off + n - 1 }))

/-- Fill a window by one line: 128 bytes at HEAD, as long as no byte from the stream's position on is lost; lines that TAIL passes
are written back (R256). -/
def State.winStep (s : State) (h bay n : Nat) : Option State :=
  match s.forme? h with
  | none => none
  | some f =>
    let sl := f.run.core.slot bay n
    match f.run.core.win? bay n with
    | none => none
    | some w =>
      let lim := s.streamLimit f.part sl
      if !w.valid || !sl.opened || !f.flows || s.limitWaits f.part sl || decide (lim ≤ w.head) ||
          !(decide (w.head + 128 ≤ w.tail + w.size) || decide (w.head + 128 ≤ sl.pos + w.size)) then none
      else
        let len := min 128 (lim - w.head)
        match s.fetchRange f.part ((Addr.ofVa sl.base).plus w.head) len (if sl.write then .write else .read) with
        | none => none
        | some (.error cls) => s.agFault h sl.ox sl.oy cls (.access ((Addr.ofVa sl.base).plus w.head).va 128 (if sl.write then 1 else 0))
        | some (.ok b) =>
          let head := w.head + len
          let tail := max w.tail (head - w.size)
          let w' := { w with head := head, bytes := Memory.writeN w.bytes w.head b }
          match s.writeBack h sl w' tail with
          | none => none
          | some s => match s.forme? h with
            | none => some s
            | some f => match f.run.core.win? bay n with
              | none => some s
              | some w =>
                let x := (Addr.ofVa sl.base).plus (head - len : Nat)
                some ((s.usePort f bay x).putCore (f.touch x len (if sl.write then 1 else 0) 128) (f.run.core.setWin { w with
                  tail := tail, bytes := w.bytes.filter fun c => decide (tail ≤ c.1) }))

end Sys2Proof.Machine
end

