-- ==== Sys2Proof/Machine/Planes.lean ====
section
/-! DEFINITION. Planes and their passes: chains of descriptors (R166), edges (R167, R168), activity (R169, R170, R173), halos (R172),
counts (R174), and the draining of an AG's control inputs (R162). -/

namespace Sys2Proof.Machine

/-! ## Descriptors -/

def Core.plane? (c : Core) (bay pid : Nat) : Option PlaneState := c.planes.find? fun p => p.bay == bay && p.pid == pid
def Core.setPlane (c : Core) (p : PlaneState) : Core := { c with planes := putBy (fun q => q.bay == p.bay && q.pid == p.pid) p c.planes }

/-- Bits of a site. -/
def PlaneState.bits (p : PlaneState) : Nat := match p.site with
  | 0 => 1
  | 1 => 16
  | _ => 32

/-- Sites per word. -/
def PlaneState.spw (p : PlaneState) : Nat := 32 / p.bits

/-- Words per row (R166). -/
def PlaneState.wpr (p : PlaneState) : Nat := (p.w * p.bits + 31) / 32

/-- Blocks in a block row, and block rows (R281). -/
def PlaneState.nbx (p : PlaneState) : Nat := (p.w + p.bw - 1) / p.bw
def PlaneState.nby (p : PlaneState) : Nat := (p.h + p.bh - 1) / p.bh

/-- The descriptors from a bay on, along NEXT. -/
def Core.follow (c : Core) (pid : Nat) : Nat → Nat → List PlaneState
  | 0, _ => []
  | k + 1, bay => match c.plane? bay pid with
    | some p => p :: (if p.next = 0xFF then [] else Core.follow c pid k p.next)
    | none => []

/-- The chain of the plane that a tile's descriptor belongs to (R166). -/
def Core.chain (c : Core) (bay pid : Nat) : List PlaneState :=
  ((c.planes.filter fun p => p.pid == pid && p.row0 == 0).findSome? fun p =>
    let l := c.follow pid 256 p.bay
    if l.any fun q => q.bay == bay then some l else none).getD (c.plane? bay pid).toList

/-- Change every descriptor of a plane: its activity bitmaps belong to the plane. -/
def Core.mapChain (c : Core) (bay pid : Nat) (g : PlaneState → PlaneState) : Core :=
  (c.chain bay pid).foldl (fun c p => c.setPlane (g p)) c

/-! ## Edges (R167) -/

/-- What an output site shows. -/
inductive SiteSrc where
  | const (v : Word)
  | halo (edge k : Nat) (pos : Int)
  | site (u v : Nat)
  deriving DecidableEq, Repr

def Edges.kind (e : Edges) (i : Nat) : Nat := (e.kinds.getD i 0).toNat
def Edges.c (e : Edges) (i : Nat) : Word := e.consts.getD i 0

/-- The site at (u, v) of a plane of W by H sites under the edge rules: N 0, E 1, S 2, W 3. -/
def siteSrc (e : Edges) (w h : Nat) (u v : Int) : SiteSrc :=
  let inward (n : Nat) (kind : Nat) (x : Int) : Int :=
    if kind = 1 then x % n else if x < 0 then -1 - x else 2 * n - 1 - x
  let row (u : Int) : SiteSrc :=
    if v < 0 ∨ (h : Int) ≤ v then
      let i := if v < 0 then 0 else 2
      match e.kind i with
      | 0 => .const (e.c i)
      | 3 => .halo i (if v < 0 then (-v - 1).toNat else (v - h).toNat) u
      | k => .site u.toNat (inward h k v).toNat
    else .site u.toNat v.toNat
  if u < 0 ∨ (w : Int) ≤ u then
    let i := if u < 0 then 3 else 1
    match e.kind i with
    | 0 => .const (e.c i)
    | 3 => .halo i (if u < 0 then (-u - 1).toNat else (u - w).toNat) v
    | k => row (inward w k u)
  else row u

/-- Key of a halo site. -/
def haloKey (edge k pos : Nat) : Nat := (edge * 16 + k) * 2 ^ 20 + pos

/-- A halo site: what PHALO filled last, else a free value (log 8). -/
def Core.haloSite (c : Core) (bay pid edge k : Nat) (pos : Int) : Word :=
  let got := if pos < 0 then none else (c.chain bay pid).findSome? fun p => lookup (haloKey edge k pos.toNat) p.halo
  got.getD (Config.haloSite bay pid edge k pos)

/-- The bits of site (u, v) of a plane, from the front of the tile that holds its row. -/
def Core.siteBits (c : Core) (bay pid u v : Nat) : Nat :=
  match (c.chain bay pid).find? fun p => decide (p.row0 ≤ v) && decide (v < p.row0 + p.rows) with
  | some p => (c.tileRead p.bay (p.base + 4 * ((v - p.row0) * p.wpr + u / p.spw)) 4) / 2 ^ (u % p.spw * p.bits) % 2 ^ p.bits
  | none => 0

/-- One site of a pass's output. -/
def Core.passSite (c : Core) (p : PlaneState) (q : Pass) (x y : Nat) : Nat :=
  match siteSrc q.edges p.w p.h ((x : Int) + q.dx) ((y : Int) + q.dy) with
  | .const v => v.toNat % 2 ^ p.bits
  | .halo e k pos => (c.haloSite p.bay p.pid e k pos).toNat % 2 ^ p.bits
  | .site u v => c.siteBits p.bay p.pid u v

/-- The word of a pass at its row and word; padding reads as zero. -/
def Core.passWord (c : Core) (p : PlaneState) (q : Pass) : Word :=
  BitVec.ofNat 32 ((List.range p.spw).foldl (fun n j =>
    let x := q.word * p.spw + j
    if x < p.w then n + c.passSite p q x (p.row0 + q.row) * 2 ^ (j * p.bits) else n) 0)

/-- The activity check makes this word dormant (R169). -/
def PlaneState.sleeps (p : PlaneState) (q : Pass) : Bool :=
  q.edges.act && !(bit ((p.row0 + q.row) / p.bh * p.nbx + q.word * p.spw / p.bw) p.cur)

/-- A pass's offset reaches further than its edges allow (R167). -/
def PlaneState.tooFar (p : PlaneState) (e : Edges) (dx dy : Int) : Bool :=
  let far (d : Int) (lo hi n : Nat) : Bool :=
    d != 0 && match e.kind (if d < 0 then lo else hi) with
      | 2 => decide (n < d.natAbs)
      | 3 => decide (e.hw < d.natAbs)
      | _ => false
  far dx 3 1 p.w || far dy 0 2 p.h

/-! ## Control input 1 -/

/-- PSHIFT: start a pass; none while the slot's last pass runs. -/
def State.agShift (s : State) (f : Forme) (bay : Nat) (k : AgTok) (dx dy : Int) (pid n : Nat) : Option State :=
  let c := f.run.core
  let sl := c.slot bay n
  match sl.pass, c.plane? bay pid with
  | some _, _ => none
  | none, none => some s
  | none, some p =>
    if p.tooFar sl.edges dx dy then s.agFault f.handle k.x k.y clsBounds (.access (tileKey 0 p.base) 4 0)
    else
      let q : Pass := { pid := pid, dx := dx, dy := dy, rt := k.rt, consumer := k.dstb, edges := sl.edges, ox := k.x, oy := k.y }
      some (s.putCore f (c.setSlot bay { sl with pass := some q }))

/-- Change the settings of a slot, or of every slot. -/
def Core.mapSlots (c : Core) (bay : Nat) (all : Bool) (n : Nat) (g : Slot → Slot) : Core :=
  if all then (List.range 8).foldl (fun c i => c.setSlot bay (g (c.slot bay i))) c else c.setSlot bay (g (c.slot bay n))

/-- PBOUND on the settings of a slot (R168). The halo width changes only with HALO. -/
def Edges.bound (e : Edges) (mask : BitVec 4) (kind : BitVec 2) (hw : Nat) (v : Word) : Edges :=
  { e with kinds := (List.range 4).map fun i => if mask.getLsbD i then kind else e.kinds.getD i 0
           consts := (List.range 4).map fun i => if mask.getLsbD i then v else e.c i
           hw := if kind = 3 then hw else e.hw }

/-- Neighbours of block (bx, by) across the sides that site (x, y) touches, itself included (R170). -/
def PlaneState.marks (p : PlaneState) (e : Edges) (x y : Nat) : List Nat :=
  let bx := x / p.bw
  let byy := y / p.bh
  let xs : List Int := [0] ++ (if x = bx * p.bw then [-1] else []) ++ (if x + 1 = min (bx * p.bw + p.bw) p.w then [1] else [])
  let ys : List Int := [0] ++ (if y = byy * p.bh then [-1] else []) ++ (if y + 1 = min (byy * p.bh + p.bh) p.h then [1] else [])
  let wrap (n : Nat) (lo hi : Nat) (v : Int) : Option Nat :=
    if v < 0 then (if e.kind lo = 1 then some (n - 1) else none)
    else if (n : Int) ≤ v then (if e.kind hi = 1 then some 0 else none)
    else some v.toNat
  xs.flatMap fun dx => ys.filterMap fun dy =>
    match wrap p.nbx 3 1 ((bx : Int) + dx), wrap p.nby 0 2 ((byy : Int) + dy) with
    | some a, some b => some (b * p.nbx + a)
    | _, _ => none

/-- Set bits of a bitmap. -/
def setBitsOf (n : Nat) (l : List Nat) : Nat := l.foldl (fun n b => if bit b n then n else n + 2 ^ b) n

/-- The sites of a word of a plane in pass order: x of each site whose bits are not zero, and the plane row. -/
def PlaneState.changed (p : PlaneState) (idx : Nat) (v : Word) : List Nat × Nat :=
  ((List.range p.spw).filterMap (fun j =>
    let x := idx % p.wpr * p.spw + j
    if decide (x < p.w) && v.toNat / 2 ^ (j * p.bits) % 2 ^ p.bits != 0 then some x else none), p.row0 + idx / p.wpr)

/-- PMARK on the plane (R170). -/
def Core.mark (c : Core) (bay pid idx : Nat) (v : Word) : Core :=
  match c.plane? bay pid with
  | none => c
  | some p =>
    let (xs, y) := p.changed idx v
    let bs := if y < p.h then xs.flatMap fun x => p.marks (c.slot bay 0).edges x y else []
    c.mapChain bay pid fun q => { q with nxt := setBitsOf q.nxt bs }

/-- Write bytes of a tile in the forme's mode. -/
def Forme.tilePut (f : Forme) (bay a : Nat) (b : List Byte) : Forme :=
  { f with run := { f.run with core := if f.cfg.stream then f.run.core.tileWrite bay a b else f.run.core.backWrite bay a b } }

/-- The bytes that a record working on a tile finds there: its round's own writes included. -/
def Forme.tileNow (f : Forme) (bay a n : Nat) : Nat :=
  if f.cfg.stream then f.run.core.tileRead bay a n else f.run.core.stagedRead bay a n

/-- PCNT on the count area of a tile (R174): cleared at the first word, then the word's non-zero sites added to its block. Blocks are
those that the tile's rows touch, from the first on. -/
def Forme.count (f : Forme) (bay pid idx : Nat) (t : Tok) : Forme :=
  match f.run.core.plane? bay pid with
  | none => f
  | some p =>
    let first := p.row0 / p.bh
    let rows := (p.row0 + p.rows + p.bh - 1) / p.bh - first
    let f := if idx = 0 then (List.range (rows * p.nbx)).foldl (fun f b => f.tilePut bay ((p.count + 2 * b) % 2 ^ 19) [0, 0]) f else f
    if !t.isActive then f
    else
      let (xs, y) := p.changed idx t.value
      if xs.isEmpty then f
      else
        let a := (p.count + 2 * ((y / p.bh - first) * p.nbx + idx % p.wpr * p.spw / p.bw)) % 2 ^ 19
        f.tilePut bay a (leBytes 2 (min 0xFFFF (f.tileNow bay a 2 + xs.length)))

/-- Groups of `n` that hold `k` things. -/
def ceilTo (n k : Nat) : Nat := (k + n - 1) / n

/-- Read the elements at some addresses: their values, a stall (none), or the class and address of the first that fails. -/
def State.readElems (s : State) (part size : Nat) : List Addr → Option (Except (Nat × Nat) (List Nat))
  | [] => some (.ok [])
  | a :: l => match s.translate part a size .read with
    | .stall => none
    | .fault c => some (.error (c, a.va))
    | .ok pa _ => match State.readElems s part size l with
      | some (.ok vs) => some (.ok (s.readLe pa size :: vs))
      | r => r

/-- Bytes of the elements in which the sites of a plane lie in memory: a site's own, and the words of one-bit sites. -/
def PlaneState.elemSize (p : PlaneState) : Nat := if p.bits = 16 then 2 else 4

/-- PHALO (R172): rows of W sites for N and S, H rows of HW sites for E and W; each row begins at a word, as the rows of a plane do (log 101).
The fill belongs to the plane: every descriptor of it has the latest one, and it becomes front at the next round commit. -/
def State.agHalo (s : State) (f : Forme) (bay : Nat) (k : AgTok) (hw edge pid : Nat) : Option State :=
  let c := f.run.core
  match c.plane? bay pid with
  | none => some s
  | some p =>
    let tall := edge % 2 = 0
    let rows := if tall then hw else p.h
    let cols := if tall then p.w else hw
    let a := Addr.ofVa (k.b ++ k.tok.value)
    let size := p.elemSize
    let per := if p.bits = 16 then 1 else p.spw
    let m := ceilTo per cols
    let stride := 4 * ((cols * p.bits + 31) / 32)
    let at_ := (List.range rows).flatMap fun r => (List.range m).map fun i => a.plus (stride * r + size * i : Nat)
    match s.readElems f.part size at_ with
    | none => none
    | some (.error (cls, va)) => s.agFault f.handle k.x k.y cls (.access va size 0)
    | some (.ok l) =>
      let fill := (List.range rows).flatMap fun r => (List.range cols).map fun x =>
        let w := l.getD (r * m + x / per) 0
        (if tall then haloKey edge r x else haloKey edge x r, BitVec.ofNat 32 (w / 2 ^ (x % per * p.bits) % 2 ^ p.bits))
      let f := f.touch a (stride * rows) 0 size
      some (s.putCore f (c.mapChain bay pid fun q => { q with haloBack := fill ++ q.haloBack }))

/-- Take the token at the head of control input 1; none while it waits. -/
def State.agControl1 (s : State) (f : Forme) (bay : Nat) (k : AgTok) : Option State :=
  let c := f.run.core
  match k.instr with
  | some (.pshift dy dx pid slot _) => s.agShift f bay k (signed6 dx.toNat) (signed6 dy.toNat) pid.toNat slot.toNat
  | some (.pbound all slot hw kind edges _) => some (s.putCore f (c.mapSlots bay all slot.toNat fun sl =>
      { sl with edges := sl.edges.bound edges kind hw.toNat k.tok.value }))
  | some (.pact on all slot _) => some (s.putCore f (c.mapSlots bay all slot.toNat fun sl => { sl with edges := { sl.edges with act := on } }))
  | some (.pmark pid _) => some (s.putCore f (c.mark bay pid.toNat k.b.toNat k.tok.value))
  | some (.phalo hw edge pid _) => s.agHalo f bay k hw.toNat edge.toNat pid.toNat
  | some (.pflip pid _) => some (s.putCore f (c.mapChain bay pid.toNat fun p => { p with armed := true }))
  | some (.pcnt pid _) => some (s.setForme (f.count bay pid.toNat k.b.toNat k.tok))
  | _ => some s

/-! ## Draining the control inputs -/

/-- Take the token at the head of control input 0 or 1, in arrival order; none when there is none or it has to wait. -/
def State.agTake (s : State) (h bay port : Nat) : Option State :=
  match s.forme? h with
  | none => none
  | some f =>
    let a := f.run.core.ag bay
    match a.input port with
    | [] => none
    | k :: rest =>
      if f.status != .live || k.tok.flag == .marker then none
      else
        let f := { f with run := { f.run with core := f.run.core.setAg (a.setInput port rest) } }
        if port = 0 then (s.setForme f).agControl0 f bay k else (s.setForme f).agControl1 f bay k

/-- Take control tokens of an AG as long as one can be taken. -/
def State.agDrain (h bay : Nat) : Nat → State → State
  | 0, s => s
  | n + 1, s => match s.agTake h bay 0 with
    | some t => State.agDrain h bay n t
    | none => match s.agTake h bay 1 with
      | some t => State.agDrain h bay n t
      | none => s

/-- Send a control token to the AG that a destination field names; none while its input is full (R38, R162). -/
def State.agPushTo (s : State) (f : Firing) (r : Shell) (d : BitVec 16) (i : Instr) (t : Tok) (b c : Word) : Option State :=
  match s.forme? f.h with
  | none => some s
  | some g => match g.dest f.x f.y d with
    | .ag bay port =>
      let a := g.run.core.ag bay
      let q := a.input port
      if 8 ≤ q.length then none
      else
        let k : AgTok := { x := f.x, y := f.y, rt := f.rt, tok := t, instr := some i, b := b, c := c
                           dstb := g.dest f.x f.y r.dstb, dstbRaw := r.dstb }
        some (State.agDrain f.h bay 16 (s.putCore g (g.run.core.setAg (a.setInput port (q ++ [k])))))
    | _ => some s

/-- Send a control token to the AG that DSTA names. -/
def State.agPush (s : State) (f : Firing) (r : Shell) (i : Instr) (t : Tok) (b c : Word) : Option State :=
  s.agPushTo f r r.dsta i t b c

/-! ## Words of passes -/

/-- A running pass emits its next word, or the EOS that ends it (R166, R167, R237). -/
def State.passStep (s : State) (h bay n : Nat) : Option State :=
  match s.forme? h with
  | none => none
  | some f =>
    let c := f.run.core
    let sl := c.slot bay n
    let src : Src := .ag bay (8 + n)
    match sl.pass with
    | none => none
    | some q =>
      if !f.flows || !(c.unblocked src) then none
      else
        let ended := match c.plane? bay q.pid with
          | some p => decide (p.rows ≤ q.row)
          | none => true
        if ended then
          let c := (c.setSlot bay { sl with pass := none }).putLink { src := src, dst := q.consumer, rt := q.rt, wire := .tok .eos }
          some (State.agDrain h bay 16 (s.putCore f c))
        else match c.plane? bay q.pid with
          | none => none
          | some p =>
            let t : Tok := if p.sleeps q then .dormant else .data (c.passWord p q)
            let last := decide (p.wpr ≤ q.word + 1)
            let q' := { q with word := if last then 0 else q.word + 1, row := if last then q.row + 1 else q.row }
            some (s.putCore f ((c.setSlot bay { sl with pass := some q' }).putLink
              { src := src, dst := q.consumer, rt := q.rt, wire := .tok t }))

/-- A write port takes the token at its head (R164, R237), or forwards it after a HANDOVER (R187); SCLOSE may then go on. -/
def State.writePort (s : State) (h bay : Nat) (wport : Bool) : Option State :=
  match s.forme? h with
  | none => none
  | some f =>
    let port := if wport then 3 else 2
    let a := f.run.core.ag bay
    match a.input port with
    | [] => none
    | k :: rest =>
      if f.status != .live || k.tok.flag == .marker then none
      else
        let f' := { f with run := { f.run with core := f.run.core.setAg (a.setInput port rest) } }
        match a.writer wport with
        | some sl =>
          if sl.eos then none
          else match (s.setForme f').streamWrite f' bay sl k.tok with
            | none => none
            | some s => some (State.agDrain h bay 16 s)
        | none => match (if wport then a.fwd3 else a.fwd2) with
          | none => none
          | some nb =>
            let b := f'.run.core.ag nb
            if 8 ≤ (b.input port).length then none
            else some (s.putCore f' (f'.run.core.setAg (b.setInput port (b.input port ++ [k]))))

end Sys2Proof.Machine
end

