-- ==== Sys2Proof/Machine/Memory.lean ====
section
/-! DEFINITION. Group 0x8, memory records: galley loads and stores, context registers, tile accesses, gather, scatter, prefetch and the
stream records (R149 to R165, R384). -/

namespace Sys2Proof.Machine

/-- The set of a memory record (R151): EOS, NULL, and dormant on a data port act nothing and send their flag; `note` happens however
the set turns out (R144). -/
def State.fireData (s : State) (r : Shell) (data : List Nat) (note : Firing → State → State)
    (value : Firing → State → Option State) : Out :=
  settleFire s (match s.gather r with
    | none => none
    | some (f, t) => match f.verdict with
      | .mismatch k => t.countFault f k
      | .eos => some ((note f t).sendBoth f r .eos)
      | .null => some ((note f t).sendBoth f r .null)
      | .value =>
        if data.any fun k => (f.port r k).isDormant then some ((note f t).sendBoth f r .dormant) else value f (note f t))

/-- No note. -/
def noNote (_ : Firing) (s : State) : State := s

/-- Count a store-kind record of a galley (R144). -/
def noteStore (r : Shell) (f : Firing) (s : State) : State := if f.pinned then s else s.seeStore f r.aux

/-! ## Galley loads and stores (R155, R156) -/

/-- Load one access of a galley and send its value. -/
def State.loadAt (s : State) (f : Firing) (r : Shell) (x : Addr) (sz : Size) (sx : Bool) : Option State :=
  match s.galleyOf f with
  | none => some s
  | some g =>
    let (s, own) := s.runOvertaken f g r.aux.toNat (Size.bytes sz) [x]
    if own then some s
    else match s.galleyLoad f g r.aux.toNat x (Size.bytes sz) with
    | none => none
    | some (.error c) => s.accessFault f c x.va (Size.bytes sz) 0
    | some (.ok v) => some ((s.noteLoad f r.aux.toNat x (Size.bytes sz)).sendBoth f r (.data (extendTo sz sx v)))

/-- A store for the galley's commit. Its completion token leaves then. -/
def State.storeAt (s : State) (f : Firing) (r : Shell) (i : Instr) (x : Addr) (size : Nat) (v : Word) : State :=
  (s.addAct f { node := f.node, lsid := r.aux.toNat, instr := i, a := v, obj := x.obj, off := x.off, size := size, hnd := f.hnd }).countOuts
    f r

/-- The pair-form address (Table 7-1). -/
def pairAddr (f : Firing) (r : Shell) (disp : Int) : Addr := (Addr.ofWords (f.port r 0).value (f.port r 1).value).plus disp

def execLd (sz : Size) (sx : Bool) (disp : BitVec 24) (kb : BitVec 6) (r : Shell) (s : State) : Out :=
  s.fireData r [0] noNote fun f t => t.loadAt f r (t.kAddr f kb (f.port r 0).value.toNat disp) sz sx

def execLdi (sz : Size) (sx : Bool) (disp : BitVec 24) (r : Shell) (s : State) : Out :=
  s.fireData r [0, 1] noNote fun f t => t.loadAt f r (pairAddr f r disp.toInt) sz sx

def execSt (sz : Size) (disp : BitVec 24) (kb : BitVec 6) (r : Shell) (s : State) : Out :=
  s.fireData r [0, 1] (noteStore r) fun f t =>
    some (t.storeAt f r (.st sz disp kb r) (t.kAddr f kb (f.port r 0).value.toNat disp) (Size.bytes sz) (f.port r 1).value)

def execSti (sz : Size) (disp : BitVec 24) (r : Shell) (s : State) : Out :=
  s.fireData r [0, 1, 2] (noteStore r) fun f t =>
    some (t.storeAt f r (.sti sz disp r) (pairAddr f r disp.toInt) (Size.bytes sz) (f.port r 2).value)

/-! ## Context registers (R157) -/

/-- Half of a context register. -/
def kHalf (v : BitVec 64) (hi : Bool) : Word := v.extractLsb' (if hi then 32 else 0) 32

/-- A register with one half replaced. -/
def withHalf (v : BitVec 64) (hi : Bool) (w : Word) : BitVec 64 := if hi then w ++ kHalf v false else kHalf v true ++ w

def isKst : Instr → Bool
  | .kst .. => true
  | _ => false

/-- Nodes of a galley that hold a KST. -/
def DTile.kstNodes (d : DTile) (h : Nat) : List Nat :=
  match d.word? h with
  | none => []
  | some w => ((List.range (hdrCount w)).map fun k => h + 1 + k).filter fun n => match d.record? n with
    | some i => isKst i
    | none => false

/-- Every KST of a context that comes before (galley, node) has fired. -/
def DTile.kldReady (d : DTile) (g : Galley) (node : Nat) : Bool :=
  (d.openOf (tagCtx g.tag)).all fun o =>
    if g.seq < o.seq then true
    else (d.kstNodes o.hdr).all fun n => (o.seq == g.seq && decide (node ≤ n)) || o.acts.any fun a => isKst a.instr && a.node == n

/-- The uncommitted KST writes before (galley, node), oldest first: register half and value. -/
def DTile.kstBefore (d : DTile) (g : Galley) (node : Nat) : List Act :=
  let gs := sortBy (fun a b => decide (a.seq < b.seq)) ((d.openOf (tagCtx g.tag)).filter fun o => decide (o.seq ≤ g.seq))
  gs.flatMap fun o => sortBy (fun a b => decide (a.node < b.node))
    (o.acts.filter fun a => isKst a.instr && a.b == 0 && (decide (o.seq < g.seq) || decide (a.node < node)))

/-- What one KST does to the value of a register half (1 in `b` marks one that writes nothing). -/
def Act.kstTo (a : Act) (hi : Bool) (kn : BitVec 6) (v : Word) : Word :=
  match a.instr with
  | .kst h n _ => if h == hi && n == kn && a.b == 0 then a.a else v
  | _ => v

def execKld (hi : Bool) (kn : BitVec 6) (r : Shell) (s : State) : Out :=
  s.fireData r [0] noNote fun f t => match t.galleyOf f with
    | none => some t
    | some g =>
      let d := t.tile f.tile
      if !(d.kldReady g f.node) then none
      else
        let v := (d.kstBefore g f.node).foldl (fun v a => a.kstTo hi kn v) (kHalf ((t.ctxOf f).k kn.toNat) hi)
        some (t.sendBoth f r (.data v))

/-- Count a KST (R144). -/
def State.seeKst (s : State) (f : Firing) : State :=
  match s.galleyOf f with
  | some g => s.setGalley f.tile { g with kw := g.kw + 1 }
  | none => s

/-- KST writes at commit; a flagged or dormant one is counted and writes nothing. -/
def execKst (hi : Bool) (kn : BitVec 6) (r : Shell) (s : State) : Out :=
  settleFire s (match s.gather r with
    | none => none
    | some (f, t) =>
      let k := f.port r 0
      some ((t.seeKst f).addAct f { node := f.node, lsid := 0, instr := .kst hi kn r, a := k.value, b := if k.isActive then 0 else 1 }))

/-! ## Lanes (R160) -/

/-- Lanes of an index or value word. -/
def laneNum (sz : Size) : Nat := 4 / Size.bytes sz
def elemOf (sz : Size) (v : Word) (l : Nat) : Nat := bits (8 * Size.bytes sz * l) (8 * Size.bytes sz) v.toNat

/-- Lanes whose half is active; a 32-bit lane is active as a whole. -/
def activeLanes (sz : Size) (lm : BitVec 2) : List Nat :=
  (List.range (laneNum sz)).filter fun l => match sz with
    | .w32 => true
    | .w16 => lm.getLsbD l
    | .w8 => lm.getLsbD (l / 2)

/-- The lane mask of a lane-wise access: that of its lane operands; a 32-bit lane counts as whole. -/
def laneLm (sz : Size) (lm : BitVec 2) : BitVec 2 := if sz = .w32 then 3 else lm

/-- Put lane values in their places. -/
def packLanes (sz : Size) (l : List (Nat × Nat)) : Word :=
  BitVec.ofNat 32 (l.foldl (fun n e => n + e.2 % 2 ^ (8 * Size.bytes sz) * 2 ^ (8 * Size.bytes sz * e.1)) 0)

/-- Load the lanes of a pooled GATHER, each with its address: none while one has to wait, else the first fault or all values. -/
def State.gatherLanes (s : State) (f : Firing) (g : Galley) (lsid size : Nat) :
    List (Nat × Addr) → Option (Except (Nat × Addr) (List (Nat × Nat)))
  | [] => some (.ok [])
  | (l, x) :: rest => match s.galleyLoad f g lsid x size with
    | none => none
    | some (.error c) => some (.error (c, x))
    | some (.ok v) => match State.gatherLanes s f g lsid size rest with
      | some (.ok vs) => some (.ok ((l, v) :: vs))
      | e => e

/-- The tile addresses of lanes, and the first that fails R150. -/
def tileLanes (base : Nat) (sz : Size) (idx : Word) (ls : List Nat) : List (Nat × Nat) :=
  ls.map fun l => (l, base + elemOf sz idx l * Size.bytes sz)

/-- BASE, DX and DY of a raw tile-form LIT. -/
def rawTileBase (raw : Word) : Nat := bits 12 19 raw.toNat
def rawTileBay (f : Firing) (raw : Word) : Nat := tileBay f.x f.y (raw.extractLsb' 6 6) (raw.extractLsb' 0 6)

def execGather (sz : Size) (sx : Bool) (raw : BitVec 32) (r : Shell) (s : State) : Out :=
  s.fireData r [0] noNote fun f t =>
    let k := f.port r 0
    let lm := laneLm sz k.lmask
    let ls := activeLanes sz lm
    let n := Size.bytes sz
    let answer (t : State) (vs : List (Nat × Nat)) : State :=
      t.sendBoth f r { value := if sz = .w32 then extendTo sz sx ((vs.map (·.2)).headD 0) else packLanes sz vs, lmask := lm }
    if f.pinned then match t.forme? f.h with
      | none => some t
      | some g =>
        let la := tileLanes (rawTileBase raw) sz k.value ls
        match la.find? fun e => !(g.tileOk e.2 n) with
        | some e => t.accessFault f clsBounds e.2 n 0
        | none => some (answer t (la.map fun e => (e.1, g.run.core.tileRead (rawTileBay f raw) e.2 n)))
    else match t.galleyOf f with
      | none => some t
      | some g =>
        let la := ls.map fun l => (l, t.kAddr f (rawKb raw) (elemOf sz k.value l * n) (rawDisp raw))
        let (t, own) := t.runOvertaken f g r.aux.toNat n (la.map (·.2))
        if own then some t
        else match t.gatherLanes f g r.aux.toNat n la with
        | none => none
        | some (.error (c, x)) => t.accessFault f c x.va n 0
        | some (.ok vs) => some (answer (la.foldl (fun t e => t.noteLoad f r.aux.toNat e.2 n) t) vs)

/-- Store values of `size` bytes at addresses of a tile: in round mode they are staged, and all stall where the staging area has no room
(R159, R252, Table 10-4). -/
def State.tileStores (s : State) (g : Forme) (bay size : Nat) (l : List (Nat × Nat)) : Option State :=
  if !g.cfg.stream && !(s.stageRoom g.part (size * l.length)) then none
  else some (s.setForme ((l.foldl (fun (g : Forme) e => g.tileStore bay e.1 (leBytes size e.2)) g).countStaged (size * l.length)))

def execScatter (sz : Size) (raw : BitVec 32) (r : Shell) (s : State) : Out :=
  s.fireData r [0, 1] (noteStore r) fun f t =>
    let k := f.port r 0
    let v := f.port r 1
    let lm := laneLm sz (k.lmask &&& v.lmask)
    let ls := activeLanes sz lm
    let n := Size.bytes sz
    if lm = 0 then some (t.sendBoth f r .dormant)
    else if f.pinned then match t.forme? f.h with
      | none => some t
      | some g =>
        let la := tileLanes (rawTileBase raw) sz k.value ls
        match la.find? fun e => !(g.tileOk e.2 n) with
        | some e => t.accessFault f clsBounds e.2 n 1
        | none => (t.tileStores g (rawTileBay f raw) n (la.map fun e => (e.2, elemOf sz v.value e.1))).map fun t => t.sendBoth f r (.data 0)
    else
      let t := ls.foldl (fun t l =>
        let x := t.kAddr f (rawKb raw) (elemOf sz k.value l * n) (rawDisp raw)
        t.addAct f { node := f.node, lsid := r.aux.toNat, instr := .scatter sz raw r, a := BitVec.ofNat 32 (elemOf sz v.value l)
                     obj := x.obj, off := x.off, size := n, hnd := f.hnd }) t
      some (t.countOuts f r)

/-- PREF passes its token; what it brings nearer has no effect on any value (R161). -/
def execPref (_raw : BitVec 32) (r : Shell) (s : State) : Out := s.fireData r [0] noNote fun f t => some (t.sendBoth f r (f.port r 0))

/-! ## Tile accesses (R158, R159) -/

def execTld (sz : Size) (sx : Bool) (base : BitVec 19) (dx dy : BitVec 6) (r : Shell) (s : State) : Out :=
  s.fireData r [0] noNote fun f t =>
    let a := base.toNat + (f.port r 0).value.toNat
    match t.forme? f.h with
    | none => some t
    | some g =>
      if g.tileOk a (Size.bytes sz) then
        some (t.sendBoth f r (.data (extendTo sz sx (g.run.core.tileRead (tileBay f.x f.y dx dy) a (Size.bytes sz)))))
      else t.accessFault f clsBounds a (Size.bytes sz) 0

def execTst (sz : Size) (base : BitVec 19) (dx dy : BitVec 6) (r : Shell) (s : State) : Out :=
  s.fireData r [0, 1] noNote fun f t =>
    let a := base.toNat + (f.port r 0).value.toNat
    match t.forme? f.h with
    | none => some t
    | some g =>
      let n := Size.bytes sz
      if !(g.tileOk a n) then t.accessFault f clsBounds a n 1
      else (t.tileStores g (tileBay f.x f.y dx dy) n [(a, (f.port r 1).value.toNat)]).map fun t => t.sendBoth f r (.data 0)

/-! ## Stream control (R163, R384) -/

/-- Send a flag to a consumer destination: one that is no AG input (R384). -/
def State.sendConsumer (s : State) (f : Firing) (r : Shell) (t : Tok) : State :=
  if r.dstb != noDest && destClass r.dstb == 2 then s else s.send f true r.dstb t

/-- The set of a stream or plane control record (R384). -/
def State.fireControl (s : State) (r : Shell) (act : Firing → State → Option State) : Out :=
  settleFire s (match s.gather r with
    | none => none
    | some (f, t) => match f.verdict with
      | .mismatch k => t.countFault f k
      | .eos => some (t.sendConsumer f r .eos)
      | .null => some (t.sendConsumer f r .null)
      | .value => if f.toks.any fun e => e.2.isDormant then some (t.sendConsumer f r .dormant) else act f t)

def execSopen (sz : Size) (wport dir : Bool) (slot : BitVec 3) (r : Shell) (s : State) : Out :=
  s.fireControl r fun f t => t.agPush f r (.sopen sz wport dir slot r) (f.port r 0) (f.port r 1).value (f.port r 2).value
def execSclose (slot : BitVec 3) (r : Shell) (s : State) : Out :=
  s.fireControl r fun f t => t.agPush f r (.sclose slot r) (f.port r 0) 0 0
def execSseek (slot : BitVec 3) (r : Shell) (s : State) : Out :=
  s.fireControl r fun f t => t.agPush f r (.sseek slot r) (f.port r 0) 0 0

end Sys2Proof.Machine
end

