-- ==== Sys2Proof/Machine/Plane.lean ====
section
/-! DEFINITION. Group 0x9, plane records (R166 to R174, R384). -/

namespace Sys2Proof.Machine

def execPshift (dy dx : BitVec 6) (pid slot : BitVec 3) (r : Shell) (s : State) : Out :=
  s.fireControl r fun f t => t.agPush f r (.pshift dy dx pid slot r) (f.port r 0) 0 0
def execPbound (all : Bool) (slot : BitVec 3) (hw : BitVec 5) (kind : BitVec 2) (edges : BitVec 4) (r : Shell) (s : State) : Out :=
  s.fireControl r fun f t => t.agPush f r (.pbound all slot hw kind edges r) (f.port r 0) 0 0
def execPact (on all : Bool) (slot : BitVec 3) (r : Shell) (s : State) : Out :=
  s.fireControl r fun f t => t.agPush f r (.pact on all slot r) (f.port r 0) 0 0
def execPhalo (hw : BitVec 5) (edge : BitVec 2) (pid : BitVec 3) (r : Shell) (s : State) : Out :=
  s.fireControl r fun f t => t.agPush f r (.phalo hw edge pid r) (f.port r 0) (f.port r 1).value 0
def execPflip (pid : BitVec 3) (r : Shell) (s : State) : Out :=
  s.fireControl r fun f t => t.agPush f r (.pflip pid r) (f.port r 0) 0 0

/-- The state of the firing's route tag in its element. -/
def State.rtOf (s : State) (f : Firing) : RtState :=
  match s.forme? f.h with
  | some g => g.rtState f.x f.y f.rt
  | none => { rt := f.rt, lfsr := 0 }

/-- PMARK: every token passes unchanged and moves the word index, EOS resets it; an active word goes to the AG with its index (R170). -/
def execPmark (pid : BitVec 3) (r : Shell) (s : State) : Out :=
  settleFire s (match s.gather r with
    | none => none
    | some (f, t) =>
      let k := f.port r 0
      let q := t.rtOf f
      let t := t.setRt f.h f.x f.y { q with index := if k.isEos then 0 else q.index + 1 }
      let pushed := if k.isActive then t.agPush f r (.pmark pid r) k q.index 0 else some t
      pushed.map fun t => t.send f true r.dstb k)

/-- The plane that the AG of a destination field holds. -/
def State.planeAt (s : State) (f : Firing) (d : BitVec 16) (pid : Nat) : Option PlaneState :=
  match s.forme? f.h with
  | none => none
  | some g => match g.dest f.x f.y d with
    | .ag bay _ => g.run.core.plane? bay pid
    | _ => none

/-- PCNT: an active word's non-zero sites join the pass's total and its block's counter; EOS sends the total. The first token after an EOS or
after imposition, be it an EOS, clears the count area (R174). -/
def execPcnt (pid : BitVec 3) (r : Shell) (s : State) : Out :=
  settleFire s (match s.gather r with
    | none => none
    | some (f, t) =>
      let k := f.port r 0
      let q := t.rtOf f
      if k.isEos then
        let t := t.setRt f.h f.x f.y { q with index := 0, value := 0 }
        (if q.index = 0 then t.agPush f r (.pcnt pid r) k 0 0 else some t).map fun t => t.send f true r.dstb (.data q.value)
      else
        let n := match t.planeAt f r.dsta pid.toNat with
          | some p => if k.isActive then (p.changed q.index.toNat k.value).1.length else 0
          | none => 0
        let q' := { q with index := q.index + 1, value := (if q.index = 0 then 0 else q.value) + BitVec.ofNat 32 n }
        let t := t.setRt f.h f.x f.y q'
        if k.isActive || q.index == 0 then t.agPush f r (.pcnt pid r) k q.index 0 else some t)

/-- PRULE steers by class; a dormant class counts as 0 (R171). -/
def execPrule (mask : BitVec 16) (r : Shell) (s : State) : Out :=
  s.fire r fun f t =>
    let c := f.port r 1
    let k := if c.isActive then c.value.toNat % 16 else 0
    some (if mask.getLsbD k then t.sendTwo f r (f.port r 0) .null else t.sendTwo f r .null (f.port r 0))

end Sys2Proof.Machine
end

