-- ==== Sys2Proof/Machine/Atomic.lean ====
section
/-! DEFINITION. Group 0xA: combines, atomics, reduction lines and locks (R175 to R180). -/

namespace Sys2Proof.Machine

/-! ## CMB (R176, R43) -/

/-- One arrival at a CMB: the merged value, the count and the flags (2: an active arrival, 3: one that is not NULL), and the sticky
bits of the merge. NULL and dormant arrivals are counted and leave the value. -/
def cmbMerge (op : CombineOp) (value count : Word) (flags : BitVec 4) (t : Tok) : Word × Word × BitVec 4 × Sticky :=
  if t.isNull then (value, count + 1, flags, 0)
  else if t.isDormant then (value, count + 1, flags ||| 8, 0)
  else if flags.getLsbD 2 then
    let m := CombineOp.apply op value t.value
    (m.1, count + 1, flags ||| 12, m.2)
  else (t.value, count + 1, flags ||| 12, 0)

/-- What a CMB sends: the value if an arrival was active, NULL if every one was, else dormant. -/
def cmbResult (value : Word) (flags : BitVec 4) : Tok :=
  if flags.getLsbD 2 then .data value else if flags.getLsbD 3 then .dormant else .null

/-- CMB in an element merges here; in a dataflow tile the matching store has merged, and the instance holds the result (R43). -/
def execCmb (cop : CombineOp) (r : Shell) (s : State) : Out :=
  settleFire s (match s.gather r with
    | none => none
    | some (f, t) =>
      let k := f.port r 0
      if !f.pinned then some (t.sendBoth f r k)
      else
        let q := t.rtOf f
        if k.isEos then (if q.count = 0 then some (t.sendBoth f r .eos) else t.countFault f 0)
        else
          let (v, n, fl, st) := cmbMerge cop q.value q.count (q.flags &&& 12) k
          let keep := q.flags &&& 3
          if n.toNat < r.aux.toNat then
            some ((t.setRt f.h f.x f.y { q with value := v, count := n, flags := keep ||| fl }).leave f st 0)
          else
            some (((t.setRt f.h f.x f.y { q with value := 0, count := 0, flags := keep }).leave f st 0).sendBoth f r (cmbResult v fl)))

/-! ## Atomics at memory (R177, R180) -/

/-- An atomic on a word of memory: the checks of R150 with both permissions, a permission fault on T3, then one indivisible step. -/
def State.atomicMem (s : State) (part ctx : Nat) (x : Addr) (i : Instr) (v w : Word) : Option (Except Nat (State × Word × Sticky)) :=
  match s.translate part x 4 .both with
  | .stall => none
  | .fault c => some (.error c)
  | .ok pa tier =>
    if tier = 3 then some (.error clsPermission)
    else
      let (new, res, st) := atomicStep i false ctx (BitVec.ofNat 32 (s.readLe pa 4)) v w
      some (.ok (s.writeLe pa 4 new.toNat, res, st))

/-- An atomic on a word of a tile: in stream mode at once, in round mode staged with the round-start word as its result (R178). -/
def State.atomicTile (s : State) (f : Firing) (r : Shell) (i : Instr) (raw : Word) (a : Nat) (v w : Word) : Option State :=
  match s.forme? f.h with
  | none => some s
  | some g =>
    let bay := tileBay f.x f.y (raw.extractLsb' 6 6) (raw.extractLsb' 0 6)
    if !(g.tileOk a 4) then s.accessFault f clsBounds a 4 2
    else if g.cfg.stream then
      let (new, res, st) := atomicStep i true f.ctx (BitVec.ofNat 32 (g.run.core.tileRead bay a 4)) v w
      some (((s.setForme (g.tileStore bay a (leBytes 4 new.toNat))).leave f st 0).sendBoth f r (.data res))
    else if !(s.stageRoom g.part 4) then none
    else some ((s.stage f (.act i (BitVec.ofNat 32 a) v w)).sendBoth f r (.data (BitVec.ofNat 32 (g.run.core.tileRead bay a 4))))

/-- An atomic that acts at issue has to wait for what it follows or, with .REL, for what precedes it (R153). -/
def State.outOfOrder (s : State) (f : Firing) (i : Instr) (r : Shell) : Bool :=
  match s.galleyOf f with
  | some g => (s.tile f.tile).mustFollow g f.node || (Instr.releases i && (s.tile f.tile).mustPrecede g r.aux.toNat)
  | none => false

/-- An atomic or lock record (R152, R175, R178): `data` are its data ports. -/
def State.fireAtomic (s : State) (r : Shell) (i : Instr) (raw : Word) (data : List Nat) : Out :=
  s.fireData r data (noteStore r) fun f t =>
    let v := (f.port r 1).value
    let w := (f.port r 2).value
    if f.pinned then t.atomicTile f r i raw (f.port r 0).value.toNat v w
    else
      let x := t.kAddr f (rawKb raw) (f.port r 0).value.toNat (rawDisp raw)
      if rawImm false raw then
        if t.outOfOrder f i r then none
        else match (t.noteAtomic f r.aux.toNat x).atomicMem f.part f.ctx x i v w with
        | none => none
        | some (.error c) => t.accessFault f c x.va 4 2
        | some (.ok (t, res, st)) => some ((t.leave f st 0).sendBoth f r (.data res))
      else
        some ((t.addAct f { node := f.node, lsid := r.aux.toNat, instr := i, a := v, b := w, obj := x.obj, off := x.off, size := 4
                            hnd := f.hnd }).countOuts f r)

def execAadd (acq : Bool) (scope : Scope) (rel : Bool) (raw : BitVec 32) (r : Shell) (s : State) : Out :=
  s.fireAtomic r (.aadd acq scope rel raw r) raw [0, 1]
def execAmin (acq : Bool) (scope : Scope) (rel : Bool) (raw : BitVec 32) (r : Shell) (s : State) : Out :=
  s.fireAtomic r (.amin acq scope rel raw r) raw [0, 1]
def execAmax (acq : Bool) (scope : Scope) (rel : Bool) (raw : BitVec 32) (r : Shell) (s : State) : Out :=
  s.fireAtomic r (.amax acq scope rel raw r) raw [0, 1]
def execAand (acq : Bool) (scope : Scope) (rel : Bool) (raw : BitVec 32) (r : Shell) (s : State) : Out :=
  s.fireAtomic r (.aand acq scope rel raw r) raw [0, 1]
def execAor (acq : Bool) (scope : Scope) (rel : Bool) (raw : BitVec 32) (r : Shell) (s : State) : Out :=
  s.fireAtomic r (.aor acq scope rel raw r) raw [0, 1]
def execAxor (acq : Bool) (scope : Scope) (rel : Bool) (raw : BitVec 32) (r : Shell) (s : State) : Out :=
  s.fireAtomic r (.axor acq scope rel raw r) raw [0, 1]
def execAxchg (acq : Bool) (scope : Scope) (rel : Bool) (raw : BitVec 32) (r : Shell) (s : State) : Out :=
  s.fireAtomic r (.axchg acq scope rel raw r) raw [0, 1]
def execAcas (acq : Bool) (scope : Scope) (rel : Bool) (raw : BitVec 32) (r : Shell) (s : State) : Out :=
  s.fireAtomic r (.acas acq scope rel raw r) raw [0, 1, 2]
def execAfadd (acq : Bool) (scope : Scope) (rel : Bool) (raw : BitVec 32) (r : Shell) (s : State) : Out :=
  s.fireAtomic r (.afadd acq scope rel raw r) raw [0, 1]
def execLockacq (acq : Bool) (scope : Scope) (raw : BitVec 32) (r : Shell) (s : State) : Out :=
  s.fireAtomic r (.lockacq acq scope raw r) raw [0]
def execLockrel (scope : Scope) (rel : Bool) (raw : BitVec 32) (r : Shell) (s : State) : Out :=
  s.fireAtomic r (.lockrel scope rel raw r) raw [0]

/-! ## Reduction lines (R179) -/

/-- Check a contribution: R150, the words of COUNT and EXPECT, the scope of a T2 line. The result is the physical address of the word
and of COUNT. -/
def State.redCheck (s : State) (part : Nat) (x : Addr) (scope : Scope) : Option (Except Nat (Nat × Nat)) :=
  match s.translate part x 4 .both with
  | .stall => none
  | .fault c => some (.error c)
  | .ok pa tier =>
    if 120 ≤ x.off.toNat % 128 then some (.error clsBounds)
    else if tier = 2 && scope != .system then some (.error clsPermission)
    else match s.translate part { x with off := x.off - x.off % 128 + 120 } 8 .both with
      | .stall => none
      | .fault c => some (.error c)
      | .ok ca _ => some (.ok (pa, ca))

/-- Perform a checked contribution. -/
def State.redAt (s : State) (pa ca : Nat) (op : CombineOp) (v : Word) : State × Sticky :=
  let (w, st) := CombineOp.apply op (BitVec.ofNat 32 (s.readLe pa 4)) v
  let s := s.writeLe pa 4 w.toNat
  let count := (s.readLe ca 4 + 1) % 2 ^ 32
  let expect := s.readLe (ca + 4) 4
  let s := s.writeLe ca 4 count
  (if count = expect % 2 ^ 31 then s.writeLe (ca + 4) 4 (setBits 31 1 expect 1) else s, st)

/-- RED: at the galley's commit; in round mode staged; in stream mode at once. -/
def execRed (scope : Scope) (rel : Bool) (cop : CombineOp) (r : Shell) (s : State) : Out :=
  s.fireData r [0, 1, 2] (noteStore r) fun f t =>
    let x := pairAddr f r 0
    let v := (f.port r 2).value
    if !f.pinned then
      some (t.addAct f { node := f.node, lsid := r.aux.toNat, instr := .red scope rel cop r, a := v, obj := x.obj, off := x.off, size := 4
                         hnd := f.hnd })
    else match t.redCheck f.part x scope with
      | none => none
      | some (.error c) => t.accessFault f c x.va 4 2
      | some (.ok (pa, ca)) =>
        if t.inRound f then
          if t.stageRoom f.part 4 then some ((t.touch f x 4 2).stage f (.act (.red scope rel cop r) (f.port r 0).value (f.port r 1).value v)) else none
        else
          let (t, st) := t.redAt pa ca cop v
          some (t.leave f st 0)

/-- REDWAIT waits until READY = 1, then returns its word. -/
def execRedwait (_acq : Bool) (_scope : Scope) (r : Shell) (s : State) : Out :=
  s.fireData r [0, 1] noNote fun f t =>
    let x := pairAddr f r 0
    let go (t : State) (value : Option (Except Nat Nat)) : Option State :=
      match value, t.translate f.part { x with off := x.off - x.off % 128 + 124 } 4 .read with
      | none, _ => none
      | some (.error c), _ => t.accessFault f c x.va 4 0
      | some (.ok _), .stall => none
      | some (.ok _), .fault c => t.accessFault f c x.va 4 0
      | some (.ok v), .ok ra _ =>
        if bit 31 (t.readLe ra 4) then
          some ((if f.pinned then t.touch f x 4 else t.noteLoad f r.aux.toNat x 4).sendBoth f r (.data (BitVec.ofNat 32 v)))
        else none
    if f.pinned then match t.translate f.part x 4 .read with
      | .stall => none
      | .fault c => go t (some (.error c))
      | .ok pa _ => go t (some (.ok (t.readLe pa 4)))
    else match t.galleyOf f with
      | none => some t
      | some g =>
        let (t, own) := t.runOvertaken f g r.aux.toNat 4 [x]
        if own then some t else go t (t.galleyLoad f g r.aux.toNat x 4)

end Sys2Proof.Machine
end

