-- ==== Sys2Proof/Machine/Sync.lean ====
section
/-! DEFINITION. Group 0xB: fences, barriers, waits, rounds, quiescence, stream ownership, events and yields (R181 to R189). -/

namespace Sys2Proof.Machine

/-! ## The busy bits of a chase (R244) -/

/-- A CONST or REPEAT without ports: it fires once, in the first live cycle (R126, R129, R246). -/
def Instr.firesOnce (i : Instr) : Bool :=
  match i with
  | .const _ r | .repeatN _ _ r => (expectedPorts r).isEmpty
  | _ => false

/-- An element has its one firing still to make. -/
def Forme.unstarted (f : Forme) : Bool :=
  f.cfg.recs.any fun e => ((f.record? e.1 e.2.1).any Instr.firesOnce) && !((f.run.core.elem e.1 e.2.1).fired)

/-- A bay of the forme is busy: a first firing to make, a token in a queue, on a link or in a FIFO tile, a stream or pass with words to
come, a round open. -/
def Forme.busy (f : Forme) : Bool :=
  let c := f.run.core
  f.unstarted || (c.elems.any fun e => !(e.q0.isEmpty && e.q1.isEmpty && e.q2.isEmpty && e.q3.isEmpty && e.scales.isEmpty) || e.emit.isSome) ||
  !c.links.isEmpty || (c.fifos.any fun q => !q.ring.isEmpty) ||
  (c.ags.any fun a => !(a.in0.isEmpty && a.in1.isEmpty && a.in2.isEmpty && a.in3.isEmpty) ||
    a.slots.any fun sl => (sl.opened && !sl.write && !sl.eos) || sl.pass.isSome) ||
  (!f.cfg.stream && f.run.roundOpen)

/-- Two formes share a chase. -/
def Forme.sameChase (a b : Forme) : Bool :=
  a.die == b.die && a.bx == b.bx && a.oy == b.oy && a.cfg.w == b.cfg.w && a.cfg.h == b.cfg.h

/-- The live forme on the chase that a handle names. -/
def State.liveOn (s : State) (f : Forme) : Option Forme := s.formes.find? fun g => g.isLive && g.sameChase f

/-- The quiescence tree of the chase that a forme's handle names finds no bay busy. -/
def State.quiet (s : State) (f : Forme) : Bool :=
  match s.liveOn f with
  | some g => !g.busy
  | none => true

/-! ## Fences, rounds, yields -/

/-- FENCE (R182): a pooled one waits for the commits of the earlier galleys of its context on the tile, and for the accesses of its own galley
before it that are performed when they fire; every other access is already performed when a later step comes. What follows one without .REL
alone waits for it (`DTile.mustFollow`). -/
def execFence (_acq : Bool) (_scope : Scope) (_rel : Bool) (r : Shell) (s : State) : Out :=
  s.fireActive r fun f t =>
    let early := !f.pinned && match t.galleyOf f with
      | some g => (((t.tile f.tile).openOf f.ctx).any fun o => decide (o.seq < g.seq)) || (t.tile f.tile).mustAwait g f.node
      | none => false
    if early then none else some (t.sendBoth f r (f.port r 0))

/-- ROUNDEND takes any token, one in each round; its number leaves at the commit (R185). -/
def execRoundend (r : Shell) (s : State) : Out :=
  settleFire s (match s.gather r with
    | none => none
    | some (f, t) => match t.forme? f.h with
      | none => some t
      | some g =>
        if g.run.core.ends.any fun e => e.1 == f.x && e.2.1 == f.y then none
        else some (t.setCore g { g.run.core with ends := g.run.core.ends ++ [(f.x, f.y, f.rt)] }))

/-! ## Effective priority (R299) -/

/-- The context that holds the lock on which a context waits, by the word as it stands, also where an access to it would stall (R313): the
holder keeps what the waiter gives it until a LOCKREL or until the waiter stops waiting (R299). -/
def State.lockHolder (s : State) (w : Waiter) : Option Nat :=
  let a := Addr.ofVa w.va
  match (s.obj? w.part a.obj).bind fun o => s.findExt w.part o (a.off.toNat / 4096) with
  | none => none
  | some (_, x) =>
    let v := s.readLe (spaceBase x.tier x.loc + (x.pfn + (a.off.toNat / 4096 - x.start)) * 4096 + a.off.toNat % 4096) 4
    if bit 31 v then some (v % 2 ^ 12) else none

/-- Effective priority along chains of at most `k` waiters. -/
def State.effPrio (s : State) : Nat → Nat → Nat
  | 0, c => ((s.ctx? c).map fun x => x.prio.toNat).getD 0
  | k + 1, c => (s.waiters.filter fun w => !w.woken && s.lockHolder w == some c).foldl (fun n w => max n (State.effPrio s k w.ctx))
      (((s.ctx? c).map fun x => x.prio.toNat).getD 0)

/-- The effective priority of a context. -/
def State.prio (s : State) (c : Nat) : Nat := s.effPrio s.waiters.length c

/-- The formes' door loads of a partition that have not found a chase: their contexts (R291, R301). -/
def Part.loading (q : Part) : List Nat := (q.doors.filter fun d => d.forme && d.state == .loading).map fun d => d.ctx.toNat

/-- The contexts whose formes wait for a chase in a partition: those of doors, and of the FLOADs that found none. -/
def State.loaders (s : State) (p : Nat) : List Nat :=
  ((s.part? p).map Part.loading).getD [] ++ (s.loads.filter fun l => l.part == p).map LoadWait.ctx

/-- A load of a context of effective priority `n` or more waits in a partition. -/
def State.loadWaits (s : State) (p n : Nat) : Bool := (s.loaders p).any fun c => decide (n ≤ s.prio c)

/-- The scheduler weighs the pre-emption of a forme that yields: it is marked where a load of equal or higher effective priority waits
for a chase, and the YIELD has no effect otherwise (R301). -/
def State.weigh (s : State) (f : Forme) : State := s.setForme { f with yielded := s.loadWaits f.part (s.prio f.ctx) }

/-- A load of a partition is done: a YIELD counts no longer where no load is left that it gives way to. -/
def State.reweigh (s : State) (p : Nat) : State :=
  { s with formes := s.formes.map fun f => { f with yielded := f.yielded && (f.part != p || s.loadWaits p (s.prio f.ctx)) } }

/-- YIELD passes its token (R189): pooled, the slice ends at the commit; pinned, the scheduler weighs pre-emption, in stream mode at
once and in round mode at the round's commit (R301). -/
def execYield (r : Shell) (s : State) : Out :=
  s.fireActive r fun f t =>
    let t := if f.pinned then match t.forme? f.h with
        | some g => if g.cfg.stream then t.weigh g else t.setForme { g with run := { g.run with yielding := true } }
        | none => t
      else t.addAct f { node := f.node, lsid := 0, instr := .yield r }
    some (t.sendBoth f r (f.port r 0))

/-- EVENT passes its token and posts at the galley's commit, at the round's commit, or at once in stream mode (R189). -/
def execEvent (code : BitVec 16) (r : Shell) (s : State) : Out :=
  s.fireActive r fun f t =>
    let v := (f.port r 0).value
    let posted : Option State :=
      if !f.pinned then some (t.addAct f { node := f.node, lsid := 0, instr := .event code r, a := v })
      else if t.inRound f then (if t.stageRoom f.part 32 then some (t.stage f (.act (.event code r) v 0 0)) else none)
      else t.postEvent f.ctx 0 f.h code.toNat v.toNat
    posted.map fun t => t.sendBoth f r (f.port r 0)

/-! ## Barriers (R184) -/

/-- The barrier word after the drops and arrivals of one cycle: the drops first, then the arrivals; the phase completes when ARRIVED has
reached EXPECT. -/
def barStep (word drops arrivals : Nat) : Nat :=
  let phase := bits 32 32 word
  let e := bits 16 16 word - drops
  let a := (bits 0 16 word + arrivals) % 2 ^ 16
  if e ≤ a then (phase + 1) % 2 ^ 32 * 2 ^ 32 + e * 2 ^ 16 else phase * 2 ^ 32 + e * 2 ^ 16 + a

def BarCycle.after (c : BarCycle) : Nat := barStep c.word c.drops c.arrivals

/-- The cycle with one operation more. -/
def BarCycle.add (c : BarCycle) (drop : Bool) (clock : Nat) : BarCycle :=
  { c with drops := c.drops + drop.toNat, arrivals := c.arrivals + (!drop).toNat, clock := clock }

/-- The cycle that an operation on the barrier word at `pa` falls in. Those of one commit fall in one; one of the step after the last
may fall in its cycle, which the model picks (R190; log 94). -/
def State.barCycle (s : State) (pa : Nat) : BarCycle × State :=
  let fresh : BarCycle := { addr := pa, word := s.readLe pa 8 }
  match s.bar.find? fun c => c.addr == pa with
  | none => (fresh, s)
  | some c =>
    if c.after != fresh.word then (fresh, s)
    else if c.clock = s.clock then (c, s)
    else if c.clock + 1 = s.clock then
      let (k, s) := s.pick 2
      (if k = 1 then c else fresh, s)
    else (fresh, s)

/-- Arrive at or drop from the barrier word at `pa`: the phase arrived in. Each word has a cycle of its own. -/
def State.barOp (s : State) (pa : Nat) (drop : Bool) : State × Word :=
  let (c, s) := s.barCycle pa
  let c := c.add drop s.clock
  let others := s.bar.filter fun b => b.addr != pa && decide (s.clock ≤ b.clock + 1)
  ({ s with bar := others ++ [c] }.writeLe pa 8 c.after, BitVec.ofNat 32 (bits 32 32 c.word))

/-- Arrive at or drop from a barrier. -/
def State.barAt (s : State) (part : Nat) (x : Addr) (drop : Bool) : Option (Except Nat (State × Word)) :=
  match s.translate part x 8 .both with
  | .stall => none
  | .fault c => some (.error c)
  | .ok pa _ => some (.ok (s.barOp pa drop))

/-! ## Waiters (R183) -/

/-- Wake up to `n` waiters on an address, oldest first: how many. -/
def State.wake (s : State) (part : Nat) (va : VA) (n : Nat) : State × Nat :=
  let r := s.waiters.foldl (fun (acc : List Waiter × Nat) w =>
    if w.part == part && w.va == va && !w.woken && decide (acc.2 < n) then (acc.1 ++ [{ w with woken := true }], acc.2 + 1)
    else (acc.1 ++ [w], acc.2)) ([], 0)
  ({ s with waiters := r.1 }, r.2)

/-- WAKEW: translate its word, then wake. -/
def State.wakeAt (s : State) (part : Nat) (x : Addr) (n : Word) : Option (Except Nat (State × Word)) :=
  match s.translate part x 4 .any with
  | .stall => none
  | .fault c => some (.error c)
  | .ok _ _ =>
    let (t, k) := s.wake part (BitVec.ofNat 64 x.va) n.toNat
    some (.ok (t, BitVec.ofNat 32 k))

/-- BARARR, BARDROP and WAKEW: at the galley's commit, at the round's commit, or at once (R152, R181). -/
def State.fireSync (s : State) (r : Shell) (i : Instr) (size : Nat)
    (act : State → Nat → Addr → Word → Option (Except Nat (State × Word))) (answers : Bool) : Out :=
  s.fireActive r fun f t =>
    let x := pairAddr f r 0
    let v := (f.port r 2).value
    if !f.pinned then
      let t := t.addAct f { node := f.node, lsid := 0, instr := i, a := v, obj := x.obj, off := x.off, size := size, hnd := f.hnd }
      some (if answers then t.countOuts f r else t)
    else if t.inRound f then
      match t.translate f.part x size (if size = 8 then .both else .any) with
      | .stall => none
      | .fault c => t.accessFault f c x.va size (if size = 8 then 2 else 0)
      | .ok _ _ => if t.stageRoom f.part 4 then some ((t.touch f x size (if size = 8 then 2 else 0)).stage f (.act i (f.port r 0).value (f.port r 1).value v)) else none
    else match act t f.part x v with
      | none => none
      | some (.error c) => t.accessFault f c x.va size (if size = 8 then 2 else 0)
      | some (.ok (t, w)) => some (if answers then t.sendBoth f r (.data w) else t)

def execBararr (scope : Scope) (rel : Bool) (r : Shell) (s : State) : Out :=
  s.fireSync r (.bararr scope rel r) 8 (fun t p x _ => t.barAt p x false) true
def execBardrop (scope : Scope) (rel : Bool) (r : Shell) (s : State) : Out :=
  s.fireSync r (.bardrop scope rel r) 8 (fun t p x _ => t.barAt p x true) false
def execWakew (scope : Scope) (rel : Bool) (r : Shell) (s : State) : Out :=
  s.fireSync r (.wakew scope rel r) 4 (fun t p x v => t.wakeAt p x v) true

/-- BARWAIT waits until PHASE differs from port 2, then returns it. -/
def execBarwait (_acq : Bool) (_scope : Scope) (r : Shell) (s : State) : Out :=
  s.fireActive r fun f t =>
    let x := pairAddr f r 0
    if t.follows f then none
    else match t.translate f.part x 8 .read with
    | .stall => none
    | .fault c => t.accessFault f c x.va 8 0
    | .ok pa _ =>
      let phase : Word := BitVec.ofNat 32 (t.readLe (pa + 4) 4)
      if phase = (f.port r 2).value then none else some ((t.touch f x 8).sendBoth f r (.data phase))

/-- Make a context wait on a word (R183): its instance stays where it is until it is woken. -/
def State.startWait (s : State) (w : Waiter) : State :=
  let s := if s.waiters.any fun v => v.tile == w.tile && v.node == w.node && v.tag == w.tag then s
    else { s with waiters := s.waiters ++ [w] }
  match s.ctx? w.ctx with
  | some x => if x.state == .runnable then s.setCtx { x with state := .waiting } else s
  | none => s

/-- WAITW (R183). -/
def execWaitw (_acq : Bool) (_scope : Scope) (disp : BitVec 24) (kb : BitVec 6) (r : Shell) (s : State) : Out :=
  s.fireActive r fun f t =>
    let x := t.kAddr f kb (f.port r 0).value.toNat disp
    let mine (w : Waiter) : Bool := w.tile == f.tile && w.node == f.node && w.tag == f.tag
    if t.follows f then none
    else match t.translate f.part x 4 .read with
    | .stall => none
    | .fault c => t.accessFault f c x.va 4 0
    | .ok pa _ =>
      let v : Word := BitVec.ofNat 32 (t.readLe pa 4)
      let woken := s.waiters.any fun w => mine w && w.woken
      if woken || (v != (f.port r 1).value && !(s.waiters.any mine)) then
        let t := { t with waiters := t.waiters.filter fun w => !(mine w) }
        some ((t.stopWaiting f.ctx).sendBoth f r (.data v))
      else
        let w : Waiter := { part := f.part, va := BitVec.ofNat 64 x.va, ctx := f.ctx, tile := f.tile, node := f.node, tag := f.tag }
        some (s.startWait w).park

/-! ## QUIESCE (R186) -/

/-- QUIESCE, system-only: 1 when the tree reports the chase empty; until then it waits. -/
def execQuiesce (r : Shell) (s : State) : Out :=
  s.fireActive r fun f t =>
    if !(t.ctxOf f).sys then t.privFault f
    else
      let h := (f.port r 0).value.toNat
      let mine (q : QuiesceWait) : Bool := q.tile == f.tile && q.node == f.node && q.tag == f.tag
      match s.forme? h with
      | some g =>
        if s.quiet g then
          some (({ t with quiesces := t.quiesces.filter fun q => !(mine q) } : State).sendBoth f r (.data 1))
        else some ({ s with quiesces := (s.quiesces.filter fun q => !(mine q)) ++ [⟨f.tile, f.node, f.tag, h⟩] } : State).park
      | none => some ({ s with quiesces := (s.quiesces.filter fun q => !(mine q)) ++ [⟨f.tile, f.node, f.tag, h⟩] } : State).park

/-! ## Stream ownership and order (R187, R188) -/

def execHandover (nslot oslot : BitVec 3) (r : Shell) (s : State) : Out :=
  s.fireControl r fun f t => t.agPush f r (.handover nslot oslot r) (f.port r 0) 0 0

/-- Send ORDTOK's result: to an AG as a control token, elsewhere as a value. -/
def State.sendOrder (s : State) (f : Firing) (r : Shell) (i : Instr) (second : Bool) (t : Tok) : Option State :=
  let d := if second then r.dstb else r.dsta
  if f.pinned && isAg 0 d then s.agPushTo f r d i t 0 0 else some (s.send f second d t)

/-- ORDTOK: a completion token arrives only when its operation has been performed or staged, so the token leaves at once (R158,
R188). -/
def execOrdtok (scope : Scope) (slot : BitVec 3) (r : Shell) (s : State) : Out :=
  let go (f : Firing) (t : State) (k : Tok) : Option State :=
    (t.sendOrder f r (.ordtok scope slot r) false k).bind fun t => t.sendOrder f r (.ordtok scope slot r) true k
  settleFire s (match s.gather r with
    | none => none
    | some (f, t) => match f.verdict with
      | .mismatch k => t.countFault f k
      | .eos => go f t .eos
      | .null => go f t .null
      | .value => go f t (if f.toks.any fun e => e.2.isDormant then .dormant else .data 0))

end Sys2Proof.Machine
end

