-- ==== Sys2Proof/Machine/Matrix.lean ====
section
/-! DEFINITION. Group 0xC: packets, island multiplication, drains, scale tokens and products (R41, R63, R66 to R68, R195 to R203). -/

namespace Sys2Proof.Machine

/-! ## Operand formats (R85, R67) -/

/-- Bits of a value of A and of B. -/
def mfmtWidth : MFmt → Nat
  | .bf16 | .fp16 => 16
  | _ => 8

/-- Products in a group in ORDER-EXACT (R67). -/
def mfmtGroup : MFmt → Nat
  | .bf16 | .fp16 => 1
  | .tw8 => 4
  | _ => 2

/-- A TW8 weight (R63, R64). -/
def tw8Val (b : Nat) : FVal :=
  let n := tw8Decode b
  .fin (decide (n < 0)) n.natAbs (-6)

/-- A value of A (`b` false) or of B. -/
def mfmtVal (f : MFmt) (b : Bool) (n : Nat) : FVal :=
  match f with
  | .bf16 => Fmt.bf16.decode n
  | .fp16 => Fmt.fp16.decode n
  | .e4m3 => Fmt.fe4m3.decode n
  | .e5m2 => Fmt.e5m2.decode n
  | .tw8 => if b then tw8Val n else Fmt.fe4m3.decode n

/-- A value under a block scale (R66). -/
def FVal.scaled (v : FVal) (e : Nat) : FVal :=
  if e = 0xFF then .nan false
  else match v with
    | .fin n m k => .fin n m (k + ((e : Int) - 127))
    | w => w

/-! ## Packets (R195) -/

/-- What an MMA or MMAS needs: TASK, K, M, N, the format and the variants. -/
structure MmaArgs where
  task : Nat
  k : Nat
  m : Nat
  n : Nat
  fmt : MFmt
  s : Bool := false
  spkt : Bool := false
  sp24 : Bool := false
  bmap : Bool := false
  deriving DecidableEq, Repr

def ceilDiv (a b : Nat) : Nat := (a + b - 1) / b

/-- Kinds of packets that a record consumes. -/
def MmaArgs.kinds (a : MmaArgs) : List Nat :=
  [0, 1] ++ (if a.spkt then [2, 3] else []) ++ (if a.sp24 then [4] else []) ++ (if a.bmap then [5] else [])

def oldest (l : List Packet) (kind task : Nat) : Option Packet := l.find? fun p => p.kind == kind && p.task == task

/-- Remove the oldest packet of a kind and task. -/
def dropPacket (kind task : Nat) : List Packet → List Packet
  | [] => []
  | p :: l => if p.kind == kind && p.task == task then l else p :: dropPacket kind task l

def Packet.word (p : Packet) (i : Nat) : Nat := (p.words.getD i 0).toNat

/-- Value `i` of width `w` in words from word `at_` on (R195). -/
def packed (ws : List Word) (at_ w i : Nat) : Nat := (ws.getD (at_ + i * w / 32) 0).toNat / 2 ^ (i * w % 32) % 2 ^ w

/-- Vectors of 32 values along k. -/
def MmaArgs.vecs (a : MmaArgs) : Nat := ceilDiv a.k 32

/-- The live vectors of column `j`. -/
def MmaArgs.live (a : MmaArgs) (bm : Option Packet) (j : Nat) : List Nat :=
  (List.range a.vecs).filter fun v => match bm with
    | some p => a.bmap → bit (v % 32) (p.word (j * ceilDiv a.vecs 32 + v / 32))
    | none => true

/-- Stored values of vector `v`. -/
def MmaArgs.stored (a : MmaArgs) (v : Nat) : Nat :=
  let n := min 32 (a.k - 32 * v)
  if a.sp24 then n / 2 else n

/-- Words of column `j` of B. -/
def MmaArgs.colWords (a : MmaArgs) (bm : Option Packet) (j : Nat) : Nat :=
  ceilDiv (((a.live bm j).foldl (fun n v => n + a.stored v) 0) * (mfmtWidth a.fmt)) 32

/-- The WORDS that the layout of R195 gives a packet kind. -/
def MmaArgs.words (a : MmaArgs) (bm : Option Packet) (kind : Nat) : Nat :=
  match kind with
  | 0 => a.m * ceilDiv (a.k * (mfmtWidth a.fmt)) 32
  | 1 => (List.range a.n).foldl (fun n j => n + a.colWords bm j) 0
  | 2 => a.m * ceilDiv a.vecs 4
  | 3 => a.n * ceilDiv a.vecs 4
  | 4 => (List.range a.n).foldl (fun n j => n + (a.live bm j).length) 0
  | _ => a.n * ceilDiv a.vecs 32

/-! ## Multiplication (R67, R68, R198) -/

/-- The stored values of column `j` of B as (k, value) in the order they are stored, `b0` its first word, `m0` its first META word. -/
def MmaArgs.column (a : MmaArgs) (b : Packet) (meta_ : Option Packet) (vs : List Nat) (b0 m0 : Nat) : List (Nat × FVal) :=
  let val (i : Nat) : FVal := mfmtVal a.fmt true (packed b.words b0 (mfmtWidth a.fmt) i)
  (vs.foldl (fun (acc : List (Nat × FVal) × Nat × Nat) v =>
    let n := a.stored v
    let pos (i : Nat) : Nat := if a.sp24 then
        let q := i / 2
        32 * v + 4 * q + ((meta_.map fun p => p.word (m0 + acc.2.2)).getD 0) / 2 ^ (4 * q + 2 * (i % 2)) % 4
      else 32 * v + i
    (acc.1 ++ (List.range n).map (fun i => (pos i, val (acc.2.1 + i))), acc.2.1 + n, acc.2.2 + 1)) ([], 0, 0)).1

/-- One group sum added to C with one rounding. A product that is NaN, an invalid product, or both infinities, set NV. -/
def addGroup (c : Word) (prods : List (FVal × Bool)) : Word × Sticky :=
  if prods.isEmpty then (c, 0)
  else
    let ps := prods.map (·.1)
    let x := sumExact ps
    let bad := x.1 == .nan || prods.any (·.2)
    let r := Fmt.fp32.sum .rne 0 [] (if x.1 == .nan then [.nan false] else ps ++ [Fmt.fp32.decode c.toNat]) bad
    (BitVec.ofNat 32 r.bits, r.flags)

/-- C after every group of a row of A and a column of B, groups of `g` in ascending k. -/
def dotGroups (g groups : Nat) (c : Word) (prods : List (Nat × FVal × Bool)) : Word × Sticky :=
  (List.range groups).foldl (fun acc q =>
    let r := addGroup acc.1 ((prods.filter fun e => e.1 / g == q).map (·.2))
    (r.1, acc.2 ||| r.2)) (c, 0)

/-- Accumulator (i, j). -/
def Island.accAt (s : Island) (i j : Nat) : Word := (lookup (i * 128 + j) s.acc).getD 0
def Island.setAcc (s : Island) (i j : Nat) (v : Word) : Island := { s with acc := assign (i * 128 + j) v s.acc }

/-- Scale of a row of A (side 0) or a column of B (side 1) for a block. -/
def Island.scaleAt (s : Island) (side rc block : Nat) : Nat := ((lookup (side * 2 ^ 15 + rc * 256 + block) s.scales).getD 0).toNat

/-- Byte `i` of row `rc` of a scale packet. -/
def scaleByte (a : MmaArgs) (p : Option Packet) (rc i : Nat) : Nat :=
  match p with
  | some p => packed p.words (rc * ceilDiv a.vecs 4) 8 i
  | none => 127

/-- The operands of an issue: its packets by kind. -/
structure MmaPackets where
  a : Packet
  b : Packet
  sa : Option Packet := none
  sb : Option Packet := none
  meta_ : Option Packet := none
  bm : Option Packet := none

/-- All C[i][j] of an issue, in ORDER-EXACT or ORDER-FAST. -/
def Island.multiply (s : Island) (a : MmaArgs) (p : MmaPackets) (fast : Bool) : Island :=
  let g := if fast then 16 else mfmtGroup a.fmt
  let rowWords := ceilDiv (a.k * (mfmtWidth a.fmt)) 32
  let scaleA (i v : Nat) : Nat := if !a.s then 127 else if a.spkt then scaleByte a p.sa i v else s.scaleAt 0 i v
  let scaleB (j v : Nat) : Nat := if !a.s then 127 else if a.spkt then scaleByte a p.sb j v else s.scaleAt 1 j v
  ((List.range a.n).foldl (fun (acc : Island × Nat × Nat) j =>
    let vs := a.live p.bm j
    let col := a.column p.b p.meta_ vs acc.2.1 acc.2.2
    let s := (List.range a.m).foldl (fun (s : Island) i =>
      let prods := col.map fun e =>
        let av := (mfmtVal a.fmt false (packed p.a.words (i * rowWords) (mfmtWidth a.fmt) e.1)).scaled (scaleA i (e.1 / 32))
        (e.1, FVal.mul av (e.2.scaled (scaleB j (e.1 / 32))))
      let r := dotGroups g (ceilDiv a.k g) (s.accAt i j) prods
      { (s.setAcc i j r.1) with sticky := s.sticky ||| r.2 }) acc.1
    (s, acc.2.1 + a.colWords p.bm j, acc.2.2 + vs.length)) (s, 0, 0)).1

/-- The first group of META that names one position twice: (live-vector index, q). -/
def MmaArgs.badMeta (a : MmaArgs) (p : Packet) (bm : Option Packet) : Option (Nat × Nat) :=
  let vecs := (List.range a.n).flatMap fun j => (a.live bm j).map fun v => min 32 (a.k - 32 * v) / 4
  (vecs.zipIdx.flatMap fun e => (List.range e.1).map fun q => (e.2, q)).find? fun e =>
    let w := p.word e.1
    bits (4 * e.2) 2 w == bits (4 * e.2 + 2) 2 w

/-! ## Holding an island (R199) -/

/-- An MMA or MMAS. -/
def Instr.multiplies : Instr → Bool
  | .mma .. | .mmas .. => true
  | _ => false

/-- A record whose result the commit of its galley waits for (R199). -/
def Instr.holdsIsland : Instr → Bool
  | .mzero .. => true
  | i => Instr.multiplies i

/-- The issued MMA and MMAS of a tile that wait for their island or for packets. -/
def DTile.multiplying (d : DTile) : List Inst :=
  d.ready.filter fun j => j.issue.isSome && (j.toks.all fun e => e.2.isActive) && ((d.record? j.node).map Instr.multiplies).getD false

/-- An island holds uncommitted work: a galley that issued to it has not committed, or its holder's MMA waits to be performed. -/
def State.islandBusy (s : State) (u : Nat) : Bool :=
  !((s.island u).records.isEmpty) || (s.tile u).multiplying.any fun j => tagCtx j.tag == (s.island u).holder

/-- An island is free for work of a context. -/
def State.islandFree (s : State) (u c : Nat) : Bool := !(s.islandBusy u) || (s.island u).holder == c

/-- An MMA that has issued and waits holds its island, if that is free. -/
def State.takeIsland (s : State) (u c : Nat) : State :=
  if s.islandFree u c && (s.island u).holder != c then s.setIsland { s.island u with holder := c } else s

/-- Record the island at the first issue of a galley. -/
def Island.hold (s : Island) (c hdr : Nat) (tag : Tag) : Island :=
  if s.records.any fun r => r.hdr == hdr && r.tag == tag then s
  else { s with holder := c, records := s.records ++ [{ hdr := hdr, tag := tag, acc := s.acc, scales := s.scales, packets := [], sticky := s.sticky }] }

/-- Consume the oldest packets of some kinds for a galley. -/
def Island.consume (s : Island) (hdr : Nat) (tag : Tag) (task : Nat) (kinds : List Nat) : Island :=
  kinds.foldl (fun s k => match oldest s.packets k task with
    | none => s
    | some p => { s with
      packets := dropPacket k task s.packets
      records := s.records.map fun r => if r.hdr == hdr && r.tag == tag then { r with packets := r.packets ++ [p] } else r }) s

/-- Count a completed instruction of an island. -/
def Island.finish (s : Island) : Island := { s with done := (s.done + 1) % 2 ^ 32 }

/-- An MMA or MMAS is performed, under the settings of its issue (R25, R197 to R199). -/
def State.mma (s : State) (f : Firing) (r : Shell) (q : Issue) (a : MmaArgs) : Option State :=
  let isl := s.island f.tile
  if a.k = 0 ∨ 8192 < a.k ∨ (a.sp24 ∧ a.k % 4 ≠ 0) then s.countFault f 1
  else if !(isl.binds.any fun b => b.ctx == f.ctx) then s.privFault f
  else if !(s.islandFree f.tile f.ctx) then none
  else if a.kinds.any fun k => (oldest isl.packets k a.task).isNone then none
  else
    let get (k : Nat) : Option Packet := if a.kinds.contains k then oldest isl.packets k a.task else none
    match get 0, get 1 with
    | some pa, some pb =>
      let bm := get 5
      let wrong := a.kinds.any fun k => match get k with
        | some p => p.words.length != a.words bm k
        | none => true
      if wrong then s.countFault f 0
      else match (match get 4 with
          | some m => if q.spperm then none else a.badMeta m bm
          | none => none) with
        | some (v, q) => s.faultAt f 0 clsSparse 0 (.raw (a.task % 256 * 2 ^ 184 + q % 256 * 2 ^ 176 + v % 2 ^ 16 * 2 ^ 160))
        | none =>
          let p : MmaPackets := { a := pa, b := pb, sa := get 2, sb := get 3, meta_ := get 4, bm := bm }
          let isl := ((isl.hold f.ctx f.hdr f.tag).consume f.hdr f.tag a.task a.kinds).multiply a p q.ordfast
          some ((s.setIsland isl.finish).sendBoth f r (.data (BitVec.ofNat 32 a.k)))
    | _, _ => none

/-- The instance `j` issued before `i`, which issues now if it has not yet: earlier, or in the same issue and before it (R46). -/
def Inst.issuedBefore (j i : Inst) : Bool :=
  match j.issue, i.issue with
  | some a, some b => keyLt [a.at_, j.age, j.node, j.tag.toNat] [b.at_, i.age, i.node, i.tag.toNat]
  | some _, none => true
  | none, _ => false

/-- An MMA or MMAS that issued before the record at the site is still to be performed: one of its context, which are performed in issue order
(R198); or, for MDRAIN, one of any context that the island is free for (R200). -/
def State.mmaAhead (s : State) (drain : Bool) : Bool :=
  match s.site with
  | .inst n node tag =>
    let d := s.tile n
    match d.inst? node tag with
    | some i => d.multiplying.any fun j => j != i && Inst.issuedBefore j i &&
        if drain then s.islandFree n (tagCtx j.tag) else tagCtx j.tag == tagCtx tag
    | none => false
  | _ => false

/-- The issue of the record at the site: its own, or the one made now. -/
def State.siteIssue (s : State) : Issue :=
  match s.site with
  | .inst n node tag => (((s.tile n).inst? node tag).bind Inst.issue).getD (s.issueNow tag)
  | _ => s.issueNow 0

/-- An MMA or MMAS at the site: in issue order; one that waits holds the island. -/
def State.fireMma (s : State) (r : Shell) (a : Firing → MmaArgs) : Out :=
  s.fireActive r fun f t =>
    (if s.mmaAhead false then none else t.mma f r s.siteIssue (a f)).or (some (s.park.takeIsland f.tile f.ctx))

/-- M and N of a LIT. -/
def dimOf (n : BitVec 7) : Nat := n.toNat + 1

def execMma (fmt : MFmt) (n1 m1 : BitVec 7) (r : Shell) (s : State) : Out :=
  s.fireMma r fun f => { task := (f.port r 0).value.toNat % 256, k := (f.port r 1).value.toNat, m := dimOf m1, n := dimOf n1, fmt := fmt }

def execMmas (fmt : MFmt) (spkt sp24 bmap : Bool) (n1 m1 : BitVec 7) (r : Shell) (s : State) : Out :=
  s.fireMma r fun f =>
    { task := (f.port r 0).value.toNat % 256, k := (f.port r 1).value.toNat, m := dimOf m1, n := dimOf n1, fmt := fmt
      s := true, spkt := spkt, sp24 := sp24, bmap := bmap }

/-- Set C[i][j] to +0 (R200). -/
def Island.zero (s : Island) (m n : Nat) : Island :=
  { s with acc := s.acc.filter fun e => !(decide (e.1 / 128 < m) && decide (e.1 % 128 < n)) }

def execMzero (n1 m1 : BitVec 7) (r : Shell) (s : State) : Out :=
  s.fireActive r fun f t =>
    let isl := t.island f.tile
    if !(t.islandFree f.tile f.ctx) then none
    else some ((t.setIsland ((isl.hold f.ctx f.hdr f.tag).zero (dimOf m1) (dimOf n1)).finish).sendBoth f r (f.port r 0))

/-- MDRAIN acts at the galley's commit, after every MMA and MMAS that issued before it; its result is the number of bytes written (R200). -/
def OFmt.bytes : OFmt → Nat
  | .fp32 => 4
  | _ => 2

def execMdrain (zero : Bool) (ofmt : OFmt) (n1 m1 : BitVec 7) (r : Shell) (s : State) : Out :=
  s.fireActive r fun f t => if s.mmaAhead true then none else
    let x := pairAddr f r 0
    let size := dimOf m1 * dimOf n1 * OFmt.bytes ofmt
    some ((t.addAct f { node := f.node, lsid := 0, instr := .mdrain zero ofmt n1 m1 r, obj := x.obj, off := x.off, size := size
                        hnd := f.hnd }).countOuts f r)

/-- One value of an accumulator as MDRAIN writes it (Table 3-8). -/
def drainVal (o : OFmt) (v : Word) : FRes :=
  let x := Fmt.fp32.decode v.toNat
  match o with
  | .fp32 => { bits := v.toNat, flags := 0 }
  | .fp16 => Fmt.fp16.sum .rne 0 [x] [x] false
  | .bf16 => Fmt.bf16.sum .rne 0 [x] [x] false

/-- The bytes of an M × N region, row-major, and the flags of its conversions. -/
def Island.drain (s : Island) (o : OFmt) (m n : Nat) : List Byte × Sticky :=
  let vs := (List.range m).flatMap fun i => (List.range n).map fun j => drainVal o (s.accAt i j)
  (vs.flatMap fun v => leBytes (OFmt.bytes o) v.bits, vs.foldl (fun st v => st ||| v.flags) 0)

/-! ## Bindings (R196) -/

/-- A binding replaces any earlier one of the same TASK. -/
def Island.bind (s : Island) (b : Bind) : Island := { s with binds := putBy (fun c => c.task == b.task) b s.binds }

/-- MTASK: the checks at issue; the binding at the commit, at the round's commit, or at once. -/
def execMtask (isl : BitVec 5) (pdest : BitVec 16) (r : Shell) (s : State) : Out :=
  s.fireTag r fun f t =>
    let k := f.port r 0
    let pass (t : State) (k : Tok) : State := if f.pinned then t.send f true r.dstb k else t.sendBoth f r k
    if !k.isActive then some (pass t k)
    else match t.tagOf f with
      | none => t.tagFault f
      | some tag =>
        if (pushTag tag 16 0).isNone then t.tagFault f
        else if f.pinned then match t.forme? f.h with
          | none => some t
          | some g => match g.dest f.x f.y r.dsta with
            | .island u =>
              if g.cfg.stream then
                some (pass (t.setIsland ((t.island u).bind { task := k.value.toNat % 256, pdest := pdest, ctx := f.ctx, tag := tag })) k)
              else if !(t.stageRoom g.part 4) then none
              else some (pass (t.stage f (.act (.mtask isl pdest r) k.value (tag.extractLsb' 0 32) (tag.extractLsb' 32 32))) k)
            | _ => some (pass t k)
        else
          let u := f.die * 32 + isl.toNat
          if t.unitPart u != f.part then t.privFault f
          else some (pass (t.addAct f { node := f.node, lsid := 0, instr := .mtask isl pdest r, a := k.value, obj := u }) k)

/-! ## Scales (R41, R201, R202) -/

/-- SCIN: pinned a scale token; pooled a write to the island's scale store. A scale token has no flags, so a flagged pinned SCIN sends
none. -/
def execScin (r : Shell) (s : State) : Out :=
  settleFire s (match s.gather r with
    | none => none
    | some (f, t) =>
      let e := (f.port r 0).value
      let b := (f.port r 1).value
      let idle := f.toks.any fun k => k.2.isDormant
      match f.verdict with
      | .mismatch k => t.countFault f k
      | .eos => some (if f.pinned then t else t.sendBoth f r .eos)
      | .null => some (if f.pinned then t else t.sendBoth f r .null)
      | .value =>
        if idle then some (if f.pinned then t else t.sendBoth f r .dormant)
        else if f.pinned then match t.forme? f.h with
          | none => some t
          | some g =>
            let put (t : State) (d : BitVec 16) : State := if d = noDest then t else t.sendLink f.h
              { src := .elem f.x f.y, dst := g.dest f.x f.y d, rt := f.rt, wire := .scale (b.extractLsb' 0 16) (e.extractLsb' 0 8) }
            some (put (put t r.dsta) r.dstb)
        else
          let isl := t.island f.tile
          if !(t.islandFree f.tile f.ctx) then none
          else
            let isl := isl.hold f.ctx f.hdr f.tag
            some ((t.setIsland { isl with scales := assign (b.toNat % 2 ^ 16) (e.extractLsb' 0 8) isl.scales }).sendBoth f r (f.port r 0)))

/-- The scale token that matches a route tag and its block. -/
def ElemState.scaleFor (e : ElemState) (rt : BitVec 4) (block : BitVec 16) : Option ScaleTok :=
  e.scales.find? fun k => k.rt == rt && k.btag == block

/-- The set of an SMUL or SFMA: the oldest by R39 whose scale token is in the latch (R41). -/
def State.gatherScaled (s : State) (r : Shell) : Option (Firing × Nat × State) :=
  match s.site with
  | .elem h x y => match s.forme? h with
    | none => none
    | some f =>
      if !(f.mayFire x y) then none
      else
        let e := f.run.core.elem x y
        let ports := expectedPorts r
        let cand := allRts.filterMap fun rt => match e.scaleFor rt (f.rtState x y rt).block with
          | none => none
          | some k => (e.setKey ports rt).map fun key => (key, rt, k)
        (leastBy (fun a b => keyLt a.1 b.1) cand).map fun c =>
          let (g, t) := s.takeAt f x y ports c.2.1
          (g, c.2.2.scale.toNat, t)
  | _ => none

/-- Count a firing of an SMUL or SFMA in its block; the scale token that was used goes after the 32nd, or after the EOS firing (R41). The
manual gives the count of firings within a block no field of its own: it is kept, and saved, in INDEX (log 78). -/
def State.stepBlock (s : State) (f : Firing) (eos : Bool) : State :=
  match s.forme? f.h with
  | none => s
  | some g =>
    let q := g.rtState f.x f.y f.rt
    let last := q.index.toNat = 31
    let e := g.run.core.elem f.x f.y
    let e := if last || eos then { e with scales := match e.scaleFor f.rt q.block with
      | some k => e.scales.erase k
      | none => e.scales } else e
    let q := if eos then { q with index := 0, block := 0 } else if last then { q with index := 0, block := q.block + 1 }
      else { q with index := q.index + 1 }
    s.setElem f.h (e.setRt q)

/-- SMUL and SFMA (R202). A NULL or dormant firing counts among the 32 of its block, whose elements keep their places (R41; DESIGN CHOICE,
log 107). -/
def State.scaledProduct (s : State) (r : Shell) (fmt : MFmt) (withC : Bool) : Out :=
  settleFire s (match s.gatherScaled r with
    | none => none
    | some (f, e, t) => match f.verdict with
      | .mismatch k => t.countFault f k
      | .eos => some ((t.stepBlock f true).sendBoth f r .eos)
      | .null => some ((t.stepBlock f false).sendBoth f r .null)
      | .value =>
        let t := t.stepBlock f false
        let a := f.port r 0
        let b := f.port r 1
        let c := f.port r 2
        if !(a.lmask.getLsbD 0) || !(b.lmask.getLsbD 0) || (withC && c.isDormant) then some (t.sendBoth f r .dormant)
        else
          let w := mfmtWidth fmt
          let x := mfmtVal fmt true (a.value.toNat % 2 ^ w)
          let y := mfmtVal fmt false (b.value.toNat % 2 ^ w)
          let (p, bad) := FVal.mul x y
          let v := Fmt.fp32.decode c.value.toNat
          let q := FVal.scaled p e
          let res := Fmt.fp32.sum .rne 0 ([x, y] ++ if withC then [v] else []) (if withC then [q, v] else [q]) (bad || e == 0xFF)
          some ((t.leave f res.flags 0).sendBoth f r (.data (BitVec.ofNat 32 res.bits))))

def execSmul (fmt : MFmt) (r : Shell) (s : State) : Out := s.scaledProduct r fmt false
def execSfma (fmt : MFmt) (r : Shell) (s : State) : Out := s.scaledProduct r fmt true

/-! ## SPCHK and MSTAT (R203) -/

def spchk (w : Word) : Word :=
  BitVec.ofNat 32 ((List.range 8).foldl (fun n q => n + atBit q (bits (4 * q) 2 w.toNat == bits (4 * q + 2) 2 w.toNat)) 0)

def execSpchk (r : Shell) (s : State) : Out := s.compute r fun o => whole o { v := spchk o.a.value }

/-- MSTAT. -/
def Island.stat (s : Island) (busy : Bool) (sel : Nat) : Word :=
  match sel with
  | 0 => BitVec.ofNat 32 (atBit 31 busy + if busy then s.holder else 0)
  | 1 => BitVec.ofNat 32 s.packets.length
  | 2 => s.sticky.setWidth 32
  | 3 => BitVec.ofNat 32 s.done
  | _ => 0

def execMstat (sel : BitVec 3) (isl : BitVec 5) (r : Shell) (s : State) : Out :=
  s.fireActive r fun f t =>
    let u := f.die * 32 + isl.toNat
    if t.unitPart u != f.part then t.privFault f else some (t.sendBoth f r (.data ((t.island u).stat (t.islandBusy u) sel.toNat)))

/-! ## Arriving packets (R195, R196) -/

/-- Bytes of the staging buffer in use, by whole packets and by those that are arriving. -/
def Island.staged (s : Island) : Nat := s.packets.foldl (fun n p => n + 4 * (p.words.length + 1)) (4 * s.inq.length)

/-- Words that round-mode formes have staged for an island (R354). -/
def State.wordsFor (s : State) (u : Nat) : Nat :=
  s.formes.foldl (fun n f => n + (f.run.staging.filter fun w => match w.work with
    | .word v _ _ => v == u
    | _ => false).length) 0

/-- The 256 KiB staging buffer of an island takes another word (R195). -/
def State.islandRoom (s : State) (u : Nat) : Bool := decide ((s.island u).staged + 4 * s.wordsFor u + 4 ≤ 262144)

/-- The tokens of a route tag, and the rest, `n` of them at most. -/
def takeRt (rt : BitVec 4) : Nat → List (BitVec 4 × Word) → List Word × List (BitVec 4 × Word)
  | 0, l => ([], l)
  | _ + 1, [] => ([], [])
  | n + 1, t :: l =>
    if t.1 == rt then
      let (a, b) := takeRt rt n l
      (t.2 :: a, b)
    else
      let (a, b) := takeRt rt (n + 1) l
      (a, t :: b)

/-- A packet is complete in the arrivals of an island: the header at place `n`, the first token of its route tag, and WORDS payload
tokens. It joins the staging buffer, or is discarded and reported when its header is not legal; an A packet of a bound task wakes its
handler. -/
def State.islandPacket (s : State) (u n : Nat) : Option State :=
  let isl := s.island u
  match isl.inq[n]? with
  | none => none
  | some (rt, h) =>
    if (isl.inq.take n).any fun t => t.1 == rt then none
    else
      let hd := h.toNat
      let words := hd % 2 ^ 16
      let (ws, rest) := takeRt rt (words + 1) isl.inq
      if ws.length ≠ words + 1 then none
      else if 6 ≤ bits 29 3 hd ∨ bits 24 5 hd ≠ 0 then
        ((s.setIsland { isl with inq := rest }).postPart (s.unitPart u)
          { ctx := 0, src := 1, srcid := u % 32, cls := clsStray, prec := 3 } (hd * 2 ^ 64 + 2 ^ 48))
      else
        let task := bits 16 8 hd
        let isl := { isl with inq := rest, packets := isl.packets ++ [{ kind := bits 29 3 hd, task := task, words := ws.drop 1 }] }
        if bits 29 3 hd ≠ 0 then some (s.setIsland isl)
        else match isl.binds.find? fun b => b.task == task with
          | none => some (s.setIsland isl)
          | some b => match pushTag b.tag 16 b.seq with
            | none => some (s.setIsland isl)
            | some tag =>
              let isl := isl.bind { b with seq := (b.seq + 1) % 2 ^ 16 }
              some ((s.setIsland isl).sendTile u { tag := tag, port := BitVec.ofNat 2 (destPort b.pdest)
                                                   node := BitVec.ofNat 14 (b.pdest.toNat % 2 ^ 14), tok := .data h })

def execIslandPacket (isl n : Nat) (s : State) : Out := settle s (s.islandPacket isl n)

end Sys2Proof.Machine
end

