-- ==== Sys2Proof/Machine/Composite.lean ====
section
/-! DEFINITION. The compositing accumulator: slots, terms, watermarks, logs and gradients (R209 to R214, R285). -/

namespace Sys2Proof.Machine

/-! ## Exact values -/

/-- An exact difference. -/
def FVal.minus (a b : FVal) : FVal :=
  match (sumExact [a, b.negate]).1 with
  | .nan => .nan false
  | .inf n => .inf n
  | .fin i e zn _ => .fin (if i = 0 then zn else decide (i < 0)) i.natAbs e

/-- The flags of that difference: NV for a signalling operand and for infinity less infinity (R51, R52). -/
def FVal.minusFlags (a b : FVal) : Sticky := snanFlags [a, b] ||| nvIf (sumExact [a, b.negate]).2

def FVal.one : FVal := .fin false 1 0

def f32 (w : Word) : FVal := Fmt.fp32.decode w.toNat
def f16 (h : BitVec 16) : FVal := Fmt.fp16.decode h.toNat

/-- A sum of products rounded once to FP32 under RNE. -/
def dot32 (l : List (FVal × FVal)) : FRes :=
  let ps := l.map fun e => FVal.mul e.1 e.2
  Fmt.fp32.sum .rne 0 (l.flatMap fun e => [e.1, e.2]) (ps.map (·.1)) (ps.any (·.2))

def FRes.word (r : FRes) : Word := BitVec.ofNat 32 r.bits

/-! ## Slots (R209, R210) -/

def CaState.slotAt (c : CaState) (n : Nat) : CaSlot := (c.slots.find? fun s => s.slot == n).getD { slot := n }
def CaState.setSlot (c : CaState) (s : CaSlot) : CaState := { c with slots := putBy (fun a => a.slot == s.slot) s c.slots }

/-- Saturating addition on a 16-bit count. -/
def sat16 (a : BitVec 16) (n : Nat) : BitVec 16 := BitVec.ofNat 16 (satAdd 0xFFFF a.toNat n)

/-- A log record (Table 8-6). -/
def logRec (s : CaSlot) (e : CaEntry) (late : Bool) : Nat :=
  e.key.toNat * 2 ^ 216 + s.slot % 4096 * 2 ^ 204 + atBit 203 late + e.alpha.toNat * 2 ^ 176 + e.cr.toNat * 2 ^ 160 +
    e.cg.toNat * 2 ^ 144 + e.cb.toNat * 2 ^ 128 + s.t.toNat * 2 ^ 96 +
    if late then s.cb.toNat * 2 ^ 64 + s.cg.toNat * 2 ^ 32 + s.cr.toNat else 0

/-- What an operation on slots leaves: the slot, its log records and its sticky bits. -/
structure CaOut where
  slot : CaSlot
  recs : List Nat := []
  st : Sticky := 0
  deriving DecidableEq, Repr

/-- Retirement after a commit or a late blend (R210). -/
def CaSlot.retire (s : CaSlot) (thresh : Nat) : CaSlot :=
  if FVal.compare (f32 s.t) (.fin false 1 (-(thresh : Int))) == .lt && !(f32 s.t).isNan then
    { s with retired := true, drop := sat16 s.drop s.buf.length, buf := [] }
  else s

/-- Commit an entry. -/
def CaSlot.commit (s : CaSlot) (thresh : Nat) (e : CaEntry) : CaOut :=
  let a := f16 e.alpha
  let w := dot32 [(f32 s.t, a)]
  let mix (c : Word) (x : BitVec 16) : FRes := dot32 [(f32 c, .one), (f32 w.word, f16 x)]
  let r := mix s.cr e.cr
  let g := mix s.cg e.cg
  let b := mix s.cb e.cb
  let t := dot32 [(f32 s.t, FVal.minus .one a)]
  { slot := CaSlot.retire { s with cr := r.word, cg := g.word, cb := b.word, t := t.word, kc := e.key } thresh
    recs := [logRec s e false], st := w.flags ||| r.flags ||| g.flags ||| b.flags ||| t.flags }

/-- Blend an entry late. -/
def CaSlot.lateBlend (s : CaSlot) (thresh : Nat) (e : CaEntry) : CaOut :=
  let a := f16 e.alpha
  let rest := FVal.minus .one a
  let mix (c : Word) (x : BitVec 16) : FRes := dot32 [(a, f16 x), (rest, f32 c)]
  let r := mix s.cr e.cr
  let g := mix s.cg e.cg
  let b := mix s.cb e.cb
  let t := dot32 [(f32 s.t, rest)]
  { slot := CaSlot.retire { s with cr := r.word, cg := g.word, cb := b.word, t := t.word, kc := e.key, late := sat16 s.late 1 } thresh
    recs := [logRec s e true], st := r.flags ||| g.flags ||| b.flags ||| t.flags }

/-- Commit held entries, nearest first, as long as the nearest satisfies `p`; `n` bounds the entries. -/
def CaSlot.sweep (thresh : Nat) (p : CaEntry → Bool) : Nat → CaSlot → CaOut
  | 0, s => { slot := s }
  | n + 1, s => match s.buf with
    | [] => { slot := s }
    | e :: rest =>
      if p e then
        let o := CaSlot.commit { s with buf := rest } thresh e
        let q := CaSlot.sweep thresh p n o.slot
        { slot := q.slot, recs := o.recs ++ q.recs, st := o.st ||| q.st }
      else { slot := s }

/-- Alpha clamped to 0 to 1 (R210). -/
def clampAlpha (a : BitVec 16) : BitVec 16 :=
  match f16 a with
  | .inf n => if n then 0 else 0x3C00
  | .fin n m _ => if n || m == 0 then 0 else if 0x3C00 < a.toNat then 0x3C00 else a
  | .nan _ => a

/-- Take a term (R210). -/
def CaSlot.take (s : CaSlot) (thresh : Nat) (wmk : BitVec 40) (e : CaEntry) : CaOut :=
  let drop (o : CaOut) : CaOut := { o with slot := { o.slot with drop := sat16 o.slot.drop 1 } }
  if s.retired then drop { slot := s }
  else if (f16 e.alpha).isNan then drop { slot := s, st := stNV }
  else
    let e := { e with alpha := clampAlpha e.alpha }
    let o := if s.buf.length = 4 then CaSlot.sweep thresh (fun _ => true) 1 s else { slot := s }
    if o.slot.retired then drop o
    else if e.key.toNat < o.slot.kc.toNat then
      let q := o.slot.lateBlend thresh e
      { slot := q.slot, recs := o.recs ++ q.recs, st := o.st ||| q.st }
    else
      let buf := insertBy (fun a b => decide (a.key.toNat < b.key.toNat)) e o.slot.buf
      let q := CaSlot.sweep thresh (fun x => decide (x.key.toNat ≤ wmk.toNat)) 4 { o.slot with buf := buf }
      { slot := q.slot, recs := o.recs ++ q.recs, st := o.st ||| q.st }

/-! ## Operations on a tile -/

/-- What an operation leaves of a tile. -/
structure CaRes where
  ca : CaState
  recs : List Nat := []
  st : Sticky := 0
  deriving DecidableEq, Repr

/-- A term for a slot. -/
def CaState.term (c : CaState) (slot : Nat) (e : CaEntry) : CaRes :=
  let o := (c.slotAt slot).take c.thresh c.wmk e
  { ca := c.setSlot o.slot, recs := o.recs, st := o.st }

/-- Commit every held entry up to a watermark, in ascending slots (R211, R285). -/
def CaState.sweepAll (c : CaState) (wmk : BitVec 40) : CaRes :=
  let slots := sortBy (fun a b => decide (a.slot < b.slot)) c.slots
  slots.foldl (fun r s =>
    let o := CaSlot.sweep c.thresh (fun x => decide (x.key.toNat ≤ wmk.toNat)) 4 s
    { ca := r.ca.setSlot o.slot, recs := r.recs ++ o.recs, st := r.st ||| o.st }) { ca := { c with wmk := wmk } }

/-- CWMK (R211). -/
def CaState.watermark (c : CaState) (key : BitVec 40) : CaRes := c.sweepAll (if c.wmk.toNat < key.toNat then key else c.wmk)

/-- CCLR (R211). -/
def CaState.clear (c : CaState) : CaRes := { ca := { c with slots := [], wmk := 0 } }

/-- The 8 bytes that CRES writes for a slot. -/
def CaSlot.resolve (s : CaSlot) : List Byte × Sticky :=
  let h (v : FVal) : FRes := Fmt.fp16.sum .rne 0 [v] [v] false
  let l := [h (f32 s.cr), h (f32 s.cg), h (f32 s.cb), h (FVal.minus .one (f32 s.t))]
  (l.flatMap fun r => leBytes 2 r.bits, l.foldl (fun st r => st ||| r.flags) (FVal.minusFlags .one (f32 s.t)))

/-- CRES: what it leaves and the bytes it writes (R211). -/
def CaState.resolveAll (c : CaState) : CaRes × List Byte :=
  let r := c.sweepAll (BitVec.ofNat 40 (2 ^ 40 - 1))
  let l := (List.range 4096).map fun n => (r.ca.slotAt n).resolve
  ({ r with st := l.foldl (fun st e => st ||| e.2) r.st }, l.flatMap (·.1))

/-- A check of R150 that fails: class, address, size, kind (Table 22-2). -/
structure Failed where
  cls : Nat
  va : Nat
  size : Nat
  kind : Nat
  deriving DecidableEq, Repr

/-! ## The log (R213) -/

/-- The header of a log. -/
def logHeader (next : Nat) (ovf : Bool) : Nat := next % 2 ^ 31 + atBit 31 ovf

/-- A store by an operation at a CA tile: to memory, or staged under an element and route tag. -/
def State.caStore (s : State) (h x y : Nat) (rt : BitVec 4) (staged : Bool) (a : Addr) (pieces : List (Nat × Nat)) (b : List Byte) :
    State :=
  if staged then match s.forme? h with
    | some f => s.setForme (f.stageAt x y rt (.store (BitVec.ofNat 64 a.va) b))
    | none => s
  else s.writePieces pieces b

/-- Write the log records of an operation, those that pass the object's length setting OVF: none if an access stalls, a fault with its address, or the tile and the state. -/
def State.logRecs (s : State) (part h x y : Nat) (rt : BitVec 4) (staged : Bool) :
    CaState → List Nat → Option (Except Failed (CaState × State))
  | c, [] => some (.ok (c, s))
  | c, r :: rest =>
    if c.log = 0 then some (.ok (c, s))
    else
      let a := Addr.ofVa c.log
      let ra := a.plus (32 + 32 * c.next : Nat)
      match s.single part a 32 .write, s.single part ra 32 .write with
      | .stall, _ => none
      | .fault cls, _ => some (.error ⟨cls, a.va, 32, 3⟩)
      | .ok hp, rr =>
        if s.beyond part ra 32 then
          let c := { c with ovf := true }
          State.logRecs (s.caStore h x y rt staged a hp (leBytes 32 (logHeader c.next true))) part h x y rt staged c rest
        else match rr with
        | .stall => none
        | .fault cls => some (.error ⟨cls, ra.va, 32, 3⟩)
        | .ok rp =>
          let s := s.caStore h x y rt staged ra rp (leBytes 32 r)
          let c := { c with next := c.next + 1 }
          State.logRecs (s.caStore h x y rt staged a hp (leBytes 32 (logHeader c.next c.ovf))) part h x y rt staged c rest

/-- The CA tile of a bay. -/
def Forme.ca (f : Forme) (bay : Nat) : CaState :=
  (f.run.core.cas.find? fun c => c.bay == bay).getD { bay := bay, thresh := (f.role bay).thresh }
def Core.setCa (c : Core) (a : CaState) : Core := { c with cas := putBy (fun b => b.bay == a.bay) a c.cas }

/-- Perform an operation at a CA tile with its log records. -/
def State.caDo (s : State) (h x y : Nat) (rt : BitVec 4) (bay : Nat) (op : CaState → CaRes) :
    Option (Except Failed (State × Sticky)) :=
  match s.forme? h with
  | none => some (.ok (s, 0))
  | some f =>
    let r := op (f.ca bay)
    if !f.cfg.stream && r.ca.log != 0 && !(s.stageRoom f.part (64 * r.recs.length)) then none
    else match s.logRecs f.part h x y rt (!f.cfg.stream) r.ca r.recs with
    | none => none
    | some (.error e) => some (.error e)
    | some (.ok (c, s)) => match s.forme? h with
      | none => some (.ok (s, r.st))
      | some f => some (.ok (s.putCore f (f.run.core.setCa c), r.st))

/-- CLOG: on with an empty log at va, or off (R213). -/
def State.caLog (s : State) (h x y : Nat) (rt : BitVec 4) (bay : Nat) (va : VA) : Option (Except Failed State) :=
  match s.forme? h with
  | none => some (.ok s)
  | some f =>
    let c := { f.ca bay with log := va, next := 0, ovf := false }
    if va = 0 then some (.ok (s.putCore f (f.run.core.setCa c)))
    else match s.single f.part (Addr.ofVa va) 32 .write with
      | .stall => none
      | .fault cls => some (.error ⟨cls, (Addr.ofVa va).va, 32, 3⟩)
      | .ok p => some (.ok ((s.putCore f (f.run.core.setCa c)).caStore h x y rt (!f.cfg.stream) (Addr.ofVa va) p (leBytes 32 0)))

/-- CRES: sweep, then write 4,096 slots of 8 bytes (R211). -/
def State.caResolve (s : State) (h x y : Nat) (rt : BitVec 4) (bay : Nat) (va : VA) : Option (Except Failed (State × Sticky)) :=
  match s.forme? h with
  | none => some (.ok (s, 0))
  | some f =>
    let a := Addr.ofVa va
    match s.range f.part a 32768 .write with
    | .stall => none
    | .fault cls => some (.error ⟨cls, a.va, 0, 3⟩)
    | .ok p =>
      let b := (f.ca bay).resolveAll
      if !f.cfg.stream && !(s.stageRoom f.part 32768) then none
      else match s.caDo h x y rt bay fun _ => b.1 with
      | none => none
      | some (.error e) => some (.error e)
      | some (.ok (s, st)) => some (.ok (s.caStore h x y rt (!f.cfg.stream) a p b.2, st))

/-! ## CADJ (R214) -/

/-- What the walk of CADJ carries: g, h, and what it has set. -/
structure Adj where
  gr : Word
  gg : Word
  gb : Word
  h : Word := 0
  st : Sticky := 0
  deriving DecidableEq, Repr

/-- One record of the walk, from the last written on: the record written to OUT. -/
def Adj.step (g : Adj) (r : Nat) : Nat × Adj :=
  let a : FVal := Fmt.fp16.decode (bits 176 16 r)
  let c : List FVal := [160, 144, 128].map fun k => Fmt.fp16.decode (bits k 16 r)
  let tb : FVal := Fmt.fp32.decode (bits 96 32 r)
  let cp : List FVal := [0, 32, 64].map fun k => Fmt.fp32.decode (bits k 32 r)
  let gs : List FVal := [f32 g.gr, f32 g.gg, f32 g.gb]
  let h := f32 g.h
  let rest := FVal.minus .one a
  let head := r / 2 ^ 204 * 2 ^ 204
  let out (da : FRes) (dc : List FRes) : Nat :=
    head + da.bits * 2 ^ 96 + (dc.getD 2 ⟨0, 0⟩).bits * 2 ^ 64 + (dc.getD 1 ⟨0, 0⟩).bits * 2 ^ 32 + (dc.getD 0 ⟨0, 0⟩).bits
  let flags (l : List FRes) : Sticky := l.foldl (fun st x => st ||| x.flags) g.st
  if !(bit 203 r) then
    let w := dot32 [(tb, a)]
    let dc := gs.map fun x => dot32 [(x, f32 w.word)]
    let q := dot32 (gs.zip c)
    let da := dot32 [(f32 q.word, tb), (h.negate, tb)]
    let h' := dot32 [(a, f32 q.word), (rest, h)]
    (out da dc, { g with h := h'.word, st := flags ([w, q, da, h'] ++ dc) })
  else
    let dc := gs.map fun x => dot32 [(x, a)]
    let q := dot32 (gs.zip ((c.zip cp).map fun e => FVal.minus e.1 e.2))
    let far : Sticky := (c.zip cp).foldl (fun st e => st ||| FVal.minusFlags e.1 e.2) 0
    let da := dot32 [(f32 q.word, .one), (h.negate, tb)]
    let g' := gs.map fun x => dot32 [(rest, x)]
    let h' := dot32 [(rest, h)]
    (out da dc, { gr := (g'.getD 0 ⟨0, 0⟩).word, gg := (g'.getD 1 ⟨0, 0⟩).word, gb := (g'.getD 2 ⟨0, 0⟩).word, h := h'.word
                  st := far ||| flags ([q, da, h'] ++ dc ++ g') })

/-- The records that CADJ writes, for the log's records of a slot from the last to the first. -/
def adjWalk : Adj → List Nat → List Nat × Sticky
  | g, [] => ([], g.st)
  | g, r :: l =>
    let (o, g') := g.step r
    let (os, st) := adjWalk g' l
    (o :: os, st)

/-- CADJ on the bytes of its descriptor: the range of OUT with the bytes to write there, the count that it sends, and its sticky bits. -/
def State.adjust (s : State) (part : Nat) (db : List Byte) : Option (Except Failed (Addr × List (Nat × Nat) × List Byte × Word × Sticky)) :=
  let d := leNat db
  let log := Addr.ofVa (BitVec.ofNat 64 (bits 0 64 d))
  let out := Addr.ofVa (BitVec.ofNat 64 (bits 64 64 d))
  match s.fetchOne part log 32 .read with
  | none => none
  | some (.error c) => some (.error ⟨c, log.va, 32, 3⟩)
  | some (.ok hb) =>
    let next := bits 0 31 (leNat hb)
    match s.fetchRange part (log.plus 32) (32 * next) .read with
    | none => none
    | some (.error c) => some (.error ⟨c, (log.plus 32).va, 0, 3⟩)
    | some (.ok rb) =>
      let recs := ((List.range next).map fun i => leNat ((rb.drop (32 * i)).take 32)).filter fun r => bits 204 12 r == bits 128 12 d
      let g : Adj := { gr := BitVec.ofNat 32 (bits 160 32 d), gg := BitVec.ofNat 32 (bits 192 32 d), gb := BitVec.ofNat 32 (bits 224 32 d) }
      let (os, st) := adjWalk g recs.reverse
      let count : Word := BitVec.ofNat 32 (os.length + atBit 31 (bit 31 (leNat hb)))
      if os.isEmpty then some (.ok (out, [], [], count, st))
      else match s.range part out (32 * os.length) .write with
        | .stall => none
        | .fault c => some (.error ⟨c, out.va, 0, 3⟩)
        | .ok p => some (.ok (out, p, os.flatMap (leBytes 32), count, st))

/-- CADJ: its descriptor is read, then performed. -/
def State.cadj (s : State) (part : Nat) (x : Addr) : Option (Except Failed (Addr × List (Nat × Nat) × List Byte × Word × Sticky)) :=
  match s.fetchOne part x 64 .read with
  | none => none
  | some (.error c) => some (.error ⟨c, x.va, 64, 3⟩)
  | some (.ok db) => s.adjust part db

end Sys2Proof.Machine
end

