-- ==== Sys2Proof/Machine/Render.lean ====
section
/-! DEFINITION. Group 0xD: sampling, neural textures, lattice marching, the compositing accumulator's records and frame releases (R204
to R215). -/

namespace Sys2Proof.Machine

/-! ## Sampler state (R205) -/

/-- Fields of a sampler state record (Table 8-4). -/
structure Ssr where
  raw : BitVec 256
  deriving DecidableEq, Repr

def Ssr.n (r : Ssr) : Nat := r.raw.toNat
def Ssr.base (r : Ssr) : Addr := Addr.ofVa (BitVec.ofNat 64 (bits 192 64 r.n))
def Ssr.format (r : Ssr) : Nat := bits 152 8 r.n
def Ssr.lvm1 (r : Ssr) : Nat := bits 148 4 r.n
def Ssr.linear (r : Ssr) : Bool := bit 143 r.n
def Ssr.miplin (r : Ssr) : Bool := bit 142 r.n
def Ssr.chans (r : Ssr) : Nat := bits 128 6 r.n + 1
def Ssr.mlp (r : Ssr) : Addr := Addr.ofVa (BitVec.ofNat 64 (bits 64 64 r.n))
/-- Width and height of level `l`: halved at each level, at least 1 (PRESUMED, log 20). -/
def Ssr.width (r : Ssr) (l : Nat) : Nat := max 1 ((bits 176 16 r.n + 1) / 2 ^ l)
def Ssr.height (r : Ssr) (l : Nat) : Nat := max 1 ((bits 160 16 r.n + 1) / 2 ^ l)

/-- Bytes of a stored texel or block of a format of TEX; none for a format it does not have. -/
def texelBytes (format : Nat) : Option Nat :=
  if format = 0x00 then some 4
  else if format = 0x01 then some 8
  else if format = 0x10 ∨ format = 0x13 then some 8
  else if 0x10 ≤ format ∧ format ≤ 0x16 then some 16
  else if format = 0x20 ∨ format = 0x21 then some 16
  else none

/-- Texels of a stored block of a format of TEX, across and down (Table 8-4). -/
def Ssr.footprint (r : Ssr) : Nat × Nat :=
  if r.format < 0x10 then (1, 1)
  else if r.format < 0x20 then (4, 4)
  else (bits 138 4 r.n + 4, bits 134 4 r.n + 4)

/-- A sum over the mip levels. -/
def Ssr.overLevels (r : Ssr) (g : Nat → Nat) : Nat := (List.range (r.lvm1 + 1)).foldl (fun n l => n + g l) 0

/-- Stored blocks of all levels (PRESUMED, log 7: stored from BASE on without gaps, in an order that is not given). -/
def Ssr.blocks (r : Ssr) : Nat :=
  r.overLevels fun l => ceilDiv (r.width l) r.footprint.1 * ceilDiv (r.height l) r.footprint.2

/-- Bytes of a latent grid with its scales (PRESUMED, log 7, as above). -/
def Ssr.latents (r : Ssr) : Nat := r.overLevels fun l => r.width l * r.height l * (r.chans + ceilDiv r.chans 32)

/-! ## Where to sample (R206) -/

/-- One texel of a sample: its weight in units of 2^-24, its level and its place. -/
structure Tap where
  w : Nat
  level : Nat
  x : Nat
  y : Nat
  deriving DecidableEq, Repr

/-- An address mode; 3 has no meaning, and its place is a free value. -/
def addressed (mode w : Nat) (t : Int) : Nat :=
  match mode with
  | 0 => (t % (w : Int)).toNat
  | 1 => if t < 0 then 0 else min t.toNat (w - 1)
  | _ =>
    let k := (t % (2 * w : Nat)).toNat
    if k < w then k else 2 * w - 1 - k

/-- A finite FP16 value in units of 2^-24. -/
def half24 (h : Nat) : Option Int :=
  match Fmt.fp16.decode h with
  | .fin n m e => some (if n then -((m * 2 ^ (e + 24).toNat : Nat) : Int) else (m * 2 ^ (e + 24).toNat : Nat))
  | _ => none

/-- The places along one axis of `w` texels with their weights in units of 2^-8. Without LINEAR it is the texel that holds the coordinate,
floor(u × W): midway between two texels the upper one (DESIGN CHOICE, log 105). -/
def axisTaps (linear : Bool) (mode w : Nat) (u : Int) : List (Nat × Nat) :=
  if linear then
    let x := 2 * u * w - 2 ^ 24
    let i := x / 2 ^ 25
    let fr := (x % 2 ^ 25 / 2 ^ 17).toNat
    [(256 - fr, addressed mode w i), (fr, addressed mode w (i + 1))]
  else [(256, addressed mode w (u * w / 2 ^ 24))]

/-- The levels with their weights in units of 2^-8. None when the LOD gives no level or no weight. -/
def levels (lvm1 : Nat) (miplin : Bool) (lod : FVal) : Option (List (Nat × Nat)) :=
  match lod with
  | .nan _ => none
  | .inf true => if miplin then none else some [(256, 0)]
  | .inf false => some [(256, lvm1)]
  | .fin n m e =>
    let i : Int := if n then -(m : Int) else m
    let fl : Int := if 0 ≤ e then i * 2 ^ e.toNat else i / 2 ^ (-e).toNat
    let fr : Nat := if 0 ≤ e then 0 else ((i % 2 ^ (-e).toNat) * 256 / 2 ^ (-e).toNat).toNat
    let l := if fl < 0 then 0 else min fl.toNat lvm1
    some (if miplin then [(256 - fr, l), (fr, min (l + 1) lvm1)] else [(256, l)])

/-- The texels of a sample; none where the manual gives no result (an infinite coordinate, a NaN LOD, an address mode of 3). -/
def Ssr.taps (r : Ssr) (u v : Nat) (lod : FVal) : Option (List Tap) :=
  match half24 u, half24 v, levels r.lvm1 r.miplin lod with
  | some u, some v, some ls =>
    let mu := bits 146 2 r.n
    let mv := bits 144 2 r.n
    if mu = 3 ∨ mv = 3 then none
    else some (ls.flatMap fun l =>
      (axisTaps r.linear mv (r.height l.2) v).flatMap fun b => (axisTaps r.linear mu (r.width l.2) u).map fun a =>
        { w := l.1 * a.1 * b.1, level := l.2, x := a.2, y := b.2 })
  | _, _, _ => none

/-- Weighted sum, exact and rounded once to FP16. -/
def blend (l : List (Nat × FVal)) : FRes :=
  let ps := l.map fun e => FVal.mul (.fin false e.1 (-24)) e.2
  Fmt.fp16.sum .rne 0 (l.map (·.2)) (ps.map (·.1)) (ps.any (·.2))

/-- The first that stalls or fails decides; else all results. -/
def collect {α β : Type} (f : α → Option (Except (Nat × Nat) β)) : List α → Option (Except (Nat × Nat) (List β))
  | [] => some (.ok [])
  | a :: l => match f a with
    | none => none
    | some (.error e) => some (.error e)
    | some (.ok b) => match collect f l with
      | some (.ok bs) => some (.ok (b :: bs))
      | r => r

/-- The four channels of a texel as FP32 values. Rounding a decoded channel to FP32 (R206) leaves no sticky bit (DESIGN CHOICE, log 110). -/
def Ssr.texel (r : Ssr) (s : State) (part : Nat) (size : Nat) (t : Tap) : Option (Except (Nat × Nat) (List FVal)) :=
  let a := r.base.plus (size * (Config.texelPlace r.raw t.level t.x t.y % r.blocks) : Nat)
  match s.fetchRange part a size .read with
  | none => none
  | some (.error c) => some (.error (c, a.va))
  | some (.ok b) => some (.ok ((List.range 4).map fun k =>
      if r.format = 0x00 then Fmt.fp32.decode (Fmt.fp32.round .rne 0 false (b.getD k 0).toNat 255).bits
      else if r.format = 0x01 then Fmt.fp16.decode (leNat ((b.drop (2 * k)).take 2))
      else f32 (Config.texelDecode r.raw t.level t.x t.y b k)))

/-- What a sampler sends: R, G, B, A in FP16 with the flags. -/
structure Rgba where
  c : List Nat
  st : Sticky
  deriving DecidableEq, Repr

def Rgba.ofRes (l : List FRes) : Rgba := { c := l.map FRes.bits, st := l.foldl (fun st r => st ||| r.flags) 0 }
def Rgba.lo (c : Rgba) : Word := BitVec.ofNat 32 (c.c.getD 0 0 % 65536 + c.c.getD 1 0 % 65536 * 65536)
def Rgba.hi (c : Rgba) : Word := BitVec.ofNat 32 (c.c.getD 2 0 % 65536 + c.c.getD 3 0 % 65536 * 65536)

/-- `n` FP16 free values (log 8). -/
def State.drawHalves (s : State) : Nat → List Nat × State
  | 0 => ([], s)
  | n + 1 =>
    let (v, s) := s.draw
    let (l, s) := State.drawHalves s n
    (v.toNat % 65536 :: l, s)

def halfNan (h : Nat) : Bool := (Fmt.fp16.decode h).isNan

/-- Channel values at the coordinates of a firing, by a function of the texels. -/
def Ssr.sample (r : Ssr) (s : State) (n u v : Nat) (lod : FVal)
    (get : List Tap → Option (Except (Nat × Nat) (List FRes))) : Option (Except (Nat × Nat) (List Nat × Sticky × State)) :=
  if halfNan u || halfNan v then some (.ok (List.replicate n 0x7E00, stNV, s))
  else match r.taps u v lod with
    | none => let (l, s) := s.drawHalves n
      some (.ok (l, snanFlags [lod], s))
    | some taps => match get taps with
      | none => none
      | some (.error e) => some (.error e)
      | some (.ok l) => some (.ok (l.map FRes.bits, l.foldl (fun st x => st ||| x.flags) 0, s))

/-- The sampler state of a firing (R205): an index beyond the table is a bounds fault. None while the die's sampler units are not READY
(R17, R376; log 91). -/
def State.ssrAt (s : State) (f : Firing) (ssr : BitVec 12) : Option (Except (Nat × Nat) Ssr) :=
  let a := (Addr.ofVa (s.ctxOf f).smpb).plus (32 * ssr.toNat : Nat)
  if !(s.unitReady (18 + f.die)) || s.follows f then none
  else match s.fetchOne f.part a 32 .read with
    | none => none
    | some (.error c) => some (.error (if s.beyond f.part a 32 then clsBounds else c, a.va))
    | some (.ok b) => some (.ok ⟨BitVec.ofNat 256 (leNat b)⟩)

/-- Send the four channels. -/
def State.sendRgba (s : State) (f : Firing) (r : Shell) (c : List Nat) (st : Sticky) : State :=
  let q : Rgba := { c := c, st := st }
  (s.leave f st 0).sendTwo f r (.data q.lo) (.data q.hi)

/-- TEX (R206). -/
def execTex (ssr : BitVec 12) (r : Shell) (s : State) : Out :=
  s.fireActive r fun f t => match t.ssrAt f ssr with
    | none => none
    | some (.error e) => t.accessFault f e.1 e.2 32 0
    | some (.ok q) => match texelBytes q.format with
      | none => t.accessFault f clsBounds q.base.va 0 0
      | some size =>
        let k := (f.port r 0).value
        let get (taps : List Tap) : Option (Except (Nat × Nat) (List FRes)) :=
          match collect (fun a => q.texel t f.part size a) taps with
          | none => none
          | some (.error e) => some (.error e)
          | some (.ok vs) => some (.ok ((List.range 4).map fun c => blend ((taps.zip vs).map fun e => (e.1.w, e.2.getD c (.nan false)))))
        match q.sample t 4 (half k 0) (half k 1) (f32 (f.port r 1).value) get with
        | none => none
        | some (.error e) => t.accessFault f e.1 e.2 size 0
        | some (.ok (c, st, t)) => some ((t.touch f q.base (2 ^ 40) 0 size).sendRgba f r c st)

/-! ## TEXN (R207) -/

/-- A layer of the network. -/
structure Layer where
  ins : Nat
  outs : Nat
  at_ : Nat
  deriving DecidableEq, Repr

def Layer.scales (l : Layer) : Nat := ceilDiv l.ins 32
def Layer.bytes (l : Layer) : Nat := 4 + l.outs * l.ins + l.outs * l.scales + 4 * l.outs

/-- Bytes of memory from an address. -/
def State.bytesAt (s : State) (part : Nat) (a : Addr) (n : Nat) : Option (Except (Nat × Nat) (List Byte)) :=
  match s.fetchRange part a n .read with
  | none => none
  | some (.error c) => some (.error (c, a.va))
  | some (.ok b) => some (.ok b)

/-- One output of a layer before its rounding: the bias and the groups of products (R67). -/
def layerOut (fmt : MFmt) (l : Layer) (b : List Byte) (h : List Nat) (o : Nat) : Word × Sticky :=
  let byte (k : Nat) : Nat := (b.getD k 0).toNat
  let w0 := 4 + o * l.ins
  let s0 := 4 + l.outs * l.ins + o * l.scales
  let c0 := 4 + l.outs * l.ins + l.outs * l.scales + 4 * o
  let prods := h.zipIdx.map fun e =>
    (e.2, FVal.mul (Fmt.fp16.decode e.1) (FVal.scaled (mfmtVal fmt true (byte (w0 + e.2))) (byte (s0 + e.2 / 32))))
  let c := leNat ((b.drop c0).take 4)
  let r := dotGroups (mfmtGroup fmt) (ceilDiv l.ins (mfmtGroup fmt)) (BitVec.ofNat 32 c) prods
  (r.1, r.2 ||| snanFlags [Fmt.fp32.decode c])

/-- A layer's outputs, rounded to FP16. -/
def layerRun (fmt : MFmt) (l : Layer) (b : List Byte) (h : List Nat) (last : Bool) : List Nat × Sticky :=
  let os := (List.range l.outs).map fun o =>
    let y := layerOut fmt l b h o
    let z : FRes := if last then { bits := y.1.toNat, flags := 0 } else Fmt.fp32.minmax true y.1.toNat 0
    let v := Fmt.fp32.decode z.bits
    let q := Fmt.fp16.sum .rne 0 [v] [v] false
    (q.bits, y.2 ||| z.flags ||| q.flags)
  (os.map (·.1), os.foldl (fun st e => st ||| e.2) 0)

/-- The layers from an address on: the four channels, or a bounds fault where their widths do not fit. -/
def State.network (s : State) (part : Nat) (fmt : MFmt) : Nat → Addr → List Nat → Sticky → Option (Except (Nat × Nat) (List Nat × Sticky))
  | 0, a, _, _ => some (.error (clsBounds, a.va))
  | k + 1, a, h, st => match s.bytesAt part a 4 with
    | none => none
    | some (.error e) => some (.error e)
    | some (.ok wb) =>
      let l : Layer := { ins := leNat (wb.take 2), outs := leNat (wb.drop 2), at_ := 0 }
      if l.ins ≠ h.length ∨ l.ins = 0 ∨ 64 < l.ins ∨ l.outs = 0 ∨ 64 < l.outs ∨ (k = 0 ∧ l.outs ≠ 4) then some (.error (clsBounds, a.va))
      else match s.bytesAt part a l.bytes with
        | none => none
        | some (.error e) => some (.error e)
        | some (.ok b) =>
          let o := layerRun fmt l b h (k == 0)
          if k = 0 then some (.ok (o.1, st ||| o.2)) else State.network s part fmt k (a.plus (l.bytes : Nat)) o.1 (st ||| o.2)

/-- The latent channels of a texel under their scales. -/
def Ssr.latent (r : Ssr) (s : State) (part : Nat) (fmt : MFmt) (t : Tap) : Option (Except (Nat × Nat) (List FVal)) :=
  collect (fun (c : Nat) =>
    match s.bytesAt part (r.base.plus (Config.latentPlace r.raw t.level t.x t.y c % r.latents : Nat)) 1,
        s.bytesAt part (r.base.plus (Config.latentScalePlace r.raw t.level t.x t.y (c / 32) % r.latents : Nat)) 1 with
    | none, _ => none
    | some (.error e), _ => some (.error e)
    | some (.ok _), none => none
    | some (.ok _), some (.error e) => some (.error e)
    | some (.ok v), some (.ok e) => some (.ok (FVal.scaled (mfmtVal fmt true (leNat v)) (leNat e)))) (List.range r.chans)

def execTexn (ssr : BitVec 12) (r : Shell) (s : State) : Out :=
  s.fireActive r fun f t => match t.ssrAt f ssr with
    | none => none
    | some (.error e) => t.accessFault f e.1 e.2 32 0
    | some (.ok q) =>
      if q.format ≠ 0x30 ∧ q.format ≠ 0x31 then t.accessFault f clsBounds q.base.va 0 0
      else
        let fmt : MFmt := if q.format = 0x30 then .e4m3 else .tw8
        let k := (f.port r 0).value
        let get (taps : List Tap) : Option (Except (Nat × Nat) (List FRes)) :=
          match collect (fun a => q.latent t f.part fmt a) taps with
          | none => none
          | some (.error e) => some (.error e)
          | some (.ok vs) => some (.ok ((List.range q.chans).map fun c => blend ((taps.zip vs).map fun e => (e.1.w, e.2.getD c (.nan false)))))
        match q.sample t q.chans (half k 0) (half k 1) (f32 (f.port r 1).value) get with
        | none => none
        | some (.error e) => t.accessFault f e.1 e.2 1 0
        | some (.ok (h, st, t)) => match t.bytesAt f.part q.mlp 4 with
          | none => none
          | some (.error e) => t.accessFault f e.1 e.2 4 0
          | some (.ok hb) => match t.network f.part fmt (leNat hb % 4) (q.mlp.plus (4 : Nat)) h st with
            | none => none
            | some (.error e) => t.accessFault f e.1 e.2 4 0
            | some (.ok (c, st)) => some (((t.touch f q.base (2 ^ 40) 0 1).touch f q.mlp (2 ^ 40) 0 4).sendRgba f r c st)

/-! ## MARCH (R208) -/

/-- floor of a finite value, and whether it is whole. -/
def FVal.floor : FVal → Option (Int × Bool)
  | .fin n m e =>
    let i : Int := if n then -(m : Int) else m
    if 0 ≤ e then some (i * 2 ^ e.toNat, true) else some (i / 2 ^ (-e).toNat, decide (i % 2 ^ (-e).toNat = 0))
  | _ => none

def ltVal (a b : FVal) : Bool := FCond.holds .lt a b

/-- The next FP32 above a finite value. -/
def nextUp (t : Nat) : Nat := if t % 2 ^ 31 = 0 then 1 else if t < 2 ^ 31 then t + 1 else t - 1

/-- The 11 words that MARCH reads: W, H, D as one list, STEP, the origin, the direction, TMAX. -/
structure Ray where
  dims : List Nat
  step : Nat
  o : List FVal
  d : List FVal
  tmax : Nat

/-- The cell along an axis. -/
def marchCell (o d t : FVal) : Option Int :=
  let (q, bad) := FVal.mul d t
  let p := Fmt.fp32.sum .rne 0 [] [o, q] bad
  match FVal.floor (Fmt.fp32.decode p.bits) with
  | none => none
  | some (c, exact) => some (if exact && ltVal d (.fin false 0 0) then c - 1 else c)

/-- The parameter at which the ray leaves its cell along an axis. -/
def marchExit (o d : FVal) (c : Int) : Nat :=
  if d.isZero then 0x7F800000
  else
    let b := if ltVal d (.fin false 0 0) then c else c + 1
    (Fmt.fp32.div .rne 0 (FVal.minus (.fin (decide (b < 0)) b.natAbs 0) o) d).bits

/-- Site word and next t. -/
def marchStep (r : Ray) (t : Nat) : Nat × Nat :=
  let tv := Fmt.fp32.decode t
  let cs := (r.o.zip r.d).map fun e => marchCell e.1 e.2 tv
  let inside := (cs.zip r.dims).all fun e => match e.1 with
    | some c => decide (0 ≤ c) && decide (c < (e.2 : Int))
    | none => false
  if tv.isNan || FCond.holds .ge tv (Fmt.fp32.decode r.tmax) || !inside then (0x80000000, t)
  else
    let c := cs.map fun x => x.getD 0
    let step := Fmt.fp32.decode r.step
    let tn :=
      if !step.isZero then (Fmt.fp32.add .rne 0 tv step).bits
      else
        let tas := ((r.o.zip r.d).zip c).map fun e => marchExit e.1.1 e.1.2 e.2
        let m := tas.foldl (fun m ta => (Fmt.fp32.minmax false m ta).bits) 0x7F800000
        if FCond.holds .le (Fmt.fp32.decode m) tv then nextUp t else m
    ((c.getD 0 0).toNat ||| (c.getD 1 0).toNat <<< 10 ||| (c.getD 2 0).toNat <<< 20, tn)

def execMarch (base : BitVec 19) (dx dy : BitVec 6) (r : Shell) (s : State) : Out :=
  s.fireActive r fun f t => match t.forme? f.h with
    | none => some t
    | some g =>
      let bay := tileBay f.x f.y dx dy
      let ray := base.toNat + 32 + 32 * (f.port r 0).value.toNat
      let as := ((List.range 3).map fun k => base.toNat + 4 * k) ++ (List.range 7).map fun k => ray + 4 * k
      match as.find? fun a => !(g.tileOk a 4) with
      | some a => t.accessFault f clsBounds a 4 0
      | none =>
        let w (a : Nat) : Nat := g.run.core.tileRead bay a 4
        let v (k : Nat) : FVal := Fmt.fp32.decode (w (ray + 4 * k))
        let q : Ray := { dims := [w base.toNat % 65536, w base.toNat / 65536, w (base.toNat + 4) % 65536], step := w (base.toNat + 8)
                         o := [v 0, v 1, v 2], d := [v 3, v 4, v 5], tmax := w (ray + 24) }
        let (site, tn) := marchStep q (f.port r 1).value.toNat
        some (t.sendTwo f r (.data (BitVec.ofNat 32 site)) (.data (BitVec.ofNat 32 tn)))

/-! ## The compositing accumulator's records (R204, R210 to R214) -/

/-- A fault of R150 from an operation at a CA tile or on a descriptor. -/
def State.opFault (s : State) (f : Firing) (e : Failed) : Option State := s.accessFault f e.cls e.va e.size e.kind

/-- The sequence of a term: TAG[15:0] of its route tag's entry, 0 when the entry is cleared. -/
def State.termSeq (s : State) (f : Firing) : Nat :=
  let e := s.route f.h f.rt
  if e.valid then e.tag.toNat % 65536 else 0

/-- A pinned operation at a CA tile, whose sticky bits go to the element; then its token, if it sends one. -/
def State.caAt (s : State) (f : Firing) (r : Shell) (dx dy : BitVec 6) (op : CaState → CaRes) (reply : Option Tok) : Option State :=
  match s.caDo f.h f.x f.y f.rt (tileBay f.x f.y dx dy) op with
  | none => none
  | some (.error e) => s.opFault f e
  | some (.ok (t, st)) =>
    let t := t.leave f st 0
    some (match reply with
      | some k => t.sendBoth f r k
      | none => t)

def execCadd (page : BitVec 4) (dx dy : BitVec 6) (r : Shell) (s : State) : Out :=
  s.fireActive r fun f t =>
    let a := (f.port r 0).value.toNat
    let b := (f.port r 1).value
    let c := (f.port r 2).value
    let e : CaEntry := { key := BitVec.ofNat 40 (a % 2 ^ 24 * 65536 + t.termSeq f), alpha := c.extractLsb' 16 16
                         cr := b.extractLsb' 0 16, cg := b.extractLsb' 16 16, cb := c.extractLsb' 0 16 }
    t.caAt f r dx dy (fun x => x.term (page.toNat * 256 + a / 2 ^ 24) e) none

def execCwmk (dx dy : BitVec 6) (r : Shell) (s : State) : Out :=
  s.fireActive r fun f t =>
    let key := BitVec.ofNat 40 ((f.port r 0).value.toNat % 2 ^ 24 * 65536 + (f.port r 1).value.toNat % 65536)
    t.caAt f r dx dy (fun x => x.watermark key) (some (.data 0))

/-- The live forme of the issuing context whose CA tile has an absolute bay index (R204). -/
def State.caOwner (s : State) (f : Firing) (abs : Nat) : Option (Forme × Nat) :=
  s.formes.findSome? fun g =>
    let bx := abs % 16
    let byy := abs / 16
    if g.isLive && g.ctx == f.ctx && g.part == f.part && decide (g.bx ≤ bx) && decide (bx < g.bx + g.cfg.w) &&
        decide (g.oy ≤ byy) && decide (byy < g.oy + g.cfg.h) then
      let bay := (byy - g.oy) * 16 + (bx - g.bx)
      if (g.role bay).role == 3 then some (g, bay) else none
    else none

/-- A pooled record that names a CA tile, for its galley's commit (R193, R204): `port` names the tile. -/
def State.pooledCa (s : State) (f : Firing) (r : Shell) (i : Instr) (port : Nat) : Option State :=
  match s.caOwner f ((f.port r port).value.toNat % 256) with
  | none => s.faultAt f 0 clsPermission 0 (.access 0 0 3)
  | some _ =>
    let x := pairAddr f r 0
    some ((s.addAct f { node := f.node, lsid := 0, instr := i, a := (f.port r 0).value, b := (f.port r 1).value
                        c := (f.port r port).value, obj := x.obj, off := x.off, hnd := f.hnd }).countOuts f r)

def pairVa (f : Firing) (r : Shell) : VA := (f.port r 1).value ++ (f.port r 0).value

def execCres (dx dy : BitVec 6) (r : Shell) (s : State) : Out :=
  s.fireActive r fun f t =>
    if f.pinned then match t.caResolve f.h f.x f.y f.rt (tileBay f.x f.y dx dy) (pairVa f r) with
      | none => none
      | some (.error e) => t.opFault f e
      | some (.ok (t, st)) => some (((t.touch f (Addr.ofVa (pairVa f r)) 32768 3 0).leave f st 0).sendBoth f r (.data 32768))
    else t.pooledCa f r (.cres dx dy r) 2

def execCclr (dx dy : BitVec 6) (r : Shell) (s : State) : Out :=
  s.fireActive r fun f t =>
    if f.pinned then t.caAt f r dx dy CaState.clear (some (.data 0)) else t.pooledCa f r (.cclr dx dy r) 0

def execClog (dx dy : BitVec 6) (r : Shell) (s : State) : Out :=
  s.fireActive r fun f t =>
    if f.pinned then match t.caLog f.h f.x f.y f.rt (tileBay f.x f.y dx dy) (pairVa f r) with
      | none => none
      | some (.error e) => t.opFault f e
      | some (.ok t) => some ((t.touch f (Addr.ofVa (pairVa f r)) 32 3).sendBoth f r (.data 0))
    else t.pooledCa f r (.clog dx dy r) 2

/-- CADJ: pooled at the galley's commit, pinned now, with its records staged in round mode (R193, R214). -/
def execCadj (r : Shell) (s : State) : Out :=
  s.fireActive r fun f t =>
    let x := pairAddr f r 0
    if !f.pinned then
      some ((t.addAct f { node := f.node, lsid := 0, instr := .cadj r, obj := x.obj, off := x.off, size := 64, hnd := f.hnd }).countOuts f r)
    else match t.cadj f.part x with
      | none => none
      | some (.error e) => t.opFault f e
      | some (.ok (out, p, b, count, st)) =>
        let round := t.inRound f
        if round && !(t.stageRoom f.part b.length) then none
        else
          let t := (t.touch f x 64 3).touch f out b.length 3 0
          let t := if b.isEmpty then t else t.caStore f.h f.x f.y f.rt round out p b
          some ((t.leave f st 0).sendBoth f r (.data count))

/-! ## FREL (R215) -/

/-- Microseconds apart: the time of a release is at least 1 µs after the counter. -/
def Fru.inTime (u : Fru) (sec ns : Nat) : Bool := decide (u.sec * 10 ^ 9 + u.ns + 1000 ≤ sec * 10 ^ 9 + ns)

/-- The lowest free slot. -/
def Fru.freeSlot (u : Fru) : Option Nat := (List.range 8).find? fun k => !(u.pend.any fun q => q.slot == k)

/-- Pass a release to the FRU: the slot, or a failure (R215). The reasons are tried in their order (DEDUCED, log 21). -/
def State.frelTo (s : State) (ctx desc : Nat) : State × Word :=
  let u := s.fru
  let sec := bits 96 48 desc
  let ns := bits 144 32 desc
  let fail (n : Nat) : State × Word := (s, BitVec.ofNat 32 (2 ^ 31 + n))
  match u.freeSlot with
  | none => fail 1
  | some k =>
    if !(u.inTime sec ns) then fail 2
    else if u.state != .locked then fail 3
    else if 10 ^ 9 ≤ ns then fail 4
    else
      let q : Release := { slot := k, ctx := ctx, buf := BitVec.ofNat 64 (bits 0 64 desc), size := bits 64 32 desc, sec := sec, ns := ns
                           chan := BitVec.ofNat 8 (bits 176 8 desc) }
      ({ s with fru := { u with pend := u.pend ++ [q] } }, BitVec.ofNat 32 k)

/-- FREL: pooled at the galley's commit; pinned at the round's commit, or at once in stream mode. -/
def execFrel (r : Shell) (s : State) : Out :=
  s.fireActive r fun f t =>
    let x := pairAddr f r 0
    if !f.pinned then
      some ((t.addAct f { node := f.node, lsid := 0, instr := .frel r, obj := x.obj, off := x.off, size := 32, hnd := f.hnd }).countOuts f r)
    else match t.bytesAt f.part x 32 with
      | none => none
      | some (.error e) => t.opFault f ⟨e.1, e.2, 32, 3⟩
      | some (.ok b) =>
        if t.inRound f then
          if t.stageRoom f.part 32 then some ((t.touch f x 32 3).stage f (.release (leNat b) r.dsta r.dstb)) else none
        else
          let (t, v) := t.frelTo f.ctx (leNat b)
          some (t.sendBoth f r (.data v))

end Sys2Proof.Machine
end

