-- ==== Sys2Proof/Machine/Engine.lean ====
section
/-! DEFINITION. Group 0xE: the copy engine, work queues, the lease records at their package, DEGRADE, and the records that act at a
galley's commit (R193, R216 to R222, R362 to R364, R373). -/

namespace Sys2Proof.Machine

/-! ## Records that act at the commit (R193) -/

/-- Hold a record for its galley's commit with its operands, the address in ports 1 and 0, and the bytes that it checks there. -/
def State.actLater (s : State) (f : Firing) (r : Shell) (i : Instr) (size : Nat) : State :=
  let x := pairAddr f r 0
  (s.addAct f { node := f.node, lsid := 0, instr := i, a := (f.port r 0).value, b := (f.port r 1).value, c := (f.port r 2).value
                obj := x.obj, off := x.off, size := size, hnd := f.hnd }).countOuts f r

/-- A commit-performed record. -/
def State.fireLater (s : State) (r : Shell) (i : Instr) (size : Nat) : Out := s.fireActive r fun f t => some (t.actLater f r i size)

/-- A commit-performed record of system contexts (R87). -/
def State.firePriv (s : State) (r : Shell) (i : Instr) (size : Nat) : Out :=
  s.fireActive r fun f t => if (t.ctxOf f).sys then some (t.actLater f r i size) else t.privFault f

def execCopye (r : Shell) (s : State) : Out := s.fireLater r (.copye r) 32
def execQcommit (r : Shell) (s : State) : Out := s.fireLater r (.qcommit r) 64
def execLoffer (r : Shell) (s : State) : Out := s.fireLater r (.loffer r) 32
def execLtake (r : Shell) (s : State) : Out := s.fireLater r (.ltake r) 32
def execLreclaim (r : Shell) (s : State) : Out := s.firePriv r (.lreclaim r) 0
def execDegrade (r : Shell) (s : State) : Out := s.fireLater r (.degrade r) 0
def execFload (r : Shell) (s : State) : Out := s.fireLater r (.fload r) 0
def execFswap (r : Shell) (s : State) : Out := s.fireLater r (.fswap r) 0
def execOvld (r : Shell) (s : State) : Out := s.fireLater r (.ovld r) 0
def execOvfree (r : Shell) (s : State) : Out := s.fireLater r (.ovfree r) 0

/-- A failure result (R216). -/
def failure (reason : Nat) : Word := BitVec.ofNat 32 (2 ^ 31 + reason)

/-! ## The copy engine (R217) -/

/-- COPYE with its descriptor: the lowest free id of the die's 16, or failure 1. -/
def State.copyStart (s : State) (die ctx part desc : Nat) (hnd : Bool) : State × Word :=
  let d := (s.die? die).getD { i := die }
  match (List.range 16).find? fun k => !(d.copies.any fun c => c.id == k) with
  | none => (s, failure 1)
  | some k =>
    let c : CopyJob := { id := k, src := BitVec.ofNat 64 (bits 0 64 desc), dst := BitVec.ofNat 64 (bits 64 64 desc), len := bits 128 40 desc
                         cls := bits 168 2 desc, ctx := ctx, part := part, hnd := hnd }
    (s.setDie { d with copies := d.copies ++ [c] }, BitVec.ofNat 32 k)

/-- COPYW waits for its copy, answers, and frees the id. -/
def execCopyw (r : Shell) (s : State) : Out :=
  s.fireActive r fun f t =>
    let id := (f.port r 0).value.toNat
    match t.die? f.die with
    | none => some (t.sendBoth f r (.data 2))
    | some d => match d.copies.find? fun c => c.id == id with
      | none => some (t.sendBoth f r (.data 2))
      | some c =>
        if c.status = 0 then none
        else
          let t := t.setDie { d with copies := d.copies.filter fun x => x.id != id }
          some (t.sendBoth f r (.data (if c.status = 1 then 1 else failure (c.status - 2))))

/-! ## Work queues (R218) -/

/-- The physical address of a queue's descriptor: 64 aligned bytes that may be read and written. -/
def State.queueAt (s : State) (f : Firing) (x : Addr) : Xl := s.translate f.part x 64 .both

/-- A queue record: its home first performs the returns that it has kept, then the operation `k`, on the descriptor's place, its
partition, its address and its pieces. -/
def State.onQueue (s : State) (f : Firing) (x : Addr) (k : State → Part → VA → Nat → Option State) : Option State :=
  if s.follows f then none
  else match s.queueAt f x with
  | .stall => none
  | .fault c => s.accessFault f c x.va 64 3
  | .ok pa _ =>
    let s := s.lateReturns f.part
    match s.part? f.part with
    | none => some s
    | some q => k s q (BitVec.ofNat 64 x.va) pa

/-- Note a take or a reservation with the issuing instance. -/
def State.hold (s : State) (f : Firing) (h : QHold) : State :=
  match s.galleyOf f with
  | some g => s.setGalley f.tile { g with holds := g.holds ++ [h] }
  | none => s

/-- Send a start index and a count. -/
def State.sendRange (s : State) (f : Firing) (r : Shell) (start count : Nat) : State :=
  s.sendTwo f r (.data (BitVec.ofNat 32 start)) (.data (BitVec.ofNat 32 count))

/-- QRESV. -/
def execQresv (r : Shell) (s : State) : Out :=
  s.fireActive r fun f t => t.onQueue f (pairAddr f r 0) fun t q va pa =>
    let n := (f.port r 2).value.toNat
    let d := t.readLe pa 64
    let e := bits 160 32 d
    if bits 0 32 d < (e + 2 ^ 32 - bits 256 32 d) % 2 ^ 32 + n then some (t.sendRange f r e 0)
    else
      let home := q.home va
      let t := t.setPart (q.setHome { home with open_ := home.open_ ++ [(e, n, false)] })
      let t := (t.writeLe pa 64 (setBits 160 32 d (e + n))).hold f { va := va, take := false, start := e, count := n }
      some (t.sendRange f r e n)

/-- Skip and free the void records at TAKEN: the new TAKEN and the home. -/
def skipVoids : Nat → Nat → QueueHome → Nat × QueueHome
  | 0, taken, h => (taken, h)
  | k + 1, taken, h => match h.voids.find? fun v => v.1 == taken with
    | none => (taken, h)
    | some v => skipVoids k ((taken + v.2) % 2 ^ 32) { h with voids := h.voids.erase v, freed := h.freed ++ [v] }

/-- Records from TAKEN to the next void, at most `n`. -/
def QueueHome.runLength (h : QueueHome) (taken ready n : Nat) : Nat :=
  h.voids.foldl (fun m v => min m ((v.1 + 2 ^ 32 - taken) % 2 ^ 32)) (min n ready)

/-- A take of at most `n` records: the start, the count, the descriptor and the home after it. -/
def QueueHome.takeFrom (h : QueueHome) (d n : Nat) : Nat × Nat × Nat × QueueHome :=
  match h.returned with
  | (start, count) :: rest =>
    let k := min n count
    let h := { h with returned := if k < count then ((start + k) % 2 ^ 32, count - k) :: rest else rest }
    (start, k, h.dated d, h)
  | [] =>
    let cmtd := bits 192 32 d
    let (taken, h) := skipVoids h.voids.length (bits 224 32 d) h
    let k := h.runLength taken ((cmtd + 2 ^ 32 - taken) % 2 ^ 32) n
    let after := (taken + k) % 2 ^ 32
    let (freed, h) := h.freeOn (bits 256 32 d)
    let h := h.shed freed
    (taken, k, h.dated (setBits 256 32 (setBits 224 32 d after) freed), h)

/-- QTAKE. -/
def execQtake (r : Shell) (s : State) : Out :=
  s.fireActive r fun f t => t.onQueue f (pairAddr f r 0) fun t q va pa =>
    let (start, k, d, home) := (q.home va).takeFrom (t.readLe pa 64) (f.port r 2).value.toNat
    let t := ((t.setPart (q.setHome home)).writeLe pa 64 d).hold f { va := va, take := true, start := start, count := k }
    some (t.sendRange f r start k)

/-- QCOMMIT at the galley's commit: 1, or 0 for no such reservation. -/
def State.queueCommit (s : State) (part : Nat) (va : VA) (pa start : Nat) : State × Word :=
  match s.part? part with
  | none => (s, 0)
  | some q =>
    let h := q.home va
    match h.open_.find? fun o => o.1 == start && !o.2.2 with
    | none => (s, 0)
    | some o =>
      let d := s.readLe pa 64
      let open_ := h.open_.map fun p => if p == o then (o.1, o.2.1, true) else p
      let (c, h) := QueueHome.commitOn { h with open_ := open_, stamps := h.stamps ++ [(o.1, o.2.1, s.clock % 2 ^ 32)] } (bits 192 32 d)
      ((s.setPart (q.setHome h)).writeLe pa 64 (h.dated (setBits 192 32 d c)), 1)

/-- Free what a committing galley took, and end one launch in flight for each QTAKE of the handlers' context (R218, R296); none if the
descriptor stalls. -/
def State.settleHold (s : State) (part ctx : Nat) (h : QHold) : Option State :=
  if !h.take then some s
  else match s.single part (Addr.ofVa h.va) 64 .any, s.part? part with
    | .stall, _ => none
    | .ok pieces, some q =>
      let d := leNat (s.readPieces pieces)
      let home := q.home h.va
      let home := if h.count = 0 then home else { home with freed := home.freed ++ [(h.start, h.count)] }
      let (freed, home) := home.freeOn (bits 256 32 d)
      let home := home.shed freed
      let d := home.dated (setBits 256 32 d freed)
      let d := if bits 500 12 d = ctx then setBits 449 8 d (bits 449 8 d - 1) else d
      some ((s.setPart (q.setHome home)).writePieces pieces (leBytes 64 d))
    | _, _ => some s

/-! ## Leases: offering, taking, asking (R219, R362 to R364, R373) -/

/-- Bytes of a granule. -/
def granule : Nat := 2 ^ 21

/-- Reserved bandwidth of a die's leases (R363). -/
def Die.rbwSum (d : Die) : Nat :=
  (d.lent.filter fun l => l.state == .offered || l.state == .taken || l.state == .reclaiming).foldl (fun n l => n + l.rbw) 0

/-- An order above that of every lease of the die: of the newest offer, or of the latest take. -/
def Die.nextOrder (d : Die) : Nat := d.lent.foldl (fun n l => max n l.order) 0 + 1

/-- The lease with an index that this die lends. -/
def Die.lease? (d : Die) (idx : Nat) : Option Lent := d.lent.find? fun l => l.idx == idx && l.state != .closed && l.state != .none
def Die.setLease (d : Die) (l : Lent) : Die := { d with lent := putBy (fun a => a.idx == l.idx) l d.lent }

/-- The extent that holds a region of `n` bytes whole. -/
def State.oneExtent (s : State) (part : Nat) (x : Addr) (n : Nat) : Option (Obj × Nat × Ext) :=
  if x.off < 0 then none
  else match s.obj? part x.obj with
    | none => none
    | some o => match s.findExt part o (x.off.toNat / 4096) with
      | none => none
      | some (e, y) => if x.off.toNat + n ≤ (y.start + y.npg) * 4096 then some (o, e, y) else none

/-- LOFFER with its descriptor (R362). -/
def State.leaseOffer (s : State) (die ctx part desc : Nat) : State × Word :=
  let d := (s.die? die).getD { i := die }
  let va : VA := BitVec.ofNat 64 (bits 0 64 desc)
  let x := Addr.ofVa va
  let gran := bits 64 32 desc
  let rbw := bits 144 16 desc
  let region : Option Nat := match s.oneExtent part x (gran * granule) with
    | some (o, _, y) =>
      if o.pl && y.tier == 0 && y.loc % 4 == die && decide (1 ≤ gran) && decide (x.off.toNat % granule = 0) then
        some (y.pfn + (x.off.toNat / 4096 - y.start)) else none
    | none => none
  match region with
  | none => (s, failure 1)
  | some page =>
    if rbw < 100 ∨ 400 < d.rbwSum + rbw then (s, failure 2)
    else match (List.range 256).find? fun k => (d.lease? k).isNone with
      | none => (s, failure 3)
      | some k =>
        let l : Lent := { idx := k, state := .offered, ctx := ctx, part := part, va := va, page := page, gran := gran
                          term := bits 96 32 desc, rclass := bits 128 4 desc, wt := bit 132 desc, rbw := rbw, order := d.nextOrder }
        (s.setDie (d.setLease l), BitVec.ofNat 32 (die * 256 + k))

/-- The place in memory of an address; none if no extent covers it. -/
def State.placeOf (s : State) (part : Nat) (x : Addr) : Option LeasePlace :=
  match s.oneExtent part x 0 with
  | some (_, _, y) => some { tier := y.tier, loc := y.loc, page := y.pfn + (x.off.toNat / 4096 - y.start) }
  | none => none

/-- Ports of a route. -/
def State.routePorts (s : State) (p : Nat) : List Nat :=
  if p == s.fijId.toNat then []
  else match lookup p s.routes with
    | some e => if e.getLsbD 63 then (List.range 16).filter fun i => e.getLsbD i else []
    | none => []

/-- The port by which the next flit toward a package leaves: the ports of its route that are up, in turn; none where nothing can be sent
(R344). -/
def State.portTo (s : State) (p : Nat) : Option Nat :=
  let ports := (s.routePorts p).filter fun i => s.links.any fun l => l.n == 16 + i && l.up
  let sent := (s.forwarded.filter fun e => e.1.dest == p).length + ((s.dies.flatMap Die.outbox).filter fun m => m.dest == p).length
  ports[sent % max 1 ports.length]?

/-- Send a lease message from a die to a package; nothing goes where no port leads. -/
def State.sendLease (s : State) (die dest : Nat) (m : LeaseMsg) : State :=
  match s.portTo dest, s.die? die with
  | some port, some d => s.setDie { d with outbox := d.outbox ++ [{ msg := m, dest := dest, port := port }] }
  | _, _ => s

/-- LTAKE with its descriptor (R364): failure 4 at once, else a TAKE to the lender; the answer comes with TAKE_ACK or TAKE_NAK. -/
def State.leaseTake (s : State) (die ctx part desc : Nat) (reply : Reply) : State × Option Word :=
  let lender := bits 128 10 desc
  let lease := bits 144 16 desc
  let fb : VA := BitVec.ofNat 64 (bits 64 64 desc)
  if !(s.reachable lender) then (s, some (failure 4))
  else
    let d := (s.die? die).getD { i := die }
    let place := (s.placeOf part (Addr.ofVa fb)).getD ⟨0, 0, 0⟩
    let b : Borrow := { lender := lender, lease := lease, state := .none, ctx := ctx, part := part, target := BitVec.ofNat 64 (bits 0 64 desc)
                        fallback := fb, reply := some reply }
    ((s.setDie { d with borrowed := d.borrowed ++ [b] }).sendLease die lender (.take lender lease s.fijId.toNat place), none)

/-- Start the reclaim of a taken lease: RECLAIM goes to the borrower (R368). -/
def State.leaseReclaim (s : State) (die idx : Nat) : Option State :=
  match s.die? die with
  | none => none
  | some d => match d.lease? idx with
    | none => none
    | some l =>
      if l.state != .taken then none
      else some ((s.setDie (d.setLease { l with state := .reclaiming })).sendLease die l.borrower (.reclaim l.borrower (die * 256 + idx)))

/-- LRECLAIM (R219, R373): 1 started, 0 refused. -/
def State.lreclaim (s : State) (v : Word) : State × Word :=
  if 2 ^ 10 ≤ v.toNat then (s, 0)
  else match s.leaseReclaim (v.toNat / 256) (v.toNat % 256) with
    | some s => (s, 1)
    | none => (s, 0)

/-- State codes of LQUERY. -/
def LeaseState.code : LeaseState → Nat
  | .none => 0
  | .offered => 1
  | .taken => 2
  | .reclaiming => 3
  | .quarantined => 4
  | .closed => 5

/-- LQUERY: the lender's side of an own lease, the borrower's of any other: of the pair's borrows the one that is not closed (R369). -/
def State.lquery (s : State) (v : Word) : Word :=
  let id := v.toNat % 2 ^ 16
  let say (st : LeaseState) (gran : Nat) : Word := BitVec.ofNat 32 (st.code + gran * 256)
  if 2 ^ 26 ≤ v.toNat then failure 0
  else if v.toNat / 2 ^ 16 = s.fijId.toNat then
    match (s.die? (id / 256)).bind fun d => d.lease? (id % 256) with
    | some l => say l.state l.gran
    | none => 0
  else
    let mine := (s.dies.flatMap Die.borrowed).filter fun b => b.lender == v.toNat / 2 ^ 16 && b.lease == id && b.reply.isNone
    match (mine.find? fun b => b.state != .closed).or mine.head? with
    | some b => say b.state b.grant.gran
    | none => 0

def execLquery (r : Shell) (s : State) : Out := s.fireActive r fun f t => some (t.sendBoth f r (.data (t.lquery (f.port r 0).value)))

/-! ## DEGRADE (R220) -/

def Part.job? (q : Part) (j : Nat) : Option Job := q.jobs.find? fun a => a.j == j
def Part.setJob (q : Part) (j : Job) : Part := { q with jobs := putBy (fun a => a.j == j.j) j q.jobs }

/-- DEGRADE: the level that will be in force. A request stays until the next round commit of one of the job's formes, where the level
changes; each other forme takes the set of the new level at its own next round commit. -/
def State.degrade (s : State) (part : Nat) (id level : Word) : State × Word :=
  match (s.part? part).bind fun q => (q.job? (id.toNat % 2 ^ 16)).map fun j => (q, j) with
  | none => (s, 0)
  | some (q, j) =>
    let l := level.toNat % 4
    let now := max j.level (j.request.getD 0)
    if !j.valid ∨ l ≤ now ∨ j.nlevm1 < l then (s, BitVec.ofNat 32 now)
    else (s.setPart (q.setJob { j with request := some l }), BitVec.ofNat 32 l)

end Sys2Proof.Machine
end

