-- ==== Sys2Proof/Machine/Image.lean ====
section
/-! DEFINITION. What an imposed forme starts with (R243, R246), and the sections of a context image (R323, Tables 18-4 to 18-11) with
their reading back (R325). The manual gives the round section no layout; the one here is the model's (log 24). -/

namespace Sys2Proof.Machine

/-! ## The state at imposition (R243, R246) -/

/-- A token from its stored form (Table 2-1). -/
def QTok.ofStored (n : Nat) (age : Nat := 0) : QTok :=
  { rt := BitVec.ofNat 4 (bits 37 4 n), age := age
    tok := { flag := if bit 35 n then .eos else if bit 34 n then .null else if bit 36 n then .marker else .none
             lmask := BitVec.ofNat 2 (bits 32 2 n), value := BitVec.ofNat 32 n } }

/-- The stored form of a queued token. -/
def QTok.stored (q : QTok) : Nat := pinnedBits q.rt q.tok

/-- Bytes in groups of `k`, as numbers; `n` bounds the groups. -/
def groupsOf (k : Nat) : Nat → List Byte → List Nat
  | 0, _ => []
  | n + 1, b => if b.isEmpty then [] else leNat (b.take k) :: groupsOf k n (b.drop k)

/-- A descriptor of Table 10-16, with every block active. -/
def PlaneState.ofDesc (bay pid n : Nat) : PlaneState :=
  let p : PlaneState :=
    { bay := bay, pid := pid, w := Machine.bits 240 16 n, h := Machine.bits 224 16 n, site := Machine.bits 222 2 n, rows := Machine.bits 206 16 n, row0 := Machine.bits 190 16 n
      bw := Machine.bits 174 16 n, bh := Machine.bits 158 16 n, base := Machine.bits 139 19 n, count := Machine.bits 120 19 n, next := Machine.bits 112 8 n }
  { p with cur := 2 ^ (p.nbx * p.nby) - 1 }

/-- A CA slot of Table 8-5. -/
def CaSlot.ofNat (slot n : Nat) : CaSlot :=
  { slot := slot, cr := BitVec.ofNat 32 (bits 0 32 n), cg := BitVec.ofNat 32 (bits 32 32 n), cb := BitVec.ofNat 32 (bits 64 32 n)
    t := BitVec.ofNat 32 (bits 96 32 n), kc := BitVec.ofNat 40 (bits 128 40 n), late := BitVec.ofNat 16 (bits 168 16 n)
    drop := BitVec.ofNat 16 (bits 184 16 n), retired := bit 200 n
    buf := (List.range (min 4 (bits 201 3 n))).map fun e =>
      let q := bits (256 + 104 * e) 104 n
      { key := BitVec.ofNat 40 (bits 0 40 q), alpha := BitVec.ofNat 16 (bits 40 16 q), cr := BitVec.ofNat 16 (bits 56 16 q)
        cg := BitVec.ofNat 16 (bits 72 16 q), cb := BitVec.ofNat 16 (bits 88 16 q) } }

/-- The 1,024 bits of a CA slot (Table 8-5). -/
def CaSlot.num (s : CaSlot) : Nat :=
  s.cr.toNat + s.cg.toNat * 2 ^ 32 + s.cb.toNat * 2 ^ 64 + s.t.toNat * 2 ^ 96 + s.kc.toNat * 2 ^ 128 + s.late.toNat * 2 ^ 168 +
    s.drop.toNat * 2 ^ 184 + atBit 200 s.retired + s.buf.length % 8 * 2 ^ 201 +
    (s.buf.zipIdx.foldl (fun n e => n + (e.1.key.toNat + e.1.alpha.toNat * 2 ^ 40 + e.1.cr.toNat * 2 ^ 56 + e.1.cg.toNat * 2 ^ 72 +
      e.1.cb.toNat * 2 ^ 88) * 2 ^ (256 + 104 * e.2)) 0)

/-- Apply one fill (Table 10-15). -/
def Core.fill (c : Core) (f : Fill) : Core :=
  match f.kind with
  | 0 => c.tileWrite f.bay f.addr f.data
  | 1 => c.setPlane (PlaneState.ofDesc f.bay f.pid (leNat f.data))
  | 2 => match c.fifo? f.bay with
    | some q => c.setFifo { q with ring := q.ring ++ (groupsOf 8 f.data.length f.data).map fun n => QTok.ofStored n }
    | none => c
  | 3 => match c.cas.find? fun a => a.bay == f.bay with
    | some a => c.setCa ((groupsOf 128 f.data.length f.data).zipIdx.foldl (fun a e => a.setSlot (CaSlot.ofNat (f.addr + e.2) e.1)) a)
    | none => c
  | 4 => c.mapChain f.bay f.pid fun p => { p with cur := leNat f.data }
  | _ => c

/-- Write a ladder set into its tile (R303). -/
def FormeCfg.putLadder (g : FormeCfg) (c : Core) (level : Nat) : Core :=
  match g.ladder[min level (g.ladder.length - 1)]? with
  | some ws => c.tileWrite g.ldbay g.ldaddr (ws.flatMap fun w => leBytes 4 w.toNat)
  | none => c

/-- The tiles and AGs as their roles and slots give them. -/
def FormeCfg.bare (g : FormeCfg) : Core :=
  { fifos := (g.roles.filter fun r => r.role == 1).map fun r =>
      { bay := r.bay, cap := r.cap, outx := r.outx, outy := r.outy, outport := r.outport }
    wins := (g.roles.filter fun r => r.role == 2).flatMap fun r => (List.range r.wins).map fun w =>
      { bay := r.bay, w := w, lsize := r.lsize }
    cas := (g.roles.filter fun r => r.role == 3).map fun r => { bay := r.bay, thresh := r.thresh }
    ags := g.slots.map fun e => { bay := e.1, slots := e.2.zipIdx.map fun k => { n := k.2, edges := k.1 } } }

/-- The tiles with the fills in order. An activity bitmap is the plane's, whichever descriptors of it the image fills later (R281). -/
def FormeCfg.filled (g : FormeCfg) : Core := (g.fills.filter fun f => f.kind == 4).foldl Core.fill (g.fills.foldl Core.fill g.bare)

/-- What a forme starts with: its tiles, its fills, and ladder set 0. -/
def FormeCfg.core (g : FormeCfg) : Core := g.putLadder g.filled 0

/-- A run that starts from the image, or from the saved state of a context image (R246, R325). -/
def FormeCfg.start (g : FormeCfg) : Run :=
  match g.saved with
  | some r => r
  | none => { core := g.core, start := g.core }

/-! ## Blocks of bytes -/

/-- `n` bytes that hold numbers at byte offsets. -/
def blockOf (n : Nat) (l : List (Nat × Nat)) : List Byte := leBytes n (l.foldl (fun a e => a + e.2 * 2 ^ (8 * e.1)) 0)

/-- Pad to a multiple of 64. -/
def pad64 (b : List Byte) : List Byte := b ++ List.replicate ((64 - b.length % 64) % 64) 0

/-! ## Element state (Tables 18-6 and 18-9) -/

/-- Whether the element holds a ROUTE record. -/
def Forme.isRoute (f : Forme) (x y : Nat) : Bool :=
  match f.record? x y with
  | some (.route ..) => true
  | _ => false

/-- Per-route-tag state. -/
def RtState.num (r : RtState) : Nat :=
  r.lfsr.toNat + r.block.toNat * 2 ^ 16 + r.value.toNat * 2 ^ 32 + r.count.toNat * 2 ^ 64 + r.index.toNat * 2 ^ 96 +
    r.flags.toNat * 2 ^ 128

def RtState.ofNat (rt n : Nat) : RtState :=
  { rt := BitVec.ofNat 4 rt, lfsr := BitVec.ofNat 16 n, block := BitVec.ofNat 16 (bits 16 16 n)
    value := BitVec.ofNat 32 (bits 32 32 n), count := BitVec.ofNat 32 (bits 64 32 n)
    index := BitVec.ofNat 32 (bits 96 32 n), flags := BitVec.ofNat 4 (bits 128 4 n) }

def ScaleTok.num (k : ScaleTok) : Nat := k.rt.toNat * 2 ^ 28 + k.btag.toNat * 2 ^ 8 + k.scale.toNat

/-- Tokens that a stream has still to emit, its EOS among them. -/
def Emit.toCome (m : Emit) : Nat := m.left + m.eos.toNat

/-- The 1,024 bytes of an element. -/
def Forme.elemBlock (f : Forme) (c : Core) (x y : Nat) : List Byte :=
  let e := c.elem x y
  let queues := (List.range 4).flatMap fun p => (e.queue p).zipIdx.map fun q => (64 * p + 8 * q.2, q.1.stored)
  let counts := (List.range 4).map fun p => (256 + p, (e.queue p).length)
  let scales := e.scales.zipIdx.map fun k => (260 + 4 * k.2, k.1.num)
  let run := match e.emit with
    | some m => [(268, m.rt.toNat), (272, m.toCome % 2 ^ 32), (276, m.next.toNat), (280, m.step.toNat)]
    | none => []
  let rts := allRts.map fun rt =>
    let r := (e.rts.find? fun r => r.rt == rt).getD { rt := rt, lfsr := elemSeed f.cfg.fseed x y rt }
    (288 + 24 * rt.toNat, r.num)
  let tags := if f.isRoute x y then e.q0.zipIdx.map fun q => (672 + 8 * q.2, q.1.tag.toNat) else []
  blockOf 1024 (queues ++ counts ++ scales ++ [(268, atBit 31 e.fired), (284, e.sticky.toNat)] ++ run ++ rts ++ tags)

/-- Whether a REPEAT or SEQ record sends an EOS at its end. -/
def Forme.emitEos (f : Forme) (x y : Nat) : Bool :=
  match f.record? x y with
  | some (.repeatN eos _ _) => eos
  | some (.seq eos _) => eos
  | _ => false

/-- An element from its bytes. A scale latch entry of zero is an empty one: the layout gives it no mark of its own (log 83).
Table 18-6 keeps no ages: a restored token's is its number in its queue (DESIGN CHOICE, log 109). -/
def Forme.elemOf (f : Forme) (x y n : Nat) : ElemState :=
  let queue (p : Nat) : List QTok := (List.range (min 8 (bits (8 * (256 + p)) 8 n))).map fun e =>
    let q := QTok.ofStored (bits (8 * (64 * p + 8 * e)) 64 n) e
    if p = 0 && f.isRoute x y then { q with tag := BitVec.ofNat 64 (bits (8 * (672 + 8 * e)) 64 n) } else q
  let scales := ((List.range 2).map fun k => bits (8 * (260 + 4 * k)) 32 n).filter fun v => v != 0
  let left := bits (8 * 272) 32 n
  let rts := (List.range 16).map fun t => RtState.ofNat t (bits (8 * (288 + 24 * t)) 192 n)
  { x := x, y := y, q0 := queue 0, q1 := queue 1, q2 := queue 2, q3 := queue 3
    scales := scales.map fun v =>
      { rt := BitVec.ofNat 4 (bits 28 4 v), btag := BitVec.ofNat 16 (bits 8 16 v), scale := BitVec.ofNat 8 v }
    fired := bit (8 * 268 + 31) n, sticky := BitVec.ofNat 5 (bits (8 * 284) 5 n)
    emit := if left = 0 then none else some
      { rt := BitVec.ofNat 4 (bits (8 * 268) 4 n), left := left - (f.emitEos x y).toNat, next := BitVec.ofNat 32 (bits (8 * 276) 32 n)
        step := BitVec.ofNat 32 (bits (8 * 280) 32 n), eos := f.emitEos x y }
    rts := rts.filter fun r => r != { rt := r.rt, lfsr := elemSeed f.cfg.fseed x y r.rt } }

/-! ## Tiles (Tables 18-11, 10-6, 10-7) -/

/-- The bays of a chase in order of lower y, then lower x. -/
def FormeCfg.bays (g : FormeCfg) : List Nat := (List.range g.h).flatMap fun y => (List.range g.w).map fun x => y * 16 + x

/-- The elements of a bay in order. -/
def bayElems (bay : Nat) : List (Nat × Nat) :=
  (List.range 8).flatMap fun y => (List.range 8).map fun x => (bay % 16 * 8 + x, bay / 16 * 8 + y)

/-- The number that listed cells make, each byte at its place. -/
def cellsNat (l : List Host.Cell) : Nat := l.foldl (fun n c => n + c.2.toNat * 2 ^ (8 * c.1)) 0

/-- The bytes that a tile holds, as one number of 524,288 bytes. -/
def Forme.tileNat (f : Forme) (c : Core) (bay : Nat) : Nat :=
  match (f.role bay).role with
  | 0 =>
    if f.cfg.stream then cellsNat (Memory.cells c.tile (tileKey bay 0) (2 ^ 19))
    else cellsNat (Memory.cells c.tile (tileKey bay 0) (2 ^ 18)) + cellsNat (Memory.cells c.back (tileKey bay 0) (2 ^ 18)) * 2 ^ (8 * 2 ^ 18)
  | 1 => match c.fifo? bay with
    | some q => (q.ring.zipIdx).foldl (fun n t => n + t.1.stored * 2 ^ (64 * ((q.head + t.2) % q.cap))) 0
    | none => 0
  | 2 => (c.wins.filter fun w => w.bay == bay).foldl (fun n w =>
      n + cellsNat (w.bytes.map fun b => (w.w * w.size + b.1 % w.size, b.2))) 0
  | _ => match c.cas.find? fun a => a.bay == bay with
    | some a => (List.range 4096).foldl (fun n s => n + (a.slotAt s).num * 2 ^ (1024 * s)) 0
    | none => 0

/-- The role state of a tile, as one number of 128 bytes. -/
def Forme.roleNat (f : Forme) (c : Core) (bay : Nat) : Nat :=
  match (f.role bay).role with
  | 1 => match c.fifo? bay with
    | some q => q.ring.length * 2 ^ 32 + q.head * 2 ^ 16 + (q.cap - 1)
    | none => 0
  | 2 => (c.wins.filter fun w => w.bay == bay).foldl (fun n w =>
      n + (w.head * 2 ^ 72 + w.tail * 2 ^ 32 + w.lsize * 2 + w.valid.toNat) * 2 ^ (128 * w.w)) 0
  | 3 => match c.cas.find? fun a => a.bay == bay with
    | some a => a.wmk.toNat + a.thresh * 2 ^ 64
    | none => 0
  | _ => 0

/-- The written-line map of a round-mode BUF tile. -/
def Forme.writtenNat (f : Forme) (c : Core) (bay : Nat) : Nat :=
  if f.cfg.stream || (f.role bay).role != 0 then 0
  else c.written.foldl (fun n l => if l / 4096 = bay then n + 2 ^ (l % 4096) else n) 0

/-- The tile section of a bay: 512 KiB and 512 bytes. -/
def Forme.tileBlock (f : Forme) (c : Core) (bay : Nat) : List Byte :=
  leBytes (2 ^ 19) (f.tileNat c bay) ++ leBytes 128 (f.roleNat c bay) ++ leBytes 128 0 ++ leBytes 256 (f.writtenNat c bay)

/-- The cells of bytes at an address; zero bytes are not listed. -/
def cellsOf (at_ : Nat) (b : List Byte) : List Host.Cell :=
  (b.zipIdx.filter fun e => e.1 != 0).map fun e => (at_ + e.2, e.1)

/-- A tile from its section. -/
def Forme.tileOf (f : Forme) (c : Core) (bay : Nat) (b : List Byte) : Core :=
  let role := leNat ((b.drop (2 ^ 19)).take 128)
  match (f.role bay).role with
  | 0 =>
    if f.cfg.stream then { c with tile := Memory.putCells c.tile 0 (cellsOf (tileKey bay 0) (b.take (2 ^ 19))) }
    else
      let lines := leNat ((b.drop (2 ^ 19 + 256)).take 256)
      { c with tile := Memory.putCells c.tile 0 (cellsOf (tileKey bay 0) (b.take (2 ^ 18)))
               back := Memory.putCells c.back 0 (cellsOf (tileKey bay 0) ((b.drop (2 ^ 18)).take (2 ^ 18)))
               written := c.written ++ ((List.range 2048).filter fun l => bit l lines).map fun l => bay * 4096 + l }
  | 1 => match c.fifo? bay with
    | some q =>
      let head := bits 16 16 role
      let ring := (List.range (bits 32 17 role)).map fun i => QTok.ofStored (leNat ((b.drop (8 * ((head + i) % q.cap))).take 8))
      c.setFifo { q with head := head, ring := ring }
    | none => c
  | 2 => (c.wins.filter fun w => w.bay == bay).foldl (fun c w =>
      let n := bits (128 * w.w) 128 role
      let head := bits 72 40 n
      let tail := bits 32 40 n
      let bytes := (List.range (head - tail)).map fun i => (tail + i, b.getD (w.w * w.size + (tail + i) % w.size) 0)
      c.setWin { w with valid := bit 0 n, head := head, tail := tail, bytes := Memory.putCells [] 0 bytes }) c
  | _ => match c.cas.find? fun a => a.bay == bay with
    | some a => c.setCa ((List.range 4096).foldl (fun a s =>
        let q := CaSlot.ofNat s (leNat ((b.drop (128 * s)).take 128))
        if q = { slot := s } then a else a.setSlot q) { a with wmk := BitVec.ofNat 40 role })
    | none => c

/-! ## Address generators (Table 18-10) -/

/-- Edge settings in the layout of Table 10-14. -/
def Edges.num (e : Edges) : Nat :=
  ((List.range 4).foldl (fun n i => n + (e.c i).toNat * 2 ^ (128 + 32 * i) + e.kind i % 4 * 2 ^ (120 + 2 * i)) 0) +
    e.hw % 32 * 2 ^ 115 + atBit 114 e.act

def Edges.ofNat (n : Nat) : Edges :=
  { kinds := (List.range 4).map fun i => BitVec.ofNat 2 (bits (120 + 2 * i) 2 n)
    consts := (List.range 4).map fun i => BitVec.ofNat 32 (bits (128 + 32 * i) 32 n)
    hw := bits 115 5 n, act := bit 114 n }

def sizeCode : Size → Nat
  | .w32 => 0
  | .w16 => 1
  | .w8 => 2

def sizeOf (n : Nat) : Size := match n with
  | 0 => .w32
  | 1 => .w16
  | _ => .w8

/-- The destination field DSTB of an element's record. -/
def Forme.dstbOf (f : Forme) (x y : Nat) : BitVec 16 := (((f.record? x y).bind Instr.shell?).map Shell.dstb).getD noDest

/-- The destination field that names a consumer from an element: the inverse of `Forme.dest` (R75). An edge unit is named by the element's own
DSTB. -/
def Forme.fieldOf (f : Forme) (x y : Nat) : Dest → Nat
  | .elem a b k => k * 2 ^ 14 + ((a + 64 - x) % 64) * 64 + (b + 64 - y) % 64
  | .tile bay k => k * 2 ^ 14 + 2 ^ 12 + ((bay % 16 + 64 - x / 8) % 64) * 64 + (bay / 16 + 64 - y / 8) % 64
  | .ag bay k => k * 2 ^ 14 + 2 * 2 ^ 12 + ((bay % 16 + 64 - x / 8) % 64) * 64 + (bay / 16 + 64 - y / 8) % 64
  | .island _ | .dftile _ | .mport _ => (f.dstbOf x y).toNat
  | .none => 0xFFFF

/-- A signed offset of six bits. -/
def six (d : Int) : Nat := (d % 64).toNat

/-- A slot's 128 bytes. -/
def Forme.slotNum (f : Forme) (sl : Slot) : Nat :=
  let p := match sl.pass with
    | some q => (atBit 3 true + q.pid * 16 + six q.dx * 128 + six q.dy * 2 ^ 13, q.row % 2 ^ 16 + q.word % 2 ^ 16 * 2 ^ 16, q.rt.toNat,
        f.fieldOf q.ox q.oy q.consumer + q.ox % 256 * 2 ^ 16 + q.oy % 256 * 2 ^ 24)
    | none => (0, 0, sl.rt.toNat, f.fieldOf sl.ox sl.oy sl.consumer + sl.ox % 256 * 2 ^ 16 + sl.oy % 256 * 2 ^ 24)
  sl.base.toNat + sl.len * 2 ^ 64 + sl.pos * 2 ^ 128 + sl.lo * 2 ^ 192 + sl.hi * 2 ^ 256 + sl.moved % 2 ^ 32 * 2 ^ 320 +
    (atBit 0 sl.opened + atBit 1 sl.write + atBit 2 sl.wport + p.1 + sizeCode sl.size * 2 ^ 19) * 2 ^ 352 +
    sl.edges.num * 2 ^ 384 + p.2.1 * 2 ^ 640 + p.2.2.1 * 2 ^ 672 + p.2.2.2 * 2 ^ 704

/-- A slot from its bytes. LO and HI above zero say that the stream has written. -/
def Forme.slotOf (f : Forme) (n v : Nat) : Slot :=
  let k := bits 352 32 v
  let edges := Edges.ofNat (bits 384 256 v)
  let rt := BitVec.ofNat 4 (bits 672 4 v)
  let ox := bits 720 8 v
  let oy := bits 728 8 v
  let cons := f.dest ox oy (BitVec.ofNat 16 (bits 704 16 v))
  let pass : Option Pass := if bit 3 k then some
      { pid := bits 4 3 k, dx := signed6 (bits 7 6 k), dy := signed6 (bits 13 6 k), rt := rt, consumer := cons, row := bits 640 16 v
        word := bits 656 16 v, edges := edges, ox := ox, oy := oy }
    else none
  { n := n, opened := bit 0 k, write := bit 1 k, wport := bit 2 k, size := sizeOf (bits 19 2 k), base := BitVec.ofNat 64 v
    len := bits 64 64 v, pos := bits 128 64 v, lo := bits 192 64 v, hi := bits 256 64 v, moved := bits 320 32 v
    wrote := bits 256 64 v != 0 || bits 192 64 v != 0, rt := rt, consumer := if pass.isSome then .none else cons, ox := ox, oy := oy
    pass := pass, edges := edges }

/-- The AG section of a bay: 2 KiB. -/
def Forme.agBlock (f : Forme) (c : Core) (bay : Nat) : List Byte :=
  let a := c.ag bay
  let slots := (List.range 8).map fun n => (128 * n, f.slotNum (a.slot n))
  let queues := (List.range 4).flatMap fun i => (a.input i).zipIdx.map fun e => (1024 + 64 * i + 8 * e.2, pinnedBits e.1.rt e.1.tok)
  let counts := (List.range 4).map fun i => (1280 + i, (a.input i).length)
  blockOf 2048 (slots ++ queues ++ counts)

/-- An AG from its section. -/
def Forme.agOf (f : Forme) (bay n : Nat) : AgState :=
  let input (i : Nat) : List AgTok := (List.range (min 8 (bits (8 * (1280 + i)) 8 n))).map fun e =>
    let q := QTok.ofStored (bits (8 * (1024 + 64 * i + 8 * e)) 64 n)
    { x := bay % 16 * 8, y := bay / 16 * 8, rt := q.rt, tok := q.tok }
  { bay := bay, slots := (List.range 8).map fun k => f.slotOf k (bits (1024 * k) 1024 n)
    in0 := input 0, in1 := input 1, in2 := input 2, in3 := input 3 }

/-! ## Route table, link tokens, boundary tokens (Tables 6-3, 18-7, 2-2) -/

def Core.routeBlock (c : Core) : List Byte :=
  allRts.flatMap fun rt =>
    let e := c.routeEntry rt
    leBytes 16 (if e.valid then 2 ^ 64 + e.tag.toNat else 0)

def LinkRec.num (l : LinkRec) : Nat :=
  atBit 88 l.tile + l.x % 256 * 2 ^ 80 + l.y % 256 * 2 ^ 72 + l.arc % 64 * 2 ^ 66 + l.port % 4 * 2 ^ 64 + l.tok.stored

def LinkRec.ofNat (n : Nat) : LinkRec :=
  { tile := bit 88 n, x := bits 80 8 n, y := bits 72 8 n, arc := bits 66 6 n, port := bits 64 2 n
    tok := QTok.ofStored (bits 0 64 n) }

/-- A boundary token in the layout of Table 2-2, its element in DNODE (R292). -/
def BoundTok.num (b : BoundTok) : Nat :=
  b.tag.toNat * 2 ^ 64 + b.x % 128 * 2 ^ 55 + b.y % 128 * 2 ^ 48 + pinnedBits 0 b.tok % 2 ^ 37

def BoundTok.ofNat (n : Nat) : BoundTok :=
  { x := bits 55 7 n, y := bits 48 7 n, tag := BitVec.ofNat 64 (bits 64 64 n), tok := (QTok.ofStored (bits 0 36 n)).tok }

/-! ## Groups of numbers, for the round section (log 24) -/

def encGroups (gs : List (List (List Nat))) : List Nat :=
  gs.flatMap fun g => g.length :: g.flatMap fun it => it.length :: it

/-- Read `k` items. -/
def decItems : Nat → List Nat → List (List Nat) × List Nat
  | 0, l => ([], l)
  | k + 1, l => match l with
    | [] => ([], [])
    | n :: rest =>
      let (a, b) := decItems k (rest.drop n)
      (rest.take n :: a, b)

/-- Read `k` groups. -/
def decGroups : Nat → List Nat → List (List (List Nat))
  | 0, _ => []
  | k + 1, l => match l with
    | [] => []
    | n :: rest =>
      let (a, b) := decItems n rest
      a :: decGroups k b

/-- A number as words of 64 bits; `k` bounds the words. -/
def natWords : Nat → Nat → List Nat
  | 0, _ => []
  | k + 1, n => if n = 0 then [] else n % 2 ^ 64 :: natWords k (n / 2 ^ 64)

def wordsNat : List Nat → Nat
  | [] => 0
  | w :: l => w + 2 ^ 64 * wordsNat l

def Flag.code : Flag → Nat
  | .none => 0
  | .null => 1
  | .eos => 2
  | .marker => 3

def Flag.ofCode (n : Nat) : Flag := match n with
  | 0 => .none
  | 1 => .null
  | 2 => .eos
  | _ => .marker

def nth (l : List Nat) (i : Nat) : Nat := l.getD i 0

/-- A bay to which a write port forwards, or none. -/
def optBay : Option Nat → Nat
  | some b => b + 1
  | none => 0

def bayOpt (n : Nat) : Option Nat := if n = 0 then none else some (n - 1)

/-- What a slot holds beside its 128 bytes: its EOS, what it wrote, the route tag and consumer of its stream, and the settings of its running
pass. No word of a paused stream is on the links. -/
def Forme.slotExtra (f : Forme) (bay : Nat) (sl : Slot) : List Nat :=
  [bay, sl.n, sl.eos.toNat + 2 * sl.wrote.toNat + 4 * sl.wroteNow.toNat, sl.rt.toNat, f.fieldOf sl.ox sl.oy sl.consumer, sl.ox, sl.oy] ++
    natWords 4 ((sl.pass.map Pass.edges).getD {}).num

/-- A slot with it. -/
def Forme.withSlotExtra (f : Forme) (sl : Slot) (l : List Nat) : Slot :=
  let b := nth l 2
  { sl with eos := bit 0 b, wrote := bit 1 b, wroteNow := bit 2 b, rt := BitVec.ofNat 4 (nth l 3)
            consumer := f.dest (nth l 5) (nth l 6) (BitVec.ofNat 16 (nth l 4)), ox := nth l 5, oy := nth l 6
            pass := sl.pass.map fun q => { q with edges := Edges.ofNat (wordsNat (l.drop 7)) } }

/-- What a token at an AG input holds beside its stored form: the element that sent it, whether as a control token, and that record's other
operands. -/
def AgTok.extra (bay k i : Nat) (t : AgTok) : List Nat := [bay, k, i, t.x, t.y, t.instr.isSome.toNat, t.b.toNat, t.c.toNat]

/-- A token with it. -/
def Forme.withTokExtra (f : Forme) (t : AgTok) (l : List Nat) : AgTok :=
  let x := nth l 3
  let y := nth l 4
  let t := { t with x := x, y := y, b := BitVec.ofNat 32 (nth l 6), c := BitVec.ofNat 32 (nth l 7) }
  match (if nth l 5 = 1 then f.record? x y else none) with
  | some i => match i.shell? with
    | some r => { t with instr := some i, dstb := f.dest x y r.dstb, dstbRaw := r.dstb }
    | none => { t with instr := some i }
  | none => t

/-- What a core holds that no section of Table 18-4 has a place for (log 24). -/
def Forme.extra (f : Forme) (c : Core) : List (List (List Nat)) :=
  [c.ends.map fun e => [e.1, e.2.1, e.2.2.toNat],
   c.deposits.map fun d => [d.obj, d.lo, d.hi, d.x, d.y],
   c.planes.map fun p => [p.bay, p.pid, p.armed.toNat] ++ natWords 16384 p.nxt,
   c.planes.map fun p => [p.bay, p.pid] ++ natWords 16384 p.cur,
   c.planes.flatMap fun p => p.halo.map fun h => [p.bay, p.pid, h.1, h.2.toNat],
   c.planes.flatMap fun p => p.haloBack.map fun h => [p.bay, p.pid, h.1, h.2.toNat],
   c.cas.map fun a => [a.bay, a.log.toNat, a.next, a.ovf.toNat],
   c.ags.map fun a => [a.bay, optBay a.fwd2, optBay a.fwd3],
   c.ags.flatMap fun a => a.slots.map fun sl => f.slotExtra a.bay sl,
   c.ags.flatMap fun a => (List.range 4).flatMap fun k => (a.input k).zipIdx.map fun e => e.1.extra a.bay k e.2,
   c.wins.map fun w => [w.bay, w.w] ++ w.dirty]

/-- Groups of `Forme.extra`. -/
def extraGroups : Nat := 11

/-- An AG with what its section has no place for. -/
def Forme.withAgExtra (f : Forme) (a : AgState) (fwd slots toks : List (List Nat)) : AgState :=
  let mine (l : List Nat) : Bool := nth l 0 == a.bay
  let a := match fwd.find? mine with
    | some l => { a with fwd2 := bayOpt (nth l 1), fwd3 := bayOpt (nth l 2) }
    | none => a
  let a := { a with slots := a.slots.map fun sl => match slots.find? fun l => mine l && nth l 1 == sl.n with
    | some l => f.withSlotExtra sl l
    | none => sl }
  (List.range 4).foldl (fun a k => a.setInput k ((a.input k).zipIdx.map fun e =>
    match toks.find? fun l => mine l && nth l 1 == k && nth l 2 == e.2 with
    | some l => f.withTokExtra e.1 l
    | none => e.1)) a

/-- Restore it. -/
def Forme.withExtra (f : Forme) (c : Core) (gs : List (List (List Nat))) : Core :=
  let g (i : Nat) := gs.getD i []
  let c := { c with ends := (g 0).map fun e => (nth e 0, nth e 1, BitVec.ofNat 4 (nth e 2))
                    deposits := (g 1).map fun d => ⟨nth d 0, nth d 1, nth d 2, nth d 3, nth d 4⟩ }
  let planes := c.planes.map fun p =>
    let mine (e : List Nat) : Bool := nth e 0 == p.bay && nth e 1 == p.pid
    let p := match (g 2).find? mine with
      | some e => { p with armed := nth e 2 == 1, nxt := wordsNat (e.drop 3) }
      | none => p
    let p := match (g 3).find? mine with
      | some e => { p with cur := wordsNat (e.drop 2) }
      | none => p
    { p with halo := ((g 4).filter mine).map fun e => (nth e 2, BitVec.ofNat 32 (nth e 3))
             haloBack := ((g 5).filter mine).map fun e => (nth e 2, BitVec.ofNat 32 (nth e 3)) }
  { c with planes := planes
           cas := c.cas.map fun a => match (g 6).find? fun e => nth e 0 == a.bay with
             | some e => { a with log := BitVec.ofNat 64 (nth e 1), next := nth e 2, ovf := nth e 3 == 1 }
             | none => a
           ags := c.ags.map fun a => f.withAgExtra a (g 7) (g 8) (g 9)
           wins := c.wins.map fun w => match (g 10).find? fun e => nth e 0 == w.bay && nth e 1 == w.w with
             | some e => { w with dirty := e.drop 2 }
             | none => w }

def PTok.numbers (k : PTok) : List Nat :=
  [k.tag.toNat, k.port.toNat, k.node.toNat, k.hnd.toNat, k.tok.flag.code, k.tok.lmask.toNat, k.tok.value.toNat, k.age] ++ match k.src with
    | .outside => []
    | .inst hdr tag => [hdr, tag.toNat]

def PTok.ofNumbers (l : List Nat) : PTok :=
  { tag := BitVec.ofNat 64 (nth l 0), port := BitVec.ofNat 2 (nth l 1), node := BitVec.ofNat 14 (nth l 2), hnd := nth l 3 == 1
    tok := { flag := Flag.ofCode (nth l 4), lmask := BitVec.ofNat 2 (nth l 5), value := BitVec.ofNat 32 (nth l 6) }, age := nth l 7
    src := match l[8]? with
      | some h => .inst h (BitVec.ofNat 64 (nth l 9))
      | none => .outside }

def Staged.numbers (w : Staged) : List Nat :=
  let key := [w.y, w.x, w.rt.toNat, w.n]
  match w.work with
  | .store va d => key ++ [0, va.toNat] ++ d.map BitVec.toNat
  | .act i a b c =>
    let e := ((encode i).getD 0).toNat
    key ++ [1, e % 2 ^ 64, e / 2 ^ 64, a.toNat, b.toNat, c.toNat]
  | .release d a b => key ++ [2, a.toNat, b.toNat] ++ natWords 4 d
  | .token tile k => key ++ [3, tile] ++ k.numbers
  | .word u rt v => key ++ [4, u, rt.toNat, v.toNat]
  | .stray tile k => key ++ [5, tile] ++ k.numbers

def Staged.ofNumbers (l : List Nat) : Option Staged :=
  let key (w : StagedWork) : Staged := ⟨nth l 0, nth l 1, BitVec.ofNat 4 (nth l 2), nth l 3, w⟩
  match nth l 4 with
  | 0 => some (key (.store (BitVec.ofNat 64 (nth l 5)) ((l.drop 6).map (BitVec.ofNat 8))))
  | 1 => match decode .pinned (BitVec.ofNat 96 (nth l 5 + nth l 6 * 2 ^ 64)) with
    | .ok i => some (key (.act i (BitVec.ofNat 32 (nth l 7)) (BitVec.ofNat 32 (nth l 8)) (BitVec.ofNat 32 (nth l 9))))
    | .error _ => none
  | 3 => some (key (.token (nth l 5) (PTok.ofNumbers (l.drop 6))))
  | 5 => some (key (.stray (nth l 5) (PTok.ofNumbers (l.drop 6))))
  | 4 => some (key (.word (nth l 5) (BitVec.ofNat 4 (nth l 6)) (BitVec.ofNat 32 (nth l 7))))
  | _ => some (key (.release (wordsNat (l.drop 7)) (BitVec.ofNat 16 (nth l 5)) (BitVec.ofNat 16 (nth l 6))))

/-- An operation that a pooled galley handed over, with the place of its answer (R212). -/
def Handed.numbers (h : Handed) : List Nat :=
  let e := ((encode h.instr).getD 0).toNat
  [e % 2 ^ 64, e / 2 ^ 64, h.a.toNat, h.b.toNat, h.bay, h.reply.tile, h.reply.node, h.reply.tag.toNat, h.reply.hnd.toNat,
    h.reply.dsta.toNat, h.reply.dstb.toNat]

def Handed.ofNumbers (l : List Nat) : Option Handed :=
  match decode .pooled (BitVec.ofNat 32 (nth l 1) ++ BitVec.ofNat 64 (nth l 0)) with
  | .error _ => none
  | .ok i => some
    { instr := i, a := BitVec.ofNat 32 (nth l 2), b := BitVec.ofNat 32 (nth l 3), bay := nth l 4
      reply := { tile := nth l 5, node := nth l 6, tag := BitVec.ofNat 64 (nth l 7), hnd := nth l 8 == 1
                 dsta := BitVec.ofNat 16 (nth l 9), dstb := BitVec.ofNat 16 (nth l 10) } }

def BoundTok.numbers (b : BoundTok) : List Nat := [b.x, b.y, b.tag.toNat, b.tok.flag.code, b.tok.lmask.toNat, b.tok.value.toNat]

def BoundTok.ofNumbers (l : List Nat) : BoundTok :=
  { x := nth l 0, y := nth l 1, tag := BitVec.ofNat 64 (nth l 2)
    tok := { flag := Flag.ofCode (nth l 3), lmask := BitVec.ofNat 2 (nth l 4), value := BitVec.ofNat 32 (nth l 5) } }

/-! ## Whole images -/

/-- The sections of a core: elements, tiles, AGs, route table. -/
def Forme.coreBytes (f : Forme) (c : Core) : List Byte :=
  (f.cfg.bays.flatMap fun b => (bayElems b).flatMap fun p => f.elemBlock c p.1 p.2) ++
    (f.cfg.bays.flatMap fun b => f.tileBlock c b) ++ (f.cfg.bays.flatMap fun b => f.agBlock c b) ++ c.routeBlock

/-- Bytes of a bay in the element, tile and AG sections. -/
def bayElemBytes : Nat := 65536
def bayTileBytes : Nat := 2 ^ 19 + 512
def bayAgBytes : Nat := 2048

/-- Bytes of the sections of a core. -/
def FormeCfg.coreSize (g : FormeCfg) : Nat := g.w * g.h * (bayElemBytes + bayTileBytes + bayAgBytes) + 256

/-- A core from its sections. -/
def Forme.coreOf (f : Forme) (b : List Byte) : Core :=
  let n := f.cfg.bays.length
  let tiles := b.drop (n * bayElemBytes)
  let ags := tiles.drop (n * bayTileBytes)
  let route := ags.drop (n * bayAgBytes)
  let c := f.cfg.filled
  let elems := f.cfg.bays.zipIdx.flatMap fun e => (bayElems e.1).zipIdx.map fun p =>
    f.elemOf p.1.1 p.1.2 (leNat ((b.drop (e.2 * bayElemBytes + 1024 * p.2)).take 1024))
  let c := { c with elems := elems.filter fun e => e != { x := e.x, y := e.y }, tile := [] }
  let c := f.cfg.bays.zipIdx.foldl (fun c e => f.tileOf c e.1 ((tiles.drop (e.2 * bayTileBytes)).take bayTileBytes)) c
  let c := f.cfg.bays.zipIdx.foldl (fun c e => c.setAg (f.agOf e.1 (leNat ((ags.drop (e.2 * bayAgBytes)).take bayAgBytes)))) c
  { c with route := (groupsOf 16 16 (route.take 256)).map fun v => ⟨bit 64 v, BitVec.ofNat 64 v⟩ }

/-- A word of an element in a configuration plane (Table 4-12). -/
def FormeCfg.elemWord (g : FormeCfg) (x y : Nat) : Nat :=
  match g.word? x y with
  | some w => 2 ^ 96 + w.toNat
  | none => 0

def TileRole.num (r : TileRole) : Nat :=
  r.role % 4 * 2 ^ 510 + (r.cap - 1) % 2 ^ 16 * 2 ^ 494 + r.outx % 256 * 2 ^ 486 + r.outy % 256 * 2 ^ 478 + r.outport % 4 * 2 ^ 476 +
    r.per % 2 ^ 16 * 2 ^ 460 + r.wins % 16 * 2 ^ 456 + r.lsize % 8 * 2 ^ 453 + r.thresh % 32 * 2 ^ 448

/-- A bay block of the configuration (Table 10-11). -/
def Forme.bayBlock (f : Forme) (bay : Nat) : List Byte :=
  ((bayElems bay).flatMap fun p => leBytes 16 (f.cfg.elemWord p.1 p.2)) ++ leBytes 64 (f.role bay).num ++
    ((List.range 8).flatMap fun n => leBytes 32 (((lookup bay f.cfg.slots).bind fun l => l[n]?).getD {}).num)

/-- A fill record with its data. -/
def Fill.bytes (f : Fill) : List Byte :=
  leBytes 16 (f.bay % 256 * 2 ^ 120 + f.kind % 16 * 2 ^ 116 + f.pid % 16 * 2 ^ 112 + f.addr % 2 ^ 32 * 2 ^ 64 +
    f.data.length % 2 ^ 32 * 2 ^ 32) ++ f.data ++ List.replicate ((16 - f.data.length % 16) % 16) 0

/-- The record that ends the fills. -/
def endFill : Fill := { bay := 0, kind := 15, pid := 0, addr := 0, data := [] }

/-- The forme block (Table 10-12). -/
def FormeCfg.block (g : FormeCfg) : List Byte :=
  leBytes 256 (g.logobj % 2 ^ 24 * 2 ^ 2024 + (match g.job with
      | some j => 2 ^ 2023 + j % 64 * 2 ^ 2017
      | none => 0) + g.objs.length % 64 * 2 ^ 2011 + g.ldbay % 256 * 2 ^ 2003 + g.ldaddr % 2 ^ 19 * 2 ^ 1984 + g.ldwords % 512 * 2 ^ 1975 +
    g.ladder.length % 8 * 2 ^ 1972 + g.objs.zipIdx.foldl (fun n o => n + o.1 % 2 ^ 24 * 2 ^ (32 * o.2)) 0)

/-- The configuration section of a context image: the live planes of its bays (Tables 4-12 and 18-4). -/
def Forme.cfgBytes (f : Forme) : List Byte := pad64 (f.cfg.bays.flatMap fun b => f.bayBlock b)

/-- Groups of numbers as bytes. -/
def groupBytes (gs : List (List (List Nat))) : List Byte := (encGroups gs).flatMap fun n => leBytes 8 n

/-- What the model writes behind the sections of Table 18-4, which have no place for it (log 24): the forme block, the ladder, the plane
descriptors and activity bitmaps as fills, and groups of numbers. -/
def Forme.trailer (f : Forme) : List Byte :=
  let planes := f.run.core.planes.flatMap fun p =>
    (f.cfg.fills.filter fun l => l.kind == 1 && l.bay == p.bay && l.pid == p.pid) ++
      [{ bay := p.bay, kind := 4, pid := p.pid, addr := 0, data := leBytes ((p.nbx * p.nby + 7) / 8) p.cur }]
  let gs := groupBytes (f.extra f.run.core ++ [[[f.run.roundOpen.toNat, f.run.eosSeen.toNat, f.run.voids, f.run.yielding.toNat, f.run.replaying, f.run.tileStaged]]])
  f.cfg.block ++ pad64 (f.cfg.ladder.flatMap fun ws => ws.flatMap fun w => leBytes 4 w.toNat) ++
    pad64 ((planes ++ [endFill]).flatMap Fill.bytes) ++ leBytes 8 gs.length ++ gs

/-- The 128-byte lines of the sections of a core, as numbers. -/
def FormeCfg.lines (g : FormeCfg) (b : List Byte) : List Nat := groupsOf 128 (g.coreSize / 128) b

/-- The lines of the round-start sections that the round has changed, each behind its index (R250: a line is saved at its first
change). -/
def Forme.savedLines (f : Forme) : List (List Nat) :=
  (((f.cfg.lines (f.coreBytes f.run.start)).zip (f.cfg.lines (f.coreBytes f.run.core))).zipIdx.filter fun e => e.1.1 != e.1.2).map fun e =>
    e.2 :: natWords 16 e.1.1

/-- The round-start sections from the current ones and the saved lines. -/
def FormeCfg.startSections (g : FormeCfg) (cur : List Byte) (saved : List (List Nat)) : List Byte :=
  (g.lines cur).zipIdx.flatMap fun e => leBytes 128 (match saved.find? fun l => nth l 0 == e.2 with
    | some l => wordsNat (l.drop 1)
    | none => e.1)

/-- The round section of a round-mode forme, groups of numbers (log 24). -/
def Forme.roundBytes (f : Forme) : List Byte :=
  if f.cfg.stream then []
  else
    pad64 (groupBytes (f.extra f.run.start ++
      [f.run.staging.map Staged.numbers, f.run.inlog.map BoundTok.numbers, f.savedLines, f.run.handed.map Handed.numbers,
        f.run.touched.map fun t => [t.obj, t.off, t.size, t.acc, t.kind]]))

/-- The header (Table 18-5). -/
def Forme.imageHeader (f : Forme) (nlink nbnd stgb : Nat) : Nat :=
  2 * 2 ^ 504 + (f.cfg.w - 1) % 16 * 2 ^ 500 + (f.cfg.h - 1) % 16 * 2 ^ 496 + atBit 495 f.cfg.stream + f.ctx % 2 ^ 12 * 2 ^ 483 +
    f.run.round % 2 ^ 32 * 2 ^ 451 + f.cfg.fseed.toNat * 2 ^ 435 + nlink % 2 ^ 32 * 2 ^ 403 + nbnd % 2 ^ 32 * 2 ^ 371 +
    stgb % 2 ^ 32 * 2 ^ 339

/-- The context image of a halted or quiesced forme (R323), the model's trailer behind its sections (log 24). -/
def Forme.image (f : Forme) : List Byte :=
  let links := match f.mark with
    | some m => m.linkToks
    | none => []
  let round := f.roundBytes
  leBytes 64 (f.imageHeader links.length f.held.length round.length) ++ f.cfgBytes ++ f.coreBytes f.run.core ++
    pad64 (links.flatMap fun l => leBytes 16 l.num) ++ pad64 (f.held.flatMap fun b => leBytes 16 b.num) ++ round ++ f.trailer

/-- Put a link token of an image into its queue or ring, behind what that holds (R325). It arrives at the cycle `now`; in an image whose ages are
not saved it is younger than the entries of its queue. -/
def Core.placeLink (now : Option Nat) (c : Core) (l : LinkRec) : Core :=
  if l.tile then match c.fifo? (l.y * 16 + l.x) with
    | some q => c.setFifo { q with ring := q.ring ++ [l.tok] }
    | none => c
  else
    let e := c.elem l.x l.y
    c.setElem (e.setQueue l.port (e.queue l.port ++ [{ l.tok with age := now.getD (8 + (e.queue l.port).length) }]))

/-- The run that a core, the sections `cur` it was read from, a round section `b` and the groups `gs` of the trailer restore. -/
def Forme.runOf (f : Forme) (core : Core) (cur : List Byte) (round : Nat) (b : List Byte) (gs : List (List (List Nat))) : Run :=
  let last := (gs.getD extraGroups []).headD []
  let core := f.withExtra core (gs.take extraGroups)
  let run : Run := { core := core, start := core, round := round, roundOpen := nth last 0 == 1, eosSeen := nth last 1 == 1
                     voids := nth last 2, yielding := nth last 3 == 1, replaying := nth last 4, tileStaged := nth last 5 }
  if b.isEmpty then run
  else
    let rs := decGroups (extraGroups + 5) (groupsOf 8 (b.length / 8 + 1) b)
    let r (i : Nat) := rs.getD (extraGroups + i) []
    { run with
      start := f.withExtra (f.coreOf (f.cfg.startSections cur (r 2))) (rs.take extraGroups), staging := (r 0).filterMap Staged.ofNumbers
      inlog := (r 1).map BoundTok.ofNumbers, handed := (r 3).filterMap Handed.ofNumbers
      touched := (r 4).map fun l => ⟨nth l 0, nth l 1, nth l 2, nth l 3, nth l 4⟩ }

end Sys2Proof.Machine
end

