-- ==== Sys2Proof/Machine/Loader.lean ====
section
/-! DEFINITION. The loader: the checks of overlays (R74, R78, R79, R88) and of forme images (R88, R241, R243, R258 to R261), their
placement (R90, R222, R240, R241), and what OVLD, OVFREE, FLOAD and FSWAP do at a commit (R221, R222, R245). -/

namespace Sys2Proof.Machine

/-- A failed record: its index, the reason code of Table 4-11, its bits. -/
structure Failure where
  index : Nat
  code : Nat
  bits : Nat := 0
  deriving DecidableEq, Repr

/-- The failure that is reported: the lowest index, then the lowest code (R88). -/
def firstFailure (l : List Failure) : Option Failure := leastBy (fun a b => keyLt [a.index, a.code] [b.index, b.code]) l

/-- Post the fault record of an illegal record (class 1, PREC 4, SRC 5): to the loading context, for a door load to the host. `hnd`: a
record of a fault-handler instance loads (R358). -/
def State.postIllegal (s : State) (door : Bool) (part ctx srcid : Nat) (f : Failure) (hnd : Bool := false) : Option State :=
  let head : FaultHead := { ctx := ctx, src := 5, srcid := srcid, cls := clsIllegal, prec := 4, reason := f.code }
  let pay := f.index % 2 ^ 32 * 2 ^ 160 + f.bits % 2 ^ 96 * 2 ^ 64
  if door then s.postHost part (faultRecord head pay) else s.postFault head pay hnd .operation

/-! ## Overlays (R74, R78, R79, R88) -/

/-- The records of an overlay: 12 bytes each. -/
def overlayWords (b : List Byte) : List (BitVec 96) := (groupsOf 12 (b.length / 12) b).map (BitVec.ofNat 96)

/-- The opcode of a record word. -/
def opOf (w : BitVec 96) : Nat := (splitWord w.toNat).op

/-- Opcodes whose records are store-kind (Table 7-2), carry an LSID (R71), and are commit-performed (Table 7-2, R193). -/
def storeOp (o : Nat) : Bool :=
  [0x81, 0x83, 0x87].contains o || (decide (0xA1 ≤ o) && decide (o ≤ 0xAA)) || o == 0xAC || o == 0xAD
def lsidOp (o : Nat) : Bool := (o / 16 == 8 && o != 0x84 && o != 0x85) || (o / 16 == 0xA && o != 0xA0)

/-- A record that acts when its galley commits. -/
def Instr.atCommit : Instr → Bool
  | .st .. | .sti .. | .scatter .. | .red .. | .lockacq .. | .lockrel .. | .bararr .. | .bardrop .. | .wakew .. | .event .. => true
  | .aadd _ _ _ raw _ | .amin _ _ _ raw _ | .amax _ _ _ raw _ | .aand _ _ _ raw _ | .aor _ _ _ raw _ | .axor _ _ _ raw _
  | .axchg _ _ _ raw _ | .acas _ _ _ raw _ | .afadd _ _ _ raw _ => !(rawImm false raw)
  | .copye .. | .qcommit .. | .loffer .. | .ltake .. | .lreclaim .. | .degrade .. | .fload .. | .fswap .. | .ovld .. | .ovfree .. => true
  | .mtask .. | .mdrain .. | .cres .. | .cclr .. | .clog .. | .cadj .. | .frel .. | .trap .. | .brk .. | .halt .. | .eret .. | .syswr ..
  | .marker .. | .snap .. => true
  | _ => false

/-- The destination fields of a word that name a node. -/
def wordDests (w : BitVec 96) : List Nat :=
  let r := (splitWord w.toNat).shell
  ([r.dsta, r.dstb].filter fun d => d != noDest).map fun d => d.toNat % 2 ^ 14

/-- Codes of the checks of one record that look around it: destinations (R74), results that feed their own galley (R133, R152, R193),
streams that leave it (R145). `lo` to `hi` are the galley's nodes. -/
def aroundCodes (ws : List (BitVec 96)) (lo hi : Nat) (w : BitVec 96) : List Nat :=
  let ds := wordDests w
  let inside (n : Nat) : Bool := decide (lo < n) && decide (n ≤ hi)
  let bad := ds.any fun n => match ws[n]? with
    | none => true
    | some v => isHeader v
  let wrong := match decode .pooled w with
    | .error _ => false
    | .ok i => match i with
      | .call _ _ r => inside (r.dsta.toNat % 2 ^ 14)
      | .repeatN .. | .seq .. => ds.any fun n => !(inside n)
      | i => Instr.atCommit i && ds.any inside
  (if bad then [6] else []) ++ if wrong then [9] else []

/-- The failures of the records of one galley. -/
def recordFailures (ws : List (BitVec 96)) (lo hi : Nat) (recs : List (BitVec 96)) : List Failure :=
  recs.zipIdx.filterMap fun e =>
    let own := match decode .pooled e.1 with
      | .error r => [r.code]
      | .ok _ => []
    match leastBy (fun a b => decide (a < b)) (own ++ aroundCodes ws lo hi e.1) with
    | some c => some ⟨lo + 1 + e.2, c, e.1.toNat⟩
    | none => none

/-- The checks of R79 on a covered galley: branch, LSIDs, store mask, context writes, outputs. -/
def galleyOk (h : BitVec 96) (lo hi : Nat) (recs : List (BitVec 96)) : Bool :=
  let lsids := (recs.filter fun w => lsidOp (opOf w)).map fun w => (splitWord w.toNat).shell.aux.toNat
  let stores := (recs.filter fun w => storeOp (opOf w)).map fun w => (splitWord w.toNat).shell.aux.toNat
  let outs := (recs.flatMap wordDests).filter fun n => !(decide (lo < n) && decide (n ≤ hi))
  (recs.filter fun w => opOf w == 0x7C).length == 1 && lsids.Nodup && hdrStores h == BitVec.ofNat 32 (setBitsOf 0 stores) &&
    (recs.filter fun w => opOf w == 0x85).length == hdrKw h && outs.length == hdrOut h

/-- The failures of an overlay from galley to galley; the walk ends where a galley is not covered. -/
def overlayFailures (ws : List (BitVec 96)) : Nat → Nat → List (BitVec 96) → List Failure
  | 0, _, _ => []
  | _ + 1, _, [] => []
  | k + 1, i, h :: rest =>
    let at_ (c : Nat) : Failure := ⟨i, c, h.toNat⟩
    if !(isHeader h) then [at_ (((match decode .pooled h with
      | .error r => [r.code]
      | .ok _ => []) ++ aroundCodes ws i i h).foldl min 9)]
    else
      let n := hdrCount h
      let recs := rest.take n
      let after := rest.drop n
      let reserved := if headerReject .pooled h.toNat = .reserved then [at_ 2] else []
      let covered := recs.length == n && !(recs.any isHeader) && match after with
        | [] => true
        | a :: _ => isHeader a
      if !covered then reserved ++ [at_ 9]
      else
        reserved ++ (if galleyOk h i (i + n) recs then [] else [at_ 9]) ++ recordFailures ws i (i + n) recs ++
          overlayFailures ws k (i + 1 + n) after

/-- The failure of an overlay that is reported. One of no record does not begin with a header (R79); it has no record to show, and the
failure stands at index 0 with the record bits zero. -/
def checkOverlay (ws : List (BitVec 96)) : Option Failure :=
  if ws.isEmpty then some { index := 0, code := 9 } else firstFailure (overlayFailures ws (ws.length + 1) 0 ws)

/-- Free node ranges of a tile: base and records. -/
def DTile.gaps (d : DTile) : List (Nat × Nat) :=
  let os := sortBy (fun (a b : Overlay) => decide (a.base < b.base)) d.overlays
  let (l, e) := os.foldl (fun (acc : List (Nat × Nat) × Nat) o => (acc.1 ++ [(acc.2, o.base - acc.2)], o.base + o.len)) ([], 0)
  (l ++ [(e, 16384 - e)]).filter fun g => g.2 != 0

/-- The bases at which an overlay of `n` records fits: in each gap, from its first to its last. -/
def DTile.bases (d : DTile) (n : Nat) : List (Nat × Nat) := (d.gaps.filter fun g => decide (n ≤ g.2)).map fun g => (g.1, g.2 - n + 1)

/-- Base number `k` of those. -/
def nthBase : List (Nat × Nat) → Nat → Nat
  | [], _ => 0
  | (b, n) :: l, k => if k < n then b + k else nthBase l (k - n)

/-- A destination moved by the base (R74). -/
def movedDest (base : Nat) (d : Nat) : Nat := if d = 0xFFFF then d else d / 2 ^ 14 * 2 ^ 14 + (d % 2 ^ 14 + base) % 2 ^ 14

/-- A record as node memory holds it. -/
def relocate (base : Nat) (w : BitVec 96) : BitVec 96 :=
  if isHeader w then w
  else
    let n := w.toNat
    BitVec.ofNat 96 (setBits 48 16 (setBits 32 16 n (movedDest base (bits 32 16 n))) (movedDest base (bits 48 16 n)))

/-- Place a checked overlay on a tile at a free base, which the model picks where several fit (log 23); none where there is no room. -/
def State.placeOverlay (s : State) (t : Nat) (ws : List (BitVec 96)) (door : Option Nat) : Option (Nat × State) :=
  let l := (s.tile t).bases ws.length
  let total := l.foldl (fun n g => n + g.2) 0
  if total = 0 then none
  else
    let (k, s) := s.pick total
    let base := nthBase l k
    let d := s.tile t
    some (base, s.setTile { d with
      nodes := d.nodes ++ ws.zipIdx.map fun e => (base + e.2, relocate base e.1)
      overlays := d.overlays ++ [{ base := base, len := ws.length, door := door }] })

/-- OVLD at the commit, on the bytes that it read: the base, or a failure (R222). -/
def State.ovld (s : State) (t ctx : Nat) (b : List Byte) (hnd : Bool) : Option (State × Word) :=
  let ws := overlayWords b
  match checkOverlay ws with
  | some f => (s.postIllegal false (s.unitPart t) ctx (t % 32) f hnd).map fun s => (s, failure 2)
  | none => match s.placeOverlay t ws none with
    | none => some (s, failure 1)
    | some (base, s) => some (s, BitVec.ofNat 32 base)

/-- Whether OVFREE is refused: a galley instance, a matching-store entry, a token held for one, a binding or a saved pool names a node
of the overlay (R222, R326). -/
def State.overlayNamed (s : State) (t : Nat) (o : Overlay) : Bool :=
  let d := s.tile t
  let mine (n : Nat) : Bool := decide (o.base ≤ n) && decide (n < o.base + o.len)
  (d.galleys.any fun g => mine g.hdr) || (d.entries.any fun e => mine e.node) || (d.ready.any fun i => mine i.node) ||
    (d.held.any fun k => mine k.node.toNat) || (d.inbox.any fun k => mine k.node.toNat) || ((s.island t).binds.any fun b => mine (b.pdest.toNat % 2 ^ 14)) ||
    d.savedPools.any fun p => (p.entries.any fun e => mine e.node) || (p.ready.any fun i => mine i.node) ||
      p.toks.any fun k => mine k.node.toNat

/-- OVFREE: 1 freed, 0 refused. A door whose overlay goes returns to ABSENT (R290). -/
def State.ovfree (s : State) (t base : Nat) : State × Word :=
  let d := s.tile t
  match d.overlays.find? fun o => o.base == base with
  | none => (s, 0)
  | some o =>
    if s.overlayNamed t o then (s, 0)
    else
      let s := s.setTile { d with
        nodes := d.nodes.filter fun e => !(decide (o.base ≤ e.1) && decide (e.1 < o.base + o.len))
        overlays := d.overlays.filter fun p => p.base != base }
      match s.part? (s.unitPart t) with
      | none => (s, 1)
      | some q => (s.setPart { q with doors := q.doors.map fun e =>
          if !e.forme && e.state == .resident && e.base == base && e.tile == t % 32 then { e with state := .absent, base := 0, tile := 0 } else e }, 1)

/-! ## Reading a forme image (R243, Tables 10-11 to 10-16) -/

/-- What reading gives: nothing yet (a stall), a fault of R150 with its address, no permission, a failure, or a configuration. -/
inductive Read (α : Type) where
  | stall
  | fault (cls va : Nat)
  | noPerm
  | bad (f : Failure)
  | ok (a : α)
  deriving DecidableEq, Repr

/-- Chain reads. -/
def Read.then {α β : Type} (r : Read α) (f : α → Read β) : Read β :=
  match r with
  | .stall => .stall
  | .fault c v => .fault c v
  | .noPerm => .noPerm
  | .bad e => .bad e
  | .ok a => f a

/-- The index of a failure outside the element words. -/
def noIndex : Nat := 0xFFFFFFFF
def outside (code : Nat) : Failure := { index := noIndex, code := code }
def Read.check {α : Type} (ok : Bool) (code : Nat) (r : Read α) : Read α := if ok then r else .bad (outside code)

/-- `n` bytes of an image, `k` bytes into it. -/
def State.imageBytes (s : State) (part : Nat) (va : VA) (k n : Nat) : Read (List Byte) :=
  let a := (Addr.ofVa va).plus k
  match s.range part a n .exec with
    | .stall => .stall
    | .fault c => if c = clsPermission then .noPerm else .fault c a.va
    | .ok p => .ok (s.readPieces p)

/-- What a header gives (Table 18-5). -/
structure ImageHead where
  kind : Nat
  w : Nat
  h : Nat
  stream : Bool
  round : Nat
  fseed : Nat
  nlink : Nat
  nbnd : Nat
  stgb : Nat
  deriving DecidableEq, Repr

/-- The fields of a header. An FSEED of zero is the seed 0, not the default of R56 (log 82). -/
def ImageHead.ofNat (n : Nat) : ImageHead :=
  { kind := bits 504 8 n, w := bits 500 4 n + 1, h := bits 496 4 n + 1, stream := bit 495 n, round := bits 451 32 n, fseed := bits 435 16 n
    nlink := bits 403 32 n, nbnd := bits 371 32 n, stgb := bits 339 32 n }

/-- A header obeys Table 18-5, and in a forme image its fields for context images are zero. -/
def headerOk (n : Nat) : Bool :=
  let h := ImageHead.ofNat n
  (h.kind == 1 || h.kind == 2) && bits 0 339 n == 0 &&
    (h.kind == 2 || (bits 483 12 n == 0 && h.round == 0 && h.nlink == 0 && h.nbnd == 0 && h.stgb == 0))

/-- A bay lies in a chase of W × H. -/
def bayIn (w h bay : Nat) : Bool := decide (bay % 16 < w) && decide (bay / 16 < h)

/-- The words of the ladder sets, and their padded bytes. -/
def ladderBytes (blk : Nat) : Nat := (bits 1972 3 blk * bits 1975 9 blk * 4 + 63) / 64 * 64

/-- A tile role record (Table 10-13). -/
def TileRole.ofNat (bay n : Nat) : TileRole :=
  { bay := bay, role := bits 510 2 n, cap := bits 494 16 n + 1, outx := bits 486 8 n, outy := bits 478 8 n, outport := bits 476 2 n
    per := bits 460 16 n, wins := bits 456 4 n, lsize := bits 453 3 n, thresh := bits 448 5 n }

/-- The parameters of a role lie in their ranges (R256, R257, Table 10-13). -/
def TileRole.fits (r : TileRole) : Bool :=
  match r.role with
  | 2 => decide (1 ≤ r.wins) && decide (r.wins ≤ 8) && decide (r.lsize ≤ 4) && decide (r.wins * 2 ^ (r.lsize + 12) ≤ 2 ^ 19)
  | 3 => decide (1 ≤ r.thresh) && decide (r.thresh ≤ 16)
  | _ => true

/-- A bay block: its records with the failures of its element words, its role, its slots. `i` is the index of its first element. -/
def parseBay (bay i : Nat) (b : List Byte) : List (Nat × Nat × BitVec 96) × List Failure × TileRole × Option (List Edges) × List Nat :=
  let words := (bayElems bay).zipIdx.map fun e => (e.1, e.2, leNat ((b.drop (16 * e.2)).take 16))
  let recs := (words.filter fun e => bit 96 e.2.2).map fun e => (e.1.1, e.1.2, BitVec.ofNat 96 e.2.2)
  let bad := (words.filter fun e => bits 97 31 e.2.2 != 0).map fun e => (⟨i + e.2.1, 2, e.2.2 % 2 ^ 96⟩ : Failure)
  let rn := leNat ((b.drop 1024).take 64)
  let slots := (List.range 8).map fun k => leNat ((b.drop (1088 + 32 * k)).take 32)
  let edges := if slots.all fun n => n == 0 then none else some (slots.map Edges.ofNat)
  let reserved := (if bits 0 448 rn = 0 then [] else [2]) ++ if slots.all fun n => bits 0 114 n == 0 then [] else [2]
  let range := if (TileRole.ofNat bay rn).fits && slots.all fun n => decide (bits 115 5 n ≤ 16) then [] else [10]
  (recs, bad, TileRole.ofNat bay rn, edges, reserved ++ range)

/-- Read the fills of an image of W × H bays from an offset on; `n` bounds them. The record that ends them has no plane, address or data
(Table 10-15). -/
def State.readFills (s : State) (part : Nat) (va : VA) (w h : Nat) : Nat → Nat → Read (List Fill × Nat × List Nat)
  | 0, k => .ok ([], k, [])
  | n + 1, k =>
    (s.imageBytes part va k 16).then fun hb =>
      let v := leNat hb
      let kind := bits 116 4 v
      let len := bits 32 32 v
      let reserved := if bits 96 16 v = 0 && bits 0 32 v = 0 then [] else [2]
      if kind = 15 then
        .ok ([], k + 16, if bits 32 64 v = 0 && bits 112 4 v = 0 && bayIn w h (bits 120 8 v) then reserved else [2])
      else if 5 ≤ kind then .bad (outside 2)
      else
        (s.imageBytes part va (k + 16) len).then fun d =>
          (State.readFills s part va w h n (k + 16 + (len + 15) / 16 * 16)).then fun r =>
            .ok ({ bay := bits 120 8 v, kind := kind, pid := bits 112 4 v, addr := bits 64 32 v, data := d } :: r.1, r.2.1, reserved ++ r.2.2)

/-- The reserved bits in the data of a fill are zero: of a plane descriptor, of tokens in the stored form of Table 2-1, of CA slots (Table 8-5). -/
def Fill.rsvdOk (f : Fill) : Bool :=
  match f.kind with
  | 1 => bits 0 112 (leNat f.data) == 0
  | 2 => (groupsOf 8 f.data.length f.data).all fun n => bits 41 23 n == 0
  | 3 => (groupsOf 128 f.data.length f.data).all fun n => bits 204 52 n == 0 && bits 672 352 n == 0
  | _ => true

/-- Codes of a fill that fail (R243, Table 10-15). -/
def Fill.codes (f : Fill) (g : FormeCfg) : List Nat :=
  let role := ((g.roles.find? fun r => r.bay == f.bay).map TileRole.role).getD 0
  let zero := (f.kind == 1 || f.kind == 4 || f.pid == 0) && (f.kind == 0 || f.kind == 3 || f.addr == 0) && decide (f.pid < 8)
  let place := match f.kind with
    | 0 | 1 | 4 => role == 0
    | 2 => role == 1
    | _ => role == 3
  let vis := if g.stream then 2 ^ 19 else 2 ^ 18
  let n := f.data.length
  let d := leNat f.data
  let size := match f.kind with
    | 0 => decide (f.addr + n ≤ vis)
    | 1 => n == 32 && bits 222 2 d != 3 && bits 174 16 d != 0 && bits 158 16 d != 0 &&
        bits 174 16 d % (PlaneState.ofDesc 0 0 d).spw == 0
    | 2 => n % 8 == 0
    | 3 => n % 128 == 0 && decide (f.addr + n / 128 ≤ 4096)
    | _ => true
  let next := bits 112 8 d
  (if zero && bayIn g.w g.h f.bay && f.rsvdOk && !(f.kind == 1 && next != 0xFF && !(bayIn g.w g.h next)) then [] else [2]) ++
    if place && size then [] else [10]

/-- Where the model's trailer of a context image stands (log 24). -/
def ImageHead.trailerAt (h : ImageHead) (g : FormeCfg) : Nat :=
  let up (n : Nat) : Nat := (n + 63) / 64 * 64
  64 + up (h.w * h.h * 1344) + g.coreSize + up (16 * h.nlink) + up (16 * h.nbnd) + h.stgb

/-- Read the configuration of an image: header, forme block, ladder, bay blocks, fills. In a context image the bay blocks follow the header,
and the rest stands in the trailer. The last number is where the fills end. -/
def State.readCfg (s : State) (part : Nat) (va : VA) : Read (ImageHead × FormeCfg × List Failure × Nat) :=
  (s.imageBytes part va 0 64).then fun hb =>
    let hn := leNat hb
    let h := ImageHead.ofNat hn
    Read.check (headerOk hn) 2 <|
    let g0 : FormeCfg := { w := h.w, h := h.h, stream := h.stream, fseed := BitVec.ofNat 16 h.fseed }
    let block := if h.kind = 1 then 64 else h.trailerAt g0
    (s.imageBytes part va block 256).then fun bb =>
      let blk := leNat bb
      let lad := ladderBytes blk
      let nset := bits 1972 3 blk
      let nword := bits 1975 9 blk
      let baysAt := if h.kind = 1 then 320 + lad else 64
      (s.imageBytes part va (block + 256) lad).then fun lb =>
      (s.imageBytes part va baysAt (h.w * h.h * 1344)).then fun bays =>
        let parsed := g0.bays.zipIdx.map fun e => parseBay e.1 (64 * e.2) ((bays.drop (1344 * e.2)).take 1344)
        let at_ := if h.kind = 1 then baysAt + (h.w * h.h * 1344 + 63) / 64 * 64 else block + 256 + lad
        let limit := match s.obj? part (Addr.ofVa va).obj with
          | some o => o.len / 16 + 1
          | none => 65536
        (s.readFills part va h.w h.h limit at_).then fun fs =>
          let nobj := bits 2011 6 blk
          let objs := (List.range 32).map fun i => bits (32 * i) 32 blk
          let g : FormeCfg := { g0 with
            logobj := bits 2024 24 blk, job := if bit 2023 blk then some (bits 2017 6 blk) else none
            objs := (objs.take nobj).map fun o => o % 2 ^ 24, ldbay := bits 2003 8 blk, ldaddr := bits 1984 19 blk, ldwords := nword
            ladder := (List.range nset).map fun k => (List.range nword).map fun i => BitVec.ofNat 32 (leNat ((lb.drop (4 * (k * nword + i))).take 4))
            recs := parsed.flatMap (·.1), roles := (parsed.map fun p => p.2.2.1).filter fun r => r.role != 0
            slots := (g0.bays.zip parsed).filterMap fun e => e.2.2.2.2.1.map fun l => (e.1, l), fills := fs.1 }
          let block := bits 1024 948 blk == 0 && (objs.all fun o => o / 2 ^ 24 == 0) && (nset == 0 || bayIn h.w h.h g.ldbay)
          let shape := decide (nobj ≤ 32) && decide (nset ≤ 4) && decide (nword ≤ 256) && g.ldaddr % 4 == 0
          let codes := (if block then [] else [2]) ++ (if shape then [] else [10]) ++ parsed.flatMap (fun p => p.2.2.2.2) ++ fs.2.2 ++
            g.fills.flatMap fun f => f.codes g
          .ok (h, g, parsed.flatMap (fun p => p.2.1) ++ codes.map outside, fs.2.1)

/-! ## Checks of a forme (R88, R166, R178, R185, R204, R241, R258 to R261) -/

/-- The index of an element in the image. -/
def FormeCfg.index (g : FormeCfg) (x y : Nat) : Nat := (y / 8 * g.w + x / 8) * 64 + y % 8 * 8 + x % 8

/-- The bays that a signed offset reaches; none outside the chase. -/
def FormeCfg.bayAt (g : FormeCfg) (x y : Nat) (dx dy : Int) : Option Nat :=
  let bx : Int := (x / 8 : Nat) + dx
  let byy : Int := (y / 8 : Nat) + dy
  if 0 ≤ bx ∧ bx < g.w ∧ 0 ≤ byy ∧ byy < g.h then some (byy.toNat * 16 + bx.toNat) else none

/-- The element that a signed offset reaches. -/
def FormeCfg.elemAt (g : FormeCfg) (x y : Nat) (dx dy : Int) : Option (Nat × Nat) :=
  let a : Int := (x : Int) + dx
  let b : Int := (y : Int) + dy
  if 0 ≤ a ∧ a < 8 * g.w ∧ 0 ≤ b ∧ b < 8 * g.h then some (a.toNat, b.toNat) else none

def FormeCfg.roleOf (g : FormeCfg) (bay : Nat) : TileRole := (g.roles.find? fun r => r.bay == bay).getD { bay := bay, role := 0 }

/-- The tile that a record names in LIT: offsets and the role it must have (R149, R204). -/
def Instr.tileTarget : Instr → Option (BitVec 6 × BitVec 6 × Nat)
  | .tld _ _ _ dx dy _ => some (dx, dy, 0)
  | .tst _ _ dx dy _ => some (dx, dy, 0)
  | .march _ dx dy _ => some (dx, dy, 0)
  | .gather _ _ raw _ => some (raw.extractLsb' 6 6, raw.extractLsb' 0 6, 0)
  | .scatter _ raw _ => some (raw.extractLsb' 6 6, raw.extractLsb' 0 6, 0)
  | .aadd _ _ _ raw _ | .amin _ _ _ raw _ | .amax _ _ _ raw _ | .aand _ _ _ raw _ | .aor _ _ _ raw _ | .axor _ _ _ raw _
  | .axchg _ _ _ raw _ | .acas _ _ _ raw _ | .afadd _ _ _ raw _ => some (raw.extractLsb' 6 6, raw.extractLsb' 0 6, 0)
  | .lockacq _ _ raw _ => some (raw.extractLsb' 6 6, raw.extractLsb' 0 6, 0)
  | .lockrel _ _ raw _ => some (raw.extractLsb' 6 6, raw.extractLsb' 0 6, 0)
  | .cadd _ dx dy _ => some (dx, dy, 3)
  | .cwmk dx dy _ | .cres dx dy _ | .cclr dx dy _ | .clog dx dy _ => some (dx, dy, 3)
  | _ => none

/-- Whether a record reads (0) or writes (1) the BUF tile that it names (R261). -/
def Instr.tileUse : Instr → Option Nat
  | .tld .. | .gather .. => some 0
  | .tst .. | .scatter .. | .aadd .. | .amin .. | .amax .. | .aand .. | .aor .. | .axor .. | .axchg .. | .acas .. | .afadd .. | .lockacq ..
  | .lockrel .. => some 1
  | _ => none

/-- The PID that a group 0x9 record names. -/
def Instr.pid : Instr → Option Nat
  | .pshift _ _ pid _ _ => some pid.toNat
  | .pmark pid _ | .pflip pid _ | .pcnt pid _ => some pid.toNat
  | .phalo _ _ pid _ => some pid.toNat
  | _ => none

/-- Records that only a stream-mode or only a round-mode forme may hold (R166, R178, R185, R253). -/
def Instr.modeOk (stream : Bool) : Instr → Bool
  | .roundend .. | .pmark .. | .phalo .. | .pflip .. => !stream
  | .axchg .. | .acas .. | .lockacq .. | .lockrel .. => stream
  | .aadd _ _ _ raw _ | .amin _ _ _ raw _ | .amax _ _ _ raw _ | .aand _ _ _ raw _ | .aor _ _ _ raw _ | .axor _ _ _ raw _
  | .afadd _ _ _ raw _ => stream || !(rawImm true raw)
  | _ => true

/-- A target of a forme's destinations: a node of its graph, an AG, an edge unit, or nothing legal. -/
inductive Target where
  | elem (x y : Nat)
  | tile (bay : Nat)
  | ag (bay port : Nat)
  | edge (bay port : Nat)
  | bad
  deriving DecidableEq, Repr

/-- What a destination field of an element names (R75). -/
def FormeCfg.target (g : FormeCfg) (x y : Nat) (d : BitVec 16) : Target :=
  match destClass d with
  | 0 => match g.elemAt x y (destDx d) (destDy d) with
    | some p => .elem p.1 p.2
    | none => .bad
  | 1 => match g.bayAt x y (destDx d) (destDy d) with
    | some b => .tile b
    | none => .bad
  | 2 => match g.bayAt x y (destDx d) (destDy d) with
    | some b => .ag b (destPort d)
    | none => .bad
  | _ => match g.bayAt x y (destDx d) (destDy d) with
    | some b => .edge b (destPort d)
    | none => .bad

/-- The destination fields of a word. -/
def wordFields (w : BitVec 96) : List (BitVec 16) :=
  let r := (splitWord w.toNat).shell
  [r.dsta, r.dstb].filter fun d => d != noDest

/-- Whether a record of an image is an SMUL or SFMA. -/
def FormeCfg.scaled (g : FormeCfg) (x y : Nat) : Bool :=
  match g.word? x y with
  | some w => opOf w == 0xC6 || opOf w == 0xC7
  | none => false

/-- The codes of one record of a forme. Of a SCIN whose destination holds no SMUL or SFMA the code is 7 (R73, R201; DESIGN CHOICE, log 111). -/
def FormeCfg.codes (g : FormeCfg) (planes : List PlaneState) (x y : Nat) (w : BitVec 96) : List Nat :=
  let ts := (wordFields w).map (g.target x y)
  let dest := ts.any fun t => match t with
    | .elem a b => (g.word? a b).isNone
    | .tile bay => (g.roleOf bay).role != 1
    | .bad => true
    | _ => false
  let tile := match decodeOp (splitWord w.toNat) with
    | .error _ => false
    | .ok i => match Instr.tileTarget i with
      | none => false
      | some (dx, dy, role) => match g.bayAt x y (signed6 dx.toNat) (signed6 dy.toNat) with
        | none => true
        | some bay => (g.roleOf bay).role != role
  let own : List Nat := match decode .pinned w with
    | .error r => [r.code]
    | .ok i =>
      let net := (Instr.net .pinned i == .scale) && ts.any fun t => match t with
        | .elem a b => !(g.scaled a b)
        | _ => false
      let pid := match Instr.pid i with
        | none => false
        | some p => ts.any fun t => match t with
          | .ag bay 1 => !(planes.any fun q => q.bay == bay && q.pid == p)
          | _ => false
      (if net then [7] else []) ++ if pid || !(Instr.modeOk g.stream i) then [10] else []
  (if dest || tile then [6] else []) ++ own

/-- The key of a node of a forme's graph: an element, or a FIFO tile. -/
def elemKey (x y : Nat) : Nat := x + 128 * y
def fifoKey (bay : Nat) : Nat := 2 ^ 14 + bay

/-- The fields of a record that its element sends tokens to: the consumer of a stream, a pass or a close is fed by the AG (R258). -/
def arcFields (w : BitVec 96) : List (BitVec 16) :=
  let r := (splitWord w.toNat).shell
  if [0x88, 0x89, 0x90].contains (opOf w) then [r.dsta].filter fun d => d != noDest else wordFields w

/-- The passes of a slot of an AG: the elements of their records. -/
def FormeCfg.passesOf (g : FormeCfg) (bay slot : Nat) : List (Nat × Nat) :=
  (g.recs.filter fun e => match decode .pinned e.2.2 with
    | .ok (.pshift _ _ _ n _) => n.toNat == slot && (wordFields e.2.2).any fun d => match g.target e.1 e.2.1 d with
      | .ag b 1 => b == bay
      | _ => false
    | _ => false).map fun e => (e.1, e.2.1)

/-- The paths that an ORDTOK gives through an AG: it orders every later pass of its slot (R188). -/
def FormeCfg.ordered (g : FormeCfg) : List (Nat × Nat) :=
  g.recs.flatMap fun e => match decode .pinned e.2.2 with
    | .ok (.ordtok _ slot r) => match g.target e.1 e.2.1 r.dsta with
      | .ag bay 0 => (g.passesOf bay slot.toNat).map fun p => (elemKey e.1 e.2.1, elemKey p.1 p.2)
      | _ => []
    | _ => []

/-- The paths by which data orders two elements (R261): every arc, from the record of a stream, a pass or a close to what its AG feeds, and
from an ORDTOK through an AG. -/
def FormeCfg.orders (g : FormeCfg) : List (Nat × Nat) :=
  g.ordered ++ g.recs.flatMap fun e => (wordFields e.2.2).filterMap fun d => match g.target e.1 e.2.1 d with
    | .elem a b => some (elemKey e.1 e.2.1, elemKey a b)
    | .tile bay => some (elemKey e.1 e.2.1, fifoKey bay)
    | _ => none

/-- The arcs of a forme's graph: between elements, into FIFO tiles, and out of them (R258). -/
def FormeCfg.arcs (g : FormeCfg) : List (Nat × Nat) :=
  (g.recs.flatMap fun e => (arcFields e.2.2).filterMap fun d => match g.target e.1 e.2.1 d with
    | .elem a b => some (elemKey e.1 e.2.1, elemKey a b)
    | .tile bay => some (elemKey e.1 e.2.1, fifoKey bay)
    | _ => none) ++
  (g.roles.filter fun r => r.role == 1).map fun r => (fifoKey r.bay, elemKey r.outx r.outy)

/-- The nodes reached along arcs from a list of nodes. -/
def reachAll (arcs : List (Nat × Nat)) : Nat → List Nat → List Nat → List Nat
  | 0, seen, _ => seen
  | k + 1, seen, front =>
    let next := ((arcs.filter fun a => front.contains a.1).map (·.2)).eraseDups.filter fun n => !(seen.contains n)
    if next.isEmpty then seen else reachAll arcs k (seen ++ next) next

/-- The nodes that a path of one arc or more leads to. -/
def reachFrom (arcs : List (Nat × Nat)) (n : Nat) : List Nat := reachAll arcs (arcs.length + 1) [] [n]

/-- K of a WINDOW record. -/
def windowK (w : BitVec 96) : Option Nat :=
  match decode .pinned w with
  | .ok (.window k _) => some k.toNat
  | _ => none

/-- R258: the lowest element on a cycle that meets no FIFO tile. -/
def FormeCfg.cycleFailures (g : FormeCfg) (arcs : List (Nat × Nat)) : List Failure :=
  let plain := arcs.filter fun a => decide (a.1 < 2 ^ 14) && decide (a.2 < 2 ^ 14)
  (g.recs.filter fun e => (reachFrom plain (elemKey e.1 e.2.1)).contains (elemKey e.1 e.2.1)).map fun e =>
    ⟨g.index e.1 e.2.1, 10, e.2.2.toNat⟩

/-- R259: FIFO tiles on cycles hold K × per + P tokens. The failure is reported at a WINDOW, where there is one. -/
def FormeCfg.fifoFailures (g : FormeCfg) (arcs : List (Nat × Nat)) : List Failure :=
  (g.roles.filter fun r => r.role == 1).flatMap fun r =>
    let f := fifoKey r.bay
    let from_ := reachFrom arcs f
    if !(from_.contains f) then []
    else
      let on := g.recs.filter fun e => from_.contains (elemKey e.1 e.2.1) && (reachFrom arcs (elemKey e.1 e.2.1)).contains f
      let wins := g.recs.filter fun e => (windowK e.2.2).isSome && (reachFrom arcs (elemKey e.1 e.2.1)).contains f
      let k := wins.foldl (fun n e => n + (windowK e.2.2).getD 0) 0
      let per := max r.per (arcs.filter fun a => a.2 == f && on.any fun e => elemKey e.1 e.2.1 == a.1).length
      let p := (g.fills.filter fun l => l.kind == 2 && l.bay == r.bay).foldl (fun n l => n + l.data.length / 8) 0
      if !wins.isEmpty && decide (k * per + p ≤ r.cap) then []
      else (if wins.isEmpty then on else wins).map fun e => ⟨g.index e.1 e.2.1, 10, e.2.2.toNat⟩

/-- The tiles whose rows a pass of a plane reads (R166, R167): those of its own rows moved by DY, a row beyond an edge by the rule of that
edge, and by both rules that lead back into the plane where a PBOUND may change it. -/
def FormeCfg.passTiles (g : FormeCfg) (bay pid slot : Nat) (dy : Int) : List Nat :=
  let planes := (g.fills.filter fun f => f.kind == 1).map fun f => PlaneState.ofDesc f.bay f.pid (leNat f.data)
  let c : Core := { planes := planes }
  match c.plane? bay pid with
  | none => [bay]
  | some p =>
    let edges := (((lookup bay g.slots).bind fun l => l[slot]?).getD {})
    let moved := g.recs.any fun e => opOf e.2.2 == 0x91
    let rows := (List.range p.rows).flatMap fun r =>
      let v : Int := (p.row0 + r : Nat) + dy
      if 0 ≤ v ∧ v < p.h then [v.toNat]
      else
        let k := edges.kind (if v < 0 then 0 else 2)
        (if moved || k == 1 then [(v % p.h).toNat] else []) ++
          if moved || k == 2 then [(if v < 0 then -1 - v else 2 * p.h - 1 - v).toNat] else []
    ((c.chain bay pid).filter fun q => rows.any fun v => decide (q.row0 ≤ v) && decide (v < q.row0 + q.rows)).map PlaneState.bay

/-- Reads (0) and writes (1) of BUF tiles: element, index, tile. -/
def FormeCfg.tileUses (g : FormeCfg) : List (Nat × Nat × Nat × Nat) :=
  g.recs.flatMap fun e => match decode .pinned e.2.2 with
    | .error _ => []
    | .ok i =>
      let x := e.1
      let y := e.2.1
      let mk (u b : Nat) := (u, elemKey x y, g.index x y, b)
      match Instr.tileUse i, Instr.tileTarget i with
      | some u, some (dx, dy, _) => ((g.bayAt x y (signed6 dx.toNat) (signed6 dy.toNat)).map (mk u)).toList
      | _, _ => match i with
        | .pshift dy _ pid slot _ => (wordFields e.2.2).flatMap fun d => match g.target x y d with
          | .ag bay 1 => (g.passTiles bay pid.toNat slot.toNat (signed6 dy.toNat)).map (mk 0)
          | _ => []
        | _ => []

/-- R261: a read and a write of one BUF tile of a stream-mode forme with no arc path between them. -/
def FormeCfg.overlapFailures (g : FormeCfg) (arcs : List (Nat × Nat)) : List Failure :=
  if !g.stream then []
  else
    let us := g.tileUses
    us.flatMap fun a => (us.filter fun b => a.1 == 0 && b.1 == 1 && a.2.2.2 == b.2.2.2 && a.2.1 != b.2.1 &&
        !((reachFrom arcs a.2.1).contains b.2.1) && !((reachFrom arcs b.2.1).contains a.2.1)).map fun b =>
      ⟨min a.2.2.1 b.2.2.1, 10, ((g.recs.find? fun e => g.index e.1 e.2.1 == min a.2.2.1 b.2.2.1).map fun e => e.2.2.toNat).getD 0⟩

/-- R166: every chain of descriptors from ROW0 = 0 holds rows 0 to H - 1 exactly once, and every descriptor lies on one. -/
def planesOk (c : Core) : Bool :=
  let heads := c.planes.filter fun p => p.row0 == 0
  (heads.all fun p =>
    let l := c.follow p.pid 256 p.bay
    (l.all fun q => q.w == p.w && q.h == p.h && q.site == p.site && q.bw == p.bw && q.bh == p.bh) &&
      (l.foldl (fun (a : Bool × Nat) q => (a.1 && q.row0 == a.2, a.2 + q.rows)) (true, 0)) == (true, p.h)) &&
    c.planes.all fun q => heads.any fun p => p.pid == q.pid && (c.follow p.pid 256 p.bay).any fun r => r.bay == q.bay

/-- The failures of a forme that do not depend on its origin. -/
def FormeCfg.failures (g : FormeCfg) : List Failure :=
  let planes := (g.fills.filter fun f => f.kind == 1).map fun f => PlaneState.ofDesc f.bay f.pid (leNat f.data)
  let arcs := g.arcs
  let outs := (g.roles.filter fun r => r.role == 1 && (g.word? r.outx r.outy).isNone).map fun r =>
    outside (if bayIn g.w g.h (r.outy / 8 * 16 + r.outx / 8) then 6 else 2)
  let caps := (g.roles.filter fun r => r.role == 1 && decide (r.cap < (g.fills.filter fun l => l.kind == 2 && l.bay == r.bay).foldl
    (fun n l => n + l.data.length / 8) 0)).map fun _ => outside 10
  let acts := (g.fills.filter fun f => f.kind == 4 && !(planes.any fun p => p.bay == f.bay && p.pid == f.pid)).map fun _ => outside 10
  let ends := if g.stream || g.recs.any fun e => opOf e.2.2 == 0xB6 then [] else [outside 10]
  (g.recs.flatMap fun e => (g.codes planes e.1 e.2.1 e.2.2).map fun k => (⟨g.index e.1 e.2.1, k, e.2.2.toNat⟩ : Failure)) ++
    outs ++ caps ++ acts ++ ends ++ (if planesOk { planes := planes } then [] else [outside 10]) ++
    g.cycleFailures arcs ++ g.fifoFailures arcs ++ g.overlapFailures (arcs ++ g.orders)

/-! ## Reading an image whole -/

/-- The saved state of a context image (R323, R325), `at_` where the fills of its trailer end. -/
def State.readSaved (s : State) (part : Nat) (va : VA) (h : ImageHead) (g : FormeCfg) (at_ : Nat) : Read FormeCfg :=
  let core := 64 + (h.w * h.h * 1344 + 63) / 64 * 64
  let links := core + g.coreSize
  let bnd := links + (16 * h.nlink + 63) / 64 * 64
  let round := bnd + (16 * h.nbnd + 63) / 64 * 64
  let more := (at_ + 63) / 64 * 64
  (s.imageBytes part va core g.coreSize).then fun cb =>
  (s.imageBytes part va links (16 * h.nlink)).then fun lb =>
  (s.imageBytes part va bnd (16 * h.nbnd)).then fun bb =>
  (s.imageBytes part va round h.stgb).then fun rb =>
  (s.imageBytes part va more 8).then fun nb =>
  (s.imageBytes part va (more + 8) (leNat nb)).then fun xb =>
    let f : Forme := { handle := 0, part := part, ctx := 0, die := 0, bx := 0, oy := 0, cfg := g }
    let c := ((groupsOf 16 h.nlink lb).map LinkRec.ofNat).foldl (Core.placeLink none) (f.coreOf cb)
    let gs := decGroups (extraGroups + 1) (groupsOf 8 (xb.length / 8 + 1) xb)
    .ok { g with saved := some (f.runOf c cb h.round rb gs), savedHeld := (groupsOf 16 h.nbnd bb).map BoundTok.ofNat }

/-- The stock formes of the ROM (Table 10-9) by the offset of their image: SPLAT, a round-mode chase of 2 × 2 bays, and DRESOLVE, a
stream-mode chase of one bay; both with a ROUTE at element (0,0). The records are free (log 22). -/
def stockForme (off : Nat) : Option FormeCfg :=
  let g (k w : Nat) (stream : Bool) : FormeCfg :=
    let c := Config.stockForme k
    { c with
      w := w, h := w, stream := stream, saved := none, savedHeld := []
      recs := (0, 0, 0x78#8 ++ Config.stockRoute k) :: c.recs.filter fun e => !(e.1 == 0 && e.2.1 == 0) && decide (e.1 < 8 * w) && decide (e.2.1 < 8 * w) }
  if off = 0x10000 then some (g 1 2 false) else if off = 0x20000 then some (g 2 1 true) else none

/-- Read and check an image (R221, R241): a configuration, or why not. Object 0 is the configuration ROM, whose stock formes load as they
stand (R263). -/
def State.readImage (s : State) (part : Nat) (va : VA) : Read FormeCfg :=
  if (Addr.ofVa va).obj = 0 then
    match stockForme (va.toNat % 2 ^ 40) with
    | some g => .ok g
    | none => .bad (outside 2)
  else
    (s.readCfg part va).then fun (h, g, fs, at_) =>
      match firstFailure (fs ++ g.failures) with
      | some f => .bad f
      | none => if h.kind = 1 then .ok g else s.readSaved part va h g at_

/-! ## The range entries of a forme's ports (R309) -/

/-- The range entries that the loader loads into a port for an object list, until the port is full (R309). -/
def State.loadPort (s : State) (part : Nat) (objs : List Nat) (xl : Nat) (l : List RangeEntry) : List RangeEntry :=
  (objs.flatMap fun id => match s.obj? part id with
    | some o => (List.range o.ecnt).map fun e => BitVec.ofNat 64 (id * 2 ^ 40 + (s.ext part o e).start * 4096)
    | none => []).foldl (fun l va => match s.walkEntry xl part va with
      | some e =>
        if (l.filter fun r => r.xl == xl).length < translatorSize xl ∨
            l.any fun r => r.xl == xl && r.part == part && r.obj == e.obj && r.first == e.first then installEntry l e else l
      | none => l) l

/-- Load the range entries of the ports that serve a forme's AGs, at its imposition and again at its restoration (R309). -/
def State.loadRanges (s : State) (f : Forme) : State :=
  match s.die? f.die with
  | none => s
  | some d =>
    let ports := (f.cfg.bays.filterMap fun b => s.portOf f.part (f.bx + b % 16, f.oy + b / 16)).eraseDups
    s.setDie { d with ranges := ports.foldl (fun l xl => s.loadPort f.part f.cfg.objs xl l) d.ranges }

/-! ## Origins (R240, R241, R376) -/

/-- A bay that is fenced, or for `ready` whose row is not ready yet. -/
def State.fenced (s : State) (die : Nat) (ready : Bool) (bx byy : Nat) : Bool :=
  (((s.die? die).map Die.fences).getD []).contains (byy * 16 + bx) || (ready && !(s.readyBays.getLsbD (16 * die + byy)))

/-- The bays that a forme uses: its elements, roles, fills, slots, and what its records name. -/
def FormeCfg.usedBays (g : FormeCfg) : List Nat :=
  (g.recs.map fun e => e.2.1 / 8 * 16 + e.1 / 8) ++ (g.roles.map TileRole.bay) ++ (g.fills.map Fill.bay) ++ (g.slots.map (·.1)) ++
    (g.recs.flatMap fun e => (wordFields e.2.2).filterMap fun d => match g.target e.1 e.2.1 d with
      | .tile b => some b
      | .ag b _ => some b
      | .edge b _ => some b
      | _ => none) ++
    g.recs.flatMap fun e => match decode .pinned e.2.2 with
      | .error _ => []
      | .ok i => match Instr.tileTarget i with
        | some (dx, dy, _) => (g.bayAt e.1 e.2.1 (signed6 dx.toNat) (signed6 dy.toNat)).toList
        | none => []

/-- The bay of a target. -/
def Target.bay : Target → Option Nat
  | .elem x y => some (y / 8 * 16 + x / 8)
  | .tile c | .ag c _ | .edge c _ => some c
  | .bad => none

/-- The pairs of bays that arcs join; an arc may stay in one bay. The consumer of a stream, a pass or a close is fed by the AG that DSTA names (R164, R166). -/
def FormeCfg.bayArcs (g : FormeCfg) : List (Nat × Nat) :=
  let sent : List (Nat × Nat) := g.recs.flatMap fun e =>
    let r := (splitWord e.2.2.toNat).shell
    let own := e.2.1 / 8 * 16 + e.1 / 8
    let to_ (d : BitVec 16) : Option Nat := if d = noDest then none else (g.target e.1 e.2.1 d).bay
    let source := if [0x88, 0x89, 0x90].contains (opOf e.2.2) then (to_ r.dsta).getD own else own
    ((to_ r.dsta).map fun b => (own, b)).toList ++ ((to_ r.dstb).map fun b => (source, b)).toList
  let out : List (Nat × Nat) := (g.roles.filter fun r => r.role == 1).map fun r => (r.bay, r.outy / 8 * 16 + r.outx / 8)
  sent ++ out

/-- The direct path between two bays, x first, then y. -/
def directPath (a b : Nat) : List Nat :=
  let along (n m : Nat) : List Nat := if n ≤ m then (List.range (m - n + 1)).map (n + ·) else (List.range (n - m + 1)).map (n - ·)
  ((along (a % 16) (b % 16)).map fun x => a / 16 * 16 + x) ++ ((along (a / 16) (b / 16)).drop 1).map fun y => y * 16 + b % 16

/-- Steps of a path. -/
def hopsOf (p : List Nat) : List (Nat × Nat) := p.zip (p.drop 1)

/-- The bays of a chase that are next to a bay and not fenced, east and west first. -/
def FormeCfg.near (g : FormeCfg) (closed : Nat → Bool) (b : Nat) : List Nat :=
  g.bays.filter fun c => !(closed c) && ((b / 16 == c / 16 && (b % 16 + 1 == c % 16 || c % 16 + 1 == b % 16)) ||
    (b % 16 == c % 16 && (b / 16 + 1 == c / 16 || c / 16 + 1 == b / 16)))

/-- A shortest path to bay `to_` round the fenced bays, searched in `k` steps from paths that are written last bay first. -/
def FormeCfg.detour (g : FormeCfg) (closed : Nat → Bool) (to_ : Nat) : Nat → List Nat → List (List Nat) → Option (List Nat)
  | 0, _, _ => none
  | k + 1, seen, l => match l.find? fun p => p.headD 0 == to_ with
    | some p => some p.reverse
    | none =>
      let next := l.foldl (fun (acc : List Nat × List (List Nat)) p =>
        let new := (g.near closed (p.headD 0)).filter fun b => !(acc.1.contains b)
        (acc.1 ++ new, acc.2 ++ new.map fun b => b :: p)) (seen, [])
      if next.2.isEmpty then none else FormeCfg.detour g closed to_ k next.1 next.2

/-- The path of an arc: direct, or round the fenced bays within the chase, if there is a way (step 4 of R241; which way round is log 9). -/
def FormeCfg.pathOf (g : FormeCfg) (closed : Nat → Bool) (a : Nat × Nat) : Option (List Nat) :=
  let p := directPath a.1 a.2
  if p.all fun b => !(closed b) then some p else g.detour closed a.2 257 [a.1] [[a.1]]

/-- The paths of a forme's arcs (Table 4-12). -/
def FormeCfg.paths (g : FormeCfg) (closed : Nat → Bool) : List (List Nat) := g.bayArcs.filterMap (g.pathOf closed)

/-- No bay edge carries more than 32 of some paths in one direction. -/
def edgesHold (ps : List (List Nat)) : Bool :=
  let hops := ps.flatMap hopsOf
  hops.all fun h => decide ((hops.filter fun k => k == h).length ≤ 32)

/-- Step 4 of R241: every arc is routed, at most 32 over a bay edge each way. Where more than 32 arcs go over edges and some must detour,
whether the router fits them all is not given (log 9). -/
def FormeCfg.routes (g : FormeCfg) (die ox oy : Nat) (closed : Nat → Bool) : Bool :=
  let moving := g.bayArcs.filter fun a => a.1 != a.2
  let (clear, round) := moving.partition fun a => (directPath a.1 a.2).all fun b => !(closed b)
  edgesHold (clear.map fun a => directPath a.1 a.2) && (round.all fun a => (g.pathOf closed a).isSome) &&
    (round.isEmpty || decide (moving.length ≤ 32) || Config.detourFits die ox oy round.length)

/-- The fence and edge checks and the routing at an origin. -/
def State.fitsAt (s : State) (die : Nat) (g : FormeCfg) (ready : Bool) (ox oy : Nat) : Bool :=
  let closed (b : Nat) : Bool := s.fenced die ready (ox + b % 16) (oy + b / 16)
  (g.usedBays.all fun b => !(closed b)) &&
    (g.recs.all fun e => (wordFields e.2.2).all fun d => match g.target e.1 e.2.1 d with
      | .edge b k => (edgeUnit k (ox + b % 16) (oy + b / 16)).isSome
      | _ => true) &&
    g.routes die ox oy closed

/-- The chase lies in the die and in the partition (R240). -/
def State.inPart (s : State) (part : Nat) (g : FormeCfg) (ox oy : Nat) : Bool :=
  decide (ox + g.w ≤ 16) && decide (oy + g.h ≤ 16) && g.bays.all fun b => s.bayPart (part / 4) (ox + b % 16) (oy + b / 16) == part

/-- A handle in no use, which the model picks (log 23). -/
def freshHandle (used : List Nat) : Nat → Nat → Nat
  | 0, h => h
  | n + 1, h => if used.contains h then freshHandle used n ((h + 1) % 65536) else h

def State.newHandle (s : State) : Nat × State :=
  let (k, s) := s.pick 65536
  (freshHandle (s.formes.map Forme.handle) s.formes.length ((k + 1) % 65536), s)

/-- A configuration with its arcs routed at an origin. -/
def State.routed (s : State) (die : Nat) (g : FormeCfg) (ox oy : Nat) : FormeCfg :=
  { g with routing := g.paths fun b => s.fenced die true (ox + b % 16) (oy + b / 16) }

/-- Write a forme into the standing planes at an origin, its arcs routed and its range entries loaded (R241, R309); it replaces the
standing forme there (R90). -/
def State.impose (s : State) (part ctx : Nat) (g : FormeCfg) (ox oy : Nat) : Nat × State :=
  let (h, s) := s.newHandle
  let die := part / 4
  let f : Forme := { handle := h, part := part, ctx := ctx, die := die, bx := ox, oy := oy, cfg := s.routed die g ox oy }
  let old := s.formes.filter fun e => e.status == .standing && e.sameChase f
  let s := old.foldl (fun s e => (s.doorsAbsent e.part e.handle).dropForme e.handle) s
  (h, (s.setForme f).loadRanges f)

/-- An FSWAP of a chase has begun and is not over (R90, R245). -/
def Forme.swapping (f : Forme) : Bool := f.swap != .idle || f.status == .entering

/-- Origins whose chase lies in the partition and meets no forme. -/
def State.freeOrigins (s : State) (part : Nat) (g : FormeCfg) : List Nat :=
  (List.range 256).filter fun o => s.inPart part g (o % 16) (o / 16) && (s.meets (part / 4) g (o % 16) (o / 16)).isEmpty

/-- The first origin that fits a forme now, or for `ready` false, once bay rows are ready that are not yet. -/
def State.originFor (s : State) (part : Nat) (g : FormeCfg) (ready : Bool) : Option Nat :=
  (s.freeOrigins part g).find? fun o => s.fitsAt (part / 4) g ready (o % 16) (o / 16)

/-- An origin would fit a forme of effective priority `n` once the live formes of lower priority there are pre-empted (R301). -/
def State.originAfter (s : State) (part : Nat) (g : FormeCfg) (n : Nat) : Bool :=
  (List.range 256).any fun o => s.inPart part g (o % 16) (o / 16) && s.fitsAt (part / 4) g false (o % 16) (o / 16) &&
    (s.meets (part / 4) g (o % 16) (o / 16)).all fun f => f.isLive && decide (s.prio f.ctx < n)

/-- Find an origin for a forme (R241): none while the load has to wait, for a bay row to be ready or for the pre-emption of formes of
lower effective priority (R301), else a handle or "no chase fits". -/
def State.placeForme (s : State) (part ctx : Nat) (g : FormeCfg) (placement : Word) : Option (Option (Nat × State)) :=
  let die := part / 4
  if placement.getLsbD 31 then
    match s.originFor part g true with
    | some o => some (some (s.impose part ctx g (o % 16) (o / 16)))
    | none => if (s.originFor part g false).isSome || s.originAfter part g (s.prio ctx) then none else some none
  else
    let ox := placement.toNat % 16
    let oy := placement.toNat / 16 % 16
    let here := s.meets die g ox oy
    if !(s.inPart part g ox oy) || here.any fun f => !(f.bx == ox && f.oy == oy && f.cfg.w == g.w && f.cfg.h == g.h) then some none
    else if !(s.fitsAt die g false ox oy) then some none
    else if !(s.fitsAt die g true ox oy) || here.any Forme.swapping then none
    else some (some (s.impose part ctx g ox oy))

/-- A swapped-out forme of a partition. -/
def Forme.isSwapped (f : Forme) (p : Nat) : Bool := f.part == p && match f.status with
  | .swapped _ => true
  | _ => false

/-- A swapped-out forme of greater effective priority than `n` fits a chase now: it goes ahead of a load of priority `n` (R301, R327, R328). -/
def State.outranked (s : State) (part n : Nat) : Bool :=
  s.formes.any fun f => f.isSwapped part && decide (n < s.prio f.ctx) && (s.originFor part f.cfg true).isSome

/-- Place a forme in its turn. -/
def State.takeChase (s : State) (part ctx : Nat) (g : FormeCfg) (placement : Word) : Option (Option (Nat × State)) :=
  match s.placeForme part ctx g placement with
  | some (some r) => if s.outranked part (s.prio ctx) then none else some (some r)
  | r => r

/-- Send the answer of a record of a committed galley, with that galley's HND. -/
def State.answer (s : State) (r : Reply) (t : Tok) : State :=
  let put (s : State) (d : BitVec 16) : State := if d = noDest then s else s.sendTile r.tile
    { tag := r.tag, port := BitVec.ofNat 2 (destPort d), node := BitVec.ofNat 14 (d.toNat % 2 ^ 14), hnd := r.hnd, tok := t }
  put (put s r.dsta) r.dstb

def State.answerOpt (s : State) (r : Option Reply) (t : Tok) : State :=
  match r with
  | some r => s.answer r t
  | none => s

/-- FLOAD at the commit, on the image that it read (R221): the state with its answer, or none where the answer comes later. One that is
rejected leaves an earlier standing forme of its chase as it is: what it would have written stays empty (log 86). -/
def State.fload (s : State) (part ctx : Nat) (placement : Word) (r : Read FormeCfg) (reply : Reply) : Option (State × Option Word) :=
  if bits 8 23 placement.toNat ≠ 0 then some (s, some (failure 4))
  else match r with
    | .stall => none
    | .fault _ _ => some (s, none)
    | .noPerm => some (s, some (failure 3))
    | .bad f => (s.postIllegal false part ctx 0 f reply.hnd).map fun s => (s, some (failure 2))
    | .ok g => match s.takeChase part ctx g placement with
      | none => some ({ s with loads := s.loads ++ [{ part := part, ctx := ctx, cfg := g, placement := placement, reply := some reply }] }, none)
      | some none => some (s, some (failure 1))
      | some (some (h, s)) => some (s, some (BitVec.ofNat 32 h))

/-- Try a load that waits: none while it has to wait longer. -/
def State.retryLoad (s : State) (l : LoadWait) : Option State :=
  match s.takeChase l.part l.ctx l.cfg l.placement with
  | none => none
  | some none => some (s.answerOpt l.reply (.data (failure 1)))
  | some (some (h, s)) => some (s.answerOpt l.reply (.data (BitVec.ofNat 32 h)))

/-- Try the loads that wait, in their order; then the YIELDs that gave way to them are weighed again. -/
def State.retryLoads (s : State) : State :=
  let s := s.loads.foldl (fun s l => (s.retryLoad l).getD { s with loads := s.loads ++ [l] }) { s with loads := [] }
  (s.parts.map Part.p).foldl State.reweigh s

/-! ## FSWAP (R245) -/

/-- Another FSWAP or a MARKER runs on the chase of a forme; a MARKER whose saves are complete runs no more. -/
def State.chaseBusy (s : State) (f : Forme) : Bool :=
  s.formes.any fun e => e.sameChase f && e.placed && (e.swap != .idle || (e.mark.isSome && e.status != .saved) || e.status == .entering)

/-- FSWAP: the swap starts, and its answer comes later; 0 at once where it cannot start. -/
def State.fswap (s : State) (part h : Nat) (reply : Reply) : State × Option Word :=
  match s.forme? h with
  | none => (s, some 0)
  | some f =>
    if f.part != part || f.status != .standing || s.chaseBusy f then (s, some 0)
    else (s.setForme { f with swap := .waiting, reply := some reply, since := s.clock }, none)

end Sys2Proof.Machine
end

