-- ==== Sys2Proof/Machine/Objects.lean ====
section
/-! DEFINITION. Changing extents under running work (R313, R314, R316), the walker's entries (R309, R310), and DIE_SPLIT (R312, R317). -/

namespace Sys2Proof.Machine

/-! ## What a change purges (R313) -/

/-- Bytes of an object meet a list of page ranges. -/
def meetsPages (rs : List (Nat × Nat)) (off size : Nat) : Bool :=
  rs.any fun r => decide (off < (r.1 + r.2) * 4096) && decide (r.1 * 4096 < off + size)

/-- The pages of the extents that a change names: one, or with 0xFFFF every one. -/
def State.changePages (s : State) (p : Nat) (o : Obj) (idx : Nat) : List (Nat × Nat) :=
  (if idx = 0xFFFF then List.range o.ecnt else [idx]).map fun e => ((s.ext p o e).start, (s.ext p o e).npg)

/-- A window holds lines that meet pages of an object. -/
def Core.winMeets (c : Core) (id : Nat) (rs : List (Nat × Nat)) (w : WinState) : Bool :=
  let base := (c.slot w.bay w.w).base.toNat
  base / 2 ^ 40 == id && w.valid && meetsPages rs (base % 2 ^ 40 + w.tail) (w.head - w.tail)

/-- Write back and drop a window whose lines meet pages: it is empty at the line of its stream's position. Where the write back stalls, the
window keeps its lines. -/
def State.dropWindow (s : State) (h id : Nat) (rs : List (Nat × Nat)) (w : WinState) : State :=
  match s.forme? h with
  | none => s
  | some f =>
    let sl := f.run.core.slot w.bay w.w
    if f.run.core.winMeets id rs w then
      match s.flushSlot h w.bay sl with
      | none => s
      | some s => match s.forme? h with
        | none => s
        | some f => s.putCore f (f.run.core.setWin { w with head := sl.pos / 128 * 128, tail := sl.pos / 128 * 128, bytes := [], dirty := [] })
    else s

/-- The windows of a round-start copy without the lines that meet pages: a round that runs again fetches them afresh. -/
def Core.dropWins (c : Core) (id : Nat) (rs : List (Nat × Nat)) : Core :=
  { c with wins := c.wins.map fun w =>
      let sl := c.slot w.bay w.w
      if c.winMeets id rs w then
        { w with head := sl.pos / 128 * 128, tail := sl.pos / 128 * 128, bytes := [], dirty := [] }
      else w }

/-- An access met pages of an object. -/
def Touch.meets (a : Touch) (id : Nat) (rs : List (Nat × Nat)) : Bool := a.obj == id && meetsPages rs a.off a.size

/-- What a record of the access holds (Table 22-2). -/
def Touch.pay (a : Touch) : Pay := .access (a.obj * 2 ^ 40 + a.off) a.acc a.kind

/-- The accesses of a round: those it has made, and those of the stores that it has staged. -/
def Run.touches (r : Run) : List Touch :=
  r.touched ++ r.staging.filterMap fun w => match w.work with
    | .store va d => some ⟨va.toNat / 2 ^ 40, va.toNat % 2 ^ 40, d.length, d.length, 1⟩
    | _ => none

/-- A round has accessed pages of an object. -/
def Run.accessed (r : Run) (id : Nat) (rs : List (Nat × Nat)) : Bool :=
  r.touches.any fun a => a.meets id rs

/-- Void a round that goes on at once from its start, its logged tokens first (R250, R313). -/
def Forme.rerun (f : Forme) : Forme :=
  { f with
    held := f.run.inlog ++ f.held
    mark := f.mark.map fun m => { m with linkToks := [] }
    run := { f.run with voids := f.run.voids + 1, core := f.run.start, staging := [], touched := [], inlog := [], yielding := false
                        replaying := f.run.inlog.length + f.run.replaying, tileStaged := 0
                        roundOpen := f.run.round == 0 } }

/-- Drop an instance and reopen it, with those that fall with it, from their held tokens. -/
def State.redo (s : State) (t : Nat) (g : Galley) : State :=
  let fall := (s.tile t).fallen g
  let s := s.dropGalley t g
  let d := s.tile t
  let s := s.setTile { d with redone := d.redone ++ fall.map fun y => (y.hdr, y.tag) }
  s.reopen t ((s.tile t).galleys.filter fun x => x.dropped && fall.any fun y => y.hdr == x.hdr && y.tag == x.tag && y.seq == x.seq)

/-- Void a round for an extent change. The fourth time in a row it faults instead (R357), with the class of the access that it repeats;
that of a swapped-out forme is voided again (log 93). -/
def State.voidMoved (s : State) (f : Forme) (id : Nat) (rs : List (Nat × Nat)) : State :=
  let pay := ((f.run.touches.find? fun a => a.meets id rs).map Touch.pay).getD (.access (id * 2 ^ 40 + (rs.headD (0, 0)).1 * 4096) 0 0)
  if f.run.voids < 3 || !f.isLive then s.setForme f.rerun
  else (s.faultForme f.handle 0 0 0 clsTranslation 0 pay).getD (s.setForme f.rerun)

/-- An instance has been dropped with no record three times since its last commit. -/
def DTile.worn (d : DTile) (g : Galley) : Bool := decide (3 ≤ (d.redone.filter fun r => r == (g.hdr, g.tag)).length)

/-- Drop an instance for a cause of R357 with its younger ones, and reopen them. The first of them that falls the fourth time in a row faults
instead: it stays dropped until the action on its record. -/
def State.redoOr (s : State) (t : Nat) (g : Galley) (cls : Nat) (pay : Pay) : State :=
  let d := s.tile t
  match leastBy (fun (a b : Galley) => decide (a.seq < b.seq)) ((d.fallen g).filter d.worn) with
  | none => s.redo t g
  | some y =>
    let u := s.setTile { d with redone := d.redone.filter fun r => r != (y.hdr, y.tag) }
    match u.faultGalley t y y.hdr cls 0 pay with
    | none => s.redo t g
    | some v => if y.seq = g.seq then v else v.redo t g

/-- Drop the open instances of a tile that have loaded pages of an object. -/
def State.redoLoads (s : State) (id : Nat) (rs : List (Nat × Nat)) (t : Nat) : State :=
  (s.tile t).galleys.foldl (fun s g => match (s.tile t).galley? g.hdr g.tag with
    | some x => match (if x.seq = g.seq then x.loads.find? fun a => a.meets id rs else none) with
      | some a => s.redoOr t x clsTranslation a.pay
      | none => s
    | none => s) s

/-- The formes of a partition whose rounds and windows may know an object: those in a chase, and the swapped-out ones. -/
def State.knowing (s : State) (p : Nat) : List Forme := s.formes.filter fun f => f.part == p && (f.isLive || f.isSwapped p)

/-- Write back and drop the windows that know pages of an object. -/
def State.dropWindows (s : State) (p id : Nat) (rs : List (Nat × Nat)) : State :=
  (s.knowing p).foldl (fun s f => f.run.core.wins.foldl (fun s w => s.dropWindow f.handle id rs w) s) s

/-- Windows that still hold lines of pages of an object: their write back has stalled. -/
def State.windowsLeft (s : State) (p id : Nat) (rs : List (Nat × Nat)) : Bool :=
  (s.knowing p).any fun f => f.run.core.wins.any (f.run.core.winMeets id rs)

/-- Purge everything that knows pages of an object of a partition: windows, rounds, instances, translations. -/
def State.purge (s : State) (p id : Nat) (rs : List (Nat × Nat)) : State :=
  let fs := s.knowing p
  let s := s.dropWindows p id rs
  let s := fs.foldl (fun s f => match s.forme? f.handle with
    | some g =>
      let g := { g with run := { g.run with start := g.run.start.dropWins id rs } }
      if !g.cfg.stream && g.run.accessed id rs then (s.setForme g).voidMoved g id rs else s.setForme g
    | none => s) s
  let s := (s.partTiles p).foldl (fun s t => s.redoLoads id rs t) s
  { s with dies := s.dies.map fun d => { d with ranges := d.ranges.filter fun e =>
      !(e.part == p && e.obj == id && meetsPages rs (e.first * 4096) (e.pages * 4096)) } }

/-- Set or clear MOV of the extents that a change names. -/
def State.setMov (s : State) (p : Nat) (o : Obj) (idx : Nat) (b : Bool) : State :=
  (if idx = 0xFFFF then List.range o.ecnt else [idx]).foldl (fun s e =>
    s.writeLe (extAddr p o e) 16 (setBits 23 1 (s.readLe (extAddr p o e) 16) b.toNat)) s

/-! ## The extent-change protocol (R313) -/

/-- The entry as memory holds it. -/
def State.rawObj (s : State) (p id : Nat) : Option Obj := (s.objAddr p id).map fun a => Obj.ofNat (s.readLe a 32)

/-- Pages of an object of an address range. -/
def vaPages (va : VA) (gran : Nat) : Nat × Nat := (va.toNat % 2 ^ 40 / 4096, gran * 512)

/-- A lease is being reclaimed over pages of an object of a partition. -/
def State.reclaimingOver (s : State) (p id : Nat) (rs : List (Nat × Nat)) : Bool :=
  let hit (part : Nat) (va : VA) (gran : Nat) : Bool :=
    part == p && va.toNat / 2 ^ 40 == id && meetsPages rs ((vaPages va gran).1 * 4096) ((vaPages va gran).2 * 4096)
  s.dies.any fun d => (d.lent.any fun l => l.state == .reclaiming && hit l.part l.va l.gran) ||
    d.borrowed.any fun b => b.state == .reclaiming && hit b.part b.target b.grant.gran

/-- The fields of an EXT_CHG write: EIDX and OBJ. -/
def Part.extFields (q : Part) (v : BitVec 64) : Part := { q with extIdx := v.extractLsb' 40 16, extObj := v.extractLsb' 0 24 }

/-- BEGIN: MOV is set, and what knows the extents is purged in the same step. -/
def State.extBegin (s : State) (p : Nat) (v : BitVec 64) : State :=
  match s.part? p with
  | none => s
  | some q =>
    let q := q.extFields v
    let id := q.extObj.toNat
    let idx := q.extIdx.toNat
    let refuse (r : Nat) : State := s.setPart { q with extState := .refused, extReason := r }
    if q.change.isSome then refuse 3
    else match s.obj? p id with
      | none => refuse 1
      | some o =>
        if idx ≠ 0xFFFF ∧ o.ecnt ≤ idx then refuse 2
        else
          let rs := s.changePages p o idx
          if s.reclaimingOver p id rs then refuse 4
          else
            let s := (s.purge p id rs).setMov p o idx true
            match s.part? p with
            | none => s
            | some q => s.setPart { q.extFields v with extState := .busy, extReason := 0, change := some ⟨idx, id, false⟩ }

/-- The windows whose write back stalled at BEGIN are written back now, by the device, which MOV does not stop. -/
def State.purgeLeft (s : State) (p : Nat) (c : ExtChange) : State :=
  match s.obj? p c.obj, s.part? p with
  | some o, some q =>
    let u := ((s.setPart { q with change := none }).setMov p o c.idx false).dropWindows p c.obj (s.changePages p o c.idx)
    match u.part? p with
    | some r => (u.setMov p o c.idx true).setPart { r with change := q.change }
    | none => s
  | _, _ => s

/-- The purge of BEGIN is complete: HELD, once no window holds lines of the extents any more. -/
def State.extHeld (s : State) (p : Nat) : State :=
  match s.part? p with
  | none => s
  | some q => match q.change with
    | some c =>
      if c.held then s
      else if (s.obj? p c.obj).any fun o => s.windowsLeft p c.obj (s.changePages p o c.idx) then s.purgeLeft p c
      else s.setPart { q with extState := .held, extReason := 0, change := some { c with held := true } }
    | none => s

/-- Extents obey R308: ascending, not empty, not overlapping, covering `need` pages. -/
def extentsCover (need : Nat) (xs : List Ext) : Bool :=
  let r := xs.foldl (fun (a : Bool × Nat) x =>
    (a.1 && decide (1 ≤ x.npg) && decide (a.2 ≤ x.start) && (decide (need ≤ a.2) || x.start == a.2), x.start + x.npg)) (true, 0)
  r.1 && decide (need ≤ r.2)

/-- The check of END: R308, and TMASK for the extents of the change. An entry that names no object has nothing to check. -/
def State.changeOk (s : State) (p : Nat) (o : Obj) (idx : Nat) : Bool :=
  !o.valid || (decide (1 ≤ o.ecnt) && (idx == 0xFFFF || decide (idx < o.ecnt)) &&
    extentsCover ((o.len + 4095) / 4096) ((List.range o.ecnt).map fun e => s.ext p o e) &&
    (if idx = 0xFFFF then List.range o.ecnt else [idx]).all fun e => bit (s.ext p o e).tier o.tmask)

/-- Close a change: MOV clears, and with `count` GEN steps. -/
def State.closeChange (s : State) (p id idx : Nat) (count : Bool) : State :=
  match s.objAddr p id with
  | none => s
  | some a =>
    let o := Obj.ofNat (s.readLe a 32)
    let s := if count then s.writeLe a 32 (setBits 120 8 (s.readLe a 32) (o.gen + 1)) else s
    s.setMov p o (if idx = 0xFFFF ∨ idx < o.ecnt then idx else 0xFFFF) false

/-- END: the new extents take effect, or the change is refused and stays. -/
def State.extEnd (s : State) (p : Nat) (v : BitVec 64) : State :=
  match s.part? p with
  | none => s
  | some q =>
    let q := q.extFields v
    match q.change with
    | none => s.setPart q
    | some c =>
      if !c.held then s.setPart q
      else match s.rawObj p c.obj with
        | none => s.setPart { q with extState := .refused, extReason := 5 }
        | some o =>
          if s.changeOk p o c.idx then
            (s.closeChange p c.obj c.idx true).setPart { q with extState := .idle, extReason := 0, change := none }
          else s.setPart { q with extState := .refused, extReason := 5 }

/-- ABORT: the memory as it stands. -/
def State.extAbort (s : State) (p : Nat) (v : BitVec 64) : State :=
  match s.part? p with
  | none => s
  | some q =>
    let q := q.extFields v
    match q.change with
    | none => s.setPart q
    | some c => (s.closeChange p c.obj c.idx false).setPart { q with extState := .idle, extReason := 0, change := none }

def execExtChgBegin (part : Nat) (value : BitVec 64) (s : State) : Out := .next (s.extBegin part value)
def execExtChgHeld (part : Nat) (s : State) : Out := .next (s.extHeld part)

/-! ## The walker (R310) -/

/-- The walker's step for a missed address. -/
def State.walk (s : State) (die xl part : Nat) (va : VA) : State :=
  match s.walkEntry xl part va, s.die? die with
  | some e, some d => s.setDie { d with ranges := installEntry d.ranges e }
  | _, _ => s

def execWalkerWalk (die xl part : Nat) (va : BitVec 64) (s : State) : Out := .next (s.walk die xl part va)

/-! ## DIE_SPLIT (R312, R317) -/

/-- First page of a die's spill region: the 32 MiB below the top 64 MiB of its 64 GiB. -/
def spillRegion : Nat := 0xFFA000

/-- The firmware values of a partition of a die split into `n` (R248, R312). -/
def Part.firmware (q : Part) (n : Nat) : Part :=
  { q with stgsz := 64, sppg := 256, sppfn := spillRegion + q.p % 4 * (32 * 2 ^ 20 / n) / 4096 }

/-- Give the partitions of a die their firmware values. -/
def State.firmwareParts (s : State) (die : Nat) : State :=
  { s with parts := s.parts.map fun q => if q.p / 4 == die && decide (q.p % 4 < s.partCount die) then q.firmware (s.partCount die) else q }

/-- A write of DIE_SPLIT. -/
def State.splitWrite (s : State) (die : Nat) (v : BitVec 64) : State :=
  match s.die? die with
  | none => s
  | some d =>
    let d := if v.getLsbD 2 then { d with splitRefused := false } else d
    let new : BitVec 2 := if v.extractLsb' 0 2 = 3 then 2 else v.extractLsb' 0 2
    if new = d.split then s.setDie d
    else if s.ctxs.any fun c => c.part / 4 == die then s.setDie { d with splitRefused := true }
    else (s.setDie { d with split := new, splitRefused := false }).firmwareParts die

def execDieSplitWrite (die : Nat) (value : BitVec 64) (s : State) : Out := .next (s.splitWrite die value)

end Sys2Proof.Machine
end

