-- ==== Sys2Proof/Machine/Leases.lean ====
section
/-! DEFINITION. The lease units at both ends of a lease (R362 to R374), the copy engine's completions (R217, R345), and flits from other
packages (R344, R365, R366). A lease message that leaves goes into the die's `outbox`; one that arrives is a step. -/

namespace Sys2Proof.Machine

/-! ## The lender (R363, R366, R368) -/

/-- The id of lease `idx` of a die. -/
def leaseId (die idx : Nat) : Nat := die * 256 + idx

/-- Post a lender's event (R371). -/
def State.lentEvent (s : State) (die : Nat) (l : Lent) (code : Nat) : Option State := s.postEvent l.ctx 3 (leaseId die l.idx) code l.gran

def State.setLent (s : State) (die : Nat) (l : Lent) : State :=
  match s.die? die with
  | some d => s.setDie (d.setLease l)
  | none => s

/-- A lease of a die that is not free. -/
def State.lent? (s : State) (die idx : Nat) : Option Lent := (s.die? die).bind fun d => d.lease? idx

/-- Granules that have come back lower DEMAND, to zero at least. -/
def State.returned (s : State) (die gran : Nat) : State :=
  match s.die? die with
  | some d => s.setDie { d with demand := d.demand - gran }
  | none => s

/-- Answer a TAKE that waits or has just come with a refusal. -/
def State.nak (s : State) (die borrower idx reason : Nat) : State := s.sendLease die borrower (.takeNak borrower (leaseId die idx) reason)

/-- LOST for a lease that is quarantined (R368). -/
def State.sendLost (s : State) (die idx borrower : Nat) (l : Lent) : State :=
  s.sendLease die borrower (.lost borrower (leaseId die idx) l.pushed)

/-- Withdraw an offered lease: its region is free, and a TAKE that waits is refused. -/
def State.withdraw (s : State) (die : Nat) (l : Lent) : Option State :=
  let s := s.setLent die { l with state := .closed, heldTake := none, closedAt := s.clock }
  let s := match l.heldTake with
    | some (b, _) => s.nak die b l.idx 1
    | none => s
  (s.returned die l.gran).lentEvent die l 0x0011

/-- The lease that DEMAND calls for next: the newest offer, else the taken lease of the lowest class, the latest taken of those. Leases
under reclaim count as already called for (R374). -/
def Die.called (d : Die) : Option Lent :=
  let due := (d.lent.filter fun l => l.state == .reclaiming).foldl (fun n l => n + l.gran) 0
  if d.demand = 0 then none
  else match leastBy (fun (a b : Lent) => decide (b.order < a.order)) (d.lent.filter fun l => l.state == .offered) with
    | some l => some l
    | none =>
      if d.demand ≤ due then none
      else leastBy (fun (a b : Lent) => decide (a.rclass < b.rclass) || (a.rclass == b.rclass && decide (b.order < a.order)))
        (d.lent.filter fun l => l.state == .taken)

/-- Withdraw and reclaim as long as DEMAND calls for it; `k` bounds the leases. -/
def State.demandRun (s : State) (die : Nat) : Nat → Option State
  | 0 => some s
  | k + 1 => match (s.die? die).bind Die.called with
    | none => some s
    | some l =>
      if l.state == .offered then (s.withdraw die l).bind fun s => State.demandRun s die k
      else match s.leaseReclaim die l.idx with
        | some s => State.demandRun s die k
        | none => some s

/-- The package in which a fallback lies, as its lender reaches it: a T3 fallback is behind the borrower's own ports. -/
def fallbackPackage (borrower : Nat) (f : LeasePlace) : Nat := if f.tier = 2 then f.loc else borrower

/-- The share of a lease's bandwidth on each port, in 720,720ths of a GB/s, over its routes to the borrower and toward the fallback. -/
def State.shares (s : State) (rbw borrower : Nat) (f : LeasePlace) : List (Nat × Nat) :=
  let route (p : Nat) : List (Nat × Nat) :=
    let ports := s.routePorts p
    ports.map fun i => (i, rbw * 720720 / ports.length)
  let q := fallbackPackage borrower f
  route borrower ++ if q = borrower then [] else route q

/-- The shares of the leases in force: of those that this package lends, and, on the ports to their lenders, of those that it borrows. -/
def State.sharesNow (s : State) : List (Nat × Nat) :=
  let on (st : LeaseState) := st == .taken || st == .reclaiming
  ((s.dies.flatMap Die.lent).filter fun l => on l.state).flatMap (fun l => s.shares l.rbw l.borrower l.fallback) ++
    ((s.dies.flatMap Die.borrowed).filter fun b => on b.state).flatMap fun b => s.shares b.grant.rbw b.lender ⟨0, 0, 0⟩

/-- The class-2 reservation of a port (R343). -/
def State.reserved (s : State) (port : Nat) : Nat := (s.sharesNow.filter fun e => e.1 == port).foldl (fun n e => n + e.2) 0

/-- Every port can carry a new lease's share within 49 GB/s (R343). -/
def State.canCarry (s : State) (rbw borrower : Nat) (f : LeasePlace) : Bool :=
  let sh := s.shares rbw borrower f
  sh.all fun e => decide (s.reserved e.1 + ((sh.filter fun x => x.1 == e.1).foldl (fun n x => n + x.2) 0) ≤ 49 * 720720)

/-- A zeroed, offered lease meets a TAKE. -/
def State.takeNow (s : State) (die : Nat) (l : Lent) (borrower : Nat) (f : LeasePlace) : Option State :=
  let l := { l with heldTake := none }
  if !(s.canCarry l.rbw borrower f) then some ((s.setLent die l).nak die borrower l.idx 6)
  else
    let order := ((s.die? die).map Die.nextOrder).getD 0
    let s := s.setLent die { l with state := .taken, borrower := borrower, fallback := f, dirty := [], pushed := false, order := order }
    let s := s.sendLease die borrower (.takeAck borrower (leaseId die l.idx) { gran := l.gran, wt := l.wt, rbw := l.rbw, page := l.page })
    s.lentEvent die l 0x0010

/-- TAKE arrives at the lender. Any message of a quarantined lease gets LOST. A lease that was never offered gets reason 1, as one does
whose withdrawal falls in the same cycle, the step before (R374); a closed one gets reason 2 (R219). -/
def State.leaseTaken (s : State) (die idx borrower : Nat) (f : LeasePlace) : Option State :=
  match (s.die? die).bind fun d => d.lent.find? fun l => l.idx == idx with
  | none => some (s.nak die borrower idx 1)
  | some l => match l.state with
    | .offered =>
      if l.heldTake.isSome then some (s.nak die borrower idx 2)
      else if !l.zeroed then some (s.setLent die { l with heldTake := some (borrower, f) })
      else (s.takeNow die l borrower f).bind fun s => s.demandRun die 256
    | .quarantined => some (s.sendLost die idx borrower l)
    | .closed => some (s.nak die borrower idx (if s.clock ≤ l.closedAt + 1 && l.closedAt != 0 then 1 else 2))
    | _ => some (s.nak die borrower idx 2)

/-- The offered region reads as zero; a TAKE that was held goes on. -/
def State.zeroDone (s : State) (die idx : Nat) : Option State :=
  match s.lent? die idx with
  | none => some s
  | some l =>
    if l.state != .offered || l.zeroed then some s
    else
      let s := { s with mem := Memory.clear s.mem (spaceBase 0 die + l.page * 4096) (l.gran * granule) }
      let l := { l with zeroed := true }
      match l.heldTake with
      | some (b, f) => ((s.setLent die l).takeNow die l b f).bind fun s => s.demandRun die 256
      | none => some (s.setLent die l)

/-- Push a dirty page to the fallback. -/
def State.sendPush (s : State) (die : Nat) (l : Lent) (page : Nat) : State :=
  s.sendLease die (fallbackPackage l.borrower l.fallback)
    (.push l.fallback (page * 4096) (s.readN (spaceBase 0 die + (l.page + page) * 4096) 4096))

/-- Dirty pages in ascending order; a write-through lease has none to push. -/
def Lent.pages (l : Lent) : List Nat := if l.wt then [] else sortBy (fun a b => decide (a < b)) l.dirty

/-- STOPPED arrives: the dirty pages, then DONE. -/
def State.leaseStopped (s : State) (die idx : Nat) : State :=
  match s.lent? die idx with
  | none => s
  | some l =>
    if l.state == .quarantined then s.sendLost die idx l.borrower l
    else if l.state != .reclaiming || l.pushed then s
    else
      let s := l.pages.foldl (fun s p => s.sendPush die l p) s
      (s.sendLease die l.borrower (.done l.borrower (leaseId die idx))).setLent die { l with pushed := true }

/-- DEMOTED arrives: the region is free. -/
def State.leaseDemoted (s : State) (die idx : Nat) : Option State :=
  match s.lent? die idx with
  | none => some s
  | some l =>
    if l.state == .quarantined then some (s.sendLost die idx l.borrower l)
    else if l.state != .reclaiming then some s
    else ((s.setLent die { l with state := .closed }).returned die l.gran).lentEvent die l 0x0011

/-- The fallback of a lease can be reached from the lender (R344). -/
def State.fallbackReached (s : State) (l : Lent) : Bool :=
  let q := fallbackPackage l.borrower l.fallback
  q == s.fijId.toNat || s.reachable q

/-- The stop timer runs out before STOPPED, or, after it too, the borrower cannot be reached. A write-through lease pushes nothing, nor does
one that has pushed its pages at STOPPED; what cannot be pushed is zeroed. -/
def State.quarantine (s : State) (die idx : Nat) : Option State :=
  match s.lent? die idx with
  | none => some s
  | some l =>
    if l.state != .reclaiming || (l.pushed && s.reachable l.borrower) then some s
    else
      let reached := s.fallbackReached l
      let s := if l.pushed then s else if reached then l.pages.foldl (fun s p => s.sendPush die l p) s
        else { s with mem := Memory.clear s.mem (spaceBase 0 die + l.page * 4096) (l.gran * granule) }
      ((s.setLent die { l with state := .quarantined, pushed := l.pushed || reached }).returned die l.gran).lentEvent die l 0x0012

/-- QTIME has passed. -/
def State.quarantineOver (s : State) (die idx : Nat) : Option State :=
  match s.lent? die idx with
  | none => some s
  | some l =>
    if l.state == .quarantined then (s.setLent die { l with state := .closed }).lentEvent die l 0x0013 else some s

/-- TERM has passed. -/
def State.termOver (s : State) (die idx : Nat) : Option State :=
  match s.lent? die idx with
  | none => some s
  | some l =>
    if l.term = 0 then some s
    else match l.state with
      | .offered => s.withdraw die l
      | .taken => s.leaseReclaim die idx
      | _ => some s

/-- A write of LEASE_CFG. -/
def State.leaseCfg (s : State) (die : Nat) (v : BitVec 64) : Option State :=
  match s.die? die with
  | none => some s
  | some d => (s.setDie { d with demand := bits 32 16 v.toNat, qtime := bits 16 16 v.toNat }).demandRun die 256

/-- LOFFER at its commit, with what DEMAND then calls for. -/
def State.offerRun (s : State) (die ctx part desc : Nat) : Option (State × Word) :=
  let r := s.leaseOffer die ctx part desc
  (r.1.demandRun die 256).map fun s => (s, r.2)

/-! ## The borrower (R364, R369, R372) -/

def sameLease (b : Borrow) (lender lease : Nat) : Bool := b.lender == lender && b.lease == lease

/-- The borrow of a pair that has been taken. -/
def State.borrow? (s : State) (die lender lease : Nat) : Option Borrow :=
  (s.die? die).bind fun d => d.borrowed.find? fun b => sameLease b lender lease && b.state != .none

/-- The LTAKEs of a pair that have no answer yet, oldest first. -/
def State.asking (s : State) (die lender lease : Nat) : List Borrow :=
  match s.die? die with
  | some d => d.borrowed.filter fun b => sameLease b lender lease && b.state == .none
  | none => []

/-- Replace the borrow of a pair that has been taken. -/
def State.setBorrow (s : State) (die : Nat) (b : Borrow) : State :=
  match s.die? die with
  | some d => s.setDie { d with borrowed := putBy (fun o => sameLease o b.lender b.lease && o.state != .none) b d.borrowed }
  | none => s

/-- Take an answered LTAKE off. -/
def State.dropAsk (s : State) (die : Nat) (b : Borrow) : State :=
  match s.die? die with
  | some d => s.setDie { d with borrowed := d.borrowed.erase b }
  | none => s

/-- Check 3 of R364 on the fallback: in one extent, in T3 or in a write-through lease that this package has taken. -/
def State.fallbackOk (s : State) (b : Borrow) (gran : Nat) : Bool :=
  match s.oneExtent b.part (Addr.ofVa b.fallback) (gran * granule) with
  | none => false
  | some (_, _, x) =>
    let page := x.pfn + (b.fallback.toNat % 2 ^ 40 / 4096 - x.start)
    x.tier == 3 || (x.tier == 2 && (s.dies.flatMap Die.borrowed).any fun o => o.state == .taken && o.grant.wt && o.lender == x.loc &&
      decide (o.grant.page ≤ page) && decide (page + gran * 512 ≤ o.grant.page + o.grant.gran * 512))

/-- Check 5 of R364 on the target: the index of the extent that covers it on its bounds. -/
def State.targetExt (s : State) (b : Borrow) (gran : Nat) : Option Nat :=
  let off := b.target.toNat % 2 ^ 40
  match s.obj? b.part (b.target.toNat / 2 ^ 40) with
  | none => none
  | some o => match s.findExt b.part o (off / 4096) with
    | none => none
    | some (e, x) => if off % granule = 0 && x.start == off / 4096 && x.npg == gran * 512 && bit 2 o.tmask then some e else none

/-- The target's extent: its object, index and pages. -/
def State.targetAt (s : State) (b : Borrow) : Option (Obj × Nat × List (Nat × Nat)) :=
  match s.obj? b.part (b.target.toNat / 2 ^ 40) with
  | none => none
  | some o => (s.findExt b.part o (b.target.toNat % 2 ^ 40 / 4096)).map fun e => (o, e.1, [(e.2.start, e.2.npg)])

/-- A change of software runs on the target's extent, or on the whole of its object (R374). -/
def State.targetBusy (s : State) (b : Borrow) : Bool :=
  match (s.part? b.part).bind Part.change with
  | some c => c.obj == b.target.toNat / 2 ^ 40 && (c.idx == 0xFFFF || (s.targetAt b).all fun t => t.2.1 == c.idx)
  | none => false

/-- Rewrite the target's extent to a place, with MOV clear and GEN stepped (R313). -/
def State.retarget (s : State) (b : Borrow) (tier loc pfn : Nat) : State :=
  let id := b.target.toNat / 2 ^ 40
  match s.targetAt b, s.objAddr b.part id with
  | some (o, e, _), some a =>
    let x := extAddr b.part o e
    let n := s.readLe x 16
    let s := s.writeLe x 16 (setBits 23 1 (setBits 24 36 (setBits 60 10 (setBits 70 2 n tier) loc) pfn) 0)
    s.writeLe a 32 (setBits 120 8 (s.readLe a 32) (o.gen + 1))
  | _, _ => s

/-- Stop every access to the target: what knows it is purged and MOV is set. -/
def State.stopTarget (s : State) (b : Borrow) : State :=
  match s.targetAt b with
  | some (o, e, rs) => (s.purge b.part (b.target.toNat / 2 ^ 40) rs).setMov b.part o e true
  | none => s

/-- A borrow whose LTAKE has failed after the lender's acknowledgement: it answers the lender, and has no extent. -/
def Borrow.refused (b : Borrow) : Borrow := { b with state := .closed, reply := none }

/-- TAKE_ACK: it answers the oldest LTAKE of the pair that waits. After the last checks the target extent names the lease, whose bytes
the lender has zeroed. None while a change of the target's object runs. -/
def State.borrowAck (s : State) (die lender lease : Nat) (g : LeaseGrant) : Option State :=
  match s.asking die lender lease with
  | [] => some s
  | b :: _ =>
    let fail (reason : Nat) : State := (((s.dropAsk die b).setBorrow die { b.refused with grant := g }).answerOpt b.reply (.data (failure reason)))
    if !(s.fallbackOk b g.gran) then some (fail 3)
    else match s.targetExt b g.gran with
      | none => some (fail 5)
      | some _ =>
        if s.targetBusy b then none
        else
          let s := ((s.dropAsk die b).stopTarget b).retarget b 2 lender g.page
          let s := { s with mem := Memory.clear s.mem (spaceBase 2 lender + g.page * 4096) (g.gran * granule) }
          some ((s.setBorrow die { b with state := .taken, grant := g, reply := none }).answerOpt b.reply (.data 1))

/-- The LTAKE of a pair that a refusal answers. The lender refuses with reason 2 while it holds an earlier TAKE of the pair, so such a
refusal is for the latest; any other is for the oldest. -/
def State.refusedAsk (s : State) (die lender lease reason : Nat) : Option Borrow :=
  if reason = 2 then (s.asking die lender lease).getLast? else (s.asking die lender lease).head?

/-- TAKE_NAK: LTAKE fails. -/
def State.borrowNak (s : State) (die lender lease reason : Nat) : State :=
  match s.refusedAsk die lender lease reason with
  | some b => (s.dropAsk die b).answerOpt b.reply (.data (failure reason))
  | none => s

/-- RECLAIM: accesses stop and STOPPED goes back. It waits for a change of the target's object (R374). -/
def State.borrowReclaim (s : State) (die lender lease : Nat) : State :=
  match s.borrow? die lender lease with
  | none => s
  | some b => match b.state with
    | .closed => s.sendLease die lender (.stopped lender lease)
    | .taken =>
      if s.targetBusy b then s.setBorrow die { b with asked := true }
      else ((s.stopTarget b).setBorrow die { b with state := .reclaiming, asked := false }).sendLease die lender (.stopped lender lease)
    | _ => s

/-- Go on with the reclaims that have waited for a change. -/
def State.resumeReclaims (s : State) : State :=
  s.dies.foldl (fun s d => d.borrowed.foldl (fun s b => if b.asked then s.borrowReclaim d.i b.lender b.lease else s) s) s

/-- The pages that the lender has pushed to a fallback in another package (R367): every dirty page if `sure`, else each page or not (R372).
A page of zeros may be one that nothing has written since the lease was taken, and so not dirty: it is pushed or not (DEDUCED, log 104).
Pushes to a fallback of this package arrive as steps of their own. -/
def State.pushedPages (s : State) (b : Borrow) (at_ : LeasePlace) (sure : Bool) : State :=
  if at_.tier ≠ 2 ∨ b.grant.wt then s
  else (List.range (b.grant.gran * 512)).foldl (fun s k =>
    let from_ := spaceBase 2 b.lender + (b.grant.page + k) * 4096
    let to_ := spaceBase 2 at_.loc + (at_.page + k) * 4096
    let cells := Memory.cells s.mem from_ 4096
    let (v, s) := if sure && !cells.isEmpty then (1, s) else s.pick 2
    if v = 1 then { s with mem := Memory.putCells (Memory.clear s.mem to_ 4096) to_ cells } else s) s

/-- Demote a lease: the target extent names the fallback, where its pages are. -/
def State.demote (s : State) (die : Nat) (b : Borrow) (sure : Bool) : State :=
  let at_ := (s.placeOf b.part (Addr.ofVa b.fallback)).getD ⟨0, 0, 0⟩
  ((s.pushedPages b at_ sure).retarget b at_.tier at_.loc at_.page).setBorrow die { b with state := .closed, asked := false }

/-- Post a borrower's event. -/
def State.borrowEvent (s : State) (b : Borrow) (code : Nat) : Option State := s.postEvent b.ctx 3 b.lease code b.grant.gran

/-- DONE: every page is in the fallback. -/
def State.borrowDone (s : State) (die lender lease : Nat) : Option State :=
  match s.borrow? die lender lease with
  | none => some s
  | some b => match b.state with
    | .closed => some (s.sendLease die lender (.demoted lender lease))
    | .reclaiming => (((s.demote die b true).borrowEvent b 0x0001)).map fun s => s.sendLease die lender (.demoted lender lease)
    | _ => some s

/-- The payload of a lease-lost fault (Table 22-3). -/
def Borrow.lostPay (b : Borrow) : Nat :=
  b.lease % 2 ^ 16 * 2 ^ 176 + b.target.toNat / 2 ^ 40 * 2 ^ 152 + b.target.toNat % 2 ^ 40 * 2 ^ 112 + b.grant.gran * granule % 2 ^ 40 * 2 ^ 72

/-- A borrower declares a lease lost (R372); none while a change of the target's object runs. -/
def State.borrowLost (s : State) (die lender lease : Nat) (pushed : Bool) : Option State :=
  match s.borrow? die lender lease with
  | none => some (s.borrowNak die lender lease 2)
  | some b => match b.state with
    | .taken | .reclaiming =>
      if b.state == .taken && s.targetBusy b then none
      else
        let s := (if b.state == .taken then s.stopTarget b else s).demote die b pushed
        if b.grant.wt then s.borrowEvent b 0x0002
        else s.faultOp b.ctx 3 b.lease clsLease (if pushed then 0 else 1) b.lostPay false
    | _ => some (s.borrowNak die lender lease 2)

/-- Declare lost every lease whose lender no route reaches any more (R372). -/
def State.loseUnreachable (s : State) : Option State :=
  foldOpt (fun (s : State) (e : Nat × Borrow) => if s.reachable e.2.lender then some s
    else match e.2.state with
      | .taken | .reclaiming => s.borrowLost e.1 e.2.lender e.2.lease false
      | _ => some s) s (s.dies.flatMap fun d => d.borrowed.map fun b => (d.i, b))

/-- END and ABORT, and what waited for them: the returns to work queues, and the reclaims. -/
def State.extEndAll (s : State) (p : Nat) (v : BitVec 64) : State := ((s.extEnd p v).lateReturns p).resumeReclaims
def State.extAbortAll (s : State) (p : Nat) (v : BitVec 64) : State := ((s.extAbort p v).lateReturns p).resumeReclaims

/-- A write of EXT_CHG (R313). -/
def State.extWrite (s : State) (p : Nat) (v : BitVec 64) : State :=
  match (v.extractLsb' 62 2).toNat with
  | 1 => s.extBegin p v
  | 2 => s.extEndAll p v
  | 3 => s.extAbortAll p v
  | _ => match s.part? p with
    | some q => s.setPart (q.extFields v)
    | none => s

def execExtChgEnd (part : Nat) (value : BitVec 64) (s : State) : Out := .next (s.extEndAll part value)
def execExtChgAbort (part : Nat) (value : BitVec 64) (s : State) : Out := .next (s.extAbortAll part value)

/-! ## Arriving pushes (R367) -/

/-- Write data from another package at a physical address of this one. -/
def State.remoteWrite (s : State) (addr : Nat) (b : List Byte) : State :=
  if addr + b.length ≤ 8 * Config.spaceSize then s.writeN addr b else s

def execTake (die idx borrower : Nat) (fallback : LeasePlace) (s : State) : Out := settle s (s.leaseTaken die idx borrower fallback)
def execTakeAck (die lender lease : Nat) (grant : LeaseGrant) (s : State) : Out := settle s (s.borrowAck die lender lease grant)
def execTakeNak (die lender lease reason : Nat) (s : State) : Out := .next (s.borrowNak die lender lease reason)
def execReclaim (die lender lease : Nat) (s : State) : Out := .next (s.borrowReclaim die lender lease)
def execStopped (die idx : Nat) (s : State) : Out := .next (s.leaseStopped die idx)
def execPush (addr : Nat) (data : List (BitVec 8)) (s : State) : Out := .next (s.remoteWrite addr data)
def execDone (die lender lease : Nat) (s : State) : Out := settle s (s.borrowDone die lender lease)
def execDemoted (die idx : Nat) (s : State) : Out := settle s (s.leaseDemoted die idx)
def execLost (die lender lease : Nat) (pushed : Bool) (s : State) : Out := settle s (s.borrowLost die lender lease pushed)
def execLeaseZeroDone (die idx : Nat) (s : State) : Out := settle s (s.zeroDone die idx)
/-- The stop timer runs out; `reachable` is what the home finds of the fallback, which the routes say. -/
def execLeaseStopTimerExpiry (die idx : Nat) (reachable : Bool) (s : State) : Out :=
  settle s (if (s.lent? die idx).any fun l => s.fallbackReached l == reachable then s.quarantine die idx else none)
def execLeaseTermExpiry (die idx : Nat) (s : State) : Out := settle s (s.termOver die idx)
def execLeaseCfgDemand (die : Nat) (value : BitVec 64) (s : State) : Out := settle s (s.leaseCfg die value)
def execQtimeExpiry (die idx : Nat) (s : State) : Out := settle s (s.quarantineOver die idx)
def execLeaseReplyTimeout (die lender lease : Nat) (s : State) : Out := settle s (s.borrowLost die lender lease false)

/-! ## The copy engine (R217, R345) -/

/-- The link that work of a die needs for a physical address and that is down (R345): kind and index. -/
def State.linkFor (s : State) (die a : Nat) : Option (Nat × Nat) :=
  let k := a / Config.spaceSize
  if 8 ≤ k then (if s.reachable (k - 8) then none else some (1, (s.routePorts (k - 8)).headD 0))
  else if !(s.diesJoined die k) then some (0, dieLink (die % 4) (k % 4))
  else if 4 ≤ k && !(s.links.any fun l => l.n == 32 + (k - 4) && l.up) then some (2, k - 4)
  else none

/-- End a copy with a status. -/
def State.endCopy (s : State) (die id status : Nat) : State :=
  match s.die? die with
  | some d => s.setDie { d with copies := d.copies.map fun c => if c.id == id then { c with status := status } else c }
  | none => s

/-- The link over which a copy has a piece of a range and that is down. -/
def State.pathDown (s : State) (die p : Nat) (a : Addr) (len : Nat) : Option (Nat × Nat) :=
  match s.obj? p a.obj with
  | none => none
  | some o => match s.pieces p a.obj o (o.ecnt + 2) a.off.toNat len with
    | some (l, _) => l.findSome? fun e => s.linkFor die e.1
    | none => none

/-- The copy that the engine of a die serves in a traffic class: of the running ones of the class, the one that came first (R19). -/
def Die.served (d : Die) (cls : Nat) : Option CopyJob := d.copies.find? fun c => c.status == 0 && c.cls == cls

/-- A copy ends, in arrival order within its class: both ranges are checked, then the whole source is read, then written. A copy that fails
moves nothing. -/
def State.copyEnd (s : State) (die id : Nat) : Option State :=
  match (s.die? die).bind fun d => (d.copies.find? fun c => c.id == id && c.status == 0).map fun c => (d, c) with
  | none => some s
  | some (d, c) =>
    if d.served c.cls != some c then none
    else
    let fail (cls pay : Nat) : Option State := (s.faultOp c.ctx 2 c.id cls 0 pay c.hnd).map fun s => s.endCopy die id (cls + 2)
    let src := Addr.ofVa c.src
    let dst := Addr.ofVa c.dst
    let down := (s.pathDown die c.part src c.len).or (s.pathDown die c.part dst c.len)
    match s.range c.part src c.len .read, s.range c.part dst c.len .write with
    | .fault cls, _ => fail cls (accessPayload src.va 0 3)
    | .ok _, .fault cls => fail cls (accessPayload dst.va 0 3)
    | .ok from_, .ok to_ => match down with
      | some (kind, idx) => fail clsLink (kind * 2 ^ 188 + idx % 256 * 2 ^ 180)
      | none => some ((s.writePieces to_ (s.readPieces from_)).endCopy die id 1)
    | _, _ => match down with
      | some (kind, idx) => fail clsLink (kind * 2 ^ 188 + idx % 256 * 2 ^ 180)
      | none => none

def execCopyComplete (die id : Nat) (s : State) : Out := settle s (s.copyEnd die id)

/-! ## Flits from other packages (R344, R365, R366) -/

/-- A lease's region while the borrower may act on it: taken, or under reclaim before STOPPED. -/
def State.leaseRegion (s : State) (die idx off size : Nat) : Option (Nat × Lent) :=
  match s.lent? die idx with
  | some l =>
    if (l.state == .taken || (l.state == .reclaiming && !l.pushed)) && decide (off + size ≤ l.gran * granule) then
      some (spaceBase 0 die + l.page * 4096 + off, l) else none
  | none => none

/-- Mark the pages that an access writes. -/
def Lent.mark (l : Lent) (off size : Nat) : Lent :=
  let ps := (List.range ((off % 4096 + size + 4095) / 4096)).map fun k => off / 4096 + k
  { l with dirty := l.dirty ++ ps.filter fun p => !(l.dirty.contains p) }

/-- The word that a borrower's atomic leaves (R177, R180). -/
def LeaseOp.apply (op : LeaseOp) (old v : Word) : Word :=
  match op with
  | .combine c => (CombineOp.apply c old v).1
  | .exchange => v
  | .compareSwap new => if old = v then new else old
  | .acquire ctx => if old = 0 then (0x80000 : BitVec 20) ++ ctx else old
  | .release ctx => if old.getLsbD 31 && old.extractLsb' 0 12 == ctx then 0 else old

/-- Mark the pages that an access of a borrower at a physical address of a die writes, where the lease is lent (R366). -/
def Lent.markAt (die a size : Nat) (l : Lent) : Lent :=
  let lo := spaceBase 0 die + l.page * 4096
  if (l.state == .taken || (l.state == .reclaiming && !l.pushed)) && decide (lo ≤ a) && decide (a < lo + l.gran * granule) then
    Lent.mark l (a - lo) size
  else l

def State.markDirty (s : State) (a size : Nat) : State :=
  { s with dies := s.dies.map fun d => { d with lent := d.lent.map (Lent.markAt d.i a size) } }

/-- Bytes that a lease no longer lets a borrower access: it is under reclaim after STOPPED, or quarantined (R368). -/
def State.refusesAt (s : State) (a size : Nat) : Bool :=
  let meets (d : Die) (l : Lent) : Bool :=
    let lo := spaceBase 0 d.i + l.page * 4096
    decide (a < lo + l.gran * granule) && decide (lo < a + size)
  (s.dies.any fun d => d.lent.any fun l => (l.state == .quarantined || (l.state == .reclaiming && l.pushed)) && meets d l) &&
    !(s.dies.any fun d => d.lent.any fun l => (l.state == .taken || (l.state == .reclaiming && !l.pushed)) && meets d l)

/-- The work of a flit that is for this package. A load leaves no state; its data goes back over the link. -/
def State.flitHere (s : State) (b : FlitBody) : State :=
  match b with
  | .leaseLoad .. => s
  | .leaseStore die idx off data => match s.leaseRegion die idx off data.length with
    | some (a, l) => (s.writeN a data).setLent die (l.mark off data.length)
    | none => s
  | .leaseAtomic die idx off op v => match s.leaseRegion die idx off 4 with
    | some (a, l) => (s.writeLe a 4 (LeaseOp.apply op (BitVec.ofNat 32 (s.readLe a 4)) v).toNat).setLent die (l.mark off 4)
    | none => s
  | .red addr op v =>
    if addr < 8 * Config.spaceSize && !(s.refusesAt (addr - addr % 128) 128) then (s.redAt addr (addr - addr % 128 + 120) op v).1.markDirty (addr - addr % 128) 128 else s
  | .copyData addr data =>
    if s.refusesAt addr data.length then s else (s.remoteWrite addr data).markDirty addr data.length

/-- A flit arrives: performed here, or sent on by the ports of its route in turn; one whose package cannot be reached goes nowhere. -/
def State.flit (s : State) (f : Flit) : State :=
  if f.dest = s.fijId.toNat then s.flitHere f.body
  else match s.portTo f.dest with
    | some p => { s with forwarded := s.forwarded ++ [(f, p)] }
    | none => s

def execFijanFlitArrival (flit : Flit) (s : State) : Out := .next (s.flit flit)

end Sys2Proof.Machine
end

