-- ==== Sys2Proof/Machine/Registers.lean ====
section
/-! DEFINITION. The system registers (R47, R48, R225, R248, R289, R295, R297, R302, R306, R312, R318, R338 to R340, R344, R345, R348, R363,
R375): what each index reads, what a write of it does, and the halves and latches of R339. -/

namespace Sys2Proof.Machine

/-- Who accesses a register: through the window of a partition, the issuing context and its tile, or the host. -/
structure RegBy where
  part : Nat
  ctx : Option Nat := none
  tile : Option Nat := none
  deriving DecidableEq, Repr

/-- The context that CTX_SEL of a partition names, if it is of the partition. -/
def State.selected (s : State) (p : Nat) : Option Ctx :=
  match s.part? p with
  | none => none
  | some q => match s.ctx? q.ctxSel.toNat with
    | some x => if x.part == p then some x else none
    | none => none

/-- The context of the registers at 0x0000 to 0x0002. -/
def State.regCtx (s : State) (b : RegBy) : Option Ctx :=
  match b.ctx with
  | some c => s.ctx? c
  | none => s.selected b.part

/-! ## Tiles (R47, R48) -/

/-- The spill area holds an entry. -/
def DTile.spilling (d : DTile) : Bool := d.entries.any fun e => e.spilled

def DTile.msStat (d : DTile) : Nat :=
  d.occ % 2 ^ 13 * 2 ^ 48 + d.hwm % 2 ^ 16 * 2 ^ 32 + d.lwm % 2 ^ 16 * 2 ^ 16 + atBit 1 d.spilling + atBit 0 d.throttle

def DTile.issueStat (d : DTile) : Nat := d.instances % 2 ^ 31 * 2 ^ 32 + d.issues % 2 ^ 28

/-- A write of MS_STAT. -/
def DTile.setMarks (d : DTile) (v : Nat) : DTile := { d with hwm := min 4096 (bits 32 16 v), lwm := min 4096 (bits 16 16 v) }

/-- CLR of ISSUE_STAT. -/
def DTile.clearIssues (d : DTile) : DTile := { d with instances := 0, issues := 0 }

/-! ## The context state block (R318, R358) -/

def CtxState.code : CtxState → Nat
  | .free => 0
  | .runnable => 1
  | .waiting => 2
  | .halted => 3
  | .faulted => 4
  | .swapped => 5

/-- Word 0 (Table 18-2). -/
def Ctx.word0 (x : Ctx) : Nat :=
  x.state.code * 2 ^ 56 + atBit 55 x.dbg + atBit 54 x.sys + x.prio.toNat * 2 ^ 51 + x.creator.toNat * 2 ^ 39 + x.part % 16 * 2 ^ 35 +
    x.id % 2 ^ 12 * 2 ^ 23 + x.srseed.toNat * 2 ^ 7 + atBit 6 x.ordfast + atBit 5 x.spperm + x.status.toNat

/-- Word `w` of the block. CTX_CMD, word 5, reads as zero. -/
def Ctx.word (x : Ctx) (w : Nat) : Nat :=
  match w with
  | 0 => x.word0
  | 1 => x.eqb.toNat
  | 2 => x.fqb.toNat
  | 3 => x.smpb.toNat
  | 4 => x.fhnd.toNat
  | w => if 64 ≤ w then (x.k (w - 64)).toNat else 0

/-- A write of a word: its RW fields. -/
def Ctx.setWord (x : Ctx) (w : Nat) (v : BitVec 64) : Ctx :=
  match w with
  | 0 => { x with dbg := v.getLsbD 55, prio := v.extractLsb' 51 3, srseed := v.extractLsb' 7 16, ordfast := v.getLsbD 6
                  spperm := v.getLsbD 5, status := v.extractLsb' 0 5 }
  | 1 => { x with eqb := v }
  | 2 => { x with fqb := v }
  | 3 => { x with smpb := v }
  | 4 => { x with fhnd := BitVec.ofNat 64 (atBit 31 (v.getLsbD 31) + bits 24 7 v.toNat * 2 ^ 24 + bits 0 14 v.toNat) }
  | w => if 64 ≤ w then { x with kregs := assign (w - 64) v x.kregs } else x

/-- STATE as it reads: SWAPPED while a forme of the context is swapped out, whatever else holds the context (R324; log 95). -/
def State.ctxShown (s : State) (x : Ctx) : Ctx :=
  if s.formes.any fun f => f.ctx == x.id && match f.status with
      | .swapped _ => true
      | _ => false
  then { x with state := .swapped } else x

/-- CTX_CMD on the context that CTX_SEL of a partition names (Table 22-4); none if a queue's header stalls. -/
def State.ctxCmd (s : State) (p cmd handle : Nat) : Option State :=
  match s.selected p with
  | none => some s
  | some x => match cmd with
    | 1 => s.eret x.id 0
    | 2 => s.eret x.id 1
    | 3 => s.eret x.id 2
    | 4 => match s.forme? handle with
      | some f =>
        if f.isLive && f.ctx == x.id then
          let s := s.setCtx { x with unposted := x.unposted.filter fun w => w != .round handle }
          some ((s.killForme f false).restoreState x.id)
        else some s
      | none => some s
    | 5 => if (s.ctxShown x).state == .halted then some ((s.setCtx { x with state := .runnable }).refreshSwapped x.id) else some s
    | 6 => some (s.replayUnposted x.id)
    | _ => some s

/-! ## Doors and jobs (R289, R290, R302) -/

def Part.door (q : Part) (d : Nat) : Door := (q.doors.find? fun a => a.d == d).getD { d := d }
def Part.setDoor (q : Part) (d : Door) : Part := { q with doors := putBy (fun a => a.d == d.d) d q.doors }

def DoorState.code : DoorState → Nat
  | .unbound => 0
  | .absent => 1
  | .loading => 2
  | .resident => 3
  | .failed => 4

def Door.low (d : Door) : Nat :=
  d.ctx.toNat * 2 ^ 52 + atBit 51 d.forme + d.nrec % 2 ^ 13 * 2 ^ 38 + d.base % 2 ^ 16 * 2 ^ 20 + d.tile % 32 * 2 ^ 15 +
    d.state.code * 2 ^ 12 + d.reason % 16 * 2 ^ 8

/-- A new entry: bound or unbound, with nothing loaded. R290 says what STATE becomes; that BASE, TILE and REASON, which software cannot
write, read zero until the next load is the model's choice (DESIGN CHOICE, log 84). -/
def Door.bind (d : Door) (v : BitVec 128) : Door :=
  { d := d.d, image := v.extractLsb' 64 64, ctx := v.extractLsb' 52 12, forme := v.getLsbD 51, nrec := bits 38 13 v.toNat
    state := if v.extractLsb' 64 64 = 0 then .unbound else .absent }

/-- A write of a door entry (R290): it waits while the door loads. -/
def State.doorWrite (s : State) (p d : Nat) (v : BitVec 128) : State :=
  match s.part? p with
  | none => s
  | some q =>
    let e := q.door d
    s.setPart (q.setDoor (if e.state == .loading then { e with pending := some v } else e.bind v))

/-- The disciplined time in nanoseconds. -/
def Fru.now (u : Fru) : Nat := u.sec * 10 ^ 9 + u.ns

/-- Word `w` of a job entry (Table 16-4). -/
def Job.word (j : Job) (w : Nat) : Nat :=
  (j.sec % 2 ^ 48 * 2 ^ 208 + j.ns % 2 ^ 30 * 2 ^ 178 + j.guardUs % 2 ^ 16 * 2 ^ 162 + j.nlevm1 % 4 * 2 ^ 160 + j.level % 4 * 2 ^ 158 +
    atBit 157 j.bestEffort + atBit 156 j.valid + j.drops % 256 * 2 ^ 148 + j.total % 2 ^ 32 * 2 ^ 96 + j.done % 2 ^ 32 * 2 ^ 64 +
    j.start % 2 ^ 64) / 2 ^ (64 * w) % 2 ^ 64

/-- A write of a job entry: with VALID it launches the job. POLICY stays while VALID does. -/
def Job.write (j : Job) (v : BitVec 256) (now : Nat) : Job :=
  let n := v.toNat
  let j' : Job := { j with sec := bits 208 48 n, ns := bits 178 30 n, guardUs := bits 162 16 n, nlevm1 := bits 160 2 n
                           bestEffort := if j.valid && bit 156 n then j.bestEffort else bit 157 n, valid := bit 156 n, total := bits 96 32 n }
  if bit 156 n then { j' with start := now, done := 0, level := 0, drops := 0, request := none } else { j' with request := none }

def Part.jobAt (q : Part) (j : Nat) : Job := (q.job? j).getD { j := j }

def State.jobWrite (s : State) (p j : Nat) (v : BitVec 256) : State :=
  match s.part? p with
  | some q => s.setPart (q.setJob ((q.jobAt j).write v s.fru.now))
  | none => s

/-! ## Module registers (R26, R345, R348, R375, R378, R380, R381) -/

/-- The figures of Table 1-8, MHz: islands, then everything else. -/
def modeClocks (m : BitVec 3) : List Nat :=
  match m.toNat with
  | 0 => [3300, 3300]
  | 1 => [3300, 2400]
  | 2 => [2400, 3300]
  | 3 => [3000, 3000]
  | _ => [2400, 2400]

/-- Some clock runs below its figure. -/
def State.throttled (s : State) : Bool := (s.clocks.zip (modeClocks s.pmode)).any fun e => decide (e.1 < e.2)

/-- A write of PMODE; 5 to 7 are ignored. -/
def State.setMode (s : State) (m : BitVec 3) : State := if m.toNat < 5 then { s with pmode := m } else s

/-- FWGO. -/
def State.fwGo (s : State) : State := if s.fwst == .wait || s.fwst == .rejected then { s with fwst := .check } else s

def FwState.code : FwState → Nat
  | .wait => 0
  | .check => 1
  | .run => 2
  | .rejected => 3

def FruState.code : FruState → Nat
  | .freeRun => 0
  | .acquiring => 1
  | .locked => 2
  | .holdover => 3

/-- An entry of the readiness map: the FRU's is READY only while it is locked. -/
def State.unitCode (s : State) (e : Nat) : Nat :=
  if e = 22 then (s.fru.state == .locked).toNat else ((lookup e s.readyUnits).getD 0).toNat

/-- Entries `lo` to `lo + n - 1` side by side. -/
def State.unitCodes (s : State) (lo n : Nat) : Nat := (List.range n).foldl (fun v i => v + s.unitCode (lo + i) * 4 ^ i) 0

/-- A read of NOWS latches NOWNS. -/
def State.nowsRead (s : State) : State := { s with fru := { s.fru with nowns := s.fru.ns } }

def State.linkAt (s : State) (n : Nat) : Option LinkState := s.links.find? fun l => l.n == n
def State.setLink (s : State) (l : LinkState) : State := { s with links := putBy (fun a => a.n == l.n) l s.links }

def LinkState.stat (l : LinkState) : Nat := l.retrains % 2 ^ 16 * 2 ^ 32 + l.peer.toNat

/-! ## What an index reads -/

/-- Partition registers 0x0100 to 0x0108. -/
def State.partReg (s : State) (q : Part) (i : Nat) : Nat :=
  match i with
  | 0 => q.stgsz % 2 ^ 16 * 2 ^ 32 + q.qbound % 2 ^ 32
  | 1 => q.ageb % 2 ^ 32 * 2 ^ 32 + q.slice % 2 ^ 24 * 2 ^ 8
  | 2 => q.otpfn % 2 ^ 36 * 2 ^ 28 + q.otlen % 2 ^ 24
  | 3 => q.sppfn % 2 ^ 36 * 2 ^ 28 + q.sppg % 2 ^ 20
  | 4 => (match q.extState with
      | .idle => 0
      | .busy => 1
      | .held => 2
      | .refused => 3) * 2 ^ 60 + q.extReason % 8 * 2 ^ 57 + q.extIdx.toNat * 2 ^ 40 + q.extObj.toNat
  | 5 => q.hqlost % 2 ^ 15 * 2 ^ 48 + q.faild % 2 ^ 16 * 2 ^ 32 + q.ovrun % 2 ^ 16 * 2 ^ 16 + q.malf % 2 ^ 16
  | 6 => q.hqb.toNat
  | 7 => q.ctxSel.toNat
  | _ => match s.die? (q.p / 4) with
    | some d => atBit 2 d.splitRefused + d.split.toNat
    | none => 0

/-- Module registers. -/
def State.moduleReg (s : State) (i : Nat) : Option Nat :=
  if i = 0x2000 then some s.fru.tod.toNat
  else if i = 0x2001 then some (s.fru.sec % 2 ^ 48)
  else if i = 0x2002 then some (s.fru.nowns % 2 ^ 30)
  else if i = 0x2003 then
    some (s.fru.offset.toNat * 2 ^ 16 + (s.fru.pend.foldl (fun n r => n + 2 ^ (r.slot % 8)) 0) % 256 * 2 ^ 8 + s.fru.state.code)
  else if i < 0x3000 then none
  else if i < 0x3006 || (0x3010 ≤ i && i < 0x3020) || (0x3020 ≤ i && i < 0x3024) then
    some (match s.linkAt (i - 0x3000) with
      | some l => l.stat
      | none => 0)
  else if i = 0x3030 then some s.fijId.toNat
  else if 0x3040 ≤ i && i < 0x3044 then
    some (match s.die? (i - 0x3040) with
      | some d => d.demand % 2 ^ 16 * 2 ^ 32 + d.qtime % 2 ^ 16 * 2 ^ 16 + d.rbwSum % 2 ^ 16
      | none => 0)
  else if 0x3400 ≤ i && i < 0x3800 then some ((lookup (i - 0x3400) s.routes).getD 0).toNat
  else if i = 0x4000 then some s.readyBays.toNat
  else if i = 0x4001 then some (s.unitCodes 0 32)
  else if i = 0x4002 then
    some (s.pmode.toNat * 2 ^ 61 + atBit 60 s.throttled + s.fwst.code * 2 ^ 58 + s.cecnt % 2 ^ 24 * 2 ^ 16 + s.unitCodes 32 7)
  else none

/-- The tile that an index 0x0600 + 2i names, if it is of the partition. -/
def State.regTile (s : State) (p i : Nat) : Option Nat :=
  let t := p / 4 * 32 + (i - 0x600) / 2
  if s.unitPart t == p then some t else none

/-- The 64 bits of a listed index; none for an unlisted one. -/
def State.regRead (s : State) (b : RegBy) (i : Nat) : Option Nat :=
  if i < 3 then
    some (match s.regCtx b with
      | none => 0
      | some x => match i with
        | 0 => x.status.toNat
        | 1 => x.srseed.toNat
        | _ => x.id % 2 ^ 12 + x.prio.toNat * 2 ^ 12 + x.part % 16 * 2 ^ 16 + atBit 20 x.spperm + atBit 21 x.ordfast)
  else if i = 0x10 || i = 0x11 then
    some (match b.tile with
      | some t => if i = 0x10 then (s.tile t).msStat else (s.tile t).issueStat
      | none => 0)
  else match s.part? b.part with
    | none => none
    | some q =>
      if 0x100 ≤ i && i < 0x109 then some (s.partReg q (i - 0x100))
      else if 0x200 ≤ i && i < 0x280 then
        let d := q.door ((i - 0x200) / 2)
        some (if i % 2 = 1 then d.image.toNat else d.low)
      else if 0x400 ≤ i && i < 0x500 then
        some (match q.queues.find? fun e => e.q == i - 0x400 with
          | some e => e.va.toNat
          | none => 0)
      else if 0x600 ≤ i && i < 0x640 then
        some (match s.regTile b.part i with
          | some t => if i % 2 = 0 then (s.tile t).msStat else (s.tile t).issueStat
          | none => 0)
      else if 0x800 ≤ i && i < 0x900 then some ((q.jobAt ((i - 0x800) / 4)).word (i % 4))
      else if 0xC00 ≤ i && i < 0xC80 then
        some (match s.selected b.part with
          | some x => (s.ctxShown x).word (i - 0xC00)
          | none => 0)
      else s.moduleReg i

/-- Indices that a SYSWR may write. Table 21-2 gives FIJ_ID (0x3030) no access of its own beside FW: it can be written, as the module's other
registers of that range (DESIGN CHOICE, log 106). -/
def regWritable (i : Nat) : Bool :=
  i == 0 || i == 1 || i == 0x10 || i == 0x11 || (decide (0x100 ≤ i) && decide (i < 0x109)) || (decide (0x200 ≤ i) && decide (i < 0x280)) ||
    (decide (0x400 ≤ i) && decide (i < 0x500)) || (decide (0x600 ≤ i) && decide (i < 0x640)) || (decide (0x800 ≤ i) && decide (i < 0x900)) ||
    (decide (0xC00 ≤ i) && decide (i < 0xC06)) || (decide (0xC40 ≤ i) && decide (i < 0xC80)) || i == 0x2000 ||
    (decide (0x3000 ≤ i) && decide (i < 0x3006)) || (decide (0x3010 ≤ i) && decide (i < 0x3024)) || i == 0x3030 ||
    (decide (0x3040 ≤ i) && decide (i < 0x3044)) || (decide (0x3400 ≤ i) && decide (i < 0x3800)) || i == 0x4002

/-- Indices that a user context may read (Table 8-12). -/
def regUser (i : Nat) : Bool := decide (i < 3) || i == 0x10 || i == 0x11

/-- Registers whose bits [63:32] are all reserved. -/
def regShort (i : Nat) : Bool := i == 0 || i == 1 || i == 0x107 || i == 0x108 || i == 0xC04 || i == 0x3030

/-! ## What a write does -/

/-- Write PART_SPILL: entries in the area that is left are lost (R312). -/
def State.spillWrite (s : State) (q : Part) (v : Nat) : State :=
  let pfn := bits 28 36 v
  let pg := bits 0 20 v
  let s := s.setPart { q with sppfn := pfn, sppg := pg }
  if pfn = q.sppfn ∧ pg = q.sppg then s
  else (s.partTiles q.p).foldl (fun s t =>
    let d := s.tile t
    if d.spilling then s.setTile { d with entries := d.entries.filter fun e => !e.spilled } else s) s

/-- Write a tile register. -/
def State.tileWrite (s : State) (t : Nat) (issue : Bool) (v : Nat) : State :=
  let d := s.tile t
  if issue then (if bit 63 v then s.setTile d.clearIssues else s) else s.setTile (d.setMarks v)

/-- The words of a wide register that wait, with the new highest one: from the registers where none waits (R338). -/
def State.wideValue (s : State) (b : RegBy) (q : Part) (base n : Nat) (top : BitVec 64) : Nat :=
  (List.range (n - 1)).foldl (fun v k =>
    v + ((lookup (base + k) q.wide).map BitVec.toNat).getD ((s.regRead b (base + k)).getD 0) * 2 ^ (64 * k)) (top.toNat * 2 ^ (64 * (n - 1)))

/-- Forget the words that waited. -/
def Part.dropWide (q : Part) (base n : Nat) : Part := { q with wide := q.wide.filter fun e => !(decide (base ≤ e.1) && decide (e.1 < base + n)) }

/-- Write module registers, FIJ_ID among them (log 106); none if a queue's header stalls. -/
def State.moduleWrite (s : State) (i : Nat) (v : BitVec 64) : Option State :=
  let n := v.toNat
  if i = 0x2000 then some { s with fru := { s.fru with tod := v.extractLsb' 0 48, todWritten := true } }
  else if 0x3000 ≤ i ∧ i < 0x3024 then
    some (match s.linkAt (i - 0x3000) with
      | some l => if bits 32 16 n = 0 then s else s.setLink { l with retrains := 0 }
      | none => s)
  else if i = 0x3030 then some { s with fijId := v.extractLsb' 0 10 }
  else if 0x3040 ≤ i ∧ i < 0x3044 then s.leaseCfg (i - 0x3040) v
  else if 0x3400 ≤ i ∧ i < 0x3800 then
    some { s with routes := assign (i - 0x3400) (BitVec.ofNat 64 (atBit 63 (bit 63 n) + bits 20 4 n * 2 ^ 20 + bits 0 16 n)) s.routes }
  else if i = 0x4002 then
    let s := s.setMode (v.extractLsb' 61 3)
    let s := if v.getLsbD 57 then s.fwGo else s
    some (if v.getLsbD 40 then { s with cecnt := 0 } else s)
  else some s

/-- Write all 64 bits of a register. -/
def State.regWrite (s : State) (b : RegBy) (i : Nat) (v : BitVec 64) : Option State :=
  let n := v.toNat
  if i = 0 ∨ i = 1 then
    some (match s.regCtx b with
      | some x => s.setCtx (if i = 0 then { x with status := v.extractLsb' 0 5 } else { x with srseed := v.extractLsb' 0 16 })
      | none => s)
  else if i = 0x10 ∨ i = 0x11 then
    some (match b.tile with
      | some t => s.tileWrite t (i == 0x11) n
      | none => s)
  else match s.part? b.part with
    | none => some s
    | some q =>
      if i = 0x100 then some (s.setPart { q with stgsz := max 64 (bits 32 16 n), qbound := max 1024 (bits 0 32 n) })
      else if i = 0x101 then some (s.setPart { q with ageb := max 4096 (bits 32 32 n), slice := max 4096 (bits 8 24 n) })
      else if i = 0x102 then some (s.setPart { q with otpfn := bits 28 36 n, otlen := bits 0 24 n })
      else if i = 0x103 then some (s.spillWrite q n)
      else if i = 0x104 then some (s.extWrite b.part v)
      else if i = 0x105 then some (if bit 63 n then s.setPart { q with hqlost := 0, faild := 0, ovrun := 0, malf := 0 } else s)
      else if i = 0x106 then some (s.setPart { q with hqb := v })
      else if i = 0x107 then some (s.setPart { q with ctxSel := v.extractLsb' 0 12 })
      else if i = 0x108 then some (s.splitWrite (b.part / 4) v)
      else if 0x200 ≤ i ∧ i < 0x280 then
        let base := i / 2 * 2
        if i % 2 = 0 then some (s.setPart { q with wide := assign i v q.wide })
        else some ((s.setPart (q.dropWide base 2)).doorWrite b.part ((base - 0x200) / 2) (BitVec.ofNat 128 (s.wideValue b q base 2 v)))
      else if 0x400 ≤ i ∧ i < 0x500 then
        let e := (q.queues.find? fun e => e.q == i - 0x400).getD { q := i - 0x400, va := 0 }
        some (s.setPart { q with queues := putBy (fun a => a.q == e.q) { e with va := v } q.queues })
      else if 0x600 ≤ i ∧ i < 0x640 then
        some (match s.regTile b.part i with
          | some t => s.tileWrite t (i % 2 == 1) n
          | none => s)
      else if 0x800 ≤ i ∧ i < 0x900 then
        let base := i / 4 * 4
        if i % 4 ≠ 3 then some (s.setPart { q with wide := assign i v q.wide })
        else some ((s.setPart (q.dropWide base 4)).jobWrite b.part ((base - 0x800) / 4) (BitVec.ofNat 256 (s.wideValue b q base 4 v)))
      else if i = 0xC05 then s.ctxCmd b.part (bits 0 3 n) (bits 48 16 n)
      else if 0xC00 ≤ i ∧ i < 0xC80 then
        some (match s.selected b.part with
          | some x => s.setCtx (x.setWord (i - 0xC00) v)
          | none => s)
      else s.moduleWrite i v

/-! ## Halves and latches (R339) -/

/-- A register's low half as a write of the high half alone leaves it, of a word that waits that of the word (R338); bits that a write
clears or starts are written as zero. -/
def State.keptLow (s : State) (b : RegBy) (i : Nat) : Nat :=
  if i = 0x108 then 0
  else match (s.part? b.part).bind fun q => lookup i q.wide with
    | some w => w.toNat % 2 ^ 32
    | none => (s.regRead b i).getD 0 % 2 ^ 32

/-- The value that a write of a high half makes, given what a latch holds. -/
def State.highValue (s : State) (b : RegBy) (i : Nat) (latch : Option (Nat × Word)) (v : Word) : BitVec 64 :=
  match latch with
  | some (j, lo) => if j = i then v ++ lo else BitVec.ofNat 64 (v.toNat * 2 ^ 32 + s.keptLow b i)
  | none => BitVec.ofNat 64 (v.toNat * 2 ^ 32 + s.keptLow b i)

/-- SYSWR at its commit. -/
def State.sysWrite (s : State) (b : RegBy) (c : Nat) (hi : Bool) (i : Nat) (v : Word) : Option State :=
  match s.ctx? c with
  | none => some s
  | some x =>
    if hi then
      if regShort i then some (s.setCtx { x with writeLatch := none })
      else (s.setCtx { x with writeLatch := none }).regWrite b i (s.highValue b i x.writeLatch v)
    else if regShort i then (s.setCtx { x with writeLatch := none }).regWrite b i (v.setWidth 64)
    else some (s.setCtx { x with writeLatch := some (i, v) })

/-- What reading a register does beside giving its value: a read of NOWS latches NOWNS (Table 21-7). -/
def State.regTouched (s : State) (i : Nat) : State := if i = 0x2001 then s.nowsRead else s

/-- The high half of a register in a read latch; none where the latch holds no half of it. -/
def latchFor (latch : Option (Nat × Word)) (i : Nat) : Option Word :=
  match latch with
  | some (j, w) => if j = i then some w else none
  | none => none

/-- SYSRD: the half, with the latch and NOWNS after it. -/
def State.sysRead (s : State) (b : RegBy) (c : Nat) (hi : Bool) (i : Nat) : Word × State :=
  let v := (s.regRead b i).getD 0
  match s.ctx? c with
  | none => (0, s)
  | some x =>
    if hi then match latchFor x.readLatch i with
      | some w => (w, s.setCtx { x with readLatch := none })
      | none => (BitVec.ofNat 32 (v / 2 ^ 32), s.regTouched i)
    else (BitVec.ofNat 32 v, (s.regTouched i).setCtx { x with readLatch := some (i, BitVec.ofNat 32 (v / 2 ^ 32)) })

/-- A host write through BAR0. -/
def State.hostRegWrite (s : State) (acc : RegAccess) (i : Nat) (v : BitVec 64) : Option State :=
  let go (p : Nat) (hi full : Bool) : Option State :=
    let b : RegBy := { part := p }
    match s.part? p with
    | none => some s
    | some q =>
      if full then s.regWrite b i v
      else if hi then
        if regShort i then some (s.setPart { q with barWrite := none })
        else (s.setPart { q with barWrite := none }).regWrite b i (s.highValue b i q.barWrite (v.extractLsb' 0 32))
      else if regShort i then (s.setPart { q with barWrite := none }).regWrite b i (BitVec.ofNat 64 (v.toNat % 2 ^ 32))
      else some (s.setPart { q with barWrite := some (i, v.extractLsb' 0 32) })
  match acc with
  | .low p => go p false false
  | .high p => go p true false
  | .full p => go p false true

/-- A host read through BAR0 (R339): what it returns, and the state after it. A low word leaves the high one in the window's latch, a high
word takes it from there, and 8 bytes need no latch. -/
def State.hostRegRead (s : State) (acc : RegAccess) (i : Nat) : BitVec 64 × State :=
  let go (p : Nat) (hi full : Bool) : BitVec 64 × State :=
    let v := (s.regRead { part := p } i).getD 0
    match s.part? p with
    | none => (0, s)
    | some q =>
      if full then (BitVec.ofNat 64 v, s.regTouched i)
      else if hi then match latchFor q.barRead i with
        | some w => (w.setWidth 64, s.setPart { q with barRead := none })
        | none => (BitVec.ofNat 64 (v / 2 ^ 32), s.regTouched i)
      else (BitVec.ofNat 64 (v % 2 ^ 32), (s.regTouched i).setPart { q with barRead := some (i, BitVec.ofNat 32 (v / 2 ^ 32)) })
  match acc with
  | .low p => go p false false
  | .high p => go p true false
  | .full p => go p false true

end Sys2Proof.Machine
end

