-- ==== Sys2Proof/Machine/System.lean ====
section
/-! DEFINITION. Group 0xF, system records (R87, R193, R223 to R226). -/

namespace Sys2Proof.Machine

/-- NOP passes its token as a computing record does (R192). -/
def execNop (r : Shell) (s : State) : Out := s.fireActive r fun f t => some (t.sendBoth f r (f.port r 0))

def execTrap (code : BitVec 16) (r : Shell) (s : State) : Out := s.fireLater r (.trap code r) 0
def execBrk (code : BitVec 16) (r : Shell) (s : State) : Out := s.fireLater r (.brk code r) 0
def execHalt (r : Shell) (s : State) : Out := s.fireLater r (.halt r) 0

/-- How a firing reaches registers. -/
def Firing.regBy (f : Firing) : RegBy := { part := f.part, ctx := some f.ctx, tile := some f.tile }

/-- Keep the read latch as an instance's first SYSRD finds it (R339). -/
def State.keepLatch (s : State) (f : Firing) : State :=
  match s.galleyOf f with
  | some g => if g.latch.isNone then s.setGalley f.tile { g with latch := some (s.ctxOf f).readLatch } else s
  | none => s

/-- Clear bits of CTX_STATUS. -/
def State.clearStatus (s : State) (c : Nat) (v : Word) : State :=
  match s.ctx? c with
  | some x => s.setCtx { x with status := x.status &&& ~~~(v.extractLsb' 0 5) }
  | none => s

/-- SYSRD (R225, R339). With .CLR the bits that it returns are cleared. -/
def execSysrd (clr hi : Bool) (index : BitVec 16) (r : Shell) (s : State) : Out :=
  s.fireActive r fun f t =>
    let i := index.toNat
    if !(t.ctxOf f).sys && !(regUser i) then t.privFault f
    else
      let (v, t) := (t.keepLatch f).sysRead f.regBy f.ctx hi i
      let t := if clr && !hi then t.clearStatus f.ctx v else t
      some (t.sendBoth f r (.data v))

/-- SYSWR, system-only; an index that is not writable is a permission fault (R225). -/
def execSyswr (hi : Bool) (index : BitVec 16) (r : Shell) (s : State) : Out :=
  s.fireActive r fun f t =>
    if (t.ctxOf f).sys && regWritable index.toNat then some (t.actLater f r (.syswr hi index r) 0) else t.privFault f

/-- ERET, legal only in a fault-handler instance (R224, R358). -/
def execEret (r : Shell) (s : State) : Out :=
  s.fireActive r fun f t =>
    let handler := f.hnd || match t.galleyOf f with
      | some g => g.hnd
      | none => false
    if handler then some (t.actLater f r (.eret r) 0) else t.privFault f

/-- A counter of the issuing tile: SEL 0 counts steps of the model; an unlisted SEL is zero. -/
def State.perf (s : State) (t sel : Nat) : Nat := if sel = 0 then s.clock % 2 ^ 64 else (s.tile t).perf.getD sel 0

def execPerf (hi : Bool) (sel : BitVec 8) (r : Shell) (s : State) : Out :=
  s.fireActive r fun f t =>
    let v := t.perf f.tile sel.toNat
    some (t.sendBoth f r (.data (BitVec.ofNat 32 (if hi then v / 2 ^ 32 else v))))

def execMarker (r : Shell) (s : State) : Out := s.firePriv r (.marker r) 0
def execSnap (r : Shell) (s : State) : Out := s.firePriv r (.snap r) 0

end Sys2Proof.Machine
end

