-- ==== Sys2Proof/Machine/Swap.lean ====
section
/-! DEFINITION. Swaps and markers on a chase: quiescence (R58, R186, R244), FSWAP and its refusal (R245 to R247), the marker protocol (R319
to R322, R328), SNAP (R226, R323, R333), and the first live cycle of a forme (R246, R325). -/

namespace Sys2Proof.Machine

/-! ## Quiescence (R58, R186, R244) -/

/-- OR sticky bits into the status of a context (R58). -/
def State.foldStatus (s : State) (c : Nat) (st : Sticky) : State :=
  match s.ctx? c with
  | some x => s.setCtx { x with status := x.status ||| st }
  | none => s

/-- The sticky bits of the elements of a core, and the core without them. -/
def Core.stickies (c : Core) : Sticky := c.elems.foldl (fun st e => st ||| e.sticky) 0
def Core.clearStickies (c : Core) : Core := { c with elems := c.elems.map fun e => { e with sticky := 0 } }

/-- Fold the sticky bits of a stream-mode forme at its quiescence after EOS. -/
def State.foldForme (s : State) (f : Forme) : State :=
  if f.cfg.stream && f.run.eosSeen then
    (s.putCore { f with run := { f.run with eosSeen := false } } f.run.core.clearStickies).foldStatus f.ctx f.run.core.stickies
  else s

/-- The quiescence tree reports the chase of a forme empty: sticky bits fold, and a swap that waits goes on. -/
def State.reportQuiet (s : State) (h : Nat) : Option State :=
  match s.forme? h with
  | none => none
  | some f =>
    if !(s.quiet f) then none
    else
      let s := match s.liveOn f with
        | some g => s.foldForme g
        | none => s
      match s.forme? h with
      | some f => some (if f.swap == .waiting then s.setForme { f with swap := .reported } else s)
      | none => some s

def execQuiescenceReport (h : Nat) (s : State) : Out := settle s (s.reportQuiet h)

/-- The bound of a QUIESCE expires: it returns 0. -/
def State.quiesceOver (s : State) (tile node : Nat) (tag : Tag) : Option State :=
  let mine (q : QuiesceWait) : Bool := q.tile == tile && q.node == node && q.tag == tag
  if !(s.quiesces.any mine) then none
  else match (s.tile tile).record? node, s.gatherInst tile node tag with
    | some (.quiesce r), some (f, t) =>
      some (({ t with quiesces := t.quiesces.filter fun q => !(mine q) } : State).sendBoth f r (.data 0))
    | _, _ => none

def execQuiesceBoundExpiry (tile node : Nat) (tag : BitVec 64) (s : State) : Out := settle s (s.quiesceOver tile node tag)

/-! ## The stray token of a refused swap (R247, Table 10-1) -/

/-- A token found in a chase: the key of its rank, its place as the record shows it, its bits and its route tag. -/
structure Stray where
  key : List Nat
  place : Nat
  bits : Nat
  rt : BitVec 4
  deriving DecidableEq, Repr

/-- Place bits: bay, kind (0 element queue, 1 link, 2 tile, 3 AG input), x and y in the bay, port. -/
def strayPlace (bay kind x y port : Nat) : Nat :=
  bay % 256 * 2 ^ 24 + kind % 4 * 2 ^ 22 + x % 8 * 2 ^ 19 + y % 8 * 2 ^ 16 + port % 4 * 2 ^ 14

/-- The bays whose switches a link's token may stand in: those on the path of its arc. -/
def LinkTok.way (routing : List (List Nat)) (l : LinkTok) : List Nat :=
  let from_ : Option Nat := match l.src with
    | .elem x y => some (y / 8 * 16 + x / 8)
    | .fifo b | .ag b _ | .closing b _ _ => some b
    | .outside _ => none
  let to_ : Option Nat := match l.dst with
    | .elem x y _ => some (y / 8 * 16 + x / 8)
    | .tile b _ | .ag b _ => some b
    | _ => none
  match from_, to_ with
  | some a, some b => (routing.find? fun p => p.head? == some a && p.getLast? == some b).getD (directPath a b)
  | some a, none | none, some a => [a]
  | none, none => [0]

/-- A wire as a record shows it: the stored form of Table 2-1, or of a scale token of Table 2-3. -/
def Wire.shown (rt : BitVec 4) : Wire → Nat
  | .tok t => pinnedBits rt t
  | .scale b e => rt.toNat * 2 ^ 28 + b.toNat * 2 ^ 8 + e.toNat

/-- A token that has left its producer, the `n`th of its chase. How far it has come is timing, so a free value `v` says it (log 92): it may still
be a result in its element's pipeline, or stand in a switch or on a link of a bay on its way, in some direction. -/
def LinkTok.found (routing : List (List Nat)) (k : LinkTok) (n v : Nat) : Stray :=
  let way := k.way routing
  let bay := way.getD (v / 8 % max 1 way.length) 0
  let onLink : Stray := { key := [bay, 3], place := strayPlace bay 1 0 0 (v / 2 % 4), bits := k.wire.shown k.rt, rt := k.rt }
  match k.src with
  | .elem x y => if v % 2 = 1 then
      let own := y / 8 * 16 + x / 8
      { onLink with key := [own, 2, y, x, n], place := strayPlace own 0 x y 0 }
    else onLink
  | _ => onLink

/-- The tokens between their producers and their consumers. -/
def State.linkStrays (s : State) (routing : List (List Nat)) (l : List LinkTok) : List Stray × State :=
  l.zipIdx.foldl (fun acc k =>
    let (v, s) := acc.2.draw
    (acc.1 ++ [k.1.found routing k.2 v.toNat], s)) ([], s)

/-- The tokens of a chase, each with its rank: those of an element's scale latch rank behind its queues. -/
def State.strays (s : State) (f : Forme) : List Stray × State :=
  let c := f.run.core
  let (links, s) := s.linkStrays f.cfg.routing c.links
  ((c.elems.flatMap fun e =>
    let bay := e.y / 8 * 16 + e.x / 8
    ((List.range 4).flatMap fun k => (e.queue k).map fun t =>
      { key := [bay, 1, e.y, e.x, k], place := strayPlace bay 0 e.x e.y k, bits := pinnedBits t.rt t.tok, rt := t.rt }) ++
    e.scales.map fun k => { key := [bay, 1, e.y, e.x, 4], place := strayPlace bay 0 e.x e.y 0, bits := k.num, rt := k.rt }) ++ links ++
  (c.ags.flatMap fun a => (List.range 4).flatMap fun k => (a.input k).map fun t =>
    { key := [a.bay, 4, k], place := strayPlace a.bay 3 0 0 k, bits := pinnedBits t.rt t.tok, rt := t.rt }) ++
  c.fifos.flatMap fun q => q.ring.map fun t =>
    { key := [q.bay, 5], place := strayPlace q.bay 2 0 0 0, bits := pinnedBits t.rt t.tok, rt := t.rt }, s)

/-- The payload of class 10 for a chase; without a token in it, zero. -/
def State.strayPay (s : State) (f : Forme) : Nat × State :=
  let (l, s) := s.strays f
  (match leastBy (fun (a b : Stray) => keyLt a.key b.key) l with
  | none => 0
  | some t =>
    let e := f.run.core.routeEntry t.rt
    (if e.valid then e.tag.toNat else 0) * 2 ^ 128 + t.bits * 2 ^ 64 + min 0xFFFF l.length * 2 ^ 48 + t.place, s)

/-! ## FSWAP (R245, R246) -/

/-- The bound of an FSWAP expires before the report: the swap is refused. Where the tree finds the chase empty the report decides (R245,
R264). -/
def State.swapRefused (s : State) (h : Nat) : Option State :=
  match s.forme? h with
  | none => none
  | some f =>
    if f.swap != .waiting || s.quiet f then none
    else
      let posted := match s.liveOn f with
        | none => some s
        | some g =>
          let (pay, s) := s.strayPay g
          s.postPart f.part { ctx := g.ctx, src := 0, srcid := g.handle, cls := clsStray, prec := 3 } pay
      posted.map fun s => ((s.setForme { f with swap := .idle, reply := none }).answerOpt f.reply (.data 0)).retryLoads

def execFswapBoundExpiry (h : Nat) (s : State) : Out := settle s (s.swapRefused h)

/-- Live and standing planes are exchanged after the report: the old forme stands again from its image, and the tokens held at the boundary
go to the new one. -/
def State.exchangePlanes (s : State) (h : Nat) : Option State :=
  match s.forme? h with
  | none => none
  | some f =>
    if f.swap != .reported || f.status != .standing then none
    else
      let f' : Forme := { f with status := .entering, swap := .idle, run := f.cfg.start, mark := none, since := s.clock }
      match s.liveOn f with
      | none => some (s.setForme f')
      | some g =>
        let s := (s.doorsAbsent g.part g.handle).setForme { g with
          status := .standing, swap := .idle, run := {}, held := [], mark := none, reply := none, yielded := false }
        some (s.setForme { f' with held := f'.held ++ g.held })

def execPlaneExchange (h : Nat) (s : State) : Out := settle s (s.exchangePlanes h)

/-- No job owes a forme that starts afresh a parameter set: it has set 0 (R303). -/
def State.unowed (s : State) (p h : Nat) : State :=
  match s.part? p with
  | some q => s.setPart { q with jobs := q.jobs.map fun j => { j with owed := j.owed.filter fun k => k != h } }
  | none => s

/-- The first live cycle: a restored forme takes its link tokens, any other starts from its image; FSWAP sends 1. -/
def State.firstLive (s : State) (h : Nat) : Option State :=
  match s.forme? h with
  | none => none
  | some f =>
    if f.status != .entering then none
    else
      let f' : Forme := match f.mark with
        | some m => { f with run := { f.run with core := m.linkToks.foldl (Core.placeLink (some s.clock)) f.run.core }, mark := none }
        | none => { f with run := f.cfg.start, held := f.cfg.savedHeld ++ f.held }
      let s := if f.mark.isNone then s.unowed f.part h else s
      let s := s.setForme { f' with status := .live, since := s.clock, reply := none, yielded := false }
      some (((s.answerOpt f.reply (.data 1)).refreshSwapped f.ctx).retryLoads)

def execFormeFirstLiveCycle (h : Nat) (s : State) : Out := settle s (s.firstLive h)

/-! ## The marker protocol (R319 to R321) -/

/-- The ports on which an element's record expects tokens. -/
def Forme.expected (f : Forme) (x y : Nat) : List Nat :=
  match (f.record? x y).bind Instr.shell? with
  | some r => expectedPorts r
  | none => []

/-- The nodes of the chase that an element passes its marker to: UNROUTE absorbs it (R35), and none leaves the chase. Scale tokens carry no
flags (R30, R320), so a SCIN passes its marker to port 0 of its SMUL or SFMA (DESIGN CHOICE, log 108). -/
def Forme.markDests (f : Forme) (x y : Nat) : List Dest :=
  match f.record? x y with
  | none => []
  | some (.unroute ..) => []
  | some i => match i.shell? with
    | none => []
    | some r => [r.dsta, r.dstb].map fun d => f.dest x y d

/-- Put one marker on the link to each destination in the chase: none leaves it (R35). -/
def Core.sendMarks (c : Core) (src : Src) (ds : List Dest) : Core :=
  (ds.filter fun d => match d with
    | .elem .. | .tile .. | .ag .. => true
    | _ => false).foldl (fun c d => c.putLink { src := src, dst := d, rt := 0, wire := .tok .marker }) c

/-- An element saves: it starts no firing from here on. The first save closes the open round to a commit that has not all its ROUNDEND
tokens (R328). -/
def Forme.saveElem (f : Forme) (x y : Nat) : Forme :=
  match f.mark with
  | none => f
  | some m =>
    if m.saved.contains (x, y) then f
    else { f with mark := some { m with
      saved := m.saved ++ [(x, y)], roundHeld := if m.saved.isEmpty then m.roundHeld || (!f.cfg.stream && !f.sealed) else m.roundHeld } }

/-- A saved element whose every expected port has carried a marker passes markers on. -/
def Forme.passMark (f : Forme) (x y : Nat) : Forme :=
  match f.mark with
  | none => f
  | some m =>
    if m.passed.contains (x, y) || !(m.saved.contains (x, y)) || !((f.expected x y).all fun k => m.ports.contains (x, y, k)) then f
    else { f with
      mark := some { m with passed := m.passed ++ [(x, y)] }
      run := { f.run with core := f.run.core.sendMarks (.elem x y) (f.markDests x y) } }

/-- A list without the last `k` of its members that meet a condition. -/
def dropLatest {α : Type} (p : α → Bool) (k : Nat) (l : List α) : List α :=
  (l.foldr (fun x (acc : List α × Nat) => if p x && decide (acc.2 < k) then (acc.1, acc.2 + 1) else (x :: acc.1, acc.2)) ([], 0)).1

/-- Pause an open read stream: its undelivered words are discarded, and its position is that of the first of them. Words that it sent before an
SSEEK, and those of an earlier stream, are on their way: no position brings them back, and they are delivered ahead of the marker. -/
def Core.pauseRead (c : Core) (bay n : Nat) : Core :=
  let sl := c.slot bay n
  if !sl.opened || sl.write then c
  else
    let mine (l : LinkTok) : Bool := l.src == .ag bay n && l.dst == sl.consumer
    let ended := sl.eos && ((c.links.filter mine).getLast?.map LinkTok.wire) == some (.tok .eos)
    let k := min sl.run (c.links.filter (sl.wordOf bay)).length
    let back := sl.sentBytes k
    let c := c.setSlot bay { sl with
      pos := sl.pos - back, moved := sl.moved - back, eos := sl.eos && !ended, sent := sl.sent.drop k, run := sl.run - k }
    ({ c with links := dropLatest mine (k + ended.toNat) c.links }).sendMarks (.ag bay n) [sl.consumer]

/-- Pause a running pass in the same way: the words that follow the EOS of the pass before it are its own. -/
def Core.pausePass (c : Core) (bay n : Nat) : Core :=
  let sl := c.slot bay n
  match sl.pass with
  | none => c
  | some q =>
    let mine (l : LinkTok) : Bool := l.src == .ag bay (8 + n) && l.dst == q.consumer
    let k := ((c.links.filter mine).reverse.takeWhile fun l => l.wire != .tok .eos).length
    let w := match c.plane? bay q.pid with
      | some p => max 1 p.wpr
      | none => 1
    let at_ := q.row * w + q.word - k
    let c := c.setSlot bay { sl with pass := some { q with row := at_ / w, word := at_ % w } }
    ({ c with links := dropLatest mine k c.links }).sendMarks (.ag bay (8 + n)) [q.consumer]

/-- Inject the markers of a chase: at its boundary arcs, its streams and passes, its FIFO tiles, and its elements without expected ports. -/
def Forme.inject (f : Forme) (reply : Option Reply) : Forme :=
  let slots := f.run.core.ags.flatMap fun a => (List.range 8).map fun n => (a.bay, n)
  let c := slots.foldl (fun c e => (c.pauseRead e.1 e.2).pausePass e.1 e.2) f.run.core
  let c := (f.cfg.recs.filter fun e => f.isRoute e.1 e.2.1).foldl (fun c e => c.sendMarks (.outside 0) [.elem e.1 e.2.1 0]) c
  let c := c.fifos.foldl (fun c q => c.sendMarks (.fifo q.bay) [.elem q.outx q.outy q.outport]) c
  let f : Forme := { f with mark := some { reply := reply, roundHeld := !c.fifos.isEmpty && !f.cfg.stream && !f.sealed }
                            run := { f.run with core := c } }
  (f.cfg.recs.filter fun e => (f.expected e.1 e.2.1).isEmpty).foldl (fun g e => (g.saveElem e.1 e.2.1).passMark e.1 e.2.1) f

/-- A marker runs or may run on a live chase of a partition: none where MARKER sends 0 at once (R226, R322, R328, R361). -/
def State.markable (s : State) (part h : Nat) : Option Forme :=
  match s.forme? h with
  | none => none
  | some f => if f.part == part && f.status == .live && f.mark.isNone && !(s.chaseBusy f) then some f else none

/-- MARKER at its commit: the protocol starts, or 0 at once. -/
def State.startMarker (s : State) (part h : Nat) (reply : Option Reply) : State × Option Word :=
  match s.markable part h with
  | none => (s, some 0)
  | some f => (s.setForme { f.inject reply with since := s.clock }, none)

/-- Take a marker off a link; none unless it is one and the first token of its producer and consumer. -/
def Forme.takeMarker (f : Forme) (n : Nat) : Option (LinkTok × Forme) :=
  match f.run.core.links[n]? with
  | none => none
  | some l =>
    if f.mark.isNone || f.status != .live || l.wire != .tok .marker ||
        ((f.run.core.links.take n).any fun k => k.src == l.src && k.dst == l.dst) then none
    else some (l, { f with run := { f.run with core := { f.run.core with links := f.run.core.links.eraseIdx n } } })

/-- A marker reaches an element port or an AG input. The element saves, records what still comes, and passes markers on. -/
def State.markElem (s : State) (h n : Nat) : Option State :=
  match (s.forme? h).bind fun f => f.takeMarker n with
  | none => none
  | some (l, f) => match l.dst, f.mark with
    | .elem x y k, some m =>
      some (s.setForme ((Forme.saveElem { f with mark := some { m with ports := m.ports ++ [(x, y, k)] } } x y).passMark x y))
    | .ag bay k, some m => some (s.setForme { f with mark := some { m with arcs := m.arcs ++ [(256 + bay, k)] } })
    | _, _ => none

def execElementMarkerArrival (h n : Nat) (s : State) : Out := settle s (s.markElem h n)

/-- The elements with an arc into a FIFO tile, in the order of the image: ARC is a producer's place among them. -/
def Forme.producers (f : Forme) (bay : Nat) : List (Nat × Nat) :=
  (f.cfg.recs.filter fun e => (f.markDests e.1 e.2.1).any fun d => match d with
    | .tile b _ => b == bay
    | _ => false).map fun e => (e.1, e.2.1)

/-- The arc on which a source reaches a FIFO tile: that of the element behind an AG's stream. -/
def Forme.arcOf (f : Forme) (bay : Nat) (src : Src) : Nat :=
  let p : Nat × Nat := match src with
    | .elem x y => (x, y)
    | .ag b n => ((f.run.core.slot b (n % 8)).ox, (f.run.core.slot b (n % 8)).oy)
    | .closing _ x y => (x, y)
    | .fifo _ | .outside _ => (0, 0)
  (f.producers bay).findIdx fun q => q == p

/-- A marker reaches a FIFO tile's inbound arc. -/
def State.markFifo (s : State) (h n : Nat) : Option State :=
  match (s.forme? h).bind fun f => f.takeMarker n with
  | none => none
  | some (l, f) => match l.dst, f.mark, l.src with
    | .tile bay _, some m, .elem .. => some (s.setForme { f with mark := some { m with arcs := m.arcs ++ [(bay, f.arcOf bay l.src)] } })
    | .tile _ _, some _, _ => some (s.setForme f)
    | _, _, _ => none

def execFifoMarkerArrival (h n : Nat) (s : State) : Out := settle s (s.markFifo h n)

/-- Elements and tiles that have not saved (R322): a FIFO tile until every inbound arc has carried a marker, any other tile until every
element of its bay has passed its markers. -/
def Forme.unsaved (f : Forme) : Nat :=
  match f.mark with
  | none => 0
  | some m =>
    let left := (f.cfg.recs.map fun e => (e.1, e.2.1)).filter fun p => !(m.passed.contains p)
    let tiles := f.cfg.bays.filter fun bay =>
      if (f.run.core.fifo? bay).isSome then (List.range (f.producers bay).length).any fun a => !(m.arcs.contains (bay, a))
      else left.any fun p => p.2 / 8 * 16 + p.1 / 8 == bay
    left.length + tiles.length

/-- Flush the windows of a forme's write streams. -/
def State.flushAll (s : State) (f : Forme) : Option State :=
  foldOpt (fun s (e : Nat × Slot) => s.flushSlot f.handle e.1 e.2) s
    (f.run.core.ags.flatMap fun a => (a.slots.filter fun sl => sl.opened && sl.write).map fun sl => (a.bay, sl))

/-- The order of link tokens in an image (R333). -/
def LinkRec.key (l : LinkRec) : List Nat := [l.tile.toNat, l.y, l.x, l.arc, l.port]

/-- Every element and tile has saved, and no token is on a link: MARKER sends 1, and the chase is halted. -/
def State.saveDone (s : State) (h : Nat) : Option State :=
  match s.forme? h with
  | none => none
  | some f => match f.mark with
    | none => none
    | some m =>
      if f.status != .live || f.unsaved ≠ 0 || !f.run.core.links.isEmpty then none
      else match s.flushAll f with
        | none => none
        | some s => match s.forme? h with
          | none => some s
          | some f =>
            let m' : Mark := { m with linkToks := sortBy (fun a b => keyLt a.key b.key) m.linkToks }
            some ((s.setForme { f with status := .saved, mark := some m' }).answerOpt m.reply (.data 1))

def execMarkerSaveComplete (h : Nat) (s : State) : Out := settle s (s.saveDone h)

/-- The bound of a MARKER expires: 0, a quiescence-timeout fault, and a chase that stays halted. -/
def State.markerOver (s : State) (h : Nat) : Option State :=
  match s.forme? h with
  | none => none
  | some f => match f.mark with
    | none => none
    | some m =>
      if f.status != .live && f.status != .voided then none
      else
        let n := min 0xFFFF f.unsaved
        (s.postPart f.part { ctx := f.ctx, src := 0, srcid := h, cls := clsQuiesce, prec := 3 } (n * 2 ^ 48)).map fun s =>
          (s.setForme { f with status := if f.status == .live then .marked else f.status, mark := none }).answerOpt m.reply (.data 0)

def execMarkerBoundExpiry (h : Nat) (s : State) : Out := settle s (s.markerOver h)

/-! ## SNAP (R226, R323) -/

/-- The image that SNAP writes: of a quiesced chase, or of one whose state MARKER has saved; none for any other. -/
def State.snapImage (s : State) (part h : Nat) : Option (List Byte) :=
  match s.forme? h with
  | none => none
  | some f =>
    if f.part == part && (f.status == .saved || (f.status == .live && f.mark.isNone && !f.busy)) then some f.image else none

end Sys2Proof.Machine
end

