-- ==== Sys2Proof/Machine/Commit.lean ====
section
/-! DEFINITION. Commits: of a galley instance, with its stores, context writes, atomics and commit-performed records (R58, R87, R140, R141,
R144, R152, R157, R189, R193, R199, R200, R212, R216, R224), and of a round (R58, R173, R185, R212, R249 to R251, R264, R304, R328). -/

namespace Sys2Proof.Machine

/-! ## Which instance commits (R144) -/

/-- RET records of the galley at a header. -/
def DTile.rets (d : DTile) (h : Nat) : Nat :=
  match d.word? h with
  | none => 0
  | some w => ((List.range (hdrCount w)).filter fun k => match d.record? (h + 1 + k) with
    | some (.ret ..) => true
    | _ => false).length

/-- The four counters of an instance are complete. -/
def DTile.counted (d : DTile) (g : Galley) : Bool :=
  match d.word? g.hdr with
  | none => false
  | some w => g.stseen == hdrStores w && g.kw == hdrKw w && g.ng == 1 && g.out == (hdrOut w + d.rets g.hdr) % 256

/-- Tokens on the tile may still make a record of an instance fire: they stand at it, or at a record that leads to it. -/
def DTile.awaited (d : DTile) (g : Galley) (n : Nat) : Bool :=
  (d.galleyNodes g.hdr).any fun m => ((d.ready.any fun i => i.node == m && i.tag == g.tag) ||
    (d.entries.any fun e => !e.state && e.node == m && e.tag == g.tag) ||
    ((d.inbox ++ d.held).any fun k => k.node.toNat == m && k.tag == g.tag)) && (d.reached g.hdr (d.galleyNodes g.hdr).length [m]).contains n

/-- A record of an instance that its commit waits for beside the counters: one with .ACQ, since the commit performs accesses that follow it
(R153, R269), and an MMA, MMAS or MZERO that has issued and has not been performed (R199). -/
def DTile.delays (d : DTile) (g : Galley) : Bool :=
  (d.galleyNodes g.hdr).any fun n => match d.record? n with
    | some i => (Instr.acquires i && !(g.past.contains n) && d.awaited g n) || (Instr.holdsIsland i &&
        d.ready.any fun j => j.node == n && j.tag == g.tag && j.issue.isSome)
    | none => false

/-- An open instance that may commit: complete, and no earlier instance of its context is open on the tile. A dropped instance, which
waits for the action on its fault, is not open: else no handler could commit its ERET (R359). -/
def DTile.mayCommit (d : DTile) (g : Galley) : Bool :=
  !g.dropped && d.counted g && !(d.delays g) && (d.openOf (tagCtx g.tag)).all fun o => decide (g.seq ≤ o.seq)

/-- When the first token of an instance was accepted. -/
def Galley.first (g : Galley) : Nat := (g.inputs.map PTok.age).foldl min ((g.inputs.headD { tag := 0, port := 0, node := 0, tok := {} }).age)

/-- The instance that a tile commits: the one whose first token was accepted earliest, then of the lowest context. -/
def DTile.committing (d : DTile) : Option Galley :=
  leastBy (fun (a b : Galley) => keyLt [a.first, tagCtx a.tag, a.seq] [b.first, tagCtx b.tag, b.seq]) (d.galleys.filter d.mayCommit)

/-! ## What a commit checks before it takes effect (R150, R193, R216) -/

/-- A record of a committing galley with what its checks have found: the physical address of its word (for a contribution also that of
COUNT), the pieces of its range, the bytes of its descriptor, overlay or saved plane, its forme image. -/
structure Prepared where
  act : Act
  pa : Nat := 0
  pa2 : Nat := 0
  pieces : List (Nat × Nat) := []
  bytes : List Byte := []
  image : Option (Read FormeCfg) := none
  deriving DecidableEq, Repr

/-- What preparing a record gives: none while an access stalls. -/
abbrev Prep := Option (Except Failed Prepared)

/-- The address that an act formed at issue. -/
def Act.addr (a : Act) : Addr := ⟨a.obj, a.off⟩

/-- Check one access of an act. -/
def State.prepAccess (s : State) (p : Nat) (a : Act) (size kind : Nat) (need : Need) : Prep :=
  match s.translate p a.addr size need with
  | .stall => none
  | .fault c => some (.error ⟨c, a.addr.va, size, kind⟩)
  | .ok pa _ => some (.ok { act := a, pa := pa })

/-- Read `n` bytes, by one access of `size` or, for 0, as a range: a failure names `size`. -/
def State.prepRead (s : State) (p : Nat) (a : Act) (x : Addr) (n size : Nat) (need : Need) : Prep :=
  match if size = 0 then s.fetchRange p x n need else s.fetchOne p x size need with
  | none => none
  | some (.error c) => some (.error ⟨c, x.va, size, 3⟩)
  | some (.ok b) => some (.ok { act := a, bytes := b })

/-- Check what is written, by one access of `size` or, for 0, as a range. -/
def State.prepWrite (s : State) (p : Nat) (a : Act) (x : Addr) (n size : Nat) (b : List Byte) : Prep :=
  match if size = 0 then s.range p x n .write else s.single p x size .write with
  | .stall => none
  | .fault c => some (.error ⟨c, x.va, size, 3⟩)
  | .ok l => some (.ok { act := a, pieces := l, bytes := b })

/-- The forme and the bay that a pooled record for a CA tile names (R204). -/
def State.caTarget (s : State) (p c : Nat) (a : Act) : Option (Forme × Nat) :=
  s.caOwner { pinned := false, ctx := c, part := p, die := p / 4 } (a.c.toNat % 256)

/-- The pair of words that an act holds as an address. -/
def Act.va (a : Act) : VA := a.b ++ a.a

/-- The checks of an operation at a CA tile: of the addresses of its writes. Those of its log records are made as it acts. -/
def State.prepCa (s : State) (p c : Nat) (a : Act) : Prep :=
  match s.caTarget p c a with
  | none => some (.error ⟨clsPermission, 0, 0, 3⟩)
  | some _ => match a.instr with
    | .cres .. => s.prepWrite p a (Addr.ofVa a.va) 32768 0 []
    | .clog .. => if a.va = 0 then some (.ok { act := a }) else s.prepWrite p a (Addr.ofVa a.va) 32 32 []
    | _ => some (.ok { act := a })

/-- The checks of one record of a committing galley. -/
def State.prepAct (s : State) (p c : Nat) (a : Act) : Prep :=
  match a.instr with
  | .st .. | .sti .. | .scatter .. => s.prepAccess p a a.size 1 .write
  | .red scope _ _ _ => match s.redCheck p a.addr scope with
    | none => none
    | some (.error e) => some (.error ⟨e, a.addr.va, 4, 2⟩)
    | some (.ok (pa, ca)) => some (.ok { act := a, pa := pa, pa2 := ca })
  | .aadd .. | .amin .. | .amax .. | .aand .. | .aor .. | .axor .. | .axchg .. | .acas .. | .afadd .. | .lockacq .. | .lockrel .. =>
    match s.translate p a.addr 4 .both with
    | .stall => none
    | .fault e => some (.error ⟨e, a.addr.va, 4, 2⟩)
    | .ok pa tier => if tier = 3 then some (.error ⟨clsPermission, a.addr.va, 4, 2⟩) else some (.ok { act := a, pa := pa })
  | .bararr .. | .bardrop .. => s.prepAccess p a 8 2 .both
  | .wakew .. => s.prepAccess p a 4 0 .any
  | .copye .. | .loffer .. | .ltake .. | .frel .. => s.prepRead p a a.addr 32 32 .read
  | .qcommit .. => s.prepAccess p a 64 3 .both
  | .cadj .. => s.prepRead p a a.addr 64 64 .read
  | .mdrain .. => s.prepWrite p a a.addr a.size 0 []
  | .cres .. | .cclr .. | .clog .. => s.prepCa p c a
  | .ovld .. =>
    let n := a.c.toNat
    if n % 12 ≠ 0 ∨ 65532 < n then some (.error ⟨clsBounds, a.addr.va, 0, 3⟩) else s.prepRead p a a.addr n 0 .exec
  | _ => some (.ok { act := a })

/-- What a record reads when it acts, after the galley's stores and the records before it (R193): an overlay, a forme image, the plane that
SNAP saves. Any other acts on what its checks have found. -/
def State.readNow (s : State) (p c : Nat) (q : Prepared) : Prep :=
  let a := q.act
  match a.instr with
  | .ovld .. => s.prepAct p c a
  | .snap .. => match s.snapImage p a.a.toNat with
    | none => some (.ok q)
    | some b => s.prepWrite p a (Addr.ofWords a.b a.c) b.length 0 b
  | .fload .. =>
    if bits 8 23 a.c.toNat ≠ 0 then some (.ok q)
    else match s.readImage p a.va with
      | .stall => none
      | .fault e va => some (.error ⟨e, va, 0, 3⟩)
      | r => some (.ok { q with image := some r })
  | _ => some (.ok q)

/-- The checks of all records of a galley, in record order: the first that fails, with its node, decides. -/
def State.prepAll (s : State) (p c : Nat) : List Act → Option (Except (Nat × Failed) (List Prepared))
  | [] => some (.ok [])
  | a :: l => match s.prepAct p c a with
    | none => none
    | some (.error e) => some (.error (a.node, e))
    | some (.ok q) => match State.prepAll s p c l with
      | some (.ok qs) => some (.ok (q :: qs))
      | r => r

/-! ## Stores, atomics and context writes (R144, R157) -/

/-- The output tokens of a commit-performed record. -/
def Galley.answers (g : Galley) (a : Act) (v : Word) : List HeldOut :=
  match a.instr.shell? with
  | none => []
  | some r => ([(false, r.dsta), (true, r.dstb)].filter fun e => e.2 != noDest).map fun e =>
      ⟨a.node, e.1, { tag := g.tag, port := BitVec.ofNat 2 (destPort e.2), node := BitVec.ofNat 14 (e.2.toNat % 2 ^ 14)
                      hnd := g.hnd || a.hnd, tok := .data v }⟩

/-- What a commit has come to: the state, the output tokens of commit-performed records, sticky bits. -/
structure Done where
  s : State
  outs : List HeldOut := []
  st : Sticky := 0

/-- Memory records of a galley: they act in the order of their LSIDs. -/
def isMemory (i : Instr) : Bool := isStore i || isAtomic i

/-- The output of a memory record: a SCATTER sends one token for all its lanes. -/
def Done.memOut (d : Done) (g : Galley) (a : Act) (v : Word) : List HeldOut :=
  match a.instr with
  | .scatter .. => if d.outs.any fun o => o.node == a.node then [] else g.answers a v
  | _ => g.answers a v

/-- Perform one memory record. The token of a pooled ST, STI or SCATTER has the value 0, as that of TST has (R152, R158; DESIGN CHOICE,
log 114). -/
def Done.memory (g : Galley) (d : Done) (p : Prepared) : Done :=
  let a := p.act
  match a.instr with
  | .red _ _ op _ =>
    let (s, st) := d.s.redAt p.pa p.pa2 op a.a
    { d with s := s, st := d.st ||| st }
  | i =>
    if isStore i then { d with s := d.s.writeN p.pa (leBytes a.size a.a.toNat), outs := d.outs ++ d.memOut g a 0 }
    else
      let (new, res, st) := atomicStep i false (tagCtx g.tag) (BitVec.ofNat 32 (d.s.readLe p.pa 4)) a.a a.b
      { s := d.s.writeLe p.pa 4 new.toNat, outs := d.outs ++ d.memOut g a res, st := d.st ||| st }

/-- Write a half of a context register. -/
def Ctx.setHalf (x : Ctx) (hi : Bool) (n : Nat) (v : Word) : Ctx := { x with kregs := assign n (withHalf (x.k n) hi v) x.kregs }

/-- The context-register writes of a galley, in record order. -/
def State.writeKregs (s : State) (g : Galley) : State :=
  match s.ctx? (tagCtx g.tag) with
  | none => s
  | some x => s.setCtx ((sortBy (fun (a b : Act) => decide (a.node < b.node)) (g.acts.filter fun a => isKst a.instr && a.b == 0)).foldl
      (fun x a => match a.instr with
        | .kst hi kn _ => x.setHalf hi kn.toNat a.a
        | _ => x) x)

/-! ## Records that act at the commit (R193) -/

/-- Where the answer of an act goes. -/
def Galley.reply (g : Galley) (t : Nat) (a : Act) : Reply :=
  match a.instr.shell? with
  | some r => { tile := t, node := a.node, tag := g.tag, hnd := g.hnd || a.hnd, dsta := r.dsta, dstb := r.dstb }
  | none => { tile := t, node := a.node, tag := g.tag, hnd := g.hnd || a.hnd, dsta := noDest, dstb := noDest }

/-- A context made by CTXNEW (R140, R318). -/
def State.newCtx (s : State) (c id : Nat) (v : Word) : State :=
  let me := (s.ctx? c).getD { id := c, part := 0 }
  s.setCtx { id := id, part := me.part, prio := v.extractLsb' 0 3, sys := v.getLsbD 3, creator := BitVec.ofNat 12 c
             ordfast := me.ordfast, spperm := me.spperm }

/-- Free a context (R141). -/
def State.endCtx (s : State) (c : Nat) : State := { s with ctxs := s.ctxs.filter fun x => x.id != c }

/-- Post the fault of a TRAP, or of a BRK: the context opens no further galley until the record is acted on (R224). -/
def State.trap (s : State) (t : Nat) (g : Galley) (node : Nat) (code : BitVec 16) (v : Word) (brk : Bool) : Option State :=
  let c := tagCtx g.tag
  let s : State := match s.ctx? c with
    | some x => s.setCtx { x with trapHold := true }
    | none => s
  s.postFault { ctx := c, src := 1, srcid := t % 32, cls := clsTrap, prec := 5, loc := node }
    (code.toNat * 2 ^ 176 + v.toNat * 2 ^ 144 + atBit 143 brk) g.hnd (.trapped t g.tag)

/-- HALT (R224). -/
def State.halt (s : State) (t c : Nat) (v : Word) : Option State :=
  let s : State := match s.ctx? c with
    | some x => s.setCtx (if x.state == .faulted then { x with before := .halted } else { x with state := .halted })
    | none => s
  s.postEvent c 6 (t % 32) 0 v.toNat

/-- The favour of a context on a tile ends (R300). -/
def State.endFavour (s : State) (t c : Nat) : State :=
  let d := s.tile t
  if d.favoured == some c then s.setTile { d with favoured := none } else s

/-- Hand an operation at a CA tile to a round-mode forme (R212). -/
def State.hand (s : State) (f : Forme) (h : Handed) : State :=
  match s.forme? f.handle with
  | some f => s.setForme { f with run := { f.run with handed := f.run.handed ++ [h], roundOpen := true } }
  | none => s

/-- What performing a record at the commit gives: none while an access stalls; a check that fails, so that nothing of the commit is
performed; or the state, the result where the record has one now, and sticky bits. -/
abbrev Acted := Option (Except Failed (State × Option Word × Sticky))

/-- An outcome with the word that its record sends. -/
def Acted.of (v : Option Word) (r : Option (Except Failed (State × Sticky))) : Acted :=
  r.map fun e => e.map fun x => (x.1, v, x.2)

/-- An operation at a CA tile for a pooled record: at once, or handed over. The operation's sticky bits join the galley's. -/
def State.caCommit (s : State) (t : Nat) (g : Galley) (a : Act) : Acted :=
  match s.caTarget (s.unitPart t) (tagCtx g.tag) a with
  | none => some (.error ⟨clsPermission, 0, 0, 3⟩)
  | some (f, bay) =>
    if !f.cfg.stream then some (.ok (s.hand f { instr := a.instr, a := a.a, b := a.b, bay := bay, reply := g.reply t a }, none, 0))
    else match a.instr with
      | .cres .. => Acted.of (some 32768) (s.caResolve f.handle 0 0 0 bay a.va)
      | .clog .. => Acted.of (some 0) ((s.caLog f.handle 0 0 0 bay a.va).map fun e => e.map fun s => (s, 0))
      | _ => Acted.of (some 0) (s.caDo f.handle 0 0 0 bay CaState.clear)

/-- CADJ on its descriptor: it writes OUT and sends its count (R214). -/
def State.adjCommit (s : State) (part : Nat) (db : List Byte) : Acted :=
  (s.adjust part db).map fun e => e.map fun (_, pieces, b, count, st) => (s.writePieces pieces b, some count, st)

/-- MDRAIN: write the region, fold the island's sticky bits, and with ZERO clear it (R200). -/
def State.drainNow (s : State) (t : Nat) (g : Galley) (p : Prepared) (zero : Bool) (o : OFmt) (m n : Nat) : State × Word :=
  let isl := s.island t
  let (b, st) := isl.drain o m n
  let s := (s.writePieces p.pieces b).foldStatus (tagCtx g.tag) (st ||| isl.sticky)
  let isl := { isl with sticky := 0 }
  (s.setIsland (Island.finish (if zero then isl.zero m n else isl)), BitVec.ofNat 32 b.length)

/-- Perform one record at the commit. -/
def State.performAct (s : State) (t : Nat) (g : Galley) (p : Prepared) : Acted :=
  let a := p.act
  let c := tagCtx g.tag
  let part := s.unitPart t
  let now (r : State × Word) : Acted := some (.ok (r.1, some r.2, 0))
  let later (r : State × Option Word) : Acted := some (.ok (r.1, r.2, 0))
  let quiet (r : Option State) : Acted := r.map fun s => .ok (s, none, 0)
  let word (size kind : Nat) (r : Option (Except Nat (State × Word))) : Acted := match r with
    | none => none
    | some (.error e) => some (.error ⟨e, a.addr.va, size, kind⟩)
    | some (.ok e) => now e
  match a.instr with
  | .ctxnew _ => quiet (some (s.newCtx c a.b.toNat a.a))
  | .ctxfree _ => quiet (some (s.endCtx a.a.toNat))
  | .mtask _ pdest _ => quiet (some (s.setIsland ((s.island a.obj).bind { task := a.a.toNat % 256, pdest := pdest, ctx := c, tag := g.tag })))
  | .event code _ => quiet (s.postEvent c 1 (t % 32) code.toNat a.a.toNat)
  | .yield _ => quiet (some (s.endFavour t c))
  | .trap code _ => quiet (s.trap t g a.node code a.a false)
  | .brk code _ => quiet (if ((s.ctx? c).map Ctx.dbg).getD false then s.trap t g a.node code a.a true else some s)
  | .halt _ => quiet (s.halt t c a.a)
  | .syswr hi index _ => (s.sysWrite { part := part, ctx := some c, tile := some t } c hi index.toNat a.a).map fun s => .ok (s, some 1, 0)
  | .eret _ => quiet (s.eret c (min 2 (a.a.toNat % 4)))
  | .marker _ => later (s.startMarker part a.a.toNat (some (g.reply t a)))
  | .fswap _ => later (s.fswap part a.a.toNat (g.reply t a))
  | .fload _ => match s.fload part c a.c (p.image.getD .stall) (g.reply t a) with
    | none => none
    | some r => later r
  | .ovld _ => (s.ovld t c p.bytes (g.hnd || a.hnd)).map fun r => .ok (r.1, some r.2, 0)
  | .ovfree _ => now (s.ovfree t a.a.toNat)
  | .degrade _ => now (s.degrade part a.a a.b)
  | .lreclaim _ => now (s.lreclaim a.a)
  | .loffer _ => (s.offerRun (t / 32) c part (leNat p.bytes)).map fun r => .ok (r.1, some r.2, 0)
  | .ltake _ => later (s.leaseTake (t / 32) c part (leNat p.bytes) (g.reply t a))
  | .copye _ => now (s.copyStart (t / 32) c part (leNat p.bytes) (g.hnd || a.hnd))
  | .qcommit _ => now (s.queueCommit part (BitVec.ofNat 64 a.addr.va) p.pa a.c.toNat)
  | .frel _ => now (s.frelTo c (leNat p.bytes))
  | .cadj _ => s.adjCommit part p.bytes
  | .mdrain zero o n1 m1 _ => now (s.drainNow t g p zero o (dimOf m1) (dimOf n1))
  | .snap _ => now (s.writePieces p.pieces p.bytes, BitVec.ofNat 32 p.bytes.length)
  | .bararr .. => word 8 2 (s.barAt part a.addr false)
  | .bardrop .. => word 8 2 (s.barAt part a.addr true)
  | .wakew .. => word 4 0 (s.wakeAt part a.addr a.a)
  | .cres .. | .cclr .. | .clog .. => s.caCommit t g a
  | _ => some (.ok (s, none, 0))

/-- Perform one record and keep its output. BARDROP has no result. -/
def Done.act (t : Nat) (g : Galley) (d : Done) (p : Prepared) : Option (Except Failed Done) :=
  match d.s.readNow (d.s.unitPart t) (tagCtx g.tag) p with
  | none => none
  | some (.error e) => some (.error e)
  | some (.ok p) => (d.s.performAct t g p).map fun e => e.map fun r =>
      { s := r.1, st := d.st ||| r.2.2, outs := d.outs ++ match r.2.1 with
        | some v => g.answers p.act v
        | none => [] }

/-- Perform records in order, up to the first that fails: its node with the check. -/
def Done.acts (t : Nat) (g : Galley) : Done → List Prepared → Option (Except (Nat × Failed) Done)
  | d, [] => some (.ok d)
  | d, p :: l => match d.act t g p with
    | none => none
    | some (.error e) => some (.error (p.act.node, e))
    | some (.ok d) => Done.acts t g d l

/-! ## The commit of an instance (R144) -/

/-- The order in which outputs leave: by record, A before B. -/
def HeldOut.key (o : HeldOut) : List Nat := [o.node, o.second.toNat]

/-- HALT ends the thread of its tag. -/
def Galley.ends (g : Galley) : Bool := g.acts.any fun a => match a.instr with
  | .halt _ => true
  | _ => false

/-- Close a committed instance: its island record, its reservations and its automatic drops go with it. -/
def State.closeGalley (s : State) (t : Nat) (g : Galley) : State :=
  let isl := s.island t
  let s := if isl.records.isEmpty then s else s.setIsland { isl with records := isl.records.filter fun r => !(r.hdr == g.hdr && r.tag == g.tag) }
  let d := s.tile t
  s.setTile { d with
    galleys := d.galleys.filter fun x => !(x.hdr == g.hdr && x.tag == g.tag && x.seq == g.seq)
    redone := d.redone.filter fun r => r != (g.hdr, g.tag)
    perf := d.perf.set 1 ((d.perf.getD 1 0 + 1) % 2 ^ 64) }

/-- An output token of a commit leaves. One for 0xFFFF, which names no record, is that of a CALL or a RET: it is dropped and reported as a
stray (R133). -/
def State.sendOut (t : Nat) (s : State) (o : HeldOut) : Option State :=
  let k := { o.tok with src := .outside }
  if k.node = 0x3FFF ∧ k.port = 3 then s.stray (s.unitPart t) 1 (t % 32) k else some (s.sendTile t k)

/-- The output tokens of a commit leave. -/
def State.sendOuts (s : State) (t : Nat) (g : Galley) (outs : List HeldOut) : Option State :=
  let outs := if g.ends then outs.filter fun o => o.tok.tag != g.tag else outs
  foldOpt (State.sendOut t) s (sortBy (fun a b => keyLt a.key b.key) outs)

/-- What the galley's stores, atomics and context writes come to, on a closed instance: memory records by LSID. -/
def State.storesDone (s : State) (t : Nat) (g : Galley) (ps : List Prepared) : Done :=
  let mem := sortBy (fun (a b : Prepared) => decide (a.act.lsid < b.act.lsid)) (ps.filter fun p => isMemory p.act.instr)
  let d := mem.foldl (Done.memory g) { s := s, st := g.sticky }
  { d with s := (d.s.writeKregs g).closeGalley t g }

/-- The end of a commit: the queue's frees, sticky bits, outputs. -/
def Done.finish (t : Nat) (g : Galley) (d : Done) : Option State :=
  (foldOpt (fun s h => s.settleHold (s.unitPart t) (tagCtx g.tag) h) d.s g.holds).bind fun s =>
    (s.foldStatus (tagCtx g.tag) d.st).sendOuts t g (g.outs ++ d.outs)

/-- Commit an instance whose records are checked: stores, atomics and context writes, the other records in record order, the rest. A check
that fails as a record acts leaves nothing of the commit performed (R193). -/
def State.commitNow (s : State) (t : Nat) (g : Galley) (ps : List Prepared) : Option (Except (Nat × Failed) State) :=
  let acts := sortBy (fun (a b : Prepared) => decide (a.act.node < b.act.node)) (ps.filter fun p => !(isMemory p.act.instr))
  match Done.acts t g (s.storesDone t g ps) acts with
  | none => none
  | some (.error e) => some (.error e)
  | some (.ok d) => (d.finish t g).map .ok

/-- A tile commits at most one instance; none while an access stalls. A check that fails drops the instance whole. -/
def State.galleyCommit (s : State) (t : Nat) : Option State :=
  match (s.tile t).committing with
  | none => none
  | some g =>
    let fail (e : Nat × Failed) : Option State := s.faultGalley t g e.1 e.2.cls 0 (.access e.2.va e.2.size e.2.kind)
    match s.prepAll (s.unitPart t) (tagCtx g.tag) (sortBy (fun (a b : Act) => decide (a.node < b.node)) g.acts) with
    | none => none
    | some (.error e) => fail e
    | some (.ok ps) => match s.commitNow t g ps with
      | none => none
      | some (.error e) => fail e
      | some (.ok s) => some (ps.foldl (fun s q => if q.act.obj = 0 then s else s.useXl (t / 32) (64 + t % 32) (s.unitPart t) q.act.addr) s)

def execGalleyCommit (tile : Nat) (s : State) : Out := settle s (s.galleyCommit tile)

/-! ## The commit of a round (R185) -/

/-- Nothing of the round is in flight, and the records that fire once have fired (R246): tokens in FIFO tiles, later tokens of ROUNDENDs
and markers do not count (R185, R249), nor does what a source has still to send: an open read stream, an element with no expected port (R319; log 89). -/
def Forme.drained (f : Forme) : Bool :=
  let c := f.run.core
  let ended (e : ElemState) : Bool := c.ends.any fun p => p.1 == e.x && p.2.1 == e.y
  !f.unstarted && (c.elems.all fun e => (e.emit.isNone || (f.expected e.x e.y).isEmpty) && (ended e || (e.q0.isEmpty && e.q1.isEmpty && e.q2.isEmpty && e.q3.isEmpty && e.scales.isEmpty))) &&
    (c.links.all fun l => l.wire == .tok .marker) &&
    (c.ags.all fun a => a.in0.isEmpty && a.in1.isEmpty && a.in2.isEmpty && a.in3.isEmpty &&
      a.slots.all fun sl => sl.pass.isNone) &&
    match f.mark with
    | some m => !m.roundHeld && m.linkToks.isEmpty
    | none => true

/-- A round may commit. -/
def Forme.mayCommit (f : Forme) : Bool := f.status == .live && !f.cfg.stream && !f.roundEnds.isEmpty && f.sealed && f.drained

/-- The order of staged records (R178). -/
def Staged.key (w : Staged) : List Nat := [w.y, w.x, w.rt.toNat, w.n]

/-- What a round's commit has come to: the state, or the fault that voids the round, with its element. -/
inductive Round where
  | ok (s : State)
  | stall
  | void (x y cls va size kind : Nat)

def Round.then (r : Round) (f : State → Round) : Round :=
  match r with
  | .ok s => f s
  | r => r

/-- Thread a round's commit through a list. -/
def Round.each {α : Type} (f : State → α → Round) : State → List α → Round
  | s, [] => .ok s
  | s, a :: l => (f s a).then fun s => Round.each f s l

/-- Perform an operation that a pooled galley handed over, as the last of the round at its CA tile (R212). Its sticky bits fold at this
commit, into the status of the forme's context (R57; log 100). -/
def State.handedNow (s : State) (h : Nat) (a : Handed) : Round :=
  let va : VA := a.b ++ a.a
  let put (r : Option (Except Failed (State × Sticky))) : Round := match r with
    | none => .stall
    | some (.error e) => .void 0 0 e.cls e.va e.size e.kind
    | some (.ok (s, st)) => .ok (match s.forme? h with
      | some f => s.foldStatus f.ctx st
      | none => s)
  match a.instr with
  | .cres .. => put (s.caResolve h 0 0 0 a.bay va)
  | .clog .. => put ((s.caLog h 0 0 0 a.bay va).map fun e => e.map fun s => (s, 0))
  | .cclr .. => put (s.caDo h 0 0 0 a.bay CaState.clear)
  | _ => .ok s

/-- The result that an operation handed over sends. -/
def Handed.result (a : Handed) : Word := match a.instr with
  | .cres .. => 32768
  | _ => 0

/-- Apply a staged store. -/
def State.storeNow (s : State) (part : Nat) (w : Staged) : Round :=
  match w.work with
  | .store va b => match s.range part (Addr.ofVa va) b.length .write with
    | .stall => .stall
    | .fault c => .void w.x w.y c (Addr.ofVa va).va b.length 1
    | .ok l => .ok (s.writePieces l b)
  | _ => .ok s

/-- The BUF tile and the address of a staged atomic: with the raw LIT of its record. -/
def Instr.atomicRaw : Instr → Option Word
  | .aadd _ _ _ raw _ | .amin _ _ _ raw _ | .amax _ _ _ raw _ | .aand _ _ _ raw _ | .aor _ _ _ raw _ | .axor _ _ _ raw _
  | .axchg _ _ _ raw _ | .acas _ _ _ raw _ | .afadd _ _ _ raw _ => some raw
  | .lockacq _ _ raw _ | .lockrel _ _ raw _ => some raw
  | _ => none

/-- Change a round-mode forme's core within a commit. -/
def State.editCore (s : State) (h : Nat) (g : Core → Core) : State :=
  match s.forme? h with
  | some f => s.putCore f (g f.run.core)
  | none => s

/-- OR sticky bits into an element. -/
def Core.stick (c : Core) (x y : Nat) (st : Sticky) : Core :=
  let e := c.elem x y
  c.setElem { e with sticky := e.sticky ||| st }

/-- Apply a staged atomic or contribution (R178). -/
def State.atomicNow (s : State) (h : Nat) (w : Staged) : Round :=
  match w.work, s.forme? h with
  | .act i a b v, some f => match i with
    | .red scope _ op _ => match s.redCheck f.part (Addr.ofWords a b) scope with
      | none => .stall
      | some (.error c) => .void w.x w.y c (Addr.ofWords a b).va 4 2
      | some (.ok (pa, ca)) =>
        let (s, st) := s.redAt pa ca op v
        .ok (s.editCore h fun c => c.stick w.x w.y st)
    | i => match Instr.atomicRaw i with
      | none => .ok s
      | some raw =>
        let bay := tileBay w.x w.y (raw.extractLsb' 6 6) (raw.extractLsb' 0 6)
        let (new, _, st) := atomicStep i true f.ctx (BitVec.ofNat 32 (f.run.core.stagedRead bay a.toNat 4)) b v
        .ok (s.editCore h fun c => (c.backWrite bay a.toNat (leBytes 4 new.toNat)).stick w.x w.y st)
  | _, _ => .ok s

/-- Send the result of a staged record: its token leaves with the commit. -/
def State.sendStaged (s : State) (h : Nat) (w : Staged) (a b : BitVec 16) (v : Word) : State :=
  match s.forme? h with
  | none => s
  | some f =>
    let put (c : Core) (d : BitVec 16) : Core := if d = noDest then c else
      c.putLink { src := .elem w.x w.y, dst := f.dest w.x w.y d, rt := w.rt, wire := .tok (.data v) }
    s.putCore f (put (put f.run.core a) b)

/-- Apply a staged BARARR, BARDROP or WAKEW. -/
def State.syncNow (s : State) (h : Nat) (w : Staged) : Round :=
  match w.work, s.forme? h with
  | .act i a b v, some f =>
    let x := Addr.ofWords a b
    let done (r : Shell) (size kind : Nat) (o : Option (Except Nat (State × Word))) (sends : Bool) : Round := match o with
      | none => .stall
      | some (.error c) => .void w.x w.y c x.va size kind
      | some (.ok (s, n)) => .ok (if sends then s.sendStaged h w r.dsta r.dstb n else s)
    match i with
    | .bararr _ _ r => done r 8 2 (s.barAt f.part x false) true
    | .bardrop _ _ r => done r 8 2 (s.barAt f.part x true) false
    | .wakew _ _ r => done r 4 0 (s.wakeAt f.part x v) true
    | _ => .ok s
  | _, _ => .ok s

/-- A token or a word that leaves the chase: it was staged when it left its element (R354; log 27). -/
def State.leaveNow (s : State) (w : Staged) : State :=
  match w.work with
  | .token tile k => s.sendTile tile k
  | .word u rt v => s.setIsland { s.island u with inq := (s.island u).inq ++ [(rt, v)] }
  | _ => s

/-- Post a staged event, report a token dropped at an UNROUTE, bind a staged MTASK, pass on a staged release. -/
def State.restNow (s : State) (h : Nat) (w : Staged) : Round :=
  match s.forme? h with
  | none => .ok s
  | some f => match w.work with
    | .act (.event code _) v _ _ => match s.postEvent f.ctx 0 h code.toNat v.toNat with
      | none => .stall
      | some s => .ok s
    | .act (.mtask _ pdest r) v lo hi => match f.dest w.x w.y r.dsta with
      | .island u => .ok (s.setIsland ((s.island u).bind { task := v.toNat % 256, pdest := pdest, ctx := f.ctx, tag := hi ++ lo }))
      | _ => .ok s
    | .stray tile k => match s.stray f.part 1 (tile % 32) k with
      | none => .stall
      | some s => .ok s
    | .release desc a b =>
      let (s, v) := s.frelTo f.ctx desc
      .ok (s.sendStaged h w a b v)
    | _ => .ok s

/-- A 128-byte line of one half replaced by that of the other. -/
def swapLine (other m : Memory) (line : Nat) : Memory :=
  Memory.putCells (Memory.clear m (line * 128) 128) (line * 128) (Memory.cells other (line * 128) 128)

/-- The lines written in the round change halves (R251); armed bitmaps flip (R173); halo fills become visible (R172). -/
def Core.flip (c : Core) : Core :=
  { c with
    tile := c.written.foldl (swapLine c.back) c.tile
    back := c.written.foldl (swapLine c.tile) c.back
    written := []
    planes := c.planes.map fun p =>
      let p := if p.armed then { p with cur := p.nxt, nxt := 0, armed := false } else p
      { p with halo := p.haloBack ++ p.halo, haloBack := [] } }

/-- The deposits of a round: streams closed in it, then open streams that wrote in it (R165). -/
def Core.roundDeposits (c : Core) : List Deposit :=
  c.deposits ++ c.ags.flatMap fun a => (a.slots.filter fun sl => sl.opened && sl.write && sl.wroteNow).map Slot.deposit
def Core.deposited (c : Core) : Core :=
  { c with deposits := [], ags := c.ags.map fun a => { a with slots := a.slots.map fun sl => { sl with wroteNow := false } } }

/-- The release of a deadline job lies before its estimate: `done` rounds are committed at `now` (R304). -/
def Job.late (j : Job) (done now : Nat) : Bool :=
  let est : Int := now + ((now : Int) - j.start) * ((j.total : Int) - done) / done
  decide (((j.sec * 10 ^ 9 + j.ns : Nat) : Int) - (j.guardUs * 1000 : Nat) < est)

/-- The job's step at a round commit (R304): the request, then the estimate on the level that it leaves; the Bool says that the level
changed. -/
def Job.commit (j : Job) (now : Nat) : Job × Bool :=
  let done := j.done + 1
  let level := max j.level (j.request.getD 0)
  let lower := !j.bestEffort && decide (done < j.total) && decide (level < j.nlevm1) && j.late done now
  let j' : Job := { j with done := done % 2 ^ 32, request := none }
  if lower then ({ j' with level := level + 1, drops := min 255 (j.drops + 1) }, true)
  else ({ j' with level := level }, level != j.level)

/-- The job of a forme, if it runs. -/
def State.jobOf (s : State) (f : Forme) : Option (Part × Job) :=
  match s.part? f.part, f.cfg.job with
  | some q, some n => (q.job? n).bind fun j => if j.valid then some (q, j) else none
  | _, _ => none

/-- The round-mode formes of a job that run or are swapped out, but one. -/
def State.others (s : State) (f : Forme) : List Nat :=
  (s.formes.filter fun g => g.part == f.part && g.cfg.job == f.cfg.job && !g.cfg.stream && g.status != .standing &&
    g.handle != f.handle).map Forme.handle

/-- A ladder set in both halves of its tile (R303). -/
def FormeCfg.putSet (g : FormeCfg) (c : Core) (level : Nat) : Core :=
  { g.putLadder c level with back := (g.putLadder { c with tile := c.back } level).tile }

/-- Step the job of a forme. A level that changes is written here, and by each other forme of the job at its own next commit (R220, R303,
R304). -/
def State.stepJob (s : State) (h : Nat) : State :=
  match s.forme? h with
  | none => s
  | some f => match s.jobOf f with
    | none => s
    | some (q, j) =>
      let (j', changed) := j.commit s.fru.now
      let s := s.setPart (q.setJob { j' with owed := if changed then s.others f else j.owed.filter fun k => k != h })
      if changed || j.owed.contains h then s.putCore f (f.cfg.putSet f.run.core j'.level) else s

/-- Every ROUNDEND sends the number of the round. -/
def Forme.sendEnds (f : Forme) (c : Core) : Core :=
  f.run.core.ends.foldl (fun c e => match f.record? e.1 e.2.1 with
    | some (.roundend r) => ([r.dsta, r.dstb].filter fun d => d != noDest).foldl (fun c d =>
        c.putLink { src := .elem e.1 e.2.1, dst := f.dest e.1 e.2.1 d, rt := e.2.2, wire := .tok (.data (BitVec.ofNat 32 f.run.round)) }) c
    | _ => c) c

/-- The end of a round's commit: halves, bitmaps and halos, the job, sticky bits, ROUNDENDs' tokens, the new round-start state,
and the answers of operations handed over. -/
def State.roundDone (s : State) (h : Nat) : State :=
  let s := s.editCore h Core.flip
  match s.forme? h with
  | none => s
  | some _ =>
    let s := (s.editCore h Core.deposited).stepJob h
    match s.forme? h with
    | none => s
    | some f =>
      let s := s.foldStatus f.ctx f.run.core.stickies
      let c := { f.sendEnds f.run.core.clearStickies with ends := [] }
      let s := f.run.handed.foldl (fun s a => s.answer a.reply (.data a.result)) s
      s.setForme { f with
        yielded := f.run.yielding && s.loadWaits f.part (s.prio f.ctx)
        run := { core := c, start := c, round := (f.run.round + 1) % 2 ^ 32, roundOpen := false, replaying := f.run.replaying } }

/-- Deposit a dirty range of the round (R165, R311). -/
def State.depositNow (s : State) (f : Forme) (d : Deposit) : Round :=
  match s.deposit f.part f.cfg.logobj d with
  | none => .stall
  | some (.error e) => .void d.x d.y e.1 e.2 16 3
  | some (.ok s) => .ok s

/-- The commit of a round, in one step; none while an access stalls. A fault that it meets voids the round. -/
def State.roundCommit (s : State) (h : Nat) : Option State :=
  match s.forme? h with
  | none => none
  | some f =>
    if !f.mayCommit then none
    else
      let r := (Round.each (fun s a => s.handedNow h a) s f.run.handed).then fun s =>
        let staged := ((s.forme? h).map fun g => g.run.staging).getD []
        let ordered := sortBy (fun (a b : Staged) => keyLt a.key b.key) staged
        (((Round.each (fun s w => s.storeNow f.part w) s staged).then fun s =>
          Round.each (fun s w => s.atomicNow h w) s ordered).then fun s =>
          Round.each (fun s w => s.syncNow h w) s ordered).then fun s =>
          (Round.each (fun s w => s.restNow h w) s ordered).then fun s =>
            (Round.each (fun s d => s.depositNow f d) s f.run.core.roundDeposits).then fun s => .ok (staged.foldl State.leaveNow s)
      match r with
      | .ok s => some (s.roundDone h)
      | .stall => none
      | .void x y cls va size kind => s.faultForme h x y 0 cls 0 (.access va size kind)

def execRoundCommit (h : Nat) (s : State) : Out := settle s (s.roundCommit h)

end Sys2Proof.Machine
end

