-- ==== Sys2Proof/Machine/Pooled.lean ====
section
/-! DEFINITION. Matching in a dataflow tile: tokens that are accepted, held, dropped as strays, matched, merged and spilled (R42 to R45,
R81, R142, R176), the opening of galley instances (R142, R224, R300, R358), favour (R300), and pooled pre-emption (R326). -/

namespace Sys2Proof.Machine

/-! ## Marks and the spill area (R44, R312) -/

/-- Refill the oldest spilled entry, while occupancy is below the low-water mark. -/
def DTile.refill (d : DTile) : Option DTile :=
  if decide (d.occ < d.low) then
    (leastBy (fun (a b : MEntry) => keyLt [a.age, a.node, a.tag.toNat] [b.age, b.node, b.tag.toNat])
      (d.entries.filter MEntry.spilled)).map fun e =>
        let n := ([e.p0, e.p1, e.p2, e.p3].filter Option.isSome).length
        { d with entries := d.entries.map fun x => if x == e then { x with spilled := false } else x
                 perf := d.perf.set 4 ((d.perf.getD 4 0 + max 1 n) % 2 ^ 64) }
  else none

/-- A refill reads the spill area, once its memory is usable (R376). -/
def execSpillRefill (tile : Nat) (s : State) : Out :=
  settle s (if s.homeReady (tile / 32) 0 (tile / 32) then (s.tile tile).refill.map fun d => s.setTile d else none)

/-! ## Which tokens make an instance (R42, R43, R128, R138) -/

/-- How a node matches its tokens: each an instance by itself, by merging, by its predicate, or one on every expected port. -/
inductive Matching where
  | each
  | merge
  | pred
  | full
  deriving DecidableEq, Repr

/-- The matching of a record. -/
def matching (i : Instr) (r : Shell) : Matching :=
  match i with
  | .cmb .. => .merge
  | .window .. | .merge .any _ => .each
  | .merge .pred _ => .pred
  | _ => if (expectedPorts r).length = 1 then .each else .full

def MEntry.port (e : MEntry) (k : Nat) : Option Tok :=
  match k with
  | 0 => e.p0
  | 1 => e.p1
  | 2 => e.p2
  | _ => e.p3

def MEntry.setPort (e : MEntry) (k : Nat) (t : Option Tok) : MEntry :=
  match k with
  | 0 => { e with p0 := t }
  | 1 => { e with p1 := t }
  | 2 => { e with p2 := t }
  | _ => { e with p3 := t }

/-- The ports of a set that an entry completes. -/
def MEntry.complete (e : MEntry) (m : Matching) (r : Shell) : Option (List Nat) :=
  let ports := match m with
    | .pred => match e.p3 with
      | some p => predPorts p
      | none => [0, 1, 3]
    | _ => expectedPorts r
  if ports.all fun k => (e.port k).isSome then some ports else none

/-- The entry that holds tokens of a node under a tag. -/
def DTile.entry? (d : DTile) (node : Nat) (tag : Tag) : Option MEntry :=
  d.entries.find? fun e => e.node == node && e.tag == tag && !e.state

def DTile.dropEntry (d : DTile) (node : Nat) (tag : Tag) : DTile :=
  { d with entries := d.entries.filter fun e => !(e.node == node && e.tag == tag && !e.state) }

/-- An instance with one token. -/
def PTok.inst (k : PTok) (t : Tok) : Inst :=
  ({ node := k.node.toNat, tag := k.tag, age := k.age, hnd := k.hnd } : Inst) |> fun i => match k.port.toNat with
    | 0 => { i with p0 := some t }
    | 1 => { i with p1 := some t }
    | 2 => { i with p2 := some t }
    | _ => { i with p3 := some t }

/-- What the store does with a token of an open instance. -/
inductive Stored where
  | done (d : DTile) (st : Sticky)
  | collision (held : Tok)
  | count
  | spillFull
  deriving DecidableEq, Repr

/-- An entry has come to the spill area, or changed there (R49). -/
def DTile.countSpill (d : DTile) : DTile := { d with perf := d.perf.set 3 ((d.perf.getD 3 0 + 1) % 2 ^ 64) }

/-- Keep an entry: in the store, or in the spill area when the store is full or the entry already lies there (R44). `room` is what the
spill area holds. -/
def DTile.keepEntry (d : DTile) (room : Nat) (e : MEntry) : Stored :=
  let kept (x : MEntry) : Stored :=
    let d' := d.dropEntry e.node e.tag
    let d' := { d' with entries := d'.entries ++ [x] }
    .done (if x.spilled then d'.countSpill else d') 0
  match d.entry? e.node e.tag with
  | some x => kept { e with spilled := x.spilled, slot := x.slot }
  | none => match d.place room e with
    | some x => kept x
    | none => .spillFull

/-- A CMB's arrival (R43, R176). -/
def DTile.mergeIn (d : DTile) (room : Nat) (op : CombineOp) (aux : Nat) (k : PTok) : Stored :=
  let node := k.node.toNat
  match d.entry? node k.tag with
  | none =>
    if k.tok.isEos then .done { d with ready := d.ready ++ [k.inst k.tok] } 0
    else
      let (v, n, fl, st) := cmbMerge op 0 0 0 k.tok
      if aux ≤ n.toNat then .done { d with ready := d.ready ++ [k.inst (cmbResult v fl)] } st
      else match d.keepEntry room { node := node, tag := k.tag, p0 := some k.tok, age := k.age, hnd := k.hnd
                                    value := v, count := n, flags := fl } with
        | .done d _ => .done d st
        | r => r
  | some e =>
    if k.tok.isEos then .count
    else
      let (v, n, fl, st) := cmbMerge op e.value e.count e.flags k.tok
      if aux ≤ n.toNat then
        let d := d.dropEntry node k.tag
        .done { d with ready := d.ready ++ [{ k.inst (cmbResult v fl) with age := e.age, hnd := e.hnd || k.hnd }] } st
      else match d.keepEntry room { e with value := v, count := n, flags := fl, hnd := e.hnd || k.hnd } with
        | .done d _ => .done d st
        | r => r

/-- A token that waits for its partners, or completes their set. -/
def DTile.matchIn (d : DTile) (room : Nat) (m : Matching) (r : Shell) (k : PTok) : Stored :=
  let node := k.node.toNat
  let p := k.port.toNat
  let e := (d.entry? node k.tag).getD { node := node, tag := k.tag, age := k.age }
  match e.port p with
  | some t => .collision t
  | none =>
    let e := { e.setPort p (some k.tok) with hnd := e.hnd || k.hnd }
    match e.complete m r with
    | none => d.keepEntry room e
    | some ports =>
      let take (q : Nat) := if ports.contains q then e.port q else none
      let i : Inst := { node := node, tag := k.tag, p0 := take 0, p1 := take 1, p2 := take 2, p3 := take 3, age := e.age, hnd := e.hnd }
      let rest := ports.foldl (fun e q => e.setPort q none) e
      let left := [rest.p0, rest.p1, rest.p2, rest.p3].any Option.isSome
      let d := { d with ready := d.ready ++ [i] }
      if left then d.keepEntry room rest else .done (d.dropEntry node k.tag) 0

/-- The store's answer to a token for a record. A stream in a galley may go into a CMB only: elsewhere its second token collides (R145). -/
def DTile.store (d : DTile) (room : Nat) (i : Instr) (r : Shell) (k : PTok) : Stored :=
  match matching i r, i, k.again with
  | .merge, .cmb op _, _ => d.mergeIn room op r.aux.toNat k
  | _, _, some first => .collision first
  | .each, _, none => .done { d with ready := d.ready ++ [k.inst k.tok] } 0
  | m, _, none => d.matchIn room m r k

/-! ## Favour and the opening of instances (R142, R224, R300, R358) -/

/-- Contexts with a token held on a tile, each with the age of its oldest, `c` among them. -/
def DTile.waitingCtxs (d : DTile) (k : PTok) : List (Nat × Nat) :=
  (d.held ++ [k]).foldl (fun l q => if l.any fun e => e.1 == tagCtx q.tag && decide (e.2 ≤ q.age) then l
    else assign (tagCtx q.tag) q.age l) []

/-- The context that a tile favours next (R300): one past AGEB, the oldest first; else the greatest effective priority, ties to the
oldest held token. -/
def State.favourNext (s : State) (t : Nat) (k : PTok) : Option Nat :=
  let cs := (s.tile t).waitingCtxs k
  let ageb := ((s.part? (s.unitPart t)).map Part.ageb).getD 0
  match leastBy (fun (a b : Nat × Nat) => keyLt [a.2, a.1] [b.2, b.1]) (cs.filter fun e => decide (ageb < s.clock - e.2)) with
  | some e => some e.1
  | none => (leastBy (fun (a b : Nat × Nat) => keyLt [8 - s.prio a.1, a.2, a.1] [8 - s.prio b.1, b.2, b.1]) cs).map (·.1)

/-- The state of a context lets a token of it open an instance (R224, R326, R358). -/
def State.ctxOpens (s : State) (t : Nat) (x : Ctx) (hnd : Bool) : Bool :=
  (match x.state with
    | .free | .halted => false
    | .faulted => hnd
    | _ => true) && (hnd || !x.trapHold) && !((s.tile t).savedPools.any fun p => p.ctx == x.id)

/-- Give favour where it is free. -/
def State.withFavour (s : State) (t : Nat) (k : PTok) : State :=
  let d := s.tile t
  if d.throttle && d.favoured.isNone then s.setTile { d with favoured := s.favourNext t k } else s

/-- A token may open an instance (R142, R300). -/
def State.opens (s : State) (t : Nat) (x : Ctx) (k : PTok) : Bool :=
  let d := s.tile t
  s.ctxOpens t x k.hnd && decide ((d.openOf x.id).length < 8) && (!d.throttle || d.favoured == some x.id)

/-- Open the instance of the galley at `h` under a token's tag, with the next sequence number of its context on the tile (R142). -/
def DTile.openGalley (d : DTile) (h : Nat) (k : PTok) (clock : Nat) : DTile :=
  let c := tagCtx k.tag
  let seq := (lookup c d.seqs).getD 0
  let base := d.entries.filter fun e => e.state && e.tag == k.tag && d.inGalley h e.node
  { d with
    galleys := d.galleys ++ [{ hdr := h, tag := k.tag, seq := seq, hnd := k.hnd, base := base, last := clock }]
    seqs := assign c ((seq + 1) % 2 ^ 32) d.seqs }

/-! ## Accepting a token (R42 to R45, R81) -/

/-- The payload of a fault of the matching store: tag, node and port, with the held and the arriving token (Table 22-3). -/
def PTok.collisionPay (k : PTok) (held : Option Tok) : Pay :=
  .raw (k.tag.toNat * 2 ^ 128 + k.node.toNat * 2 ^ 114 + k.port.toNat * 2 ^ 112 + match held with
    | some t => pinnedBits 0 t % 2 ^ 36 * 2 ^ 64 + pinnedBits 0 k.tok % 2 ^ 36
    | none => 0)

/-- Give a token to its open instance: a copy of an input is kept until the commit (R355), and the store takes it. -/
def State.storeIn (s : State) (t : Nat) (g : Galley) (i : Instr) (r : Shell) (k : PTok) : Option State :=
  let inside := k.src == .inst g.hdr g.tag
  let g := { g with
    inputs := if inside then g.inputs else g.inputs ++ [k], last := s.clock, heard := if inside then g.heard else s.clock }
  let s := s.setGalley t g
  match (s.tile t).store (s.spillRoom t) i r k with
  | .done d st => if s.spillWaits d then none else some (s.keepTile (d.setGalley { g with sticky := g.sticky ||| st }))
  | .collision held => s.faultGalley t g k.node.toNat clsCollision 0 (k.collisionPay (some held))
  | .spillFull => s.faultGalley t g k.node.toNat clsSpill 0 (k.collisionPay none)
  | .count => s.faultGalley t g k.node.toNat clsCount 0 (.token k.tag.toNat (pinnedBits 0 k.tok))

/-- A token at the store. `older` are the held tokens that came before it; `taken` is the state without it. -/
def State.accept (s taken : State) (t : Nat) (older : List PTok) (k : PTok) : Option State :=
  let d := s.tile t
  let p := s.unitPart t
  let k := { k with age := if k.age = 0 then s.clock else k.age }
  let gone := (taken.stray p 1 (t % 32) k).map fun s => s.setTile (s.tile t).spent
  match s.ctx? (tagCtx k.tag), d.record? k.node.toNat, d.header? k.node.toNat with
  | some x, some i, some h =>
    match i.shell? with
    | none => gone
    | some r =>
      if x.part != p || !((expectedPorts r).contains k.port.toNat) then gone
      else match d.galley? h k.tag with
        | some g => (taken.storeIn t g i r k).map fun s => s.setTile (s.tile t).spent
        | none =>
          let s1 := taken.withFavour t k
          let behind := older.any fun q => q.tag == k.tag && d.header? q.node.toNat == some h
          if !behind && s1.opens t x k then
            let s2 := s1.setTile ((s1.tile t).openGalley h k s.clock)
            match (s2.tile t).galley? h k.tag with
            | some g => (s2.storeIn t g i r k).map fun s => s.setTile (s.tile t).spent
            | none => none
          else if older.length < d.held.length then none
          else
            let d1 := s1.tile t
            some (s1.setTile { d1 with held := d1.held ++ [k] })
  | _, _, _ => gone

/-- No earlier token of a list must be accepted first: neither one of the same source for the same port under the same tag (R38), nor a
token of a dropped instance, which re-enters in its original order (R355). -/
def PTok.first (k : PTok) (l : List PTok) : Bool :=
  l.all fun q => q.age == 0 && !(q.src == k.src && q.tag == k.tag && q.node == k.node && q.port == k.port)

/-- A tile accepts token `n` of its links, or, from the number of those on, one of its held tokens. -/
def State.matchAccept (s : State) (t n : Nat) : Option State :=
  let d := s.tile t
  match d.inbox.drop n with
  | k :: l =>
    if k.first (d.inbox.take n) then s.accept (s.setTile { d with inbox := d.inbox.take n ++ l }) t d.held k else none
  | [] =>
    let m := n - d.inbox.length
    match d.held.drop m with
    | k :: l =>
      if d.inbox.any fun q => q.age != 0 then none else s.accept (s.setTile { d with held := d.held.take m ++ l }) t (d.held.take m) k
    | [] => none

def execMatchTokenAccept (tile n : Nat) (s : State) : Out := settle s (s.matchAccept tile n)

/-- SLICE has run out: favour passes on to the context that R300 names next. -/
def execFavourSliceExpiry (tile : Nat) (s : State) : Out := .next (s.setTile { s.tile tile with favoured := none })

/-! ## Pooled pre-emption (R326) -/

/-- A context's work on a tile after its open instances have been dropped: their inputs, its entries and its held tokens are saved. -/
def DTile.poolOut (d : DTile) (c : Nat) (opened : List Galley) (clock : Nat) : DTile :=
  let mine (q : Tag) := tagCtx q == c
  let out := d.galleys.filter fun g => g.dropped && opened.any fun o => o.hdr == g.hdr && o.tag == g.tag && o.seq == g.seq
  let toks : List PTok := sortBy (fun a b => decide (a.age < b.age)) (out.flatMap Galley.inputs) ++ d.held.filter fun k => mine k.tag
  DTile.spent { d with
    galleys := d.galleys.filter fun g => !(out.contains g)
    entries := d.entries.filter fun e => !(mine e.tag)
    ready := d.ready.filter fun i => !(mine i.tag)
    held := d.held.filter fun k => !(mine k.tag)
    redone := d.redone ++ opened.map fun g => (g.hdr, g.tag)
    savedPools := d.savedPools ++ [{ ctx := c, entries := d.entries.filter fun e => mine e.tag
                                     ready := d.ready.filter fun i => mine i.tag, toks := toks, since := clock }] }

/-- Pre-empt a context's work on a tile: its open instances are dropped. One that is dropped the fourth time in a row without committing
faults instead (R357; log 93). -/
def State.poolOut (s : State) (t c : Nat) : Option State :=
  match s.ctx? c with
  | none => none
  | some x =>
    if x.part != s.unitPart t || (s.tile t).savedPools.any fun p => p.ctx == c then none
    else
      let opened := (s.tile t).openOf c
      match opened.find? fun g => decide (3 ≤ ((s.tile t).redone.filter fun r => r == (g.hdr, g.tag)).length) with
      | some g => some (s.redoOr t g clsWatchdog (.token g.tag.toNat 0))
      | none =>
        let s := match leastBy (fun (a b : Galley) => decide (a.seq < b.seq)) opened with
          | some g =>
            let u := s.dropGalley t g
            u.giveBits t ((u.tile t).droppedFrom c g.seq)
          | none => s
        some (s.setTile ((s.tile t).poolOut c opened s.clock))

def execPooledPreempt (tile ctx : Nat) (s : State) : Out := settle s (s.poolOut tile ctx)

/-- Restore a context's saved work on its tile: its entries where the store and the spill area have room for them, and its tokens re-enter
in their order (R44, R326). -/
def DTile.poolIn (d : DTile) (room : Nat) (p : SavedPool) : Option DTile :=
  d.addEntries room p.entries |>.map fun d => { d with
    savedPools := d.savedPools.filter fun q => q.ctx != p.ctx
    ready := d.ready ++ p.ready.map fun i => { i with issue := none, gathered := false, parked := false }
    inbox := p.toks ++ d.inbox }

end Sys2Proof.Machine
end

