-- ==== Sys2Proof/Machine/Fabric.lean ====
section
/-! DEFINITION. Arrivals in a forme: tokens of its links and of its boundary at elements, AGs and islands (R38, R41, R162, R196, R245, R249,
R319, R320), and FIFO tiles (R249, R255, R321); with the steps of windows, streams and passes as events (R164, R166, R237, R256). -/

namespace Sys2Proof.Machine

/-- No earlier token of the same producer is on its way to the same consumer under the same route tag, and no marker (R37). -/
def Core.firstOn (c : Core) (n : Nat) (l : LinkTok) : Bool :=
  (c.links.take n).all fun k => !(k.src == l.src && k.dst == l.dst && (k.rt == l.rt || k.wire == .tok .marker))

/-- The core without link token `n`. -/
def Core.unlink (c : Core) (n : Nat) : Core := { c with links := c.links.eraseIdx n }

/-- Record a token that arrives behind a marker (R320, R321, Table 18-7). -/
def Mark.record (m : Mark) (r : LinkRec) : Mark := { m with linkToks := m.linkToks ++ [r] }

/-- A link token as a queue keeps it. -/
def LinkTok.queued (l : LinkTok) (t : Tok) (clock : Nat) : QTok := { rt := l.rt, tok := t, age := clock, tag := l.tag }

/-! ## Elements, AGs and islands -/

/-- A token reaches an element port: queued where an entry is free, or recorded once the element has saved. -/
def State.toElem (s : State) (f : Forme) (c : Core) (l : LinkTok) (x y k : Nat) (t : Tok) : Option State :=
  let q := l.queued t s.clock
  match f.mark with
  | some m =>
    if m.saved.contains (x, y) then
      some (s.setForme { f with mark := some (m.record ⟨false, x, y, 0, k, q⟩), run := { f.run with core := c } })
    else if c.room (.elem x y k) then
      some (s.putCore f (c.setElem ((c.elem x y).setQueue k ((c.elem x y).queue k ++ [q]))))
    else none
  | none =>
    if c.room (.elem x y k) then some (s.putCore f (c.setElem ((c.elem x y).setQueue k ((c.elem x y).queue k ++ [q])))) else none

/-- A scale token reaches an element: it waits until the latch, which holds two, has a free entry; one of neither the current nor the next
block is a count mismatch (R41). -/
def State.toLatch (s : State) (f : Forme) (c : Core) (l : LinkTok) (x y : Nat) (btag : BitVec 16) (e : BitVec 8) : Option State :=
  let b := (f.rtState x y l.rt).block
  let el := c.elem x y
  if 2 ≤ el.scales.length then none
  else if !(btag == b || btag == b + 1) then
    s.faultForme f.handle x y 0 clsCount 0 (.token 0 (l.rt.toNat * 2 ^ 28 + btag.toNat * 2 ^ 8 + e.toNat))
  else some (s.putCore f (c.setElem { el with scales := el.scales ++ [⟨l.rt, btag, e⟩] }))

/-- A token reaches an AG input (R162). -/
def State.toAg (s : State) (f : Forme) (c : Core) (l : LinkTok) (bay k : Nat) (t : Tok) : Option State :=
  let a := c.ag bay
  if 8 ≤ (a.input k).length then none
  else
    let (x, y) := match l.src with
      | .elem x y => (x, y)
      | _ => (bay % 16 * 8, bay / 16 * 8)
    some (State.agDrain f.handle bay 16 (s.putCore f (c.setAg (a.setInput k (a.input k ++ [{ x := x, y := y, rt := l.rt, tok := t }])))))

/-- A token reaches an island, whose buffer has to have room for it (R195): the words of packets. An EOS carries none; a token without a
value counts as the word 0 (log 29). A word of a round-mode forme is staged until the round's commit (R354; log 27). -/
def State.toIsland (s : State) (f : Forme) (c : Core) (l : LinkTok) (u : Nat) (t : Tok) : Option State :=
  let w := if t.isActive then t.value else 0
  let g := { f with run := { f.run with core := c } }
  if t.isEos then some (s.setForme g)
  else if !(s.islandRoom u) then none
  else if f.cfg.stream then
    let i := s.island u
    some ((s.setForme g).setIsland { i with inq := i.inq ++ [(l.rt, w)] })
  else some (s.setForme (g.stageAt 0 0 l.rt (.word u l.rt w)))

/-- Deliver link token `n` of a forme. Markers and the tokens for FIFO tiles have events of their own. -/
def State.deliver (s : State) (f : Forme) (n : Nat) : Option State :=
  match f.run.core.links[n]? with
  | none => none
  | some l =>
    if f.status != .live || l.wire == .tok .marker || !(f.run.core.firstOn n l) then none
    else
      let c := f.run.core.unlink n
      match l.dst, l.wire with
      | .elem x y k, .tok t => s.toElem f c l x y k t
      | .elem x y _, .scale b e => s.toLatch f c l x y b e
      | .ag bay k, .tok t => s.toAg f c l bay k t
      | .island u, .tok t => s.toIsland f c l u t
      | _, _ => none

/-- A token held at the boundary enters the chase at its ROUTE element (R245, R249, R319): not into a sealed round, past a marker or
during a swap, and in its order among the tokens of its tag; the logged tokens of a replay enter first, in their order. A round-mode forme logs
it (R250). -/
def State.admitToken (s : State) (f : Forme) (j : Nat) : Option State :=
  match f.held[j]? with
  | none => none
  | some b =>
    if f.status != .live || f.mark.isSome || f.sealed || s.chaseBusy f ||
        ((f.held.take j).any fun o => o.x == b.x && o.y == b.y && o.tag == b.tag) || (f.run.replaying != 0 && j != 0) then none
    else
      let c := f.run.core
      if !(c.room (.elem b.x b.y 0)) then none
      else
        let e := c.elem b.x b.y
        let f' : Forme := { f with
          held := f.held.eraseIdx j
          run := { f.run with inlog := if f.cfg.stream then f.run.inlog else f.run.inlog ++ [b], replaying := f.run.replaying - 1 } }
        some (s.setCore f' (c.setElem { e with q0 := e.q0 ++ [{ rt := 0, tok := b.tok, age := s.clock, tag := b.tag }] }))

/-- A token arrives in a forme: link token `n`, or, from the number of those on, a token held at its boundary. -/
def State.arrive (s : State) (h n : Nat) : Option State :=
  match s.forme? h with
  | none => none
  | some f =>
    let k := f.run.core.links.length
    if n < k then s.deliver f n else s.admitToken f (n - k)

def execElementTokenArrival (h n : Nat) (s : State) : Out := settle s (s.arrive h n)

/-! ## FIFO tiles (R249, R255, R321) -/

/-- Dequeue the token at HEAD to the tile's out port. -/
def State.fifoOut (s : State) (h bay : Nat) : Option State :=
  match s.forme? h with
  | none => none
  | some f => match f.run.core.fifo? bay with
    | none => none
    | some q => match q.ring with
      | [] => none
      | t :: ring =>
        let c := f.run.core
        if !f.flows || f.sealed || !(c.unblocked (.fifo bay)) || !(c.credit (.elem q.outx q.outy q.outport)) then none
        else
          let c := c.setFifo { q with ring := ring, head := (q.head + 1) % max 1 q.cap }
          some (s.setCore f (c.putLink { src := .fifo bay, dst := .elem q.outx q.outy q.outport, rt := t.rt, wire := .tok t.tok, tag := t.tag }))

def execFifoTileDequeue (h bay : Nat) (s : State) : Out := settle s (s.fifoOut h bay)

/-- The link token that a FIFO tile takes next: of the lowest port, oldest first. -/
def Core.nextFor (c : Core) (bay : Nat) : Option (Nat × Nat × LinkTok × Tok) :=
  leastBy (fun a b => keyLt [a.1, a.2.1] [b.1, b.2.1]) (c.links.zipIdx.filterMap fun e => match e.1.dst, e.1.wire with
    | .tile b p, .tok t =>
      if b == bay && t.flag != .marker && c.firstOn e.2 e.1 then some (p, e.2, e.1, t) else none
    | _, _ => none)

/-- Enqueue the next token that has reached a FIFO tile, or record it while a marker is under way. -/
def State.fifoIn (s : State) (h bay : Nat) : Option State :=
  match s.forme? h with
  | none => none
  | some f => match f.run.core.fifo? bay, f.run.core.nextFor bay with
    | some q, some (p, n, l, t) =>
      if f.status != .live then none
      else
        let c := f.run.core.unlink n
        match f.mark with
        | some m => some (s.setForme { f with
            mark := some (m.record ⟨true, bay % 16, bay / 16, f.arcOf bay l.src, p, l.queued t s.clock⟩), run := { f.run with core := c } })
        | none =>
          if q.ring.length < q.cap then some (s.putCore f (c.setFifo { q with ring := q.ring ++ [l.queued t s.clock] })) else none
    | _, _ => none

def execFifoTileEnqueue (h bay : Nat) (s : State) : Out := settle s (s.fifoIn h bay)

/-! ## Windows, streams and passes -/

def execWinFill (h bay w : Nat) (s : State) : Out := settle s (s.winStep h bay w)
def execStreamReadWord (h bay slot : Nat) (s : State) : Out := settle s (s.streamRead h bay slot)
def execStreamWriteWord (h bay : Nat) (wport : Bool) (s : State) : Out := settle s (s.writePort h bay wport)
def execPlanePassWord (h bay slot : Nat) (s : State) : Out := settle s (s.passStep h bay slot)

end Sys2Proof.Machine
end

