-- ==== Sys2Proof/Machine/Launch.lean ====
section
/-! DEFINITION. The ways in and the scheduler of a partition: ingress doors and the loads that they wake (R31, R288 to R293, R337), queue
launches (R294 to R298), pre-emption of formes and their restoration (R299, R301, R324 to R327). -/

namespace Sys2Proof.Machine

/-! ## Tokens at an ingress port (R31, R36, R288) -/

/-- A token as Table 2-2 lays it out; none where R31 discards it. One that carries a flag has the value 0 and both lanes (R31). -/
def parseToken (n : Nat) : Option PTok :=
  let tag : Tag := BitVec.ofNat 64 (bits 64 64 n)
  if bits 36 12 n ≠ 0 ∨ (bit 35 n && bit 34 n) ∨ !(tagWf tag) then none
  else some { tag := tag, port := BitVec.ofNat 2 (bits 62 2 n), node := BitVec.ofNat 14 (bits 48 14 n)
              tok := if bit 35 n then .eos else if bit 34 n then .null
                else { value := BitVec.ofNat 32 n, lmask := BitVec.ofNat 2 (bits 32 2 n) } }

/-- Count a discarded token in INGRESS_STAT (R340). -/
def Part.malformed (q : Part) : Part := { q with malf := satAdd 0xFFFF q.malf 1 }
def Part.discard (q : Part) (n : Nat) : Part := { q with faild := satAdd 0xFFFF q.faild n }

/-- Deliver a token through a resident door: to a node of the overlay, or to the boundary of the forme at a ROUTE element; for any other
element it is dropped as a stray (R291, R292). -/
def State.doorDeliver (s : State) (p : Nat) (e : Door) (k : PTok) : Option State :=
  if !e.forme then
    some (s.sendTile (p / 4 * 32 + e.tile) { k with node := BitVec.ofNat 14 (e.base + k.node.toNat) })
  else
    let x := k.node.toNat / 128
    let y := k.node.toNat % 128
    match s.forme? e.base with
    | some f =>
      if f.isRoute x y then some (s.setForme { f with held := f.held ++ [⟨x, y, k.tag, k.tok⟩] }) else s.stray p 0 e.base k
    | none => s.stray p 0 e.base k

/-- A token that a door accepts: it starts a load, is held while one runs, is delivered, or is discarded (R291, R293). -/
def State.doorToken (s : State) (p : Nat) (q : Part) (e : Door) (k : PTok) : Option State :=
  match e.state with
  | .absent => some (s.setPart (q.setDoor { e with state := .loading, held := [k] }))
  | .loading =>
    if e.held.length < 4096 then some (s.setPart (q.setDoor { e with held := e.held ++ [k] }))
    else some (s.setPart { q with ovrun := satAdd 0xFFFF q.ovrun 1 })
  | .resident => s.doorDeliver p e k
  | .failed => some (s.setPart (q.discard 1))
  | .unbound => some (s.setPart q.malformed)

/-- The checks of a door on a token of the host (R288). -/
def Door.takes (e : Door) (k : PTok) : Bool :=
  e.state != .unbound && tagCtx k.tag == e.ctx.toNat && if e.forme then k.port == 0 else decide (k.node.toNat < e.nrec)

/-- A bay row of a partition is ready: the partition has a GROUP bit set (R375, R376). -/
def State.partReady (s : State) (p : Nat) : Bool :=
  (List.range 16).any fun g => s.readyBays.getLsbD (16 * (p / 4) + g) && (s.bayPart (p / 4) 0 g == p || s.bayPart (p / 4) 8 g == p)

/-- A host write to byte `off` of a partition's ingress window (R288, R337). -/
def State.ingress (s : State) (p off len : Nat) (data : BitVec 128) : Option State :=
  match s.part? p with
  | none => some s
  | some q =>
    if 64 * 256 ≤ off then some s
    else if len ≠ 16 ∨ off % 16 ≠ 0 ∨ !(s.partReady p) then some (s.setPart q.malformed)
    else match parseToken data.toNat with
      | none => some (s.setPart q.malformed)
      | some k =>
        let e := q.door (off / 256)
        if e.takes k then s.doorToken p q e k else some (s.setPart q.malformed)

/-- A host read of an ingress window returns zero and changes nothing (R337). -/
def State.ingressRead (s : State) (_part _off _len : Nat) : BitVec 128 × State := (0, s)

def execIngressWrite (part off len : Nat) (data : BitVec 128) (s : State) : Out := settle s (s.ingress part off len data)

/-- A wide register is written whole: lower words that waited were written before its highest word and are gone (R338). -/
def State.wholeWrite (s : State) (p base n : Nat) : State :=
  match s.part? p with
  | some q => s.setPart (q.dropWide base n)
  | none => s

def execDoorEntryWrite (part door : Nat) (entry : BitVec 128) (s : State) : Out :=
  .next ((s.wholeWrite part (0x200 + 2 * (door % 64)) 2).doorWrite part (door % 64) entry)

def execJobEntryWrite (part job : Nat) (entry : BitVec 256) (s : State) : Out :=
  .next ((s.wholeWrite part (0x800 + 4 * (job % 64)) 4).jobWrite part (job % 64) entry)

/-! ## Door loads (R290, R291, R293) -/

/-- A load ends: the door's new entry, then an entry write that waited. -/
def State.doorSet (s : State) (p : Nat) (e : Door) : State :=
  match s.part? p with
  | some q => s.setPart (q.setDoor e)
  | none => s

def State.doorPending (s : State) (p d : Nat) : State :=
  match s.part? p with
  | some q =>
    let e := q.door d
    match e.pending with
    | some v => s.setPart (q.setDoor (e.bind v))
    | none => s
  | none => s

/-- A load that fails: the held tokens are discarded and counted. -/
def State.doorFail (s : State) (p : Nat) (e : Door) (reason : Nat) : State :=
  let s := match s.part? p with
    | some q => s.setPart (q.discard e.held.length)
    | none => s
  (s.doorSet p { e with state := .failed, reason := reason, held := [] }).doorPending p e.d

/-- A load that succeeds: the held tokens are delivered in order. -/
def State.doorDone (s : State) (p : Nat) (e : Door) : Option State :=
  let e' := { e with state := .resident, held := [], reason := 0 }
  (foldOpt (fun s k => s.doorDeliver p e' k) (s.doorSet p e') e.held).map fun s => s.doorPending p e.d

/-- Post the fault of a failed read of an image to the host (R293). -/
def State.doorFault (s : State) (p : Nat) (e : Door) (cls va : Nat) : Option State :=
  (s.postHost p (faultRecord { ctx := e.ctx.toNat, src := 5, srcid := e.d, cls := cls, prec := 4 } (accessPayload va 0 3))).map fun s =>
    s.doorFail p e (if cls = clsPermission then 3 else 4)

/-- The largest free node range of a tile. -/
def State.freeNodes (s : State) (t : Nat) : Nat := (s.tile t).gaps.foldl (fun m g => max m g.2) 0

/-- The usable tile of a partition with the largest free node range that holds `n` records, ties to the lower tile. -/
def State.roomiest (s : State) (p n : Nat) : Option Nat :=
  leastBy (fun a b => keyLt [16384 - s.freeNodes a, a] [16384 - s.freeNodes b, b])
    ((s.partTiles p).filter fun t => s.tileUsable t && decide (n ≤ s.freeNodes t))

/-- A tile of a partition that holds `n` records is still to come up: a load waits for it (R376). -/
def State.tileToCome (s : State) (p n : Nat) : Bool :=
  (s.partTiles p).any fun t => !(s.tileUsable t) && !(s.tileFenced t) && decide (n ≤ s.freeNodes t)

/-- The load of an overlay door, as OVLD loads. -/
def State.loadOverlay (s : State) (p : Nat) (e : Door) : Option State :=
  let va := e.image.toNat
  if 65532 < 12 * e.nrec then s.doorFault p e clsBounds va
  else match s.fetchRange p (Addr.ofVa e.image) (12 * e.nrec) .exec with
    | none => none
    | some (.error c) => s.doorFault p e c va
    | some (.ok b) =>
      let ws := overlayWords b
      match checkOverlay ws with
      | some f => (s.postIllegal true p e.ctx.toNat e.d f).map fun s => s.doorFail p e 2
      | none => match s.roomiest p ws.length with
        | none => if s.tileToCome p ws.length then none else some (s.doorFail p e 1)
        | some t => match s.placeOverlay t ws (some e.d) with
          | none => some (s.doorFail p e 1)
          | some (base, s) => s.doorDone p { e with base := base, tile := t % 32 }

/-- Placement word of an automatic load. -/
def autoPlace : Word := 0x80000000

/-- The load of a forme door, as FLOAD with AUTO = 1 loads, and swapped in at once; it waits where no chase fits. -/
def State.loadForme (s : State) (p : Nat) (e : Door) : Option State :=
  match s.readImage p e.image with
  | .stall => none
  | .fault c va => s.doorFault p e c va
  | .noPerm => s.doorFault p e clsPermission e.image.toNat
  | .bad f => (s.postIllegal true p e.ctx.toNat e.d f).map fun s => s.doorFail p e 2
  | .ok g => match s.takeChase p e.ctx.toNat g autoPlace with
    | some (some (h, s)) =>
      let s := match s.forme? h with
        | some f => s.setForme { f with status := .entering, run := g.start, door := some e.d, since := s.clock }
        | none => s
      (s.doorDone p { e with base := h }).map fun s => s.reweigh p
    | _ => none

/-- Finish the load of a door; none while it has to wait. -/
def State.doorLoad (s : State) (p d : Nat) (formes : Bool) : Option State :=
  match s.part? p with
  | none => none
  | some q =>
    let e := q.door d
    if e.state != .loading then none
    else if e.forme then s.loadForme p e
    else if formes then none
    else s.loadOverlay p e

def execDoorLoadDone (part door : Nat) (s : State) : Out := settle s (s.doorLoad part door false)
def execDoorLoadRetry (part door : Nat) (s : State) : Out := settle s (s.doorLoad part door true)

/-! ## Queue launches (R294 to R298) -/

/-- A queue of a partition's table with its descriptor. -/
structure QueueView where
  q : Nat
  va : VA
  pieces : List (Nat × Nat)
  desc : Nat
  launches : Nat
  deriving DecidableEq, Repr

/-- CMTD − TAKEN. -/
def QueueView.filled (v : QueueView) : Nat := (bits 192 32 v.desc + 2 ^ 32 - bits 224 32 v.desc) % 2 ^ 32
def QueueView.hctx (v : QueueView) : Nat := bits 500 12 v.desc

/-- A queue that may launch (R294, R295). -/
def State.runnable (s : State) (q : Part) (v : QueueView) : Bool :=
  let d := v.desc
  let e := q.door (bits 489 6 d)
  let batch := bits 465 8 d
  let most := bits 457 8 d
  bit 495 d && (v.filled != 0 || !((q.home v.va).returned.isEmpty)) && decide (bits 449 8 d < most) && batch != 0 && most != 0 &&
    e.ctx.toNat == v.hctx && (e.state == .resident || e.state == .absent) && match s.ctx? v.hctx with
    | some x => x.part == q.p && x.state != .halted && x.state != .faulted && !x.trapHold
    | none => false

/-- The descriptors of a partition's queue table that can be read. -/
def State.queueViews (s : State) (q : Part) : List QueueView :=
  q.queues.filterMap fun e => if e.va == (0 : VA) then none else match s.single q.p (Addr.ofVa e.va) 64 .both with
    | .ok l => some { q := e.q, va := e.va, pieces := l, desc := leNat (s.readPieces l), launches := e.launches }
    | _ => none

/-- The release time of the valid DEADLINE job of a queue in the deadline class. -/
def Part.deadline (q : Part) (v : QueueView) : Option (Nat × Nat) :=
  if bit 496 v.desc then match q.job? (bits 432 16 v.desc) with
    | some j => if j.valid && !j.bestEffort then some (j.sec, j.ns) else none
    | none => none
  else none

/-- The queue that launches (R298): by age past AGEB, by deadline, by priority and fill; ties to the lower index. -/
def State.selectQueue (s : State) (q : Part) : Option QueueView :=
  let cand := (s.queueViews q).filter (s.runnable q)
  let age (v : QueueView) : Nat := (s.clock % 2 ^ 32 + 2 ^ 32 - bits 384 32 v.desc) % 2 ^ 32
  match leastBy (fun a b => keyLt [2 ^ 32 - age a, a.q] [2 ^ 32 - age b, b.q]) (cand.filter fun v => decide (q.ageb < age v)) with
  | some v => some v
  | none =>
    let dl := cand.filterMap fun v => (q.deadline v).map fun t => ([t.1, t.2, v.q], v)
    match leastBy (fun a b => keyLt a.1 b.1) dl with
    | some e => some e.2
    | none =>
      let prio (v : QueueView) : Nat := max (s.prio v.hctx) (bits 497 3 v.desc)
      leastBy (fun a b => keyLt [8 - prio a, 2 ^ 32 - a.filled, a.q] [8 - prio b, 2 ^ 32 - b.filled, b.q]) cand

/-- Launch a queue (R296): INFL and the launch count rise, and one token goes through the door. -/
def State.launch (s : State) (q : Part) (v : QueueView) : Option State :=
  let d := v.desc
  match pushTag (ctxTag v.hctx) 16 (v.launches % 2 ^ 16) with
  | none => none
  | some t =>
    let s := s.writePieces v.pieces (leBytes 64 (setBits 449 8 d (bits 449 8 d + 1)))
    let q' := { q with queues := q.queues.map fun e => if e.q == v.q then { e with launches := e.launches + 1 } else e }
    (s.setPart q').doorToken q.p q' (q'.door (bits 489 6 d))
      { tag := t, port := BitVec.ofNat 2 (bits 473 2 d), node := BitVec.ofNat 14 (bits 475 14 d)
        tok := .data (BitVec.ofNat 32 (bits 465 8 d * 256 + v.q)) }

/-- One opportunity of a partition's queue manager, after the returns that the homes of its queues have kept (R313). -/
def State.launchOne (s : State) (p : Nat) : Option State :=
  let s := s.lateReturns p
  match s.part? p with
  | none => none
  | some q => match s.selectQueue q with
    | none => none
    | some v => s.launch q v

def execQueueLaunch (part : Nat) (s : State) : Out := settle s (s.launchOne part)

/-! ## Pre-emption of formes (R299, R301, R324, R327) -/

/-- A lock holder that a waiter waits for. -/
def State.holdsUp (s : State) (c : Nat) : Bool := s.waiters.any fun w => !w.woken && s.lockHolder w == some c

/-- The formes that want a chase of a partition, with their contexts: of doors, of FLOADs that wait, and the swapped-out formes of lock
holders (R301, R327). -/
def State.wanting (s : State) (q : Part) : List (Nat × FormeCfg) :=
  ((q.doors.filter fun e => e.forme && e.state == .loading).filterMap fun e => match s.readImage q.p e.image with
    | .ok g => some (e.ctx.toNat, g)
    | _ => none) ++
  ((s.loads.filter fun l => l.part == q.p && l.placement.getLsbD 31).map fun l => (l.ctx, l.cfg)) ++
  ((s.formes.filter fun f => f.isSwapped q.p && s.holdsUp f.ctx).map fun f => (f.ctx, f.cfg))

/-- The effective priorities of those that no free chase fits. -/
def State.claims (s : State) (q : Part) : List Nat :=
  ((s.wanting q).filter fun e => (s.originFor q.p e.2 false).isNone).map fun e => s.prio e.1

/-- A forme of an unexpired DEADLINE job (R301). -/
def State.onDeadline (s : State) (q : Part) (f : Forme) : Bool :=
  match f.cfg.job.bind q.job? with
  | some j => j.valid && !j.bestEffort && decide (s.fru.now < j.sec * 10 ^ 9 + j.ns)
  | none => false

/-- A pre-emption by the scheduler is under way on a forme: its markers have no answer to give. -/
def Forme.leaving (f : Forme) : Bool :=
  match f.mark with
  | some m => m.reply.isNone && (f.status == .live || f.status == .saved)
  | none => false

/-- A claim of priority `n` may pre-empt a forme: of lower priority, or of the same after a YIELD, in round mode at the commit of its
round (R189, R301). -/
def State.yieldsTo (s : State) (q : Part) (f : Forme) (n : Nat) : Bool :=
  decide (s.prio f.ctx < n) ||
    (f.yielded && (f.cfg.stream || !f.run.roundOpen) && s.prio f.ctx == n && !(s.onDeadline q f))

/-- The forme that the scheduler pre-empts next: the lowest priority, then the longest live. -/
def State.victim (s : State) (q : Part) : Option Forme :=
  match (s.claims q).foldl (fun m n => some (max n (m.getD 0))) none with
  | none => none
  | some n =>
    if s.formes.any fun f => f.part == q.p && f.leaving then none
    else leastBy (fun (a b : Forme) => keyLt [s.prio a.ctx, a.since, a.handle] [s.prio b.ctx, b.since, b.handle])
      (s.formes.filter fun f => (s.markable q.p f.handle).isSome && s.yieldsTo q f n)

/-- The scheduler starts the marker protocol on a forme. -/
def State.preempt (s : State) (h : Nat) : Option State :=
  match s.forme? h with
  | none => none
  | some f => match s.part? f.part with
    | none => none
    | some q => match s.victim q with
      | some v => if v.handle == h then some (s.startMarker f.part h none).1 else none
      | none => none

def execFormePreempt (h : Nat) (s : State) : Out := settle s (s.preempt h)

/-- Bytes of a forme's context image (R323). -/
def Forme.imageSize (f : Forme) : Nat := f.image.length - f.trailer.length

/-- The lowest free image slot of a die's shadow area. -/
def State.freeSlot (s : State) (die : Nat) : Option Nat :=
  (List.range 8).find? fun n => !(s.formes.any fun f => f.die == die && f.status == .swapped (some n))

/-- Swap out a forme whose state the scheduler's markers have saved: to a slot that its image fits, else to T0 (R324). -/
def State.swapOut (s : State) (h : Nat) : Option State :=
  match s.forme? h with
  | none => none
  | some f =>
    if f.status != .saved || !f.leaving then none
    else
      let slot := if f.imageSize ≤ 40 * 2 ^ 20 then s.freeSlot f.die else none
      let s := (s.doorsAbsent f.part h).setForme { f with status := .swapped slot, since := s.clock, yielded := false }
      some ((s.refreshSwapped f.ctx).retryLoads)

def execShadowSwap (h : Nat) (s : State) : Out := settle s (s.swapOut h)

/-! ## Restoration (R301, R325, R326) -/

/-- A destination of a slot or a pass at the forme's present origin: edge units are those beside it now (R325). -/
def Forme.rebind (f : Forme) (d : Dest) (x y : Nat) : Dest :=
  match d with
  | .island _ | .dftile _ | .mport _ => f.dest x y (f.dstbOf x y)
  | _ => d

/-- The AGs of a forme at its present origin. -/
def Forme.rebindAgs (f : Forme) (c : Core) : Core :=
  let tok (k : AgTok) : AgTok := { k with dstb := f.dest k.x k.y k.dstbRaw }
  { c with ags := c.ags.map fun a => { a with
      slots := a.slots.map fun sl => { sl with
        consumer := f.rebind sl.consumer sl.ox sl.oy
        pass := sl.pass.map fun p => { p with consumer := f.rebind p.consumer p.ox p.oy } }
      in0 := a.in0.map tok, in1 := a.in1.map tok, in2 := a.in2.map tok, in3 := a.in3.map tok } }

/-- A swapped forme at an origin: imposed again, it enters with its saved state. -/
def Forme.moveTo (f : Forme) (o clock : Nat) : Forme :=
  let f : Forme := { f with status := .entering, bx := o % 16, oy := o / 16, since := clock }
  { f with run := { f.run with core := f.rebindAgs f.run.core, start := f.rebindAgs f.run.start } }

/-- A door's forme load of greater effective priority than `n` finds a chase now: it goes ahead of what waits at priority `n` (R301, R328). -/
def State.doorAhead (s : State) (p n : Nat) : Bool :=
  (((s.part? p).map Part.doors).getD []).any fun e => e.forme && e.state == .loading && decide (n < s.prio e.ctx.toNat) &&
    match s.readImage p e.image with
    | .ok g => (s.originFor p g true).isSome
    | _ => false

/-- A swapped-out forme restored at an origin that fits now, with its arcs routed and its range entries loaded there (R241, R309, R325). -/
def State.restoreForme (s : State) (p : Nat) (f : Forme) : Option State :=
  (s.originFor p f.cfg true).map fun o =>
    let g := f.moveTo o s.clock
    let g := { g with cfg := s.routed g.die g.cfg g.bx g.oy }
    (s.setForme g).loadRanges g

/-- What the scheduler may put into a partition, with the key of its turn: effective priority, then how long it has waited. -/
def State.waitingOut (s : State) (p : Nat) : List (List Nat × State) :=
  (s.formes.filterMap fun f => if f.isSwapped p && !(s.doorAhead p (s.prio f.ctx)) then
      (s.restoreForme p f).map fun t => ([8 - s.prio f.ctx, f.since, 0, f.handle], t)
    else none) ++
  (s.loads.filterMap fun l => if l.part == p then
      ({ s with loads := s.loads.erase l }.retryLoad l).map fun t => ([8 - s.prio l.ctx, s.clock, 2, 0], t)
    else none) ++
  (s.partTiles p).flatMap fun t => (s.tile t).savedPools.filterMap fun q =>
    ((s.tile t).poolIn (s.spillRoom t) q).map fun d => ([8 - s.prio q.ctx, q.since, 1, t], s.keepTile d)

/-- Restore the first in turn that fits: a swapped forme, the saved pooled work of a context, or the load of an FLOAD that waits. -/
def State.restoreOne (s : State) (p : Nat) : Option State :=
  (leastBy (fun (a b : List Nat × State) => keyLt a.1 b.1) (s.waitingOut p)).map (·.2)

def execFormeRestore (part : Nat) (s : State) : Out := settle s (s.restoreOne part)

end Sys2Proof.Machine
end

