-- ==== Sys2Proof/Machine/Host.lean ====
section
/-! DEFINITION. The host and the module: registers (R47, R48, R336 to R340), commands on contexts (R358), host memory (R268, R336), power,
firmware and readiness (R26, R375 to R380), the frame release unit (R348, R349), and links (R345). -/

namespace Sys2Proof.Machine

/-! ## Registers and commands -/

/-- BAR0 is there once the L2 of die 0 is READY (R377). -/
def State.barShown (s : State) : Bool := s.unitReady 0

def execRegisterWrite (acc : RegAccess) (index : Nat) (value : BitVec 64) (s : State) : Out :=
  settle s (if s.barShown then s.hostRegWrite acc index value else none)
def execRegisterRead (acc : RegAccess) (index : Nat) (s : State) : Out := .next (if s.barShown then (s.hostRegRead acc index).2 else s)
def execIssueStatClr (tile : Nat) (s : State) : Out := .next (s.setTile (s.tile tile).clearIssues)

/-- CLR of INGRESS_STAT. -/
def Part.clearCounts (q : Part) : Part := { q with hqlost := 0, faild := 0, ovrun := 0, malf := 0 }

def execIngressStatClr (part : Nat) (s : State) : Out :=
  .next (match s.part? part with
    | some q => s.setPart q.clearCounts
    | none => s)

def execCtxCmdReplay (part : Nat) (s : State) : Out := settle s (s.ctxCmd part 1 0)
def execCtxCmdContinue (part : Nat) (s : State) : Out := settle s (s.ctxCmd part 2 0)
def execCtxCmdKill (part : Nat) (s : State) : Out := settle s (s.ctxCmd part 3 0)
def execCtxCmdKillForme (part h : Nat) (s : State) : Out := settle s (s.ctxCmd part 4 h)
def execCtxCmdResume (part : Nat) (s : State) : Out := settle s (s.ctxCmd part 5 0)
def execCtxCmdReplayUnposted (part : Nat) (s : State) : Out := settle s (s.ctxCmd part 6 0)

/-- The first byte of the bring-up area: the last 64 MiB of the 64 GiB of die 0's T0. -/
def bringUp : Nat := spaceBase 0 0 + 0xFFC000000

/-- A byte of REPORT, which the host only reads (Table 24-4). -/
def reportByte (a : Nat) : Bool := decide (bringUp + 0x3F00000 ≤ a) && decide (a < bringUp + 0x3F00000 + 128)

/-- The host writes bytes to memory; those of REPORT stay. -/
def State.hostWrite (s : State) (a : Nat) (b : List Byte) : State :=
  s.writeN a (b.zipIdx.map fun e => if reportByte (a + e.2) then Memory.read s.mem (a + e.2) else e.1)

/-- A host access of CXL.mem to the T0 of a die, performed at its home once that is ready (R268, R336, R376). -/
def State.hostMem (s : State) (write : Bool) (addr size : Nat) (data : BitVec 512) : Option State :=
  let die := addr / Config.dramBytes
  if 4 ≤ die then some s
  else if !(s.homeReady 0 0 die) then none
  else if write then some (s.hostWrite (spaceBase 0 die + addr % Config.dramBytes) (leBytes (min 64 size) data.toNat))
  else some s

def execHostMemAccess (write : Bool) (addr size : Nat) (data : BitVec 512) (s : State) : Out := settle s (s.hostMem write addr size data)

/-! ## Power modes (R26, R380) -/

def execPmodeWrite (mode : BitVec 3) (s : State) : Out := .next (s.setMode mode)

/-- A clock domain (0 the islands, 1 everything else) goes to its figure in the present mode. -/
def execClockDomainSwitch (dom : Nat) (s : State) : Out :=
  .next { s with clocks := s.clocks.set dom ((modeClocks s.pmode).getD dom 0) }

/-- The power controller sets a clock domain, never above its figure, and never in STAGE. -/
def execClockThrottle (dom mhz : Nat) (s : State) : Out :=
  .next (if s.pmode = 3 then s else { s with clocks := s.clocks.set dom (min mhz ((modeClocks s.pmode).getD dom 0)) })

/-! ## Firmware and readiness (R8, R375 to R379) -/

def execFwgo (s : State) : Out := .next s.fwGo
def execCeclr (s : State) : Out := .next { s with cecnt := 0 }

/-- One bit of CRC-32 (IEEE 802.3), reflected. -/
def crcBit (c : Nat) : Nat := if c % 2 = 1 then Nat.xor (c / 2) 0xEDB88320 else c / 2

/-- One byte of CRC-32. -/
def crcByte (c : Nat) (b : Byte) : Nat := (List.range 8).foldl (fun c _ => crcBit c) (Nat.xor c b.toNat)

/-- CRC-32 of bytes. -/
def crc32 (b : List Byte) : Nat := Nat.xor (b.foldl crcByte 0xFFFFFFFF) 0xFFFFFFFF

/-- The fences of the list that the host supplied: die and bay. -/
def State.fenceList (s : State) : List (Nat × Nat) :=
  (List.range (min 1024 (s.readLe (bringUp + 0x40) 4))).map fun n =>
    let v := s.readLe (bringUp + 0x44 + 2 * n) 2
    (bits 8 2 v, bits 0 8 v)

/-- The fences of a die with those of a list. -/
def Die.fence (d : Die) (l : List (Nat × Nat)) : Die :=
  let new := (l.filter fun e => e.1 == d.i).map (·.2)
  { d with fences := (d.fences ++ new).eraseDups }

/-- The mask of a die's fenced bays. -/
def Die.fenceMask (d : Die) : Nat := d.fences.foldl (fun n b => n + 2 ^ b) 0

/-- Fence bays, and write the mask of each die into REPORT. -/
def State.fenceBays (s : State) (l : List (Nat × Nat)) : State :=
  let ds := s.dies.map fun d => d.fence l
  ds.foldl (fun (s : State) d => s.writeLe (bringUp + 0x3F00000 + 32 * d.i) 32 d.fenceMask) { s with dies := ds }

/-- Bays that have failed built-in test, as the agenda's choice says: a mask for each die (R377, R379; log 23). -/
def State.failedBays (s : State) : Nat → List (Nat × Nat) × State
  | 0 => ([], s)
  | d + 1 =>
    let (l, s) := State.failedBays s d
    let (m, s) := s.pick (2 ^ 256)
    (l ++ ((List.range 256).filter fun b => bit b m).map fun b => (d, b), s)

/-- Firmware sets the FW fields: staging and spill areas; the peers of the die-to-die links, the higher die of the pair (log 4); the package id
and the peers of the Fijan ports, which the model picks (log 23). -/
def State.firmware (s : State) : State :=
  let s := (List.range 4).foldl State.firmwareParts s
  let s := [1, 2, 3, 2, 3, 3].zipIdx.foldl (fun (s : State) (e : Nat × Nat) => match s.linkAt e.2 with
    | some l => s.setLink { l with peer := BitVec.ofNat 10 e.1 }
    | none => s) s
  let (id, s) := s.pick 1024
  let s := { s with fijId := BitVec.ofNat 10 id }
  (List.range 16).foldl (fun s p =>
    let (v, s) := s.pick 1024
    match s.linkAt (16 + p) with
    | some l => s.setLink { l with peer := BitVec.ofNat 10 v }
    | none => s) s

/-- The boot ROM's check of LEN and CRC, which reads die 0's T0, ends: the firmware runs, or it is rejected. The bays that failed built-in
test and those of the host's list are fenced. -/
def State.fwCheck (s : State) : Option State :=
  if s.fwst != .check || !(s.homeReady 0 0 0) then none
  else
    let len := s.readLe (bringUp + 4) 4
    if len ≤ 48 * 2 ^ 20 ∧ crc32 (s.readN (bringUp + 0x1000) len) = s.readLe bringUp 4 then
      let (failed, t) := s.failedBays 4
      some { (t.fenceBays (failed ++ s.fenceList)).firmware with fwst := .run }
    else some { s with fwst := .rejected }

def execFwCheckDone (s : State) : Out := settle s s.fwCheck

/-- Power-up: every field at its reset value, DRAM without contents; what other devices hold stays (R8, R377). -/
def execPowerUp (s : State) : Out :=
  .next { State.reset with
    clock := s.clock, agenda := s.agenda, free := s.free, picks := s.picks, msix := s.msix, forwarded := s.forwarded
    mem := s.mem.filter fun c => decide (4 * Config.spaceSize ≤ c.1) }

/-- The link behind an entry of the readiness map (Tables 24-2, 24-3). -/
def linkOfEntry (e : Nat) : Option Nat :=
  if 8 ≤ e ∧ e < 12 then some (32 + (e - 8))
  else if 12 ≤ e ∧ e < 18 then some (e - 12)
  else if 23 ≤ e ∧ e < 39 then some (16 + (e - 23))
  else none

/-- The entry of a link. -/
def entryOfLink (n : Nat) : Nat := if n < 6 then 12 + n else if n < 32 then 23 + (n - 16) else 8 + (n - 32)

/-- A change of the readiness map fires vector 16. -/
def State.notice (s : State) : State := { s with msix := s.msix ++ [16] }

/-- Set an entry of the readiness map; a change of it fires vector 16 (R336, R375). -/
def State.setUnit (s : State) (e : Nat) (code : BitVec 2) : State :=
  let t : State := { s with readyUnits := assign e code s.readyUnits }
  if s.unitCode e = code.toNat then t else t.notice

/-- The entry of a function whose registers firmware sets, and whose bit it sets only after them (R8): a link, whose PEER it sets. -/
def firmwareEntry (e : Nat) : Bool := (linkOfEntry e).isSome

/-- The DRAM of a die other than 0 has to wait: die 0 trains its own first (R377). -/
def State.trainsLater (s : State) (e : Nat) : Bool := decide (5 ≤ e) && decide (e < 8) && !(s.unitReady 4)

/-- The partitions of the module. -/
def State.allParts (s : State) : List Nat := (s.parts.filter fun q => decide (q.p % 4 < s.partCount (q.p / 4))).map Part.p

/-- Post a fault of the module to the host queue of each of some partitions. -/
def State.postParts (s : State) (ps : List Nat) (f : FaultHead) (payload : Nat) : Option State :=
  foldOpt (fun s p => s.postPart p f payload) s ps

/-- A bay row comes up: its GROUP bit is set, once firmware has set the partitions' fields (R8). -/
def State.rowReady (s : State) (d row : Nat) : State :=
  let b := 16 * d + row
  if s.fwst != .run || s.readyBays.getLsbD b then s
  else ({ s with readyBays := s.readyBays ||| (1 <<< b) } : State).notice.retryLoads

/-- A function comes up, trains or fails (R375, R376). One that has failed stays failed. An L2 or DRAM that fails posts class 12 to its
die's partitions. Functions with fields that firmware sets come up once it runs (R8). -/
def State.ready (s : State) (entry : ReadyEntry) (code : BitVec 2) : Option State :=
  match entry with
  | .group d row => some (if code = 1 ∧ d < 4 ∧ row < 16 then s.rowReady d row else s)
  | .unit e =>
    if 39 ≤ e ∨ e = 22 ∨ s.unitCode e = 2 ∨ (firmwareEntry e ∧ s.fwst != .run) ∨ (s.trainsLater e ∧ code ≠ 2) then some s
    else match linkOfEntry e with
      | some n =>
        if code ≠ 1 then some s
        else match s.linkAt n with
          | some l => some ((s.setUnit e 1).setLink { l with up := true, retraining := false, recent := [] })
          | none => some s
      | none =>
        let t := s.setUnit e code
        if code = 2 ∧ e < 8 then
          t.postParts (t.allParts.filter fun p => p / 4 == e % 4) { ctx := 0, src := 7, srcid := e, cls := clsEcc, prec := 3 }
            (e % 4 * 2 ^ 116)
        else some t

def execFunctionReady (entry : ReadyEntry) (code : BitVec 2) (s : State) : Out := settle s (s.ready entry code)

/-! ## The frame release unit (R348, R349) -/

/-- Change STATE of the FRU: each change posts a record to the host queues and fires vector 16. -/
def State.fruTo (s : State) (st : FruState) (good : Nat) : Option State :=
  let s' := { s with fru := { s.fru with state := st, good := good } }
  if st = s.fru.state then some s'
  else foldOpt (fun s p => s.postHost p (eventRecord 0 4 0 1 st.code)) s'.notice s.allParts

/-- Nanoseconds of an offset. -/
def offsetSize (o : Int) : Nat := o.natAbs

/-- A pulse for which FRU_TOD has been written: the offset is measured, the counter set, and STATE moves. -/
def State.pps (s : State) (offset : Int) : Option State :=
  let u := s.fru
  if !u.todWritten then some s
  else
    let s := { s with fru := { u with sec := u.tod.toNat, ns := 0, todWritten := false, offset := BitVec.ofInt 32 offset } }
    match u.state with
    | .freeRun | .holdover => s.fruTo .acquiring 0
    | .acquiring =>
      let good := if offsetSize offset ≤ 5 then u.good + 1 else 0
      if 3 ≤ good then s.fruTo .locked 0 else s.fruTo .acquiring good
    | .locked => if 50 < offsetSize offset then s.fruTo .holdover 0 else some s

def execPpsEdge (offset : Int) (s : State) : Out := settle s (s.pps offset)

/-- No pulse for 2 s. -/
def execFruPpsTimeout (s : State) : Out := settle s (if s.fru.state == .locked then s.fruTo .holdover 0 else some s)

def execFruNowsRead (s : State) : Out := .next s.nowsRead

def Release.due (r : Release) : Nat := r.sec * 10 ^ 9 + r.ns

/-- The counter reaches a time: the releases due fire in order of time, then of slot. -/
def State.fruFire (s : State) (now : Nat) : Option State :=
  let u := s.fru
  if now < u.now then none
  else
    let out := sortBy (fun a b => keyLt [a.due, a.slot] [b.due, b.slot]) (u.pend.filter fun r => decide (r.due ≤ now))
    let u := { u with sec := now / 10 ^ 9, ns := now % 10 ^ 9, pend := u.pend.filter fun r => decide (now < r.due)
                      pulses := u.pulses ++ out.map fun r => (r.chan.toNat % 8, r.due) }
    foldOpt (fun s r => s.postEvent r.ctx 4 r.slot 2 r.size) { s with fru := u } out

def execFruReleaseFire (now : Nat) (s : State) : Out := settle s (s.fruFire now)

/-! ## Links (R345) -/

/-- Kind and index of a link (Table 22-3, class 13). -/
def linkIndex (n : Nat) : Nat × Nat := if n < 6 then (0, n) else if n < 32 then (1, n - 16) else (2, n - 32)

/-- Kind and index in a fault record. -/
def linkPay (n : Nat) : Nat := (linkIndex n).1 * 2 ^ 188 + (linkIndex n).2 * 2 ^ 180

/-- A link goes down: its entry reads DOWN, each partition is told, and leases that no route reaches any more are lost (R345, R372). -/
def State.linkFails (s : State) (l : LinkState) : Option State :=
  let s := ((s.setLink { l with up := false, retraining := false }).notice : State)
  let s := { s with readyUnits := assign (entryOfLink l.n) 0 s.readyUnits }
  (s.postParts s.allParts { ctx := 0, src := 7, srcid := (linkIndex l.n).2, cls := clsLink, prec := 3 } (linkPay l.n)).bind State.loseUnreachable

/-- Local cycles of 1 ms. -/
def msCycles : Nat := 3300000

/-- A link retrains; the third time in 1 ms it goes down instead. -/
def State.linkRetrains (s : State) (n : Nat) : Option State :=
  match s.linkAt n with
  | none => none
  | some l =>
    if !l.up then none
    else
      let recent := s.clock :: l.recent.filter fun t => decide (s.clock < t + msCycles)
      let l := { l with retraining := true, retrains := satAdd 0xFFFF l.retrains 1, recent := recent }
      if 3 ≤ recent.length then s.linkFails l else some (s.setLink l)

def execLinkRetrain (link : Nat) (s : State) : Out := settle s (s.linkRetrains link)

def execLinkRetrainDone (link : Nat) (s : State) : Out :=
  .next (match s.linkAt link with
    | some l => s.setLink { l with retraining := false }
    | none => s)

/-- A link fails to retrain within its time. -/
def execLinkDown (link : Nat) (s : State) : Out :=
  settle s (match s.linkAt link with
    | some l => if l.up then s.linkFails l else none
    | none => none)

end Sys2Proof.Machine
end

