-- ==== Sys2Proof/Machine/Reliability.lean ====
section
/-! DEFINITION. The watchdog (R360), memory errors and their replay (R347, R353, R357, R381). -/

namespace Sys2Proof.Machine

/-! ## The watchdog (R360) -/

/-- The island of a tile lacks a packet of a kind that a record of a context needs (R198). -/
def State.lacksPacket (s : State) (t : Nat) (i : Inst) (kinds : List Nat) : Bool :=
  let task := ((i.p0.map Tok.value).getD 0).toNat % 256
  s.islandFree t (tagCtx i.tag) && kinds.any fun k => (oldest (s.island t).packets k task).isNone

/-- An instance waits in a record in which it may wait for ever: for an event, for a lock or a copy, or for packets of its island. -/
def State.mayLinger (s : State) (t : Nat) (i : Inst) : Instr → Bool
  | .waitw .. | .redwait .. | .barwait .. | .copyw .. | .fswap .. | .marker .. => true
  | .mma .. => s.lacksPacket t i [0, 1]
  | .mmas _ spkt sp24 bmap _ _ _ =>
    s.lacksPacket t i (MmaArgs.kinds { task := 0, k := 0, m := 0, n := 0, fmt := .e4m3, spkt := spkt, sp24 := sp24, bmap := bmap })
  | _ => false

/-- The only unfinished records of an instance are ones that the watchdog does not count. -/
def State.lingers (s : State) (t : Nat) (g : Galley) : Bool :=
  let d := s.tile t
  let mine := d.ready.filter fun i => i.tag == g.tag && d.inGalley g.hdr i.node
  !mine.isEmpty && mine.all fun i => match d.record? i.node with
    | some r => s.mayLinger t i r
    | none => false

/-- An access to an address stalls at its translator (R313, R376). -/
def State.stalls (s : State) (p : Nat) (va : VA) : Bool :=
  match s.translate p (Addr.ofVa va) 1 .any with
  | .stall => true
  | _ => false

/-- An address lies in one of some ranges. -/
def inRanges (l : List (Addr × Nat)) (va : VA) : Bool :=
  let a := Addr.ofVa va
  l.any fun e => e.1.obj == a.obj && decide (e.1.off ≤ a.off) && decide (a.off < e.1.off + max 1 e.2)

/-- A whole object. -/
def wholeObj (va : VA) : Addr × Nat := (⟨va.toNat / 2 ^ 40, 0⟩, 2 ^ 40)

/-- The memory that a record accesses when it fires with its operands: of a sampler and a work queue, whatever its descriptor names. -/
def State.recordRanges (s : State) (f : Firing) (r : Shell) : Instr → List (Addr × Nat)
  | .ld sz _ disp kb _ => [(s.kAddr f kb (f.port r 0).value.toNat disp, Size.bytes sz)]
  | .ldi sz _ disp _ => [(pairAddr f r disp.toInt, Size.bytes sz)]
  | .gather sz _ raw _ => (List.range (laneNum sz)).map fun l =>
      (s.kAddr f (rawKb raw) (elemOf sz (f.port r 0).value l * Size.bytes sz) (rawDisp raw), Size.bytes sz)
  | .aadd _ _ _ raw _ | .amin _ _ _ raw _ | .amax _ _ _ raw _ | .aand _ _ _ raw _ | .aor _ _ _ raw _ | .axor _ _ _ raw _
  | .axchg _ _ _ raw _ | .acas _ _ _ raw _ | .afadd _ _ _ raw _ | .lockacq _ _ raw _ | .lockrel _ _ raw _ =>
    [(s.kAddr f (rawKb raw) (f.port r 0).value.toNat (rawDisp raw), 4)]
  | .red .. | .redwait .. =>
    let x := pairAddr f r 0
    [(x, 4), ({ x with off := x.off - x.off % 128 + 120 }, 8)]
  | .bararr .. | .bardrop .. | .barwait .. => [(pairAddr f r 0, 8)]
  | .wakew .. => [(pairAddr f r 0, 4)]
  | .waitw _ _ disp kb _ => [(s.kAddr f kb (f.port r 0).value.toNat disp, 4)]
  | .tex ssr _ | .texn ssr _ =>
    let a := (Addr.ofVa (s.ctxOf f).smpb).plus (32 * ssr.toNat : Nat)
    (a, 32) :: match s.ssrAt f ssr with
      | some (.ok q) => [wholeObj (BitVec.ofNat 64 q.base.va), wholeObj (BitVec.ofNat 64 q.mlp.va)]
      | _ => []
  | .cres .. => [(Addr.ofVa (pairVa f r), 32768)]
  | .clog .. => [(Addr.ofVa (pairVa f r), 32 * 4097)]
  | .cadj .. => (pairAddr f r 0, 64) :: match s.fetchOne f.part (pairAddr f r 0) 64 .read with
      | some (.ok b) => [wholeObj (BitVec.ofNat 64 (leNat (b.take 8))), wholeObj (BitVec.ofNat 64 (leNat ((b.drop 8).take 8)))]
      | _ => []
  | .frel .. | .copye .. | .loffer .. | .ltake .. => [(pairAddr f r 0, 32)]
  | .qresv .. | .qtake .. => [wholeObj (BitVec.ofNat 64 (pairAddr f r 0).va)]
  | _ => []

/-- The memory that the record at a site accesses. -/
def State.siteRanges (s : State) (site : Site) (i : Instr) : List (Addr × Nat) :=
  match i.shell? with
  | none => []
  | some r => match ({ s with site := site }).gather r with
    | none => []
    | some (f, t) => t.recordRanges f r i

/-- The memory that an operation kept for a commit accesses. -/
def Act.reach (a : Act) : List (Addr × Nat) := match a.instr with
  | .red .. => [(a.addr, 4), ({ a.addr with off := a.addr.off - a.addr.off % 128 + 120 }, 8)]
  | .qcommit .. | .cadj .. | .fload .. | .ovld .. | .clog .. | .cres .. | .snap .. => [wholeObj (BitVec.ofNat 64 a.addr.va), wholeObj a.va]
  | _ => [(a.addr, max 1 a.size)]

/-- Work of the element (x, y) of a forme waits that accesses `va`: its record with its operands, a stream or a setting that it started at
an AG, or a store or an operation of it that the round has staged. -/
def State.elemAccesses (s : State) (f : Forme) (x y : Nat) (va : VA) : Bool :=
  let c := f.run.core
  let record := match f.record? x y with
    | some i => s.siteRanges (.elem f.handle x y) i
    | none => []
  let fills (k : AgTok) : List (Addr × Nat) :=
    if k.x = x ∧ k.y = y then match k.instr with
      | some (.phalo ..) => [wholeObj (k.b ++ k.tok.value)]
      | some (.sclose ..) => [(⟨f.cfg.logobj, 0⟩, 2 ^ 40)]
      | _ => []
    else []
  let streams := c.ags.flatMap fun a => (a.slots.flatMap fun sl =>
      if sl.ox = x ∧ sl.oy = y ∧ sl.opened then
        ((Addr.ofVa sl.base).plus sl.pos, Size.bytes sl.size) :: match c.win? a.bay sl.n with
          | some w => [((Addr.ofVa sl.base).plus w.tail, w.head + 128 - w.tail)]
          | none => []
      else []) ++ (a.in0 ++ a.in1 ++ a.in2 ++ a.in3).flatMap fills
  let staged := f.run.staging.flatMap fun w =>
    if w.x = x ∧ w.y = y then match w.work with
      | .store v d => [(Addr.ofVa v, d.length)]
      | .act i a b _ => Act.reach { node := 0, lsid := 0, instr := i, a := a, b := b, obj := (Addr.ofWords a b).obj, off := (Addr.ofWords a b).off, size := 8 }
      | _ => []
    else []
  inRanges (record ++ streams ++ staged) va

/-- Work of an instance at a node waits that accesses `va`: its record, ready to issue, or its action at the galley's commit. -/
def State.nodeAccesses (s : State) (t : Nat) (g : Galley) (node : Nat) (va : VA) : Bool :=
  let d := s.tile t
  inRanges ((match d.record? node with
    | some i => s.siteRanges (.inst t node g.tag) i
    | none => []) ++ if d.mayCommit g then (g.acts.filter fun a => a.node == node).flatMap Act.reach else []) va

/-- The interval has passed for a stall that still lasts: of a round that is sealed, or that finds no room to stage (R252); of an access;
of an instance. -/
def State.watchdog (s : State) (w : Stall) : Option State :=
  match w with
  | .round h => match s.forme? h with
    | none => none
    | some f =>
      if f.status != .live || f.cfg.stream || (!f.sealed && s.stageRoom f.part 32) then none
      else
        let p := f.roundEnds.headD (0, 0)
        s.faultFormeBy 7 h p.1 p.2 0 clsWatchdog 0 (.token 0 0)
  | .access h x y va size kind => match s.forme? h with
    | none => none
    | some f =>
      if f.status == .live && s.stalls f.part va && s.elemAccesses f x y va then s.faultFormeBy 7 h x y 0 clsWatchdog 0 (.access va.toNat size kind)
      else none
  | .galleyAccess t hdr tag node va size kind => match (s.tile t).galley? hdr tag with
    | none => none
    | some g =>
      if s.stalls (s.unitPart t) va && s.nodeAccesses t g node va then s.faultGalleyBy 7 t g node clsWatchdog 0 (.access va.toNat size kind)
      else none
  | .galley t hdr tag => match (s.tile t).galley? hdr tag with
    | none => none
    | some g => if s.lingers t g then none else s.faultGalleyBy 7 t g hdr clsWatchdog 0 (.token tag.toNat 0)

def execWatchdogExpiry (stall : Stall) (s : State) : Out := settle s (s.watchdog stall)

/-! ## Memory errors (R357, R381) -/

/-- Count a corrected or replayed error in CECNT. -/
def State.countError (s : State) : State := { s with cecnt := satAdd 0xFFFFFF s.cecnt 1 }

def execEccCorrectable (s : State) : Out := .next s.countError

/-- A patrol read of a line: the line stays as it is; an error in it that can be corrected is a step of its own. -/
def execPatrolScrub (_addr : Nat) (s : State) : Out := .next s

/-- The payload of class 12: object, offset of the 32-byte unit, tier, die or package. -/
def State.eccPay (s : State) (p : Nat) (va : VA) : Pay :=
  let obj := va.toNat / 2 ^ 40
  let off := va.toNat % 2 ^ 40 / 32 * 32
  .raw (obj * 2 ^ 168 + off * 2 ^ 128 + match s.extOf p obj (off / 4096) with
    | some (_, x) => x.tier % 4 * 2 ^ 126 + x.loc % 2 ^ 10 * 2 ^ 116
    | none => 0)

/-- Post class 12 to a partition's host queue, for data of no context in T0 of its die. -/
def State.eccHost (s : State) (p srcid : Nat) : Option State :=
  s.postPart p { ctx := 0, src := 7, srcid := srcid, cls := clsEcc, prec := 3 } (p / 4 * 2 ^ 116)

/-- A read of a round met an error. With an intact source the round is replayed without a record, until the fourth time in a row. -/
def State.eccRound (s : State) (h x y : Nat) (intact : Bool) (va : VA) : Option State :=
  match s.forme? h with
  | none => none
  | some f =>
    if f.status != .live then none
    else if intact && f.cfg.stream then some s.countError
    else if intact && decide (f.run.voids < 3) then some (s.countError.setForme f.rerun)
    else (if intact then s.countError else s).faultFormeBy 7 h x y 0 clsEcc 0 (s.eccPay f.part va)

/-- A read of a galley met an error. -/
def State.eccGalley (s : State) (t hdr : Nat) (tag : Tag) (node : Nat) (intact : Bool) (va : VA) : Option State :=
  let d := s.tile t
  match d.galley? hdr tag with
  | none => none
  | some g =>
    if intact && decide ((d.redone.filter fun r => r == (hdr, tag)).length < 3) then some (s.countError.redo t g)
    else
      let s := if intact then s.countError else s
      let d := s.tile t
      (s.setTile { d with redone := d.redone.filter fun r => r != (hdr, tag) }).faultGalleyBy 7 t g node clsEcc 0 (s.eccPay (s.unitPart t) va)

/-- A spilled entry is lost: the thread that depended on it ends. -/
def State.eccSpill (s : State) (t node : Nat) (tag : Tag) : Option State :=
  let d := s.tile t
  match d.entries.find? fun e => e.node == node && e.tag == tag && e.spilled with
  | none => none
  | some _ =>
    let s := match (d.header? node).bind fun h => d.galley? h tag with
      | some g =>
        let s := s.dropGalley t g
        let d := s.tile t
        let dead (x : Galley) : Bool := x.dropped && x.hdr == g.hdr && x.tag == g.tag && x.seq == g.seq
        let young : List Galley := d.galleys.filter fun x => x.dropped && x.fell == g.seq && x.seq != g.seq && tagCtx x.tag == tagCtx tag
        (s.setTile { d with galleys := d.galleys.filter fun x => !(dead x) }).reopen t young
      | none => s.setTile { d with entries := d.entries.filter fun e => !(e.node == node && e.tag == tag && e.spilled) }
    s.eccHost (s.unitPart t) (t % 32)

/-- Data of a forme that no context owns is lost: the forme is killed. -/
def State.eccForme (s : State) (h : Nat) (ok : Forme → Bool) : Option State :=
  match s.forme? h with
  | none => none
  | some f => if ok f then (s.killForme f false).eccHost f.part h else none

/-- An error that a read of no round and no galley meets, in data of an object: with an intact source it is counted, else class 12 with PREC 3
is posted to the host queue of the partition (R381; DEDUCED, log 103). -/
def State.eccData (s : State) (p ctx : Nat) (intact : Bool) (va : VA) (failed : State → State) : Option State :=
  if intact then some s.countError
  else (s.postPart p { ctx := ctx, src := 7, srcid := p / 4, cls := clsEcc, prec := 3 } ((s.eccPay p va).bits 0 0)).map failed

/-- The copy engine meets an error in the source of a running copy: the copy fails. -/
def State.eccCopy (s : State) (die id : Nat) (intact : Bool) (va : VA) : Option State :=
  match (s.die? die).bind fun d => d.copies.find? fun c => c.id == id && c.status == 0 with
  | none => none
  | some c => s.eccData c.part c.ctx intact va fun s => s.endCopy die id (clsEcc + 2)

/-- The image that a door loads meets an error: the load fails, as one whose read fails (R293). -/
def State.eccDoor (s : State) (p d : Nat) (va : VA) : Option State :=
  match (s.part? p).map fun q => q.door d with
  | some e => if e.state == .loading then s.eccData p e.ctx.toNat false va fun s => s.doorFail p e 4 else none
  | none => none

def State.ecc (s : State) (e : EccSite) : Option State :=
  match e with
  | .round h x y intact va => s.eccRound h x y intact va
  | .galley t hdr tag node intact va => s.eccGalley t hdr tag node intact va
  | .shadow h => s.eccForme h fun f => match f.status with
    | .swapped _ => true
    | _ => false
  | .spill t node tag => s.eccSpill t node tag
  | .copy die id intact va => s.eccCopy die id intact va
  | .door p d va => s.eccDoor p d va
  | .line p intact va => s.eccData p 0 intact va id
  | .staging h => s.eccForme h fun f => f.isLive && !f.cfg.stream && decide (0 < f.run.stagedBytes)

def execEccUncorrectable (err : EccSite) (s : State) : Out := settle s (s.ecc err)

end Sys2Proof.Machine
end

