-- ==== Sys2Proof/Machine/Dispatch.lean ====
section
/-! DEFINITION. Which meaning each constructor of `Instr` has. -/

namespace Sys2Proof.Machine

def exec (i : Instr) (s : State) : Host.Outcome State Fault Refusal :=
  match i with
  | .add lt sat r => Sys2Proof.Machine.execAdd lt sat r s
  | .sub lt sat r => Sys2Proof.Machine.execSub lt sat r s
  | .mul lt sat r => Sys2Proof.Machine.execMul lt sat r s
  | .mulh lt r => Sys2Proof.Machine.execMulh lt r s
  | .mulhu lt r => Sys2Proof.Machine.execMulhu lt r s
  | .mad lt sat r => Sys2Proof.Machine.execMad lt sat r s
  | .div lt sat r => Sys2Proof.Machine.execDiv lt sat r s
  | .divu lt r => Sys2Proof.Machine.execDivu lt r s
  | .rem lt r => Sys2Proof.Machine.execRem lt r s
  | .remu lt r => Sys2Proof.Machine.execRemu lt r s
  | .min lt r => Sys2Proof.Machine.execMin lt r s
  | .max lt r => Sys2Proof.Machine.execMax lt r s
  | .minu lt r => Sys2Proof.Machine.execMinu lt r s
  | .maxu lt r => Sys2Proof.Machine.execMaxu lt r s
  | .abs lt sat r => Sys2Proof.Machine.execAbs lt sat r s
  | .neg lt sat r => Sys2Proof.Machine.execNeg lt sat r s
  | .andW r => Sys2Proof.Machine.execAnd r s
  | .orW r => Sys2Proof.Machine.execOr r s
  | .xorW r => Sys2Proof.Machine.execXor r s
  | .andn r => Sys2Proof.Machine.execAndn r s
  | .lut3 tt r => Sys2Proof.Machine.execLut3 tt r s
  | .maj r => Sys2Proof.Machine.execMaj r s
  | .shl lt r => Sys2Proof.Machine.execShl lt r s
  | .shr lt r => Sys2Proof.Machine.execShr lt r s
  | .sar lt r => Sys2Proof.Machine.execSar lt r s
  | .fshl lt r => Sys2Proof.Machine.execFshl lt r s
  | .fshr lt r => Sys2Proof.Machine.execFshr lt r s
  | .popc lt r => Sys2Proof.Machine.execPopc lt r s
  | .clz lt r => Sys2Proof.Machine.execClz lt r s
  | .brev lt r => Sys2Proof.Machine.execBrev lt r s
  | .bfx lt pos len sx r => Sys2Proof.Machine.execBfx lt pos len sx r s
  | .bfi lt pos len r => Sys2Proof.Machine.execBfi lt pos len r s
  | .icmp cond r => Sys2Proof.Machine.execIcmp cond r s
  | .icmpv cond x2 r => Sys2Proof.Machine.execIcmpv cond x2 r s
  | .fcmp cond r => Sys2Proof.Machine.execFcmp cond r s
  | .fcmpv cond r => Sys2Proof.Machine.execFcmpv cond r s
  | .sel r => Sys2Proof.Machine.execSel r s
  | .fclass r => Sys2Proof.Machine.execFclass r s
  | .pand r => Sys2Proof.Machine.execPand r s
  | .por r => Sys2Proof.Machine.execPor r s
  | .pxor r => Sys2Proof.Machine.execPxor r s
  | .pnot r => Sys2Proof.Machine.execPnot r s
  | .pconst val r => Sys2Proof.Machine.execPconst val r s
  | .ptest z r => Sys2Proof.Machine.execPtest z r s
  | .fadd rnd r => Sys2Proof.Machine.execFadd rnd r s
  | .fsub rnd r => Sys2Proof.Machine.execFsub rnd r s
  | .fmul rnd r => Sys2Proof.Machine.execFmul rnd r s
  | .ffma rnd r => Sys2Proof.Machine.execFfma rnd r s
  | .fmin r => Sys2Proof.Machine.execFmin r s
  | .fmax r => Sys2Proof.Machine.execFmax r s
  | .fabs r => Sys2Proof.Machine.execFabs r s
  | .fneg r => Sys2Proof.Machine.execFneg r s
  | .fdiv rnd r => Sys2Proof.Machine.execFdiv rnd r s
  | .fsqrt rnd r => Sys2Proof.Machine.execFsqrt rnd r s
  | .frcpe r => Sys2Proof.Machine.execFrcpe r s
  | .frsqe r => Sys2Proof.Machine.execFrsqe r s
  | .fexp2 rnd r => Sys2Proof.Machine.execFexp2 rnd r s
  | .flog2 rnd r => Sys2Proof.Machine.execFlog2 rnd r s
  | .fsin cos rnd r => Sys2Proof.Machine.execFsin cos rnd r s
  | .frnd rnd x r => Sys2Proof.Machine.execFrnd rnd x r s
  | .hadd bf rnd r => Sys2Proof.Machine.execHadd bf rnd r s
  | .hsub bf rnd r => Sys2Proof.Machine.execHsub bf rnd r s
  | .hmul bf rnd r => Sys2Proof.Machine.execHmul bf rnd r s
  | .hfma bf rnd r => Sys2Proof.Machine.execHfma bf rnd r s
  | .hmin bf r => Sys2Proof.Machine.execHmin bf r s
  | .hmax bf r => Sys2Proof.Machine.execHmax bf r s
  | .habs bf r => Sys2Proof.Machine.execHabs bf r s
  | .hneg bf r => Sys2Proof.Machine.execHneg bf r s
  | .hdot2 bf rnd r => Sys2Proof.Machine.execHdot2 bf rnd r s
  | .hcmp bf cond r => Sys2Proof.Machine.execHcmp bf cond r s
  | .hsel bf r => Sys2Proof.Machine.execHsel bf r s
  | .hmask bf r => Sys2Proof.Machine.execHmask bf r s
  | .cvtif half uns rnd r => Sys2Proof.Machine.execCvtif half uns rnd r s
  | .cvtfi half uns rnd r => Sys2Proof.Machine.execCvtfi half uns rnd r s
  | .cvtff toFp16 rnd r => Sys2Proof.Machine.execCvtff toFp16 rnd r s
  | .packh bf rnd r => Sys2Proof.Machine.execPackh bf rnd r s
  | .unpkh hi bf r => Sys2Proof.Machine.execUnpkh hi bf r s
  | .cvtf8 e5 sat rnd from32 r => Sys2Proof.Machine.execCvtf8 e5 sat rnd from32 r s
  | .cvt8f e5 hi r => Sys2Proof.Machine.execCvt8f e5 hi r s
  | .twenc bf r => Sys2Proof.Machine.execTwenc bf r s
  | .twdec bf hi r => Sys2Proof.Machine.execTwdec bf hi r s
  | .scq fmt r => Sys2Proof.Machine.execScq fmt r s
  | .scdq quot rnd r => Sys2Proof.Machine.execScdq quot rnd r s
  | .copy r => Sys2Proof.Machine.execCopy r s
  | .steer nul r => Sys2Proof.Machine.execSteer nul r s
  | .merge kind r => Sys2Proof.Machine.execMerge kind r s
  | .gate nul r => Sys2Proof.Machine.execGate nul r s
  | .sink r => Sys2Proof.Machine.execSink r s
  | .join r => Sys2Proof.Machine.execJoin r s
  | .const value r => Sys2Proof.Machine.execConst value r s
  | .repeatN eos raw r => Sys2Proof.Machine.execRepeatN eos raw r s
  | .seq eos r => Sys2Proof.Machine.execSeq eos r s
  | .nullout r => Sys2Proof.Machine.execNullout r s
  | .eosout r => Sys2Proof.Machine.execEosout r s
  | .eoswait fwd r => Sys2Proof.Machine.execEoswait fwd r s
  | .loopin wc start rt r => Sys2Proof.Machine.execLoopin wc start rt r s
  | .nexti rt r => Sys2Proof.Machine.execNexti rt r s
  | .loopout rt r => Sys2Proof.Machine.execLoopout rt r s
  | .call callSite rt r => Sys2Proof.Machine.execCall callSite rt r s
  | .ret rt r => Sys2Proof.Machine.execRet rt r s
  | .gettag sel r => Sys2Proof.Machine.execGettag sel r s
  | .settag sel rt r => Sys2Proof.Machine.execSettag sel rt r s
  | .window k r => Sys2Proof.Machine.execWindow k r s
  | .route mask r => Sys2Proof.Machine.execRoute mask r s
  | .unroute pdest r => Sys2Proof.Machine.execUnroute pdest r s
  | .ctxnew r => Sys2Proof.Machine.execCtxnew r s
  | .ctxfree r => Sys2Proof.Machine.execCtxfree r s
  | .nextg r => Sys2Proof.Machine.execNextg r s
  | .ld sz sx disp kb r => Sys2Proof.Machine.execLd sz sx disp kb r s
  | .st sz disp kb r => Sys2Proof.Machine.execSt sz disp kb r s
  | .ldi sz sx disp r => Sys2Proof.Machine.execLdi sz sx disp r s
  | .sti sz disp r => Sys2Proof.Machine.execSti sz disp r s
  | .kld hi kn r => Sys2Proof.Machine.execKld hi kn r s
  | .kst hi kn r => Sys2Proof.Machine.execKst hi kn r s
  | .gather sz sx raw r => Sys2Proof.Machine.execGather sz sx raw r s
  | .scatter sz raw r => Sys2Proof.Machine.execScatter sz raw r s
  | .sopen sz wport dir slot r => Sys2Proof.Machine.execSopen sz wport dir slot r s
  | .sclose slot r => Sys2Proof.Machine.execSclose slot r s
  | .sseek slot r => Sys2Proof.Machine.execSseek slot r s
  | .pref raw r => Sys2Proof.Machine.execPref raw r s
  | .tld sz sx base dx dy r => Sys2Proof.Machine.execTld sz sx base dx dy r s
  | .tst sz base dx dy r => Sys2Proof.Machine.execTst sz base dx dy r s
  | .pshift dy dx pid slot r => Sys2Proof.Machine.execPshift dy dx pid slot r s
  | .pbound all slot hw kind edges r => Sys2Proof.Machine.execPbound all slot hw kind edges r s
  | .pact on all slot r => Sys2Proof.Machine.execPact on all slot r s
  | .pmark pid r => Sys2Proof.Machine.execPmark pid r s
  | .prule mask r => Sys2Proof.Machine.execPrule mask r s
  | .phalo hw edge pid r => Sys2Proof.Machine.execPhalo hw edge pid r s
  | .pflip pid r => Sys2Proof.Machine.execPflip pid r s
  | .pcnt pid r => Sys2Proof.Machine.execPcnt pid r s
  | .cmb cop r => Sys2Proof.Machine.execCmb cop r s
  | .aadd acq scope rel raw r => Sys2Proof.Machine.execAadd acq scope rel raw r s
  | .amin acq scope rel raw r => Sys2Proof.Machine.execAmin acq scope rel raw r s
  | .amax acq scope rel raw r => Sys2Proof.Machine.execAmax acq scope rel raw r s
  | .aand acq scope rel raw r => Sys2Proof.Machine.execAand acq scope rel raw r s
  | .aor acq scope rel raw r => Sys2Proof.Machine.execAor acq scope rel raw r s
  | .axor acq scope rel raw r => Sys2Proof.Machine.execAxor acq scope rel raw r s
  | .axchg acq scope rel raw r => Sys2Proof.Machine.execAxchg acq scope rel raw r s
  | .acas acq scope rel raw r => Sys2Proof.Machine.execAcas acq scope rel raw r s
  | .afadd acq scope rel raw r => Sys2Proof.Machine.execAfadd acq scope rel raw r s
  | .red scope rel cop r => Sys2Proof.Machine.execRed scope rel cop r s
  | .redwait acq scope r => Sys2Proof.Machine.execRedwait acq scope r s
  | .lockacq acq scope raw r => Sys2Proof.Machine.execLockacq acq scope raw r s
  | .lockrel scope rel raw r => Sys2Proof.Machine.execLockrel scope rel raw r s
  | .fence acq scope rel r => Sys2Proof.Machine.execFence acq scope rel r s
  | .bararr scope rel r => Sys2Proof.Machine.execBararr scope rel r s
  | .bardrop scope rel r => Sys2Proof.Machine.execBardrop scope rel r s
  | .barwait acq scope r => Sys2Proof.Machine.execBarwait acq scope r s
  | .waitw acq scope disp kb r => Sys2Proof.Machine.execWaitw acq scope disp kb r s
  | .wakew scope rel r => Sys2Proof.Machine.execWakew scope rel r s
  | .roundend r => Sys2Proof.Machine.execRoundend r s
  | .quiesce r => Sys2Proof.Machine.execQuiesce r s
  | .handover nslot oslot r => Sys2Proof.Machine.execHandover nslot oslot r s
  | .ordtok scope slot r => Sys2Proof.Machine.execOrdtok scope slot r s
  | .event code r => Sys2Proof.Machine.execEvent code r s
  | .yield r => Sys2Proof.Machine.execYield r s
  | .mma fmt n1 m1 r => Sys2Proof.Machine.execMma fmt n1 m1 r s
  | .mmas fmt spkt sp24 bmap n1 m1 r => Sys2Proof.Machine.execMmas fmt spkt sp24 bmap n1 m1 r s
  | .mdrain zero ofmt n1 m1 r => Sys2Proof.Machine.execMdrain zero ofmt n1 m1 r s
  | .mzero n1 m1 r => Sys2Proof.Machine.execMzero n1 m1 r s
  | .mtask isl pdest r => Sys2Proof.Machine.execMtask isl pdest r s
  | .scin r => Sys2Proof.Machine.execScin r s
  | .smul fmt r => Sys2Proof.Machine.execSmul fmt r s
  | .sfma fmt r => Sys2Proof.Machine.execSfma fmt r s
  | .spchk r => Sys2Proof.Machine.execSpchk r s
  | .mstat sel isl r => Sys2Proof.Machine.execMstat sel isl r s
  | .tex ssr r => Sys2Proof.Machine.execTex ssr r s
  | .texn ssr r => Sys2Proof.Machine.execTexn ssr r s
  | .march base dx dy r => Sys2Proof.Machine.execMarch base dx dy r s
  | .cadd page dx dy r => Sys2Proof.Machine.execCadd page dx dy r s
  | .cwmk dx dy r => Sys2Proof.Machine.execCwmk dx dy r s
  | .cres dx dy r => Sys2Proof.Machine.execCres dx dy r s
  | .cclr dx dy r => Sys2Proof.Machine.execCclr dx dy r s
  | .clog dx dy r => Sys2Proof.Machine.execClog dx dy r s
  | .cadj r => Sys2Proof.Machine.execCadj r s
  | .frel r => Sys2Proof.Machine.execFrel r s
  | .copye r => Sys2Proof.Machine.execCopye r s
  | .copyw r => Sys2Proof.Machine.execCopyw r s
  | .qresv r => Sys2Proof.Machine.execQresv r s
  | .qcommit r => Sys2Proof.Machine.execQcommit r s
  | .qtake r => Sys2Proof.Machine.execQtake r s
  | .loffer r => Sys2Proof.Machine.execLoffer r s
  | .ltake r => Sys2Proof.Machine.execLtake r s
  | .lreclaim r => Sys2Proof.Machine.execLreclaim r s
  | .lquery r => Sys2Proof.Machine.execLquery r s
  | .degrade r => Sys2Proof.Machine.execDegrade r s
  | .fload r => Sys2Proof.Machine.execFload r s
  | .fswap r => Sys2Proof.Machine.execFswap r s
  | .ovld r => Sys2Proof.Machine.execOvld r s
  | .ovfree r => Sys2Proof.Machine.execOvfree r s
  | .nop r => Sys2Proof.Machine.execNop r s
  | .trap code r => Sys2Proof.Machine.execTrap code r s
  | .brk code r => Sys2Proof.Machine.execBrk code r s
  | .halt r => Sys2Proof.Machine.execHalt r s
  | .sysrd clr hi index r => Sys2Proof.Machine.execSysrd clr hi index r s
  | .syswr hi index r => Sys2Proof.Machine.execSyswr hi index r s
  | .eret r => Sys2Proof.Machine.execEret r s
  | .perf hi sel r => Sys2Proof.Machine.execPerf hi sel r s
  | .marker r => Sys2Proof.Machine.execMarker r s
  | .snap r => Sys2Proof.Machine.execSnap r s
  | .elementTokenArrival h n => Sys2Proof.Machine.execElementTokenArrival h n s
  | .matchTokenAccept tile n => Sys2Proof.Machine.execMatchTokenAccept tile n s
  | .spillRefill tile => Sys2Proof.Machine.execSpillRefill tile s
  | .galleyCommit tile => Sys2Proof.Machine.execGalleyCommit tile s
  | .roundCommit h => Sys2Proof.Machine.execRoundCommit h s
  | .fifoTileDequeue h bay => Sys2Proof.Machine.execFifoTileDequeue h bay s
  | .fifoTileEnqueue h bay => Sys2Proof.Machine.execFifoTileEnqueue h bay s
  | .winFill h bay w => Sys2Proof.Machine.execWinFill h bay w s
  | .streamReadWord h bay slot => Sys2Proof.Machine.execStreamReadWord h bay slot s
  | .streamWriteWord h bay wport => Sys2Proof.Machine.execStreamWriteWord h bay wport s
  | .planePassWord h bay slot => Sys2Proof.Machine.execPlanePassWord h bay slot s
  | .quiescenceReport h => Sys2Proof.Machine.execQuiescenceReport h s
  | .fswapBoundExpiry h => Sys2Proof.Machine.execFswapBoundExpiry h s
  | .planeExchange h => Sys2Proof.Machine.execPlaneExchange h s
  | .formeFirstLiveCycle h => Sys2Proof.Machine.execFormeFirstLiveCycle h s
  | .elementMarkerArrival h n => Sys2Proof.Machine.execElementMarkerArrival h n s
  | .fifoMarkerArrival h n => Sys2Proof.Machine.execFifoMarkerArrival h n s
  | .markerSaveComplete h => Sys2Proof.Machine.execMarkerSaveComplete h s
  | .markerBoundExpiry h => Sys2Proof.Machine.execMarkerBoundExpiry h s
  | .formePreempt h => Sys2Proof.Machine.execFormePreempt h s
  | .shadowSwap h => Sys2Proof.Machine.execShadowSwap h s
  | .pooledPreempt tile ctx => Sys2Proof.Machine.execPooledPreempt tile ctx s
  | .queueLaunch part => Sys2Proof.Machine.execQueueLaunch part s
  | .favourSliceExpiry tile => Sys2Proof.Machine.execFavourSliceExpiry tile s
  | .ingressWrite part off len data => Sys2Proof.Machine.execIngressWrite part off len data s
  | .doorEntryWrite part door entry => Sys2Proof.Machine.execDoorEntryWrite part door entry s
  | .doorLoadDone part door => Sys2Proof.Machine.execDoorLoadDone part door s
  | .doorLoadRetry part door => Sys2Proof.Machine.execDoorLoadRetry part door s
  | .jobEntryWrite part job entry => Sys2Proof.Machine.execJobEntryWrite part job entry s
  | .extChgBegin part value => Sys2Proof.Machine.execExtChgBegin part value s
  | .extChgHeld part => Sys2Proof.Machine.execExtChgHeld part s
  | .extChgEnd part value => Sys2Proof.Machine.execExtChgEnd part value s
  | .extChgAbort part value => Sys2Proof.Machine.execExtChgAbort part value s
  | .walkerWalk die xl part va => Sys2Proof.Machine.execWalkerWalk die xl part va s
  | .dieSplitWrite die value => Sys2Proof.Machine.execDieSplitWrite die value s
  | .issueStatClr tile => Sys2Proof.Machine.execIssueStatClr tile s
  | .ingressStatClr part => Sys2Proof.Machine.execIngressStatClr part s
  | .ctxCmdReplay part => Sys2Proof.Machine.execCtxCmdReplay part s
  | .ctxCmdContinue part => Sys2Proof.Machine.execCtxCmdContinue part s
  | .ctxCmdKill part => Sys2Proof.Machine.execCtxCmdKill part s
  | .ctxCmdKillForme part h => Sys2Proof.Machine.execCtxCmdKillForme part h s
  | .ctxCmdResume part => Sys2Proof.Machine.execCtxCmdResume part s
  | .ctxCmdReplayUnposted part => Sys2Proof.Machine.execCtxCmdReplayUnposted part s
  | .pmodeWrite mode => Sys2Proof.Machine.execPmodeWrite mode s
  | .clockDomainSwitch dom => Sys2Proof.Machine.execClockDomainSwitch dom s
  | .clockThrottle dom mhz => Sys2Proof.Machine.execClockThrottle dom mhz s
  | .fwgo => Sys2Proof.Machine.execFwgo s
  | .fwCheckDone => Sys2Proof.Machine.execFwCheckDone s
  | .ceclr => Sys2Proof.Machine.execCeclr s
  | .powerUp => Sys2Proof.Machine.execPowerUp s
  | .functionReady entry code => Sys2Proof.Machine.execFunctionReady entry code s
  | .ppsEdge offset => Sys2Proof.Machine.execPpsEdge offset s
  | .fruPpsTimeout => Sys2Proof.Machine.execFruPpsTimeout s
  | .fruNowsRead => Sys2Proof.Machine.execFruNowsRead s
  | .fruReleaseFire now => Sys2Proof.Machine.execFruReleaseFire now s
  | .linkRetrain link => Sys2Proof.Machine.execLinkRetrain link s
  | .linkDown link => Sys2Proof.Machine.execLinkDown link s
  | .hostMemAccess write addr size data => Sys2Proof.Machine.execHostMemAccess write addr size data s
  | .islandPacket isl n => Sys2Proof.Machine.execIslandPacket isl n s
  | .copyComplete die id => Sys2Proof.Machine.execCopyComplete die id s
  | .leaseZeroDone die idx => Sys2Proof.Machine.execLeaseZeroDone die idx s
  | .take die idx borrower fallback => Sys2Proof.Machine.execTake die idx borrower fallback s
  | .takeAck die lender lease grant => Sys2Proof.Machine.execTakeAck die lender lease grant s
  | .takeNak die lender lease reason => Sys2Proof.Machine.execTakeNak die lender lease reason s
  | .reclaim die lender lease => Sys2Proof.Machine.execReclaim die lender lease s
  | .stopped die idx => Sys2Proof.Machine.execStopped die idx s
  | .push addr data => Sys2Proof.Machine.execPush addr data s
  | .done die lender lease => Sys2Proof.Machine.execDone die lender lease s
  | .demoted die idx => Sys2Proof.Machine.execDemoted die idx s
  | .lost die lender lease pushed => Sys2Proof.Machine.execLost die lender lease pushed s
  | .leaseStopTimerExpiry die idx reachable => Sys2Proof.Machine.execLeaseStopTimerExpiry die idx reachable s
  | .leaseTermExpiry die idx => Sys2Proof.Machine.execLeaseTermExpiry die idx s
  | .leaseCfgDemand die value => Sys2Proof.Machine.execLeaseCfgDemand die value s
  | .qtimeExpiry die idx => Sys2Proof.Machine.execQtimeExpiry die idx s
  | .leaseReplyTimeout die lender lease => Sys2Proof.Machine.execLeaseReplyTimeout die lender lease s
  | .watchdogExpiry stall => Sys2Proof.Machine.execWatchdogExpiry stall s
  | .eccUncorrectable err => Sys2Proof.Machine.execEccUncorrectable err s
  | .eccCorrectable => Sys2Proof.Machine.execEccCorrectable s
  | .patrolScrub addr => Sys2Proof.Machine.execPatrolScrub addr s
  | .registerWrite acc index value => Sys2Proof.Machine.execRegisterWrite acc index value s
  | .linkRetrainDone link => Sys2Proof.Machine.execLinkRetrainDone link s
  | .formeRestore part => Sys2Proof.Machine.execFormeRestore part s
  | .quiesceBoundExpiry tile node tag => Sys2Proof.Machine.execQuiesceBoundExpiry tile node tag s
  | .registerRead acc index => Sys2Proof.Machine.execRegisterRead acc index s
  | .fijanFlitArrival flit => Sys2Proof.Machine.execFijanFlitArrival flit s

end Sys2Proof.Machine
end

