-- ==== Sys2Proof/Machine/Schedule.lean ====
section
/-! DEFINITION. What a step runs: the word at a record position, and the step that the model takes by itself when the agenda is empty
(log 1). -/

namespace Sys2Proof.Machine

/-- The record word at a position, with its placement; none where there is no record. -/
def State.siteWord (s : State) (p : Site) : Option (Placement × BitVec 96) :=
  match p with
  | .none => none
  | .elem h x y => match s.forme? h with
    | some f => (f.cfg.word? x y).map fun w => (.pinned, w)
    | none => none
  | .inst t node _ => ((s.tile t).word? node).map fun w => (.pooled, w)

/-! ## What the part does by itself -/

/-- The instance of a tile that fires next (R46). -/
def DTile.next (d : DTile) : Option Inst := leastBy Inst.before d.due

/-- The work of a dataflow tile: issue, accept, refill, commit. -/
def State.tileWork (s : State) (d : DTile) : List Action :=
  (d.next.map fun i => Action.fire (.inst d.i i.node i.tag)).toList ++
  ((List.range (d.inbox.length + d.held.length)).map fun n => .event (.matchTokenAccept d.i n)) ++
  (if d.refill.isSome then [.event (.spillRefill d.i)] else []) ++
  (if d.committing.isSome then [.event (.galleyCommit d.i)] else []) ++
  (match s.part? (s.unitPart d.i) with
    | some q => if d.favoured.isSome && decide (s.clock % max 1 q.slice < 64) then [.event (.favourSliceExpiry d.i)] else []
    | none => [])

/-- An element has a token, a stream to emit, or its one firing to make. -/
def Forme.hasWork (f : Forme) (x y : Nat) : Bool :=
  let e := f.run.core.elem x y
  !(e.q0.isEmpty && e.q1.isEmpty && e.q2.isEmpty && e.q3.isEmpty) || e.emit.isSome || ((f.expected x y).isEmpty && !e.fired)

/-- Tokens that may arrive: each on the links, and each at the boundary; markers by their own events. -/
def Forme.arrivals (f : Forme) : List Action :=
  (f.run.core.links.zipIdx.map fun e => match e.1.wire == .tok .marker, e.1.dst with
    | true, .tile .. => .event (.fifoMarkerArrival f.handle e.2)
    | true, _ => .event (.elementMarkerArrival f.handle e.2)
    | false, .tile b _ => .event (.fifoTileEnqueue f.handle b)
    | false, _ => .event (.elementTokenArrival f.handle e.2)) ++
  (List.range f.held.length).map fun n => .event (.elementTokenArrival f.handle (f.run.core.links.length + n))

/-- The work of an AG: words of its streams and passes, and of its write ports. -/
def Forme.agWork (f : Forme) (a : AgState) : List Action :=
  (a.slots.flatMap fun sl =>
    (if sl.opened && !sl.write && !sl.eos then [Action.event (.streamReadWord f.handle a.bay sl.n)] else []) ++
    (if sl.pass.isSome then [Action.event (.planePassWord f.handle a.bay sl.n)] else [])) ++
  (if a.in2.isEmpty then [] else [Action.event (.streamWriteWord f.handle a.bay false)]) ++
  (if a.in3.isEmpty then [] else [Action.event (.streamWriteWord f.handle a.bay true)])

/-- The work of a live forme. -/
def State.liveWork (s : State) (f : Forme) : List Action :=
  let c := f.run.core
  ((f.cfg.recs.filter fun e => f.hasWork e.1 e.2.1).map fun e => Action.fire (.elem f.handle e.1 e.2.1)) ++ f.arrivals ++
  ((c.fifos.filter fun q => !q.ring.isEmpty).map fun q => Action.event (.fifoTileDequeue f.handle q.bay)) ++
  (c.ags.flatMap fun a => f.agWork a) ++
  ((c.wins.filter WinState.valid).map fun w => Action.event (.winFill f.handle w.bay w.w)) ++
  (if f.sealed then [.event (.roundCommit f.handle)] else []) ++
  (if f.cfg.stream && f.run.eosSeen && s.quiet f then [.event (.quiescenceReport f.handle)] else []) ++
  (if f.mark.isSome && decide (f.unsaved = 0) then [.event (.markerSaveComplete f.handle)] else [])

/-- The work of a forme by its status. -/
def State.formeWork (s : State) (f : Forme) : List Action :=
  match f.status with
  | .live => s.liveWork f
  | .entering => [.event (.formeFirstLiveCycle f.handle)]
  | .saved => if f.leaving then [.event (.shadowSwap f.handle)] else []
  | .standing => match f.swap with
    | .idle => []
    | .waiting => if s.quiet f then [.event (.quiescenceReport f.handle)] else []
    | .reported => [.event (.planeExchange f.handle)]
  | _ => []

/-- The work of a partition: its doors, its queues, its scheduler, its extent change. -/
def State.partWork (s : State) (q : Part) : List Action :=
  ((q.doors.filter fun d => d.state == .loading).map fun d => Action.event (.doorLoadDone q.p d.d)) ++
  (if q.queues.isEmpty then [] else [.event (.queueLaunch q.p)]) ++
  (match s.victim q with
    | some f => [.event (.formePreempt f.handle)]
    | none => []) ++
  (if (s.waitingOut q.p).isEmpty then [] else [.event (.formeRestore q.p)]) ++
  (match q.change with
    | some c => if c.held then [] else [.event (.extChgHeld q.p)]
    | none => [])

/-- All that the part could do next by itself. -/
def State.work (s : State) : List Action :=
  (s.tiles.flatMap fun d => s.tileWork d) ++ (s.formes.flatMap fun f => s.formeWork f) ++ (s.parts.flatMap fun q => s.partWork q) ++
  (s.islands.flatMap fun i => (List.range i.inq.length).map fun n => Action.event (.islandPacket i.i n)) ++
  s.dies.flatMap fun d => (d.copies.filter fun c => c.status == 0).map fun c => Action.event (.copyComplete d.i c.id)

/-- The step that the part takes by itself: its work in turn, so that none of it waits for ever; in each turn once none (log 1). -/
def State.autoAction (s : State) : Option Action :=
  let l := s.work
  l[s.clock % (l.length + 1)]?

/-- Instances that could not issue are tried again. -/
def State.unpark (s : State) : State :=
  { s with tiles := s.tiles.map fun d => { d with ready := d.ready.map fun i => { i with parked := false } } }

/-! ## A word to run -/

/-- The context that runs a word placed by `withFetchWord`: a system context of partition 0. -/
def placedCtx : Ctx := { id := 1, part := 0, sys := true }

/-- The tag of that context. -/
def placedTag : Tag := BitVec.ofNat 64 (2 ^ 52)

/-- The header of a galley of one record. -/
def placedHeader : BitVec 96 := BitVec.ofNat 96 (0xFE * 2 ^ 88)

/-- An operand of a placed record: present where the record expects one. -/
def placedTok (r : Shell) (k : Nat) : Option Tok := if (expectedPorts r).contains k then some {} else none

/-- A pooled record alone in a galley at node 1 of tile 0, its instance open and ready. -/
def State.placePooled (s : State) (w : BitVec 96) (r : Shell) : State :=
  let i : Inst := { node := 1, tag := placedTag, p0 := placedTok r 0, p1 := placedTok r 1, p2 := placedTok r 2, p3 := placedTok r 3 }
  let g : Galley := { hdr := 0, tag := placedTag, seq := 0 }
  (({ s with agenda := [.fire (.inst 0 1 placedTag)] }).setCtx placedCtx).setTile
    { i := 0, nodes := [(0, placedHeader), (1, w)], ready := [i], galleys := [g] }

/-- A pinned record alone in a live forme of one bay, at element (0, 0), its operands in its queues. -/
def State.placePinned (s : State) (w : BitVec 96) (r : Shell) : State :=
  let q (k : Nat) : List QTok := (placedTok r k).toList.map fun t => { rt := 0, tok := t }
  let e : ElemState := { x := 0, y := 0, q0 := q 0, q1 := q 1, q2 := q 2, q3 := q 3 }
  (({ s with agenda := [.fire (.elem 1 0 0)] }).setCtx placedCtx).setForme
    { handle := 1, part := 0, ctx := 1, die := 0, bx := 0, oy := 0, status := .live
      cfg := { w := 1, h := 1, stream := true, fseed := 0, recs := [(0, 0, w)] }
      run := { core := { elems := [e] } } }

/-- A word placed where the next step issues it: pooled where it is a pooled record, else pinned. -/
def State.placeWord (s : State) (w : BitVec 96) : State :=
  match decode .pooled w with
  | .ok i => match i.shell? with
    | some r => s.placePooled w r
    | none => s
  | .error _ => match decode .pinned w with
    | .ok i => match i.shell? with
      | some r => s.placePinned w r
      | none => s
    | .error _ => s.placePooled w { inmask := 0, pin := false, lit := none, aux := 0, dsta := 0, dstb := 0 }

end Sys2Proof.Machine
end

