-- ==== Sys2Proof/Machine/Step.lean ====
section
/-! DEFINITION. One step of the machine: the next item of the agenda, or, with an empty agenda, what the part does by itself. -/

namespace Sys2Proof.Machine

/-- Issue the record at a position: fetch its word, decode it, run it. -/
def State.issue (s : State) (p : Site) : Out :=
  match s.siteWord p with
  | none => .fault .noRecord
  | some (pl, w) => match decode pl w with
    | .error _ => .fault .illegalRecord
    | .ok i => exec i { s with site := p }

/-- Run one item: a step of the device, host or links, or the record at a position. -/
def State.perform (s : State) (a : Action) : Out :=
  match a with
  | .event i => exec i { s with site := .none }
  | .fire p => s.issue p

/-- One step. The clock counts steps. The agenda says what happens; when it is empty the part goes on by itself. -/
def step (s : State) : Host.Outcome State Fault Refusal :=
  match s.agenda with
  | a :: rest => State.perform { s with clock := s.clock + 1, agenda := rest } a
  | [] => match s.autoAction with
    | some a => State.perform { s with clock := s.clock + 1 } a
    | none => .next ({ s with clock := s.clock + 1 } : State).unpark

/-- The state with a word where the next step issues it. -/
def State.withFetchWord (s : State) (nbits w : Nat) : State := s.placeWord (BitVec.ofNat 96 (w % 2 ^ nbits))

end Sys2Proof.Machine
end

