-- ==== Sys2Proof/Safety.lean ====
section
/-! DEFINITION. What counts as a safe run, and the terms that the statements use: a complete set that fires, lanes of a word, what one
update leaves alone. -/

namespace Sys2Proof.Machine

/-- The first `n` steps from `s` all answer a next state. -/
def SafeFor : Nat → State → Prop
  | 0, _ => True
  | n + 1, s => ∃ t, step s = .next t ∧ SafeFor n t

/-- A state from which no run stops. -/
def Safe (s : State) : Prop := ∀ n, SafeFor n s

/-! ## Firings -/

/-- The record with shell `r` at the site has a complete set whose flags give a value (R33, R34): `f` is its firing, `t` the state
without its tokens. -/
def Fires (s : State) (r : Shell) (f : Firing) (t : State) : Prop := s.gather r = some (f, t) ∧ f.verdict = .value

/-- Such a set without a dormant token (R32). -/
def FiresAwake (s : State) (r : Shell) (f : Firing) (t : State) : Prop := Fires s r f t ∧ ∀ e ∈ f.toks, e.2.isDormant = false

/-- The group of a record: the high nibble of its opcode (R80). -/
def groupOf (i : Instr) : Option Nat := (encodeParts i).map fun p => p.op / 16

/-! ## Coded fields (R84, R85) -/

/-- The opcodes of the records that take a scope (groups 0xA and 0xB). -/
def scopedOps : List Nat :=
  [0xA1, 0xA2, 0xA3, 0xA4, 0xA5, 0xA6, 0xA7, 0xA8, 0xA9, 0xAA, 0xAB, 0xAC, 0xAD, 0xB0, 0xB1, 0xB2, 0xB3, 0xB4, 0xB5, 0xB9]

/-- The scope of a record that takes one. -/
def scopeOf : Instr → Option Scope
  | .aadd _ c _ _ _ | .amin _ c _ _ _ | .amax _ c _ _ _ | .aand _ c _ _ _ | .aor _ c _ _ _ | .axor _ c _ _ _ | .axchg _ c _ _ _
  | .acas _ c _ _ _ | .afadd _ c _ _ _ | .red c _ _ _ | .redwait _ c _ | .lockacq _ c _ _ | .lockrel c _ _ _ | .fence _ c _ _
  | .bararr c _ _ | .bardrop c _ _ | .barwait _ c _ | .waitw _ c _ _ _ | .wakew c _ _ | .ordtok c _ _ => some c
  | _ => none

/-! ## Kinds of records -/

/-- The records whose operands are whole 32-bit words and predicates (R32). -/
def wholeWord : Instr → Bool
  | .add lt _ _ | .sub lt _ _ | .mul lt _ _ | .mulh lt _ | .mulhu lt _ | .mad lt _ _ | .div lt _ _ | .divu lt _ | .rem lt _
  | .remu lt _ | .min lt _ | .max lt _ | .minu lt _ | .maxu lt _ | .abs lt _ _ | .neg lt _ _ | .shl lt _ | .shr lt _ | .sar lt _
  | .fshl lt _ | .fshr lt _ | .popc lt _ | .clz lt _ | .brev lt _ | .bfx lt _ _ _ _ | .bfi lt _ _ _ => lt == .i32
  | .icmpv _ x2 _ => !x2
  | .andW _ | .orW _ | .xorW _ | .andn _ | .lut3 _ _ | .maj _ | .icmp _ _ | .fcmp _ _ | .fcmpv _ _ | .sel _ | .fclass _ | .pand _
  | .por _ | .pxor _ | .pnot _ | .pconst _ _ | .ptest _ _ | .fadd _ _ | .fsub _ _ | .fmul _ _ | .ffma _ _ | .fmin _ | .fmax _
  | .fabs _ | .fneg _ | .fdiv _ _ | .fsqrt _ _ | .frcpe _ | .frsqe _ | .fexp2 _ _ | .flog2 _ _ | .fsin _ _ _ | .frnd _ _ _
  | .scq _ _ | .scdq _ _ _ | .spchk _ => true
  | _ => false

/-- The records that work on packed lanes (R32). -/
def packedLanes : Instr → Bool
  | .add lt _ _ | .sub lt _ _ | .mul lt _ _ | .mulh lt _ | .mulhu lt _ | .mad lt _ _ | .div lt _ _ | .divu lt _ | .rem lt _
  | .remu lt _ | .min lt _ | .max lt _ | .minu lt _ | .maxu lt _ | .abs lt _ _ | .neg lt _ _ | .shl lt _ | .shr lt _ | .sar lt _
  | .fshl lt _ | .fshr lt _ | .popc lt _ | .clz lt _ | .brev lt _ | .bfx lt _ _ _ _ | .bfi lt _ _ _ => lt != .i32
  | .icmpv _ x2 _ => x2
  | .hadd _ _ _ | .hsub _ _ _ | .hmul _ _ _ | .hfma _ _ _ | .hmin _ _ | .hmax _ _ | .habs _ _ | .hneg _ _ | .hcmp _ _ _
  | .hsel _ _ | .hmask _ _ | .cvtff _ _ _ => true
  | .cvtif h _ _ _ | .cvtfi h _ _ _ => h
  | _ => false

/-- The computing records (groups 0x0 to 0x5) and the records that only pass or drop tokens. -/
def plainRecord (i : Instr) : Bool :=
  (match groupOf i with
    | some g => decide (g ≤ 5)
    | none => false) ||
  match i with
  | .copy _ | .steer _ _ | .gate _ _ | .sink _ | .join _ | .nullout _ => true
  | _ => false

/-! ## Sets without a value (R32, R34, R124, R127, R151, R192, R384) -/

/-- The records that act only on a set without a dormant token, and send dormant to both destinations for any other (R32, R192). -/
def awakeOnly : Instr → Bool
  | .const _ r => r.inmask != 0
  | .fence .. | .barwait .. | .waitw .. | .quiesce .. | .event .. | .yield .. | .bararr .. | .bardrop .. | .wakew ..
  | .mma .. | .mmas .. | .mdrain .. | .mzero .. | .mstat .. | .tex .. | .texn .. | .march .. | .cadd .. | .cwmk ..
  | .cres .. | .cclr .. | .clog .. | .cadj .. | .frel .. | .copye .. | .qcommit .. | .loffer .. | .ltake .. | .degrade .. | .fload .. | .fswap ..
  | .ovld .. | .ovfree .. | .copyw .. | .qresv .. | .qtake .. | .lquery .. | .lreclaim .. | .nop .. | .sysrd .. | .syswr .. | .eret .. | .perf ..
  | .trap .. | .brk .. | .halt .. | .marker .. | .snap .. => true
  | _ => false

/-- The records that send NULL or EOS for their set to both destinations: those, the computing records and the plain ones. -/
def passesFlags (i : Instr) : Bool := plainRecord i || awakeOnly i || match i with
  | .prule .. => true
  | _ => false

/-- The data ports of a memory record, a dormant token on which makes the set dormant; and whether the record counts as a store (R144, R151). -/
def dataPorts : Instr → Option (List Nat × Bool)
  | .ld .. | .kld .. | .gather .. | .pref .. | .tld .. => some ([0], false)
  | .ldi .. | .redwait .. | .tst .. => some ([0, 1], false)
  | .st .. | .scatter .. | .aadd .. | .amin .. | .amax .. | .aand .. | .aor .. | .axor ..
  | .axchg .. | .afadd .. => some ([0, 1], true)
  | .sti .. | .acas .. | .red .. => some ([0, 1, 2], true)
  | .lockacq .. | .lockrel .. => some ([0], true)
  | _ => none

/-- The stream and plane control records, whose flags go to a consumer that is no AG (R384). -/
def controlRecord : Instr → Bool
  | .sopen .. | .sclose .. | .sseek .. | .handover .. | .pshift .. | .pbound .. | .pact .. | .phalo ..
  | .pflip .. => true
  | _ => false

/-- What an instruction answers for a set without a value: `send` its flag, or the count mismatch at the port of its first EOS (R34). -/
def AnswersFlags (i : Instr) (s : State) (f : Firing) (t : State) (send : Tok → State) : Prop :=
  (f.verdict = .null → exec i s = .next (send .null)) ∧
  (f.verdict = .eos → exec i s = .next (send .eos)) ∧
  ∀ k, f.verdict = .mismatch k → exec i s = .next ((t.faultAt f k clsCount 0 (f.tokenPay k)).getD s.park)

/-! ## Lanes (R32, R59) -/

/-- Lane `l` of a word in lanes of `w` bits. -/
def laneAt (w : Nat) (x : Word) (l : Nat) : BitVec w := x.extractLsb' (w * l) w

/-- The operands leave something to compute: no dormant one for I32, an active half for packed lanes. -/
def LanesOpen (lt : LaneType) (o : Opnds) : Prop :=
  match lt with
  | .i32 => o.a.isDormant = false ∧ o.b.isDormant = false ∧ o.c.isDormant = false ∧ o.p.isDormant = false
  | _ => o.lm ≠ 0

/-- The half of lane `l` is active; an I32 word is active as a whole. -/
def LaneOn (lt : LaneType) (o : Opnds) (l : Nat) : Bool :=
  match lt with
  | .i32 => true
  | _ => o.lm.getLsbD (laneWidth lt * l / 16)

/-- The instruction answers with a word whose active lanes are `g` of the operands' lanes and whose other lanes are zero. -/
def LaneAnswer (i : Instr) (lt : LaneType) (r : Shell) (s : State) (f : Firing) (t : State)
    (g : (w : Nat) → BitVec w → BitVec w → BitVec w → BitVec w) : Prop :=
  ∃ v : Word,
    exec i s = .next (t.emitComp f r (some { v := v, lm := if lt = .i32 then 3 else (t.opnds f r).lm })) ∧
    ∀ l, l < 32 / laneWidth lt → laneAt (laneWidth lt) v l =
      if LaneOn lt (t.opnds f r) l then g (laneWidth lt) (laneAt _ (f.port r 0).value l) (laneAt _ (f.port r 1).value l)
        (laneAt _ (f.port r 2).value l) else 0

/-- The instruction answers with one 32-bit word, both halves active, and no sticky bit. -/
def WordAnswer (i : Instr) (r : Shell) (s : State) (f : Firing) (t : State) (v : Word) : Prop :=
  exec i s = .next (t.emitComp f r (some { v := v }))

/-- No operand of a 32-bit instruction is dormant. -/
def Whole (o : Opnds) : Prop := LanesOpen .i32 o

/-- A signed result under .SAT (R59): clamped to the lane's range; otherwise wrapped (R99). -/
def fitLane (sat : Bool) (w : Nat) (v : Int) : BitVec w :=
  BitVec.ofInt w (if sat then max (-2 ^ (w - 1)) (min (2 ^ (w - 1) - 1) v) else v)

/-- The conditions of Table 4-7 on integers. -/
def condHolds (c : ICond) {w : Nat} (x y : BitVec w) : Bool :=
  match c with
  | .eq => x == y
  | .ne => x != y
  | .lt => x.slt y
  | .le => x.sle y
  | .gt => y.slt x
  | .ge => y.sle x
  | .ltu => x.ult y
  | .leu => x.ule y
  | .gtu => y.ult x
  | .geu => y.ule x

/-! ## Rounded results (R55, R57) -/

/-- The rounding number of the lane of a firing that rounds after `n` others: the LFSR value after `n + 1` steps. -/
def roundingNo (t : State) (f : Firing) (n : Nat) : Nat := (lfsrN (n + 1) (t.lfsr f)).toNat

/-- The FP32 value of a token. -/
def fpOf (k : Tok) : FVal := Fmt.fp32.decode k.value.toNat

/-- The instruction answers with one rounded 32-bit result, its sticky bits, and one LFSR step under SR. -/
def FloatAnswer (i : Instr) (rnd : Rnd) (r : Shell) (s : State) (f : Firing) (t : State) (g : Nat → FRes) : Prop :=
  exec i s = .next (t.emitComp f r (some { v := BitVec.ofNat 32 (g (roundingNo t f 0)).bits, st := (g (roundingNo t f 0)).flags
                                           steps := if rnd = .sr then 1 else 0 }))

/-- The instruction answers half by half: `g` on each active half with its rounding number, lane 0 first, zero on the other. -/
def HalfAnswer (i : Instr) (rnd : Rnd) (r : Shell) (s : State) (f : Firing) (t : State) (g : Nat → Nat → FRes) : Prop :=
  let lm := (t.opnds f r).lm
  let q0 : FRes := if lm.getLsbD 0 then g 0 (roundingNo t f 0) else ⟨0, 0⟩
  let q1 : FRes := if lm.getLsbD 1 then g 1 (roundingNo t f (if lm.getLsbD 0 then 1 else 0)) else ⟨0, 0⟩
  exec i s = .next (t.emitComp f r (some { v := BitVec.ofNat 16 q1.bits ++ BitVec.ofNat 16 q0.bits, lm := lm, st := q0.flags ||| q1.flags
                                           steps := if rnd = .sr then (lm.getLsbD 0).toNat + (lm.getLsbD 1).toNat else 0 }))

/-- Half `l` of a token's word. -/
def halfAt (k : Tok) (l : Nat) : BitVec 16 := k.value.extractLsb' (16 * l) 16

/-- The value of half `l` in FP16 or BF16. -/
def halfOf (bf : Bool) (k : Tok) (l : Nat) : FVal := (Fmt.half bf).decode (halfAt k l).toNat

/-- Active places before place `n`. -/
def activeBefore (act : Nat → Bool) (n : Nat) : Nat := ((List.range n).filter act).length

/-! ## Island work -/

/-- What a firing of an MMA or MMAS asks of its island (R197). -/
def matrixForm (i : Instr) (f : Firing) (r : Shell) : Option MmaArgs :=
  let task := (f.port r 0).value.toNat % 256
  let k := (f.port r 1).value.toNat
  match i with
  | .mma fmt n1 m1 q => if q = r then some { task := task, k := k, m := m1.toNat + 1, n := n1.toNat + 1, fmt := fmt } else none
  | .mmas fmt spkt sp24 bmap n1 m1 q =>
    if q = r then some { task := task, k := k, m := m1.toNat + 1, n := n1.toNat + 1, fmt := fmt
                         s := true, spkt := spkt, sp24 := sp24, bmap := bmap } else none
  | _ => none

/-! ## Controls of an AG -/

/-- The state in which the control token of a firing has joined input `port` of the AG of a bay, and the AG has taken what it can. -/
def agJoined (s : State) (f : Firing) (r : Shell) (i : Instr) (t : Tok) (b c : Word) (g : Forme) (bay port : Nat) : State :=
  let a := g.run.core.ag bay
  let k : AgTok := { x := f.x, y := f.y, rt := f.rt, tok := t, instr := some i, b := b, c := c
                     dstb := g.dest f.x f.y r.dstb, dstbRaw := r.dstb }
  State.agDrain f.h bay 16 (s.putCore g (g.run.core.setAg (a.setInput port (a.input port ++ [k]))))

/-- The record of an element answers with a control token that joins input `port` of the AG of `bay`. -/
def JoinsAg (i : Instr) (r : Shell) (s : State) (f : Firing) (t : State) (b c : Word) (g : Forme) (bay port : Nat) : Prop :=
  exec i s = .next (agJoined t f r i (f.port r 0) b c g bay port)

/-! ## Canonical memories -/

/-- The tile memories of a forme, and those of its round start, are in the canonical form of memory (log 3). -/
def Forme.tilesCanonical (f : Forme) : Bool :=
  Memory.wf f.run.core.tile && Memory.wf f.run.core.back && Memory.wf f.run.start.tile && Memory.wf f.run.start.back

/-- The tile memories of a forme are canonical, if `t` asks for that. -/
def Forme.Canon (t : Bool) (f : Forme) : Prop := t = true → f.tilesCanonical = true

/-- What is canonical in a state: memory, if `m` asks for that; the tile memories of every forme, if `t` asks for that. -/
def State.Canon (m t : Bool) (s : State) : Prop := (m = true → Memory.wf s.mem = true) ∧ ∀ f ∈ s.formes, f.Canon t

/-! ## Frames -/

/-- What a firing outside memory and the registers leaves alone: everything but the formes, the tiles and the islands. -/
def SameBeyondCores (s t : State) : Prop :=
  t.mem = s.mem ∧ t.ctxs = s.ctxs ∧ t.dies = s.dies ∧ t.parts = s.parts ∧ t.fru = s.fru ∧ t.links = s.links ∧ t.clock = s.clock ∧
    t.readyBays = s.readyBays ∧ t.readyUnits = s.readyUnits ∧ t.waiters = s.waiters ∧ t.quiesces = s.quiesces ∧ t.routes = s.routes ∧
    t.fijId = s.fijId ∧ t.pmode = s.pmode ∧ t.clocks = s.clocks ∧ t.fwst = s.fwst ∧ t.cecnt = s.cecnt ∧ t.msix = s.msix ∧
    t.loads = s.loads ∧ t.forwarded = s.forwarded

end Sys2Proof.Machine
end

