-- ==== Sys2Proof/Certificates/Slice0/Obligations.lean ====
section
/-! DEFINITION. The statements about the machine, one Prop each, for the provers. -/

open Sys2Proof Sys2Proof.Machine

/-- After reset no entry of the readiness map reads READY, the firmware waits in WAIT, the power mode is FULL, CECNT is 0, the frame
release unit is in FREE_RUN, no die is split, no context is allocated and no forme is loaded. A dataflow tile that nothing has
touched has HWM 3,072, LWM 2,560 and THROTTLE 0. Every partition has STGSZ 64, QBOUND 65,536, AGEB 1,048,576 and SLICE 330,000;
of these STGSZ, to which Table 10-2 gives the reset value FW, is the model's own choice (log 4). (R8, R44, R47, R248, R300,
R312, R348, R375, R377) -/
def Obligations.ResetState : Prop :=
  State.reset.readyBays = 0 ∧ (∀ e, State.reset.unitReady e = false) ∧ State.reset.fwst = .wait ∧ State.reset.pmode = 0 ∧
    State.reset.cecnt = 0 ∧ State.reset.fru.state = .freeRun ∧ (∀ d, d < 4 → State.reset.split d = 0) ∧
    (∀ c, State.reset.ctx? c = none) ∧ (∀ h, State.reset.forme? h = none) ∧
    (∀ t, (State.reset.tile t).hwm = 3072 ∧ (State.reset.tile t).lwm = 2560 ∧ (State.reset.tile t).throttle = false) ∧
    ∀ p, p < 16 → ∃ q, State.reset.part? p = some q ∧ q.stgsz = 64 ∧ q.qbound = 65536 ∧ q.ageb = 1048576 ∧ q.slice = 330000

/-- The memory of the reset state lists nothing and so is in the canonical form of the model (rising addresses, no entry equal to
the value of an unlisted byte). That form and the value 0 of a byte that nothing has written are the model's own (log 3). The
reset state has no forme, so every tile memory has that form too. (R5, R149) -/
def Obligations.ResetMemoryCanonical : Prop :=
  Memory.wf State.reset.mem = true ∧ (∀ a, Memory.read State.reset.mem a = 0) ∧ ∀ f ∈ State.reset.formes, f.tilesCanonical = true

/-- When the next item of the agenda fires the position p, a word stands there, and it decodes for its placement to the instruction
i, the step is exec of i at the same state with that item taken from the agenda, p as the site and the clock one step on. When
the next item is an event i, the step is exec of i likewise, with no site. With an empty agenda the step runs what the part does
by itself in the same way. The agenda, the site and the clock are the model's own (log 1). (R39, R46, R69, R70, R81) -/
def Obligations.StepRunsDecoded : Prop :=
  (∀ (s : State) (p : Site) (rest : List Action) (pl : Placement) (w : BitVec 96) (i : Instr),
      s.agenda = .fire p :: rest → s.siteWord p = some (pl, w) → decode pl w = .ok i →
      step s = exec i { s with clock := s.clock + 1, agenda := rest, site := p }) ∧
    (∀ (s : State) (i : Instr) (rest : List Action),
      s.agenda = .event i :: rest → step s = exec i { s with clock := s.clock + 1, agenda := rest, site := .none }) ∧
    (∀ (s : State) (p : Site) (pl : Placement) (w : BitVec 96) (i : Instr),
      s.agenda = [] → s.autoAction = some (.fire p) → s.siteWord p = some (pl, w) → decode pl w = .ok i →
      step s = exec i { s with clock := s.clock + 1, site := p }) ∧
    ∀ (s : State) (i : Instr), s.agenda = [] → s.autoAction = some (.event i) →
      step s = exec i { s with clock := s.clock + 1, site := .none }

/-- Words that the manual gives bit by bit decode to the records it lists them for: ADD.I16X2.SAT, FADD.RUP p1=#1.0, STEER.NUL and
FFMA p1=#0.25 in both placements, PSHIFT (1, 0) and TLD at 0x100 pinned, MMAS.E4M3 of 128 by 128 and KLD.HI k0 pooled. (R69,
R72, R92, R98, R107, R123, R151, R162, R166, R197) -/
def Obligations.DecodeWords : Prop :=
  (∀ pl, decode pl 0x0011_0300_8F83_1040_0000_0000 = .ok (.add .i16x2 true ⟨3, false, none, 0, 0x8F83, 0x1040⟩)) ∧
    (∀ pl, decode pl 0x302A_0300_0123_FFFF_3F80_0000 = .ok (.fadd .rup ⟨3, false, some (1, 0x3F800000), 0, 0x0123, 0xFFFF⟩)) ∧
    (∀ pl, decode pl 0x6101_0180_0041_0050_0000_0000 = .ok (.steer true ⟨1, true, none, 0, 0x0041, 0x0050⟩)) ∧
    (∀ pl, decode pl 0x330A_0700_0001_0040_3E80_0000 = .ok (.ffma .rne ⟨7, false, some (1, 0x3E800000), 0, 0x0001, 0x0040⟩)) ∧
    decode .pinned 0x9000_0100_6000_0040_0000_0042 = .ok (.pshift 0 1 0 2 ⟨1, false, none, 0, 0x6000, 0x0040⟩) ∧
    decode .pinned 0x8C00_0100_8F01_FFFF_0010_0000 = .ok (.tld .w32 false 0x100 0 0 ⟨1, false, none, 0, 0x8F01, 0xFFFF⟩) ∧
    decode .pooled 0xC120_0300_0200_FFFF_0001_FFFF =
      .ok (.mmas .e4m3 true true true 127 127 ⟨3, false, none, 0, 0x0200, 0xFFFF⟩) ∧
    decode .pooled 0x8400_0100_4009_FFFF_0000_0040 = .ok (.kld true 0 ⟨1, false, none, 0, 0x4009, 0xFFFF⟩)

/-- For every placement and every instruction that is a well-formed record of that placement, with every operand at every value the
encoding admits: if it has a word, that word decodes to exactly this instruction; and every well-formed record has a word. (R69,
R71, R72, R73, R80, R86, R88, R94, R123, R191) -/
def Obligations.DecodeEncode : Prop :=
  ∀ (pl : Placement) (i : Instr), i.wf pl = true → ∃ w, encode i = some w ∧ decode pl w = .ok i

/-- In every record that takes a scope, a word that decodes gives the scope that Table 4-8 lists for its code in MOD[2:0] (0
element, 1 forme, 2 die, 3 package, 4 system), and a word with a code 0b101 to 0b111 decodes to no instruction. (R84) -/
def Obligations.ScopeCodes : Prop :=
  ∀ (pl : Placement) (w : BitVec 96), scopedOps.contains (w.extractLsb' 88 8).toNat = true →
    (5 ≤ (w.extractLsb' 84 3).toNat → ∃ e, decode pl w = .error e) ∧
    ∀ i, decode pl w = .ok i → scopeOf i = [Scope.element, .forme, .die, .package, .system][(w.extractLsb' 84 3).toNat]?

/-- When an element gathers on its expected ports, the firing is for that element under one route tag and holds, for every expected
port, the oldest token of that route tag that no marker blocks; of all route tags with such a token on every expected port it is
one with the least (age of its oldest arrival, port, route tag). Afterwards each expected port has lost exactly that token,
every other port is as it was, and every other element, the FIFO rings, the tiles, the AGs, the links and the route table of the
forme are as they were. (R35, R38, R39) -/
def Obligations.GatherElement : Prop :=
  ∀ (s : State) (h x y : Nat) (r : Shell) (f : Firing) (t : State),
    s.gatherElem h x y (expectedPorts r) = some (f, t) →
    ∃ g, s.forme? h = some g ∧ f.pinned = true ∧ f.h = g.handle ∧ f.x = x ∧ f.y = y ∧ f.ctx = g.ctx ∧ f.part = g.part ∧
      (∀ k ∈ expectedPorts r, ∃ q, (g.run.core.elem x y).head? k f.rt = some q ∧ lookup k f.toks = some q.tok) ∧
      (∀ k, k ∉ expectedPorts r → lookup k f.toks = none) ∧
      (∃ a, (g.run.core.elem x y).setKey (expectedPorts r) f.rt = some a ∧
        ∀ rt b, (g.run.core.elem x y).setKey (expectedPorts r) rt = some b → keyLt b a = false) ∧
      ∃ g', t = s.setForme g' ∧ g'.handle = g.handle ∧ g'.cfg = g.cfg ∧
        (∀ k, k < 4 → ((g'.run.core.elem x y).queue k) =
          if k ∈ expectedPorts r then removeRt f.rt ((g.run.core.elem x y).queue k) else (g.run.core.elem x y).queue k) ∧
        (∀ x' y', (x', y') ≠ (x, y) → g'.run.core.elem x' y' = g.run.core.elem x' y') ∧
        g'.run.core.fifos = g.run.core.fifos ∧ g'.run.core.tile = g.run.core.tile ∧ g'.run.core.ags = g.run.core.ags ∧
        g'.run.core.links = g.run.core.links ∧ g'.run.core.route = g.run.core.route

/-- When a node fires under a tag, the firing holds the operands of one ready instance q of that node and tag. Unless q was issued
before and waits, it is the oldest by age of the instances left of the open issue, or, with none left, the oldest of all ready
instances that do not wait. If q has not issued yet it opens an issue: that counts 1 in ISSUES and 1 to 8 in INSTANCES, and each
further instance it gathers is of the same node and keeps from then on the clock and the mode settings of its context; an
instance that has issued counts nothing more. Afterwards q has left the ready queue, every other ready instance has kept its
operands, age and tag, the open instance of its galley is marked as issued, and the matching store, the node memory and every
other tile are as they were. That an issued instance that waits is tried again by itself is the model's own (log 33). (R25, R42,
R46, R48, R139, R142, R144) -/
def Obligations.GatherInstance : Prop :=
  ∀ (s : State) (i node : Nat) (tag : Tag) (f : Firing) (t : State),
    s.gatherInst i node tag = some (f, t) →
    ∃ q, q ∈ (s.tile i).ready ∧ q.node = node ∧ q.tag = tag ∧ f.pinned = false ∧ f.tile = i ∧ f.node = node ∧ f.tag = tag ∧ f.out = tag ∧
      f.p0 = q.p0 ∧ f.p1 = q.p1 ∧ f.p2 = q.p2 ∧ f.p3 = q.p3 ∧ f.ctx = tagCtx tag ∧ f.part = s.unitPart i ∧
      (q.parked = false → (∃ o ∈ (s.tile i).ready, o.gathered = true) →
        q.gathered = true ∧ ∀ o ∈ (s.tile i).ready, o.gathered = true → q.age ≤ o.age) ∧
      (q.parked = false → (∀ o ∈ (s.tile i).ready, o.gathered = false) → ∀ o ∈ (s.tile i).ready, o.parked = false → q.age ≤ o.age) ∧
      (q.issue.isSome = true → (t.tile i).issues = (s.tile i).issues ∧ (t.tile i).instances = (s.tile i).instances) ∧
      (q.issue = none → (t.tile i).issues = satAdd (2 ^ 28 - 1) (s.tile i).issues 1 ∧
        ∃ n, 1 ≤ n ∧ n ≤ 8 ∧ (t.tile i).instances = satAdd (2 ^ 31 - 1) (s.tile i).instances n) ∧
      (∀ o ∈ (t.tile i).ready, o.gathered = true → o ∈ (s.tile i).ready ∨ (o.node = node ∧ o.issue = some (s.issueNow o.tag))) ∧
      (∀ o ∈ (s.tile i).ready, o.issue.isSome = true → o = q ∨ o ∈ (t.tile i).ready) ∧
      (t.tile i).ready.map (fun o => { o with gathered := false, issue := none }) =
        (removeInst q (s.tile i).ready).map (fun o => { o with gathered := false, issue := none }) ∧
      (t.tile i).entries = (s.tile i).entries ∧ (t.tile i).nodes = (s.tile i).nodes ∧
      (∃ g, t.galleyOf f = some g ∧ g.issued = true) ∧ (∀ j, j ≠ i → t.tile j = s.tile j) ∧ t.formes = s.formes ∧ t.mem = s.mem

/-- A set ends its stream exactly when it holds an EOS and all its tokens are EOS; it is a count mismatch, named at the port of its
first EOS token, when only some are; it gives NULL exactly when it holds no EOS and at least one NULL, whatever else it holds;
and it gives a value exactly when it holds neither. With at least one token these four exclude each other. (R33, R34) -/
def Obligations.VerdictOfFlags : Prop :=
  ∀ f : Firing,
    (f.verdict = .eos ↔ (∃ e ∈ f.toks, e.2.flag = .eos) ∧ ∀ e ∈ f.toks, e.2.flag = .eos) ∧
    (∀ k, f.verdict = .mismatch k → (∃ e ∈ f.toks, e.1 = k ∧ e.2.flag = .eos) ∧ (∃ e ∈ f.toks, e.2.flag ≠ .eos) ∧
      ∀ e ∈ f.toks, e.2.flag = .eos → k ≤ e.1) ∧
    (f.verdict = .null ↔ (∀ e ∈ f.toks, e.2.flag ≠ .eos) ∧ ∃ e ∈ f.toks, e.2.flag = .null) ∧
    (f.verdict = .value ↔ ∀ e ∈ f.toks, e.2.flag ≠ .eos ∧ e.2.flag ≠ .null)

/-- A pinned firing that sends a token to destination fields puts it on the links of its forme, destination A before destination B,
under the route tag of the firing: one link token for each field that is not 0xFFFF and does not name a memory port or a place
that is no unit, to the element port, FIFO tile, AG input, island or dataflow tile that the field names relative to the element.
Nothing else of the machine changes. That a token for a memory port goes nowhere is the model's reading (log 11). (R73, R75,
R76, R93) -/
def Obligations.SendPinned : Prop :=
  ∀ (s : State) (f : Firing) (r : Shell) (k : Tok) (g : Forme),
    f.pinned = true → s.forme? f.h = some g → g.handle = f.h →
    let out (d : BitVec 16) : List LinkTok := if d = noDest then [] else match g.dest f.x f.y d with
      | .none | .mport _ => []
      | p => [{ src := .elem f.x f.y, dst := p, rt := f.rt, wire := .tok k }]
    ∃ u, s.sendBoth f r k = u ∧ (r.dsta = noDest → r.dstb = noDest → u = s) ∧
      ((u.forme? f.h).map fun g' => g'.run.core) = some { g.run.core with links := g.run.core.links ++ out r.dsta ++ out r.dstb } ∧
      (∀ h, h ≠ f.h → u.forme? h = s.forme? h) ∧ u.tiles = s.tiles ∧ u.islands = s.islands ∧ SameBeyondCores s u

/-- A pooled firing sends a token under its tag. To a node of its own galley it goes at once to that tile; to any other node it is
held in the open instance, which counts it into its OUT, and leaves at the galley's commit; a field 0xFFFF sends nothing. (R73,
R74, R93, R144) -/
def Obligations.SendPooled : Prop :=
  ∀ (s : State) (f : Firing) (second : Bool) (d : BitVec 16) (k : Tok) (g : Galley),
    f.pinned = false → s.galleyOf f = some g →
    let p : PTok := { tag := f.out, port := d.extractLsb' 14 2, node := d.extractLsb' 0 14, hnd := g.hnd || f.hnd, tok := k
                      src := .inst f.hdr f.tag, again := f.again }
    s.send f second d k =
      if d = 0xFFFF then s
      else if (s.tile f.tile).inGalley f.hdr (d.extractLsb' 0 14).toNat then s.sendTile f.tile p
      else s.setGalley f.tile { g with out := (g.out + 1) % 256, outs := g.outs ++ [⟨f.node, second, p⟩] }

/-- For every record of groups 0x0 to 0x5, and for COPY, STEER, GATE, SINK, JOIN and NULLOUT: a firing whose set holds no count
mismatch changes no byte of memory, no context (status, k registers, event and fault bases), no register of a partition, die,
link, frame release unit or of the package, no island, and no accumulator. Pinned at (x, y) of forme h it changes no other
forme, no dataflow tile, and in its own forme no other element, no FIFO ring, no tile byte, no CA tile, window, plane, AG or
route-table entry. Pooled on a tile it changes no forme and no other tile. (R32, R33, R57, R93, R124, R126, R127) -/
def Obligations.ComputeFrame : Prop :=
  ∀ (i : Instr) (r : Shell) (s u : State) (f : Firing) (t : State),
    plainRecord i = true → i.shell? = some r → s.gather r = some (f, t) → (∀ k, f.verdict ≠ .mismatch k) → exec i s = .next u →
    SameBeyondCores s u ∧ u.islands = s.islands ∧ u.agenda = s.agenda ∧ u.site = s.site ∧ u.picks = s.picks ∧
    (∀ h x y, s.site = .elem h x y → u.tiles = s.tiles ∧ (∀ k, k ≠ h → u.forme? k = s.forme? k) ∧
      ∀ g, s.forme? h = some g → g.handle = h → ∃ g', u.forme? h = some g' ∧ g'.cfg = g.cfg ∧ g'.status = g.status ∧
        g'.held = g.held ∧ g'.run.round = g.run.round ∧ g'.run.staging = g.run.staging ∧ g'.run.start = g.run.start ∧
        (∀ x' y', (x', y') ≠ (x, y) → g'.run.core.elem x' y' = g.run.core.elem x' y') ∧
        g'.run.core.fifos = g.run.core.fifos ∧ g'.run.core.tile = g.run.core.tile ∧ g'.run.core.back = g.run.core.back ∧
        g'.run.core.cas = g.run.core.cas ∧ g'.run.core.wins = g.run.core.wins ∧ g'.run.core.planes = g.run.core.planes ∧
        g'.run.core.ags = g.run.core.ags ∧ g'.run.core.route = g.run.core.route) ∧
    (∀ n node tag, s.site = .inst n node tag → u.formes = s.formes ∧ ∀ j, j ≠ n → u.tile j = s.tile j)

/-- Every computing record, and every other record that passes flags on, whose complete set holds a NULL and no EOS sends NULL to
both destinations and does nothing else, also when the set holds dormant tokens: it computes nothing and sets no sticky bit.
With EOS on every expected port it sends one EOS to both destinations. With EOS on some ports only it takes a count-mismatch
fault at the port of its first EOS and sends nothing; while that fault has to wait, the state stays as it was, but for the mark
on a ready instance that it was tried. The records of the island, the engines, the barriers and the system send dormant to both
for a set with a dormant token and no NULL or EOS. A memory record does so for a dormant token on a data port, and counts in its
galley as a store whichever flag it sends. A stream or plane control record sends the flag to a consumer that is no array
generator; ORDTOK sends it to both destinations; CTXNEW and CTXFREE pass on a token that is not active; MTASK too, in an element
to DSTB alone; SCIN sends the flag only in a dataflow tile; SMUL and SFMA step their block first, which is the model's choice
(log 107), as is that a flagged set of a pinned SCIN sends none (log 67). (R32, R33, R34, R95, R124, R127, R146, R151, R181,
R192, R203, R384) -/
def Obligations.FlagsOfComputing : Prop :=
  ∀ (i : Instr) (r : Shell) (s : State) (f : Firing) (t : State) (g : Nat),
    i.shell? = some r →
    (s.gather r = some (f, t) → let idle := ∃ e ∈ f.toks, e.2.isDormant = true
      ((groupOf i = some g ∧ g ≤ 5 ∨ passesFlags i = true) → AnswersFlags i s f t (t.sendBoth f r)) ∧
      (awakeOnly i = true → f.verdict = .value → idle → exec i s = .next (t.sendBoth f r .dormant)) ∧
      (∀ (ps : List Nat) (store : Bool), dataPorts i = some (ps, store) →
        let u := if store && !f.pinned then t.seeStore f r.aux else t
        AnswersFlags i s f t (u.sendBoth f r) ∧
        (f.verdict = .value → (∃ k ∈ ps, (f.port r k).isDormant = true) → exec i s = .next (u.sendBoth f r .dormant))) ∧
      (controlRecord i = true →
        let send (k : Tok) : State := if r.dstb ≠ noDest ∧ destClass r.dstb = 2 then t else t.send f true r.dstb k
        AnswersFlags i s f t send ∧ (f.verdict = .value → idle → exec i s = .next (send .dormant))) ∧
      (∀ (scope : Scope) (slot : BitVec 3) (send : Tok → State), i = .ordtok scope slot r →
        (∀ k, (t.sendOrder f r i false k).bind (fun u => u.sendOrder f r i true k) = some (send k)) →
        AnswersFlags i s f t send ∧ (f.verdict = .value → idle → exec i s = .next (send .dormant))) ∧
      ((∀ k, f.verdict ≠ .mismatch k) → (f.port r 0).isActive = false →
        ((i = .ctxnew r ∨ i = .ctxfree r) → exec i s = .next (t.sendBoth f r (f.port r 0))) ∧
        ∀ isl pdest, i = .mtask isl pdest r →
          exec i s = .next (if f.pinned then t.send f true r.dstb (f.port r 0) else t.sendBoth f r (f.port r 0))) ∧
      (i = .scin r → let send (k : Tok) : State := if f.pinned then t else t.sendBoth f r k
        AnswersFlags i s f t send ∧ (f.verdict = .value → idle → exec i s = .next (send .dormant)))) ∧
    ∀ (e : Nat) (fmt : MFmt), s.gatherScaled r = some (f, e, t) → (i = .smul fmt r ∨ i = .sfma fmt r) →
      (f.verdict = .null → exec i s = .next ((t.stepBlock f false).sendBoth f r .null)) ∧
      (f.verdict = .eos → exec i s = .next ((t.stepBlock f true).sendBoth f r .eos)) ∧
      (f.verdict = .value → ((f.port r 0).lmask.getLsbD 0 = false ∨ (f.port r 1).lmask.getLsbD 0 = false) →
        exec i s = .next ((t.stepBlock f false).sendBoth f r .dormant))

/-- A set whose flags give a value is dormant, sends a dormant token to both destinations and changes nothing else (no sticky bit,
no LFSR step): in an instruction with 32-bit operands or a predicate (lane type I32, the word logic, the compares, FP32, SCQ,
SCDQ and SPCHK) when any operand or the predicate is dormant; in an instruction on packed lanes when no half is active in every
data operand. (R32, R95, R98, R100, R103, R107, R113, R203) -/
def Obligations.DormantFirings : Prop :=
  ∀ (i : Instr) (r : Shell) (s : State) (f : Firing) (t : State), i.shell? = some r → Fires s r f t →
    (wholeWord i = true → ¬ LanesOpen .i32 (t.opnds f r) → exec i s = .next (t.sendBoth f r .dormant)) ∧
    (packedLanes i = true → (∀ bf r, i ≠ .hmask bf r) → (t.opnds f r).lm = 0 → exec i s = .next (t.sendBoth f r .dormant))

/-- ADD, SUB, MUL, MAD, MULH, MIN, MAX, ABS and NEG answer lane by lane with the exact signed result of the lanes of ports 0, 1 and
2, wrapped to the lane or, with .SAT, clamped to its signed range (MULH: the high half of the signed product); MULHU, MINU and
MAXU with the high half of the unsigned product and the lesser and the greater of the unsigned lanes; inactive halves of packed
lanes are zero, the result carries the lane mask of R32, no sticky bit is set and no LFSR steps. (R32, R59, R98, R99) -/
def Obligations.IntegerArithmetic : Prop :=
  ∀ (lt : LaneType) (sat : Bool) (r : Shell) (s : State) (f : Firing) (t : State), Fires s r f t → LanesOpen lt (t.opnds f r) →
    LaneAnswer (.add lt sat r) lt r s f t (fun w x y _ => fitLane sat w (x.toInt + y.toInt)) ∧
    LaneAnswer (.sub lt sat r) lt r s f t (fun w x y _ => fitLane sat w (x.toInt - y.toInt)) ∧
    LaneAnswer (.mul lt sat r) lt r s f t (fun w x y _ => fitLane sat w (x.toInt * y.toInt)) ∧
    LaneAnswer (.mad lt sat r) lt r s f t (fun w x y z => fitLane sat w (x.toInt * y.toInt + z.toInt)) ∧
    LaneAnswer (.mulh lt r) lt r s f t (fun w x y _ => BitVec.ofInt w (x.toInt * y.toInt / 2 ^ w)) ∧
    LaneAnswer (.min lt r) lt r s f t (fun _ x y _ => if y.slt x then y else x) ∧
    LaneAnswer (.max lt r) lt r s f t (fun _ x y _ => if x.slt y then y else x) ∧
    LaneAnswer (.abs lt sat r) lt r s f t (fun w x _ _ => fitLane sat w (if x.toInt < 0 then -x.toInt else x.toInt)) ∧
    LaneAnswer (.neg lt sat r) lt r s f t (fun w x _ _ => fitLane sat w (-x.toInt)) ∧
    LaneAnswer (.mulhu lt r) lt r s f t (fun w x y _ => BitVec.ofNat w (x.toNat * y.toNat / 2 ^ w)) ∧
    LaneAnswer (.minu lt r) lt r s f t (fun _ x y _ => if y.ult x then y else x) ∧
    LaneAnswer (.maxu lt r) lt r s f t (fun _ x y _ => if x.ult y then y else x)

/-- Signed DIV truncates toward zero and REM takes the sign of the dividend, and DIVU and REMU divide unsigned lanes. In every lane
a zero divisor gives all ones as the quotient and the dividend as the remainder; the least number divided by -1 gives itself as
the DIV quotient, with .SAT the greatest number, and remainder 0. In each of these cases the instruction answers a result, so no
fault is raised. (R60) -/
def Obligations.IntegerDivision : Prop :=
  ∀ (lt : LaneType) (sat : Bool) (r : Shell) (s : State) (f : Firing) (t : State), Fires s r f t → LanesOpen lt (t.opnds f r) →
    LaneAnswer (.div lt sat r) lt r s f t (fun w x y _ =>
      if y = 0 then BitVec.allOnes w else if x = BitVec.intMin w ∧ y = BitVec.allOnes w then (if sat then BitVec.intMax w else BitVec.intMin w)
      else BitVec.ofInt w (Int.tdiv x.toInt y.toInt)) ∧
    LaneAnswer (.rem lt r) lt r s f t (fun w x y _ => if y = 0 then x else BitVec.ofInt w (Int.tmod x.toInt y.toInt)) ∧
    LaneAnswer (.divu lt r) lt r s f t (fun w x y _ => if y = 0 then BitVec.allOnes w else x / y) ∧
    LaneAnswer (.remu lt r) lt r s f t (fun _ x y _ => if y = 0 then x else x % y)

/-- SHL and SHR give 0 for a count of the lane width or more, SAR then copies of the sign; FSHL and FSHR shift the two joined lanes
by the lesser of the count and the width; POPC counts ones, CLZ leading zeros, BREV reverses; BFX extracts LEN bits from POS,
zero- or sign-extended, and BFI inserts the low LEN bits of port 1 at POS of port 0, for fields that lie within the lane as R102
requires of a record. (R59, R100, R101, R102) -/
def Obligations.ShiftsAndFields : Prop :=
  ∀ (lt : LaneType) (pos : BitVec 5) (len : BitVec 6) (r : Shell) (s : State) (f : Firing) (t : State),
    Fires s r f t → LanesOpen lt (t.opnds f r) → 1 ≤ len.toNat → pos.toNat + len.toNat ≤ laneWidth lt →
    LaneAnswer (.shl lt r) lt r s f t (fun w x y _ => if w ≤ y.toNat then 0 else x <<< y.toNat) ∧
    LaneAnswer (.shr lt r) lt r s f t (fun w x y _ => if w ≤ y.toNat then 0 else x >>> y.toNat) ∧
    LaneAnswer (.sar lt r) lt r s f t (fun w x y _ => x.sshiftRight (min y.toNat (w - 1))) ∧
    LaneAnswer (.fshl lt r) lt r s f t (fun w x y z => ((x ++ y) <<< min z.toNat w).extractLsb' w w) ∧
    LaneAnswer (.fshr lt r) lt r s f t (fun w x y z => ((x ++ y) >>> min z.toNat w).extractLsb' 0 w) ∧
    LaneAnswer (.popc lt r) lt r s f t (fun w x _ _ => BitVec.ofNat w ((List.range w).countP fun k => x.getLsbD k)) ∧
    LaneAnswer (.clz lt r) lt r s f t (fun _ x _ _ => x.clz) ∧
    LaneAnswer (.brev lt r) lt r s f t (fun _ x _ _ => x.reverse) ∧
    LaneAnswer (.bfx lt pos len false r) lt r s f t (fun w x _ _ => (x.extractLsb' pos.toNat len.toNat).setWidth w) ∧
    LaneAnswer (.bfx lt pos len true r) lt r s f t (fun w x _ _ => (x.extractLsb' pos.toNat len.toNat).signExtend w) ∧
    LaneAnswer (.bfi lt pos len r) lt r s f t (fun w x y _ =>
      (x &&& ~~~((BitVec.ofNat w (2 ^ len.toNat - 1)) <<< pos.toNat)) |||
        ((y &&& BitVec.ofNat w (2 ^ len.toNat - 1)) <<< pos.toNat))

/-- AND, OR, XOR, ANDN, MAJ and LUT3 answer bit by bit: bit k of the LUT3 result is bit 4a + 2b + c of its truth table for the bits
a, b, c of ports 0, 1 and 2. (R32, R100) -/
def Obligations.LogicWords : Prop :=
  ∀ (tt : BitVec 8) (r : Shell) (s : State) (f : Firing) (t : State), Fires s r f t → Whole (t.opnds f r) →
    let a := (f.port r 0).value
    let b := (f.port r 1).value
    let c := (f.port r 2).value
    WordAnswer (.andW r) r s f t (a &&& b) ∧ WordAnswer (.orW r) r s f t (a ||| b) ∧ WordAnswer (.xorW r) r s f t (a ^^^ b) ∧
    WordAnswer (.andn r) r s f t (a &&& ~~~b) ∧ WordAnswer (.maj r) r s f t ((a &&& b) ||| (a &&& c) ||| (b &&& c)) ∧
    ∃ v : Word, WordAnswer (.lut3 tt r) r s f t v ∧
      ∀ k, k < 32 → v.getLsbD k = tt.getLsbD (4 * (a.getLsbD k).toNat + 2 * (b.getLsbD k).toNat + (c.getLsbD k).toNat)

/-- With P the predicate and q true when the word on port 0 is not zero: PAND sends P and q, POR P or q, PXOR P xor q, PNOT not P;
PCONST sends its constant for every token on port 0; PTEST sends (a and b) not equal to 0, or with .Z equal to 0. (R106) -/
def Obligations.Predicates : Prop :=
  ∀ (val z : Bool) (r : Shell) (s : State) (f : Firing) (t : State), Fires s r f t → Whole (t.opnds f r) →
    let p := (f.p3.getD {}).value.getLsbD 0
    let q := (f.port r 0).value != 0
    let bit (b : Bool) : Word := if b then 1 else 0
    WordAnswer (.pand r) r s f t (bit (p && q)) ∧ WordAnswer (.por r) r s f t (bit (p || q)) ∧
    WordAnswer (.pxor r) r s f t (bit (p ^^ q)) ∧ WordAnswer (.pnot r) r s f t (bit (!p)) ∧
    WordAnswer (.pconst val r) r s f t (bit val) ∧
    WordAnswer (.ptest z r) r s f t (bit (((f.port r 0).value &&& (f.port r 1).value == 0) == z))

/-- FADD, FSUB, FMUL, FFMA, FDIV, FSQRT, FEXP2, FLOG2, FSIN, FSIN.COS and FRND answer with the exact result of their FP32 operands
rounded once by their mode, with its sticky bits; under SR the LFSR of the firing steps once and its new value is the rounding
number. FMIN, FMAX, FABS, FNEG, FRCPE and FRSQE answer with their defined result and step nothing. (R50, R52, R53, R55, R56,
R57, R107, R108, R109, R110, R111) -/
def Obligations.FloatArithmetic : Prop :=
  ∀ (m : Rnd) (x cos : Bool) (r : Shell) (s : State) (f : Firing) (t : State), Fires s r f t → Whole (t.opnds f r) →
    let a := fpOf (f.port r 0)
    let b := fpOf (f.port r 1)
    let c := fpOf (f.port r 2)
    let u := (f.port r 0).value.toNat
    let v := (f.port r 1).value.toNat
    FloatAnswer (.fadd m r) m r s f t (fun k => Fmt.fp32.sum m k [a, b] [a, b] false) ∧
    FloatAnswer (.fsub m r) m r s f t (fun k => Fmt.fp32.sum m k [a, b] [a, b.negate] false) ∧
    FloatAnswer (.fmul m r) m r s f t (fun k => Fmt.fp32.mul m k a b) ∧
    FloatAnswer (.ffma m r) m r s f t (fun k => Fmt.fp32.fma m k a b c) ∧
    FloatAnswer (.fdiv m r) m r s f t (fun k => Fmt.fp32.div m k a b) ∧
    FloatAnswer (.fsqrt m r) m r s f t (fun k => Fmt.fp32.sqrt m k a) ∧
    FloatAnswer (.fexp2 m r) m r s f t (fun k => fexp2 m k u) ∧ FloatAnswer (.flog2 m r) m r s f t (fun k => flog2 m k u) ∧
    FloatAnswer (.fsin cos m r) m r s f t (fun k => fsin cos m k u) ∧ FloatAnswer (.frnd m x r) m r s f t (fun k => frnd m x k u) ∧
    FloatAnswer (.fmin r) .rne r s f t (fun _ => Fmt.fp32.minmax false u v) ∧
    FloatAnswer (.fmax r) .rne r s f t (fun _ => Fmt.fp32.minmax true u v) ∧
    FloatAnswer (.fabs r) .rne r s f t (fun _ => Fmt.fp32.signOp false u) ∧
    FloatAnswer (.fneg r) .rne r s f t (fun _ => Fmt.fp32.signOp true u) ∧
    FloatAnswer (.frcpe r) .rne r s f t (fun _ => frcpe u) ∧ FloatAnswer (.frsqe r) .rne r s f t (fun _ => frsqe u)

/-- A finite non-zero value divided by zero gives an infinity of the product of the signs and sets DZ; zero times infinity sets NV
in FFMA whatever c is; the square root of -0 is -0 without a flag; FMIN and FMAX return the other operand for one NaN and the
canonical NaN for two; FABS and FNEG change only the sign of an operand that is no NaN and set nothing; FRSQE(2.0) is
0x3F35_0000 and FRSQE(9.0) is 0x3EAA_B000, each with NX; one LFSR step from 0x5A3C gives 0xAD1E and no step from a non-zero
state gives 0. (R50, R51, R52, R55, R108, R109) -/
def Obligations.FloatSpecialCases : Prop :=
  (∀ (m : Rnd) (k : Nat) (sa sb : Bool) (i : Nat) (e e' : Int), i ≠ 0 →
      Fmt.fp32.div m k (.fin sa i e) (.fin sb 0 e') = ⟨Fmt.fp32.infinity (sa != sb), stDZ⟩) ∧
    (∀ (m : Rnd) (k : Nat) (sa sb : Bool) (e : Int) (c : FVal), (Fmt.fp32.fma m k (.fin sa 0 e) (.inf sb) c).flags &&& stNV = stNV) ∧
    (∀ (m : Rnd) (k : Nat), Fmt.fp32.sqrt m k (Fmt.fp32.decode 0x80000000) = ⟨0x80000000, 0⟩) ∧
    (∀ (mx : Bool) (x y : Nat), x < 2 ^ 32 → y < 2 ^ 32 → (Fmt.fp32.decode x).isNan = true → (Fmt.fp32.decode y).isNan = true →
      (Fmt.fp32.minmax mx x y).bits = Fmt.fp32.canonicalNan) ∧
    (∀ (mx : Bool) (x y : Nat), x < 2 ^ 32 → y < 2 ^ 32 → (Fmt.fp32.decode x).isNan = true → (Fmt.fp32.decode y).isNan = false →
      (Fmt.fp32.minmax mx x y).bits = y ∧ (Fmt.fp32.minmax mx y x).bits = y) ∧
    (∀ x : Nat, x < 2 ^ 32 → (Fmt.fp32.decode x).isNan = false →
      Fmt.fp32.signOp false x = ⟨x % 2 ^ 31, 0⟩ ∧ Fmt.fp32.signOp true x = ⟨(x + 2 ^ 31) % 2 ^ 32, 0⟩) ∧
    frsqe 0x40000000 = ⟨0x3F350000, stNX⟩ ∧ frsqe 0x41100000 = ⟨0x3EAAB000, stNX⟩ ∧
    lfsrStep 0x5A3C = 0xAD1E ∧ ∀ q : BitVec 16, q ≠ 0 → lfsrStep q ≠ 0

/-- HADD, HSUB, HMUL and HFMA answer half by half with the exact result of the halves rounded once by their mode in FP16 or BF16;
HMIN, HMAX, HABS and HNEG as FMIN, FMAX, FABS and FNEG in that format; HCMP gives 0xFFFF or 0; HSEL gives port 0 where port 2 is
not zero and port 1 elsewhere. Inactive halves are zero and set no flag; under SR each active half steps the LFSR once, lane 0
first. HDOT2 with an active c and a lane active on both ports answers with c plus the exact products of those lanes, rounded
once to FP32, and is dormant otherwise. HMASK answers with port 0 and the lanes active on ports 0 and 1 whose lane of port 1 is
not zero, the others zero, and is dormant when none is left. (R32, R50, R55, R112, R113, R114, R115) -/
def Obligations.PackedHalf : Prop :=
  (∀ (bf : Bool) (m : Rnd) (c : FCond) (r : Shell) (s : State) (f : Firing) (t : State), Fires s r f t → (t.opnds f r).lm ≠ 0 →
    let x (p l : Nat) : FVal := halfOf bf (f.port r p) l
    let u (p l : Nat) : Nat := (halfAt (f.port r p) l).toNat
    HalfAnswer (.hadd bf m r) m r s f t (fun l k => (Fmt.half bf).add m k (x 0 l) (x 1 l)) ∧
    HalfAnswer (.hsub bf m r) m r s f t (fun l k => (Fmt.half bf).sub m k (x 0 l) (x 1 l)) ∧
    HalfAnswer (.hmul bf m r) m r s f t (fun l k => (Fmt.half bf).mul m k (x 0 l) (x 1 l)) ∧
    HalfAnswer (.hfma bf m r) m r s f t (fun l k => (Fmt.half bf).fma m k (x 0 l) (x 1 l) (x 2 l)) ∧
    HalfAnswer (.hmin bf r) .rne r s f t (fun l _ => (Fmt.half bf).minmax false (u 0 l) (u 1 l)) ∧
    HalfAnswer (.hmax bf r) .rne r s f t (fun l _ => (Fmt.half bf).minmax true (u 0 l) (u 1 l)) ∧
    HalfAnswer (.habs bf r) .rne r s f t (fun l _ => (Fmt.half bf).signOp false (u 0 l)) ∧
    HalfAnswer (.hneg bf r) .rne r s f t (fun l _ => (Fmt.half bf).signOp true (u 0 l)) ∧
    HalfAnswer (.hcmp bf c r) .rne r s f t (fun l _ =>
      ⟨if FCond.holds c (x 0 l) (x 1 l) then 0xFFFF else 0, if (x 0 l).isSnan || (x 1 l).isSnan then stNV else 0⟩) ∧
    HalfAnswer (.hsel bf r) .rne r s f t (fun l _ => ⟨if u 2 l ≠ 0 then u 0 l else u 1 l, 0⟩)) ∧
  ∀ (bf : Bool) (m : Rnd) (r : Shell) (s : State) (f : Firing) (t : State), Fires s r f t →
    let on (l : Nat) : Bool := (f.port r 0).lmask.getLsbD l && (f.port r 1).lmask.getLsbD l
    let ls := [0, 1].filter on
    let c := fpOf (f.port r 2)
    let prods := ls.map fun l => FVal.mul (halfOf bf (f.port r 0) l) (halfOf bf (f.port r 1) l)
    let ops := ls.flatMap fun l => [halfOf bf (f.port r 0) l, halfOf bf (f.port r 1) l]
    let keep (l : Nat) : Bool := on l && halfAt (f.port r 1) l != 0
    ((f.port r 2).isDormant = false → ls ≠ [] →
      FloatAnswer (.hdot2 bf m r) m r s f t (fun k => Fmt.fp32.sum m k (c :: ops) (c :: prods.map (·.1)) (prods.any (·.2)))) ∧
    (((f.port r 2).isDormant = true ∨ ls = []) → exec (.hdot2 bf m r) s = .next (t.sendBoth f r .dormant)) ∧
    ((keep 0 || keep 1) = true → ∃ v : Word,
      exec (.hmask bf r) s = .next (t.emitComp f r (some { v := v, lm := BitVec.ofBool (keep 1) ++ BitVec.ofBool (keep 0) })) ∧
      ∀ l, l < 2 → v.extractLsb' (16 * l) 16 = if keep l then halfAt (f.port r 0) l else 0) ∧
    ((keep 0 || keep 1) = false → exec (.hmask bf r) s = .next (t.sendBoth f r .dormant))

/-- ICMP answers with the predicate of its condition on ports 0 and 1; ICMPV with all ones in each lane where the condition holds
and zero elsewhere, as one 32-bit lane or as two 16-bit lanes. FCMP answers with the predicate and FCMPV with all ones or zero
for the FP32 condition; both set NV for a signalling NaN operand and no other bit. FCLASS answers with the class word of port 0,
and SEL with port 0 where P is 1 and port 1 where it is 0. (R32, R51, R83, R103, R104, R105) -/
def Obligations.Compares : Prop :=
  ∀ (c : ICond) (d : FCond) (r : Shell) (s : State) (f : Firing) (t : State), Fires s r f t →
    (LanesOpen .i32 (t.opnds f r) →
      LaneAnswer (.icmpv c false r) .i32 r s f t (fun w x y _ => if condHolds c x y then BitVec.allOnes w else 0)) ∧
    (LanesOpen .i16x2 (t.opnds f r) →
      LaneAnswer (.icmpv c true r) .i16x2 r s f t (fun w x y _ => if condHolds c x y then BitVec.allOnes w else 0)) ∧
    (Whole (t.opnds f r) →
      let a := fpOf (f.port r 0)
      let b := fpOf (f.port r 1)
      let nv : Sticky := if a.isSnan || b.isSnan then stNV else 0
      WordAnswer (.icmp c r) r s f t (if condHolds c (f.port r 0).value (f.port r 1).value then 1 else 0) ∧
      FloatAnswer (.fcmp d r) .rne r s f t (fun _ => ⟨if FCond.holds d a b then 1 else 0, nv⟩) ∧
      FloatAnswer (.fcmpv d r) .rne r s f t (fun _ => ⟨if FCond.holds d a b then 0xFFFFFFFF else 0, nv⟩) ∧
      WordAnswer (.fclass r) r s f t (BitVec.ofNat 32 (fclass (f.port r 0).value.toNat)) ∧
      WordAnswer (.sel r) r s f t (if (f.p3.getD {}).value.getLsbD 0 then (f.port r 0).value else (f.port r 1).value))

/-- CVTIF and CVTFI convert one 32-bit value or, with the half variant, each active half, rounded by their mode and clamped to the
integer range as R117 gives; CVTFF converts each active half between BF16 and FP16; UNPKH widens the selected active half
exactly and is dormant when it is inactive; SCQ answers with the E8M0 scale of its FP32 operand and SCDQ with its operand times,
or with the quotient form divided by, the scale in the low byte of port 1, rounded once. (R32, R61, R63, R116, R117, R118, R121) -/
def Obligations.Conversions : Prop :=
  ∀ (uns quot hi bf to16 : Bool) (m : Rnd) (q : ScqFmt) (r : Shell) (s : State) (f : Firing) (t : State), Fires s r f t →
    let a := (f.port r 0).value
    let u (l : Nat) : BitVec 16 := halfAt (f.port r 0) l
    (Whole (t.opnds f r) →
      FloatAnswer (.cvtif false uns m r) m r s f t (fun k => fromInt .fp32 m k (if uns then a.toNat else a.toInt)) ∧
      FloatAnswer (.cvtfi false uns m r) m r s f t (fun k =>
        let z := toInt .fp32 m k (if uns then 0 else -2 ^ 31) (if uns then 2 ^ 32 - 1 else 2 ^ 31 - 1) a.toNat
        ⟨(BitVec.ofInt 32 z.1).toNat, z.2⟩) ∧
      FloatAnswer (.scq q r) .rne r s f t (fun _ => ⟨(scq q a.toNat).1, (scq q a.toNat).2⟩) ∧
      FloatAnswer (.scdq quot m r) m r s f t (fun k => scdq quot m k a.toNat ((f.port r 1).value.toNat % 256))) ∧
    ((t.opnds f r).lm ≠ 0 →
      HalfAnswer (.cvtif true uns m r) m r s f t (fun l k => fromInt .fp16 m k (if uns then (u l).toNat else (u l).toInt)) ∧
      HalfAnswer (.cvtfi true uns m r) m r s f t (fun l k =>
        let z := toInt .fp16 m k (if uns then 0 else -2 ^ 15) (if uns then 2 ^ 16 - 1 else 2 ^ 15 - 1) (u l).toNat
        ⟨(BitVec.ofInt 16 z.1).toNat, z.2⟩) ∧
      HalfAnswer (.cvtff to16 m r) m r s f t (fun l k =>
        if to16 then convert .bf16 .fp16 m false k (u l).toNat else convert .fp16 .bf16 m false k (u l).toNat)) ∧
    ((f.port r 0).lmask.getLsbD hi.toNat = true →
      FloatAnswer (.unpkh hi bf r) .rne r s f t (fun _ => convert (.half bf) .fp32 .rne false 0 (u hi.toNat).toNat)) ∧
    ((f.port r 0).lmask.getLsbD hi.toNat = false → exec (.unpkh hi bf r) s = .next (t.sendBoth f r .dormant))

/-- (The order and number of the SR steps is the model's choice, log 81.) PACKH rounds the FP32 words of ports 0 and 1 into halves 0
and 1; CVTF8 rounds the four halves of its ports, or with FROM = 1 their two FP32 words, into bytes 0 to 3; TWENC encodes the
four halves as TW8. Each place of an active operand holds its conversion and each other place zero; a place rounds, under SR,
with the LFSR value after one step for each active place before it and one for itself. The result is dormant only when both
operands are dormant, and its lane mask has half h for an operand h that is not dormant (FROM = 1: half 0 alone). CVT8F and
TWDEC turn the two bytes of the selected half of port 0 into two halves, the lower byte into half 0: CVT8F exactly, TWDEC as the
byte's number of 64ths; with that half inactive they are dormant. (R32, R55, R61, R62, R64, R65, R118, R119, R120, R122) -/
def Obligations.PackedConversions : Prop :=
  ∀ (bf e5 sat hi : Bool) (m : Rnd) (r : Shell) (s : State) (f : Firing) (t : State), Fires s r f t →
    let op (l : Nat) : Tok := f.port r l
    let lit (l : Nat) : Bool := !(op l).isDormant
    let half (l : Nat) : Nat := (halfAt (op (l / 2)) (l % 2)).toNat
    let on (l : Nat) : Bool := (op (l / 2)).lmask.getLsbD (l % 2)
    let k (act : Nat → Bool) (l : Nat) : Nat := roundingNo t f (if m = .sr then activeBefore act l else 0)
    let lm : BitVec 2 := BitVec.ofBool (lit 1) ++ BitVec.ofBool (lit 0)
    let byte (l : Nat) : Nat := ((halfAt (f.port r 0) hi.toNat).extractLsb' (8 * l) 8).toNat
    let tw (l : Nat) : FRes := (Fmt.half bf).round .rne 0 (decide (tw8Decode (byte l) < 0)) (tw8Decode (byte l)).natAbs 64
    let c8 (l : Nat) : FRes := convert (.fp8 e5) .fp16 .rne false 0 (byte l)
    ((lit 0 || lit 1) = true →
      (∃ (v : Word) (st : Sticky) (n : Nat), exec (.packh bf m r) s = .next (t.emitComp f r (some ⟨v, lm, st, n⟩)) ∧
        ∀ l, l < 2 → v.extractLsb' (16 * l) 16 =
          if lit l then BitVec.ofNat 16 (convert .fp32 (.half bf) m false (k lit l) (op l).value.toNat).bits else 0) ∧
      (∃ (v : Word) (st : Sticky) (n : Nat), exec (.cvtf8 e5 sat m true r) s = .next (t.emitComp f r (some ⟨v, 1, st, n⟩)) ∧
        ∀ l, l < 4 → v.extractLsb' (8 * l) 8 =
          if l < 2 && lit l then BitVec.ofNat 8 (convert .fp32 (.fp8 e5) m sat (k lit l) (op l).value.toNat).bits else 0) ∧
      (∃ (v : Word) (st : Sticky) (n : Nat), exec (.cvtf8 e5 sat m false r) s = .next (t.emitComp f r (some ⟨v, lm, st, n⟩)) ∧
        ∀ l, l < 4 → v.extractLsb' (8 * l) 8 =
          if on l then BitVec.ofNat 8 (convert .fp16 (.fp8 e5) m sat (k on l) (half l)).bits else 0) ∧
      ∃ (v : Word) (st : Sticky), exec (.twenc bf r) s = .next (t.emitComp f r (some ⟨v, lm, st, 0⟩)) ∧
        ∀ l, l < 4 → v.extractLsb' (8 * l) 8 = if on l then BitVec.ofNat 8 (tw8Encode ((Fmt.half bf).decode (half l))).1 else 0) ∧
    ((lit 0 || lit 1) = false →
      exec (.packh bf m r) s = .next (t.sendBoth f r .dormant) ∧ exec (.cvtf8 e5 sat m true r) s = .next (t.sendBoth f r .dormant) ∧
      exec (.cvtf8 e5 sat m false r) s = .next (t.sendBoth f r .dormant) ∧ exec (.twenc bf r) s = .next (t.sendBoth f r .dormant)) ∧
    ((f.port r 0).lmask.getLsbD hi.toNat = true →
      exec (.cvt8f e5 hi r) s = .next (t.emitComp f r (some
        { v := BitVec.ofNat 16 (c8 1).bits ++ BitVec.ofNat 16 (c8 0).bits, st := (c8 0).flags ||| (c8 1).flags })) ∧
      exec (.twdec bf hi r) s = .next (t.emitComp f r (some
        { v := BitVec.ofNat 16 (tw 1).bits ++ BitVec.ofNat 16 (tw 0).bits, st := (tw 0).flags ||| (tw 1).flags }))) ∧
    ((f.port r 0).lmask.getLsbD hi.toNat = false →
      exec (.cvt8f e5 hi r) s = .next (t.sendBoth f r .dormant) ∧ exec (.twdec bf hi r) s = .next (t.sendBoth f r .dormant))

/-- With k the token of port 0, dormant or not, and P the predicate (a dormant one counts as 0): COPY and JOIN send k to both
destinations; STEER sends k to A alone when P is 1 and to B alone when it is 0, with .NUL also NULL to the other; GATE sends k
to both when P is 1 and otherwise nothing, with .NUL NULL; SINK sends nothing; NULLOUT sends NULL to both. (R32, R124, R126,
R127) -/
def Obligations.FlowPass : Prop :=
  ∀ (nul : Bool) (r : Shell) (s : State) (f : Firing) (t : State), Fires s r f t →
    let k := f.port r 0
    let p : Bool := match f.p3 with
      | some q => q.isActive && q.value.getLsbD 0
      | none => false
    exec (.copy r) s = .next (t.sendBoth f r k) ∧ exec (.join r) s = .next (t.sendBoth f r k) ∧ exec (.sink r) s = .next t ∧
    exec (.nullout r) s = .next (t.sendBoth f r .null) ∧
    exec (.steer nul r) s = .next (if p then (if nul then t.sendTwo f r k .null else t.send f false r.dsta k)
      else (if nul then t.sendTwo f r .null k else t.send f true r.dstb k)) ∧
    exec (.gate nul r) s = .next (if p then t.sendBoth f r k else if nul then t.sendBoth f r .null else t)

/-- MERGE.PICK sends the token whose partner is NULL, dormant or not, and takes a count-mismatch fault at port 1 when neither is.
MERGE.PRED takes its predicate with the token it selects, port 0 for 1 and port 1 for 0, and leaves the other where it is: it
sends that token, NULL for a NULL on either, and EOS for three EOS (an EOS predicate takes all three ports). MERGE.ANY takes the
older of the two heads whose port has no EOS on record: it sends a token that is no EOS, records the first EOS, and at the
second sends one EOS and clears the record; where the store has no entry for the record, it takes the fault of R44. A MERGE.PRED
in a dataflow tile fires the set that the store has matched. (R34, R39, R44, R128) -/
def Obligations.MergeForms : Prop :=
  ∀ (r : Shell) (s : State),
    (∀ (f : Firing) (t : State), s.gather r = some (f, t) → (∀ e ∈ f.toks, e.2.flag ≠ .eos) →
      ((f.port r 0).flag = .null → exec (.merge .pick r) s = .next (t.sendBoth f r (f.port r 1))) ∧
      ((f.port r 0).flag ≠ .null → (f.port r 1).flag = .null → exec (.merge .pick r) s = .next (t.sendBoth f r (f.port r 0))) ∧
      ((f.port r 0).flag ≠ .null → (f.port r 1).flag ≠ .null → exec (.merge .pick r) s = .next ((t.countFault f 1).getD s.park))) ∧
    (∀ (f : Firing) (t : State) (p : Tok),
      ((∃ h x y, s.site = .elem h x y ∧ s.gatherMerge h x y = some (f, t)) ∨ (∃ n node tag, s.site = .inst n node tag ∧ s.gather r = some (f, t))) →
      f.p3 = some p →
      let k : Nat := if p.isActive && p.value.getLsbD 0 then 0 else 1
      ((∀ e ∈ f.toks, e.2.flag = .eos) → exec (.merge .pred r) s = .next (t.sendBoth f r .eos)) ∧
      (p.flag ≠ .eos → (f.port r k).flag ≠ .eos → exec (.merge .pred r) s =
        .next (t.sendBoth f r (if p.flag = .null ∨ (f.port r k).flag = .null then .null else f.port r k)))) ∧
    (∀ (h x y : Nat) (g : Forme) (f : Firing) (t : State), s.forme? h = some g → s.gatherMerge h x y = some (f, t) →
      ∃ p, (g.run.core.elem x y).head? 3 f.rt = some p ∧
        let k : Nat := if p.tok.isActive && p.tok.value.getLsbD 0 then 0 else 1
        (p.tok.flag ≠ .eos → ∃ q, (g.run.core.elem x y).head? k f.rt = some q ∧ f.toks = [(k, q.tok), (3, p.tok)] ∧
          ∀ g', t.forme? h = some g' → (g'.run.core.elem x y).queue (1 - k) = (g.run.core.elem x y).queue (1 - k)) ∧
        (p.tok.flag = .eos → f.toks.map (·.1) = [0, 1, 3])) ∧
    (∀ (h x y k : Nat) (g : Forme) (f : Firing) (t : State), s.forme? h = some g → s.gatherAny h x y = some (k, f, t) →
      k < 2 ∧ (g.rtState x y f.rt).flags.getLsbD k = false ∧ ∃ q, (g.run.core.elem x y).head? k f.rt = some q ∧ f.toks = [(k, q.tok)] ∧
        ∀ rt l o, l < 2 → (g.rtState x y rt).flags.getLsbD l = false → (g.run.core.elem x y).head? l rt = some o → q.age ≤ o.age) ∧
    (∀ (n node k : Nat) (tag : Tag) (f : Firing) (t : State), s.anyInst n node tag = some (k, f, t) →
      let port (i : Inst) : Nat := if i.p0.isSome then 0 else 1
      let taken (l : Nat) : Bool := ((s.tile n).counter node tag).flags.getLsbD l
      taken k = false ∧ ∃ q ∈ (s.tile n).ready, q.node = node ∧ q.tag = tag ∧ k = port q ∧ f.p0 = q.p0 ∧ f.p1 = q.p1 ∧
        ∀ o ∈ (s.tile n).ready, o.node = node → o.tag = tag → taken (port o) = false → q.age ≤ o.age) ∧
    ∀ (k : Nat) (f : Firing) (t : State),
      ((∃ h x y, s.site = .elem h x y ∧ s.gatherAny h x y = some (k, f, t)) ∨
        (∃ n node tag, s.site = .inst n node tag ∧ s.anyInst n node tag = some (k, f, t))) →
      let mine : BitVec 4 := if k = 0 then 1 else 2
      ((f.port r k).flag ≠ .eos → exec (.merge .any r) s = .next (t.sendBoth f r (f.port r k))) ∧
      ((f.port r k).flag = .eos → (t.kept f).2.getLsbD (if k = 0 then 1 else 0) = false →
        (f.pinned = true ∨ t.homeReady (f.tile / 32) 0 (f.tile / 32) = true) →
        exec (.merge .any r) s = .next (if t.canKeep f then t.keep f (t.kept f).1 ((t.kept f).2 ||| mine) else (t.spillFault f k).getD s.park)) ∧
      ((f.port r k).flag = .eos → (t.kept f).2.getLsbD (if k = 0 then 1 else 0) = true →
        exec (.merge .any r) s = .next ((t.keep f (t.kept f).1 ((t.kept f).2 &&& ~~~3)).sendBoth f r .eos))

/-- CONST with a trigger sends its value for every trigger that is no NULL, EOS or dormant token. CONST and REPEAT without ports
fire once in a live forme. REPEAT and SEQ start a stream of N values from V by STEP, REPEAT with STEP 0; a galley instance sends
all of them and with .EOS one EOS, each after the first marked as a repetition of the first; an element sends the first at once,
then at each firing its next value and, after the last, the EOS of .EOS. EOSOUT without P turns any token into EOS and with P
passes the token and adds EOS when P is 1. EOSWAIT counts every token that is not EOS and at EOS sends the count to A, and to B
the count or with .FWD EOS, and starts again from 0; where the store has no entry for the count, it takes the fault of R44. In a
sealed round no source without ports sends on (R185; the model's reading, log 89). (R44, R126, R129, R130, R145) -/
def Obligations.Sources : Prop :=
  (∀ (v raw : BitVec 32) (eos : Bool) (r : Shell) (s : State) (f : Firing) (t : State), FiresAwake s r f t → f.pinned = false → s.emitting = none →
      r.inmask ≠ 0 →
      exec (.const v r) s = .next (t.sendBoth f r (.data v)) ∧
      (let n := (f.port r 1).value.toNat
       let v := (f.port r 0).value
       let nth (i : Nat) : Firing := { f with again := if i = 0 then none else some (.data v) }
       let all (step : Word) : State := (List.range n).foldl (fun u i => u.sendBoth (nth i) r (.data (v + BitVec.ofNat 32 i * step))) t
       exec (.repeatN eos raw r) s = .next (if eos then (all 0).sendBoth (nth n) r .eos else all 0) ∧
       exec (.seq eos r) s = .next (if eos then (all (f.port r 2).value).sendBoth (nth n) r .eos else all (f.port r 2).value))) ∧
    (∀ (v : BitVec 32) (r : Shell) (s : State) (f : Firing) (t : State), FiresAwake s r f t → f.pinned = true → r.inmask ≠ 0 →
      exec (.const v r) s = .next (t.sendBoth f r (.data v))) ∧
    (∀ (eos : Bool) (raw : BitVec 32) (r : Shell) (s : State) (f : Firing) (t : State) (g : Forme), FiresAwake s r f t → f.pinned = true →
      s.emitting = none → t.forme? f.h = some g → r.inmask ≠ 0 →
      let n := (f.port r 1).value.toNat
      let first (step : Word) : State := if n = 0 && !eos then t else
        let q := t.setElem f.h { g.run.core.elem f.x f.y with emit := some ⟨f.rt, n, (f.port r 0).value, step, eos⟩ }
        (q.emitNext f.h f.x f.y r).getD q
      exec (.repeatN eos raw r) s = .next (first 0) ∧ exec (.seq eos r) s = .next (first (f.port r 2).value)) ∧
    (∀ (v raw : BitVec 32) (eos : Bool) (r : Shell) (s : State) (h x y : Nat) (g g' : Forme), s.site = .elem h x y → s.forme? h = some g →
      g.status = .live → g.mark = none → (g.run.core.elem x y).fired = false → (g.run.core.elem x y).emit = none → r.inmask = 0 →
      let f : Firing := { pinned := true, h := h, x := x, y := y, ctx := g.ctx, part := g.part, die := g.die }
      let t := s.setElem h { g.run.core.elem x y with fired := true }
      exec (.const v r) s = .next (t.sendBoth f r (.data v)) ∧
      (t.forme? h = some g' →
        let n := raw.toNat / 2 ^ 16
        let q := t.setElem h { g'.run.core.elem x y with emit := some ⟨0, n, BitVec.ofNat 32 (raw.toNat % 2 ^ 16), 0, eos⟩ }
        exec (.repeatN eos raw r) s = .next (if n = 0 && !eos then t else (q.emitNext h x y r).getD q))) ∧
    (∀ (raw : BitVec 32) (eos : Bool) (r : Shell) (s : State) (h x y : Nat) (g : Forme) (m : Emit), s.site = .elem h x y → s.forme? h = some g →
      g.status = .live → g.mark = none → g.run.core.unblocked (.elem x y) = true → (g.run.core.elem x y).emit = some m →
      (g.sealed = true → expectedPorts r ≠ []) →
      let e := g.run.core.elem x y
      let f : Firing := { pinned := true, h := h, x := x, y := y, rt := m.rt, ctx := g.ctx, part := g.part, die := g.die }
      let rest := s.setElem h { e with emit := if m.left = 1 && !m.eos then none else some { m with left := m.left - 1, next := m.next + m.step } }
      let ended := s.setElem h { e with emit := none }
      let next : Out := if m.left = 0 then .next (if m.eos then ended.sendBoth f r .eos else ended) else .next (rest.sendBoth f r (.data m.next))
      exec (.repeatN eos raw r) s = next ∧ exec (.seq eos r) s = next) ∧
    (∀ (raw : BitVec 32) (eos : Bool) (r : Shell) (s : State) (h x y : Nat) (g : Forme) (m : Emit), s.site = .elem h x y → s.forme? h = some g →
      g.sealed = true → expectedPorts r = [] → (g.run.core.elem x y).emit = some m → exec (.repeatN eos raw r) s = .next s) ∧
    (∀ (r : Shell) (s : State) (f : Firing) (t : State), s.gather r = some (f, t) → r.pin = false →
      exec (.eosout r) s = .next (t.sendBoth f r .eos)) ∧
    (∀ (r : Shell) (s : State) (f : Firing) (t : State), Fires s r f t → r.pin = true →
      exec (.eosout r) s = .next (if f.pred then (t.sendBoth f r (f.port r 0)).sendBoth f r .eos else t.sendBoth f r (f.port r 0))) ∧
    ∀ (fwd : Bool) (r : Shell) (s : State) (f : Firing) (t : State), s.gather r = some (f, t) →
      ((f.port r 0).flag ≠ .eos → (f.pinned = true ∨ t.homeReady (f.tile / 32) 0 (f.tile / 32) = true) → exec (.eoswait fwd r) s =
        .next (if t.canKeep f then t.keep f ((t.kept f).1 + 1) (t.kept f).2 else (t.spillFault f 0).getD s.park)) ∧
      ((f.port r 0).flag = .eos → exec (.eoswait fwd r) s = .next ((t.keep f 0 (t.kept f).2).sendTwo f r (.data (t.kept f).1)
        (if fwd then .eos else .data (t.kept f).1)))

/-- A tag record whose set is no count mismatch takes the tag T of the firing (pooled its own, pinned that of its route-table entry)
and sends the token of port 0 under T': LOOPIN pushes a field of its width with START, NEXTI adds 1 to the innermost field
modulo its width, LOOPOUT pops it, a pinned CALL pushes SITE, a pooled CALL pushes DSTA and sends to the node that an active
port 1 names (an inactive one: only counted, for an EOS the model's choice, log 113), RET pops a 16-bit field and, pooled, sends
to the destination it held, pinned sends its value to B, GETTAG sends the selected part of T (of a cleared entry 0) as a value,
SETTAG sets a present field to an active port 1 value that fits, or the context to one it may name. An inactive port 1 of SETTAG
leaves T: NULL for a NULL, else dormant. Pooled, T' is the tag the results leave under, and what CALL and RET send waits for the
galley's commit whatever it names; pinned, T' is written to entry RT and the results leave under route tag RT. A push that does
not fit, a NEXTI or LOOPOUT without a field, a RET without a 16-bit one, a SETTAG of an absent field or too great a value, a
malformed result of a push, a pop or a SETTAG, and any but GETTAG at an entry without a tag, take a tag-overflow fault and send
nothing; a SETTAG.CTX of any other context takes a permission fault; while a fault has to wait, the state stays but for the mark
of an instance that was tried. (R36, R124, R131, R132, R133, R134, R137, R147) -/
def Obligations.TagSteps : Prop :=
  ∀ (r : Shell) (s : State) (f : Firing) (t : State), s.gather r = some (f, t) → (∀ k, f.verdict ≠ .mismatch k) →
    let k := f.port r 0
    let b := f.port r 1
    let under (rt : BitVec 4) (u : Tag) (x : Tok) : Out := .next (if f.pinned then (t.setRoute f.h rt ⟨true, u⟩).sendBoth { f with rt := rt } r x
      else t.sendBoth { f with out := u } r x)
    let faulted : Out := .next ((t.faultAt f 0 clsTag 0 (f.tokenPay 0)).getD s.park)
    let leaves (v : Tag) (d : BitVec 16) : Out := match t.galleyOf f with
      | none => .next t
      | some g => .next (t.setGalley f.tile { g with
          out := (g.out + 1) % 256
          outs := g.outs ++ [⟨f.node, false, { tag := v, port := d.extractLsb' 14 2, node := d.extractLsb' 0 14, hnd := g.hnd || f.hnd, tok := k
                                               src := .inst f.hdr f.tag }⟩] })
    (∀ (u : Tag) (rt : BitVec 4), t.tagOf f = some u →
      (∀ (wc : WidthCode) (start : BitVec 16), exec (.loopin wc start rt r) s =
        match pushTag u (WidthCode.width wc) start.toNat with
        | some v => under rt v k
        | none => faulted) ∧
      exec (.nexti rt r) s = (if fieldWidth u 0 = 0 then faulted else under rt (setField u 0 ((fieldVal u 0 + 1) % 2 ^ fieldWidth u 0)) k) ∧
      (∀ v, popTag u = some v → exec (.loopout rt r) s = under rt v k) ∧
      ((fieldWidth u 0 = 0 ∨ popTag u = none) → exec (.loopout rt r) s = faulted) ∧
      (∀ c : BitVec 16, f.pinned = true → exec (.call c rt r) s =
        match pushTag u 16 c.toNat with
        | some v => under rt v k
        | none => faulted) ∧
      (∀ v, fieldWidth u 0 = 16 → popTag u = some v →
        (f.pinned = false → exec (.ret rt r) s = leaves v (BitVec.ofNat 16 (fieldVal u 0))) ∧
        (f.pinned = true → exec (.ret rt r) s = .next ((t.setRoute f.h rt ⟨true, v⟩).sendTwo { f with rt := rt } r k
          (if k.flag = .eos then .eos else .data (BitVec.ofNat 32 (fieldVal u 0)))))) ∧
      ((fieldWidth u 0 ≠ 16 ∨ popTag u = none) → exec (.ret rt r) s = faulted) ∧
      (∀ sel, b.isActive = false → k.flag ≠ .eos →
        exec (.settag sel rt r) s = under rt u (if k.flag = .null ∨ b.flag = .null then .null else .dormant)) ∧
      (b.isActive = true →
        (∀ i : BitVec 3, exec (.settag (.field i) rt r) s =
          if fieldWidth u i.toNat = 0 ∨ 2 ^ fieldWidth u i.toNat ≤ b.value.toNat ∨ tagWf (setField u i.toNat b.value.toNat) = false then faulted
          else under rt (setField u i.toNat b.value.toNat) k) ∧
        let c := b.value.toNat % 2 ^ 12
        let v : Tag := BitVec.ofNat 64 (c * 2 ^ 52 + u.toNat % 2 ^ 52)
        (t.mayTag f c = true → exec (.settag .ctx rt r) s = if tagWf v then .next (t.sendBoth { f with out := v } r k) else faulted) ∧
        (t.mayTag f c = false → exec (.settag .ctx rt r) s = .next ((t.privFault f).getD s.park)))) ∧
    (∀ (c : BitVec 16) (rt : BitVec 4), f.pinned = false →
      (b.isActive = true → exec (.call c rt r) s =
        match pushTag f.tag 16 r.dsta.toNat with
        | some v => leaves v (b.value.extractLsb' 0 16)
        | none => faulted) ∧
      ∀ g, b.isActive = false → t.galleyOf f = some g → exec (.call c rt r) s = .next (t.setGalley f.tile { g with out := (g.out + 1) % 256 })) ∧
    (∀ sel : GetSel, exec (.gettag sel r) s =
      .next (t.sendBoth f r (if k.isActive then { k with value := getTag sel ((t.tagOf f).getD 0) } else k))) ∧
    (t.tagOf f = none → ∀ (wc : WidthCode) (start c : BitVec 16) (sel : SetSel) (rt : BitVec 4),
      exec (.loopin wc start rt r) s = faulted ∧ exec (.nexti rt r) s = faulted ∧ exec (.loopout rt r) s = faulted ∧
      exec (.call c rt r) s = faulted ∧ exec (.ret rt r) s = faulted ∧ exec (.settag sel rt r) s = faulted)

/-- Popping what was pushed gives the tag back: for a tag whose bits beyond its fields are zero, a width of 4, 8 or 16 bits and a
value that fits it, if the push succeeds then the innermost field of the new tag has that width and value, the pop of the new
tag is the old tag, the context of the tag is unchanged, and the new tag is well formed. A push on a well-formed tag overflows
exactly when all eight slots are present or the widths would pass 36 bits. The manual's example: tag 0x0050_0090_0000_0039 with
16 bits of 0 pushed is 0x0050_0270_0039_0000, which takes 8 bits more and no 16. (R36, R132) -/
def Obligations.TagFields : Prop :=
  (∀ (t u : Tag) (w v : Nat), (w = 4 ∨ w = 8 ∨ w = 16) → v < 2 ^ w → t.toNat % 2 ^ 36 < 2 ^ fieldLow t 8 → pushTag t w v = some u →
    fieldWidth u 0 = w ∧ fieldVal u 0 = v ∧ popTag u = some t ∧ tagCtx u = tagCtx t ∧ tagWf u = true) ∧
  (∀ (t : Tag) (w v : Nat), (w = 4 ∨ w = 8 ∨ w = 16) → tagWf t = true → (pushTag t w v = none ↔ fieldWidth t 7 ≠ 0 ∨ 36 < fieldLow t 8 + w)) ∧
  pushTag 0x0050_0090_0000_0039 16 0 = some 0x0050_0270_0039_0000 ∧ (pushTag 0x0050_0270_0039_0000 8 0).isSome = true ∧
  pushTag 0x0050_0270_0039_0000 16 0 = none

/-- A pinned WINDOW whose element holds one token, on port 0 and not EOS, with its count c below K, admits it: c rises by 1 and the
token is sent on; one that holds only a release token on port 1 with c above 0 lowers c by 1; a release with c = 0 is a count
mismatch at port 1; EOS passes when c is 0, and on port 1 is dropped. A pooled WINDOW whose one ready instance holds such a
token does the same with the count kept for its node and tag, and admits only on a tile without THROTTLE; where the store has no
entry for the count, it takes the fault of R44. A ROUTE whose port 0 has a token at its head that is no marker sends it under
the route tag of the entry with its tag, or of the lowest free entry of its mask, which then takes the tag. UNROUTE sends the
token of port 0 under the tag of its entry to the port and node of PDEST on the dataflow tile that DSTA names; an EOS frees the
entry; without a valid entry the token is dropped and reported as a stray token of that tile. In a round-mode forme either is
staged and happens at the round's commit, which the manual does not list among what is staged (log 27). A release lowers a
pooled count whose entry stays (R138; that a pooled WINDOW is an instance by itself is the model's reading, log 12); with the
memory of the tile's spill area not ready a firing that spills waits. (R44, R134, R135, R136, R138, R354) -/
def Obligations.WindowAndRoute : Prop :=
  (∀ (k : BitVec 8) (r : Shell) (s : State) (h x y : Nat) (g : Forme) (q : QTok), s.site = .elem h x y → s.forme? h = some g →
      g.mayFire x y = true → q.tok.flag ≠ .marker →
      let one (n : Nat) : Firing × State := s.takeAt g x y [n] q.rt
      let c : Word := (g.rtState x y q.rt).count
      ((g.run.core.elem x y).q0 = [q] → (g.run.core.elem x y).q1 = [] → q.tok.flag ≠ .eos → c.toNat < k.toNat →
        exec (.window k r) s = .next (((one 0).2.keep (one 0).1 (c + 1) (g.rtState x y q.rt).flags).sendBoth (one 0).1 r q.tok)) ∧
      ((g.run.core.elem x y).q0 = [q] → (g.run.core.elem x y).q1 = [] → q.tok.flag = .eos → c = 0 →
        exec (.window k r) s = .next (((one 0).2.keep (one 0).1 0 (g.rtState x y q.rt).flags).sendBoth (one 0).1 r q.tok)) ∧
      ((g.run.core.elem x y).q0 = [] → (g.run.core.elem x y).q1 = [q] → q.tok.flag ≠ .eos → c ≠ 0 →
        exec (.window k r) s = .next ((one 1).2.holdCounter (one 1).1 (c - 1) (g.rtState x y q.rt).flags)) ∧
      ((g.run.core.elem x y).q0 = [] → (g.run.core.elem x y).q1 = [q] → q.tok.flag ≠ .eos → c = 0 →
        exec (.window k r) s = .next (((one 1).2.countFault (one 1).1 1).getD s.park)) ∧
      ((g.run.core.elem x y).q0 = [] → (g.run.core.elem x y).q1 = [q] → q.tok.flag = .eos → exec (.window k r) s = .next (one 1).2)) ∧
    (∀ (k : BitVec 8) (r : Shell) (s : State) (n node : Nat) (tag : Tag) (i : Inst) (h : Nat) (g : Galley) (u : Tok), s.site = .inst n node tag →
      (s.tile n).ready = [i] → i.node = node → i.tag = tag → (s.tile n).header? node = some h → (s.tile n).galley? h tag = some g → u.flag ≠ .eos →
      s.homeReady (n / 32) 0 (n / 32) = true →
      let e := (s.tile n).counter node tag
      (i.p0 = some u → i.p1 = none → e.count.toNat < k.toNat → (s.tile n).marks.throttle = false → ∃ (f : Firing) (t : State), exec (.window k r) s =
        .next (if (s.tile n).counterFits (s.spillRoom n) node tag then (t.keep f (e.count + 1) e.flags).sendBoth f r u
          else (t.spillFault f 0).getD s.park) ∧ f.pinned = false ∧ f.tile = n ∧ f.node = node ∧ f.tag = tag ∧ f.out = tag ∧
          (t.tile n).ready = [] ∧ (t.tile n).entries = (s.tile n).entries ∧ t.mem = s.mem ∧ t.formes = s.formes) ∧
      (i.p0 = none → i.p1 = some u → e.count ≠ 0 → ∃ (f : Firing) (t : State), exec (.window k r) s = .next (t.holdCounter f (e.count - 1) e.flags) ∧ f.pinned = false ∧
        f.tile = n ∧ f.node = node ∧ f.tag = tag ∧ (t.tile n).ready = [] ∧ (t.tile n).entries = (s.tile n).entries ∧ t.mem = s.mem ∧ t.formes = s.formes)) ∧
    (∀ (mask : BitVec 16) (r : Shell) (s : State) (h x y : Nat) (g : Forme) (q : QTok) (l : List QTok) (rt : BitVec 4) (c : Core),
      s.site = .elem h x y → s.forme? h = some g → g.mayFire x y = true → (g.run.core.elem x y).q0 = q :: l → q.tok.flag ≠ .marker →
      g.run.core.bindTag mask q.tag = some (rt, c) →
      let f : Firing := { pinned := true, h := h, x := x, y := y, rt := rt, ctx := g.ctx, part := g.part, die := g.die }
      exec (.route mask r) s = .next ((s.setCore g (c.setElem { g.run.core.elem x y with q0 := l })).sendBoth f r q.tok)) ∧
    ∀ (pd : BitVec 16) (r : Shell) (s : State) (f : Firing) (t : State) (g : Forme) (i : Nat), s.gather r = some (f, t) →
      f.pinned = true → (∀ k, f.verdict ≠ .mismatch k) → t.forme? f.h = some g → g.dest f.x f.y r.dsta = .dftile i →
      let e := t.route f.h f.rt
      let k := f.port r 0
      let out : PTok := { tag := e.tag, port := pd.extractLsb' 14 2, node := pd.extractLsb' 0 14, tok := k }
      let u := if k.flag = .eos then t.setRoute f.h f.rt { e with valid := false } else t
      (e.valid = true → exec (.unroute pd r) s = .next (if g.cfg.stream then u.sendTile i out else u.stage f (.token i out))) ∧
      (e.valid = false → exec (.unroute pd r) s =
        .next (if g.cfg.stream then (t.stray f.part 1 (i % 32) out).getD s.park else t.stage f (.stray i out)))

/-- With an active trigger of value v, CTXNEW with v no more than 15, a priority no higher than its own, and bit 3 set only by a
system context, on a tile without THROTTLE and with a free id, reserves the lowest free id, notes the context for the galley's
commit and sends the id; without one of these it sends 0x8000_0000 plus the reason (3 the value, 2 THROTTLE, 1 no id, in this
order by the model's choice, log 112). CTXFREE sends 1 and notes the freeing for the commit when the context may be freed, else
its code. NEXTG counts once and passes its token; with P it sends the token to A and NULL to B when P is 1, the other way round
when it is 0, and a NULL or EOS set to both; that a NULL predicate beside a token that is not NULL does so is the model's choice
(log 76). Without an active trigger CTXNEW and CTXFREE pass the token on. (R87, R140, R141, R143) -/
def Obligations.ContextsAndNextg : Prop :=
  (∀ (r : Shell) (s : State) (f : Firing) (t : State), s.gather r = some (f, t) → (∀ k, f.verdict ≠ .mismatch k) →
      (f.port r 0).isActive = true →
      let v := (f.port r 0).value
      let me := t.ctxOf f
      let fail (n : Word) : Out := .next (t.sendBoth f r (.data (0x80000000 ||| n)))
      (v.getLsbD 3 = true → me.sys = false → exec (.ctxnew r) s = .next ((t.privFault f).getD s.park)) ∧
      ((v.getLsbD 3 = false ∨ me.sys = true) →
        ((15 < v.toNat ∨ me.prio.toNat < v.toNat % 8) → exec (.ctxnew r) s = fail 3) ∧
        (v.toNat ≤ 15 → v.toNat % 8 ≤ me.prio.toNat →
          ((t.tile f.tile).throttle = true → exec (.ctxnew r) s = fail 2) ∧
          ((t.tile f.tile).throttle = false → t.freeCtx = none → exec (.ctxnew r) s = fail 1) ∧
          ∀ (c : Nat) (g : Galley), (t.tile f.tile).throttle = false → t.freeCtx = some c → t.galleyOf f = some g →
            exec (.ctxnew r) s = .next (((t.setGalley f.tile { g with reserved := g.reserved ++ [c] }).addAct f
              { node := f.node, lsid := 0, instr := .ctxnew r, a := v, b := BitVec.ofNat 32 c }).sendBoth f r (.data (BitVec.ofNat 32 c))))) ∧
      (t.freeCode f (v.toNat % 4096) = 1 → exec (.ctxfree r) s = .next ((t.addAct f
        { node := f.node, lsid := 0, instr := .ctxfree r, a := BitVec.ofNat 32 (v.toNat % 4096) }).sendBoth f r (.data 1))) ∧
      (t.freeCode f (v.toNat % 4096) ≠ 1 → exec (.ctxfree r) s = .next (t.sendBoth f r (.data (BitVec.ofNat 32 (t.freeCode f (v.toNat % 4096))))))) ∧
    (∀ (r : Shell) (s : State) (f : Firing) (t : State), s.gather r = some (f, t) → (∀ k, f.verdict ≠ .mismatch k) →
      (f.port r 0).isActive = false → exec (.ctxnew r) s = .next (t.sendBoth f r (f.port r 0)) ∧ exec (.ctxfree r) s = .next (t.sendBoth f r (f.port r 0))) ∧
    ∀ (r : Shell) (s : State) (f : Firing) (t : State) (g : Galley), s.gather r = some (f, t) → (∀ k, f.verdict ≠ .mismatch k) →
      t.galleyOf f = some g →
      let u := t.setGalley f.tile { g with ng := g.ng + 1 }
      let k := f.port r 0
      exec (.nextg r) s = .next (if r.pin = false then u.sendBoth f r k
        else if k.flag = .null ∨ (f.p3.getD {}).flag = .null then u.sendBoth f r .null else if k.flag = .eos then u.sendBoth f r .eos
        else if f.pred then u.sendTwo f r k .null else u.sendTwo f r .null k)

/-- A pooled LD or LDI with an active address whose older store-kind records have all been seen and whose access translates sends
the loaded value, each byte from the youngest older uncommitted store of its context that wrote it, else from memory, sign- or
zero-extended; its address is k[KB] plus port 0 plus DISP, or the pair of ports 0 and 1 plus DISP. A pooled GATHER does so for
each active lane. Where the load would return a word that a younger load read before a write which a token of its own instance
acquires (R272), the instance of that younger load runs again from its inputs first, and the load goes with it when it is of
that instance (how it is brought about is the model's, log 99). KLD sends the half of its register after the older uncommitted
KST writes. PREF passes its token. (R149, R155, R156, R157, R160, R161, R272) -/
def Obligations.Loads : Prop :=
  (∀ (sz : Size) (sx : Bool) (disp : BitVec 24) (kb : BitVec 6) (r : Shell) (s : State) (f : Firing) (t : State) (g : Galley) (v : Nat), Fires s r f t →
      t.galleyOf f = some g →
      let x := (Addr.ofVa ((t.ctxOf f).k kb.toNat)).plus ((f.port r 0).value.toNat + disp.toInt)
      let y := (Addr.ofVa ((f.port r 1).value ++ (f.port r 0).value)).plus disp.toInt
      ((f.port r 0).isDormant = false → t.overtaken f g r.aux.toNat x (Size.bytes sz) = none →
        t.galleyLoad f g r.aux.toNat x (Size.bytes sz) = some (.ok v) →
        exec (.ld sz sx disp kb r) s = .next ((t.noteLoad f r.aux.toNat x (Size.bytes sz)).sendBoth f r (.data (extendTo sz sx v)))) ∧
      ((f.port r 0).isDormant = false → (f.port r 1).isDormant = false → t.overtaken f g r.aux.toNat y (Size.bytes sz) = none →
        t.galleyLoad f g r.aux.toNat y (Size.bytes sz) = some (.ok v) →
        exec (.ldi sz sx disp r) s = .next ((t.noteLoad f r.aux.toNat y (Size.bytes sz)).sendBoth f r (.data (extendTo sz sx v)))) ∧
      ∀ o : Galley, (f.port r 0).isDormant = false → t.overtaken f g r.aux.toNat x (Size.bytes sz) = some o → o.seq = g.seq →
        exec (.ld sz sx disp kb r) s = .next (t.runAgain f.tile o)) ∧
    (∀ (sz : Size) (sx : Bool) (raw : BitVec 32) (r : Shell) (s : State) (f : Firing) (t : State) (g : Galley) (vs : List (Nat × Nat)), Fires s r f t →
      f.pinned = false → t.galleyOf f = some g → (f.port r 0).isDormant = false →
      let ls := activeLanes sz (laneLm sz (f.port r 0).lmask)
      let la := ls.map fun l => (l, t.kAddr f (rawKb raw) (elemOf sz (f.port r 0).value l * Size.bytes sz) (rawDisp raw))
      (∀ e ∈ la, t.overtaken f g r.aux.toNat e.2 (Size.bytes sz) = none) → t.gatherLanes f g r.aux.toNat (Size.bytes sz) la = some (.ok vs) →
      exec (.gather sz sx raw r) s = .next ((la.foldl (fun u e => u.noteLoad f r.aux.toNat e.2 (Size.bytes sz)) t).sendBoth f r
        { value := if sz = .w32 then extendTo sz sx ((vs.map (·.2)).headD 0) else packLanes sz vs, lmask := laneLm sz (f.port r 0).lmask })) ∧
    (∀ (hi : Bool) (kn : BitVec 6) (r : Shell) (s : State) (f : Firing) (t : State) (g : Galley), Fires s r f t → t.galleyOf f = some g →
      (f.port r 0).isDormant = false → (t.tile f.tile).kldReady g f.node = true →
      exec (.kld hi kn r) s = .next (t.sendBoth f r (.data (((t.tile f.tile).kstBefore g f.node).foldl (fun v a => a.kstTo hi kn v)
        (((t.ctxOf f).k kn.toNat).extractLsb' (if hi then 32 else 0) 32))))) ∧
    ∀ (raw : BitVec 32) (r : Shell) (s : State) (f : Firing) (t : State), Fires s r f t → (f.port r 0).isDormant = false →
      exec (.pref raw r) s = .next (t.sendBoth f r (f.port r 0))

/-- A load of an instance that may issue, whose access translates to the physical address p, and whose context has no older
uncommitted store on the tile, returns the little-endian number of the bytes of memory at p; with one older uncommitted store of
exactly these bytes it returns that store's bytes. Where a younger load of the context has read the word already, it returns the
word as that load found it. While an older store-kind record of its context has not been seen, or a record with .ACQ that it
follows (of an earlier galley, or before it in its own) has not fired, it waits; of two records of a galley that do not both
carry an LSID, which comes first is the model's choice (log 77). (R5, R142, R153, R156, R268, R269) -/
def Obligations.LoadSeesMemory : Prop :=
  ∀ (s : State) (f : Firing) (g : Galley) (lsid size p tier : Nat) (x : Addr), size = 1 ∨ size = 2 ∨ size = 4 →
    s.translate f.part x size .read = .ok p tier →
    let d := s.tile f.tile
    (d.loadReady g lsid x size = false → s.galleyLoad f g lsid x size = none) ∧
    (∀ (o : Galley) (n : Nat) (i : Instr), o ∈ d.openOf (tagCtx g.tag) → o.seq < g.seq → n ∈ d.galleyNodes o.hdr → d.record? n = some i →
      Instr.acquires i = true → o.past.contains n = false → s.galleyLoad f g lsid x size = none) ∧
    (∀ (o : Galley) (n : Nat) (i : Instr), o ∈ d.openOf (tagCtx g.tag) → o.seq = g.seq → n ∈ d.galleyNodes o.hdr → d.record? n = some i →
      Instr.acquires i = true → o.past.contains n = false → d.comesBefore g.hdr n f.node = true → s.galleyLoad f g lsid x size = none) ∧
    (d.loadReady g lsid x size = true → d.mustFollow g f.node = false →
      (d.seenFor g lsid x = none →
        (d.olderStores g lsid = [] → s.galleyLoad f g lsid x size = some (.ok (s.readLe p size))) ∧
        ∀ a : Act, d.olderStores g lsid = [a] → a.obj = x.obj → a.off = x.off → a.size = size →
          s.galleyLoad f g lsid x size = some (.ok (a.a.toNat % 256 ^ size))) ∧
      ∀ v : Seen, d.seenFor g lsid x = some v →
        ((∀ e ∈ v.stores, ¬(e.1 < g.seq ∨ (e.1 = g.seq ∧ e.2.lsid < lsid))) → s.galleyLoad f g lsid x size =
          some (.ok (leNat ((List.range size).map fun k => v.mem.getD (x.off.toNat % 4 + k) 0)))) ∧
        ∃ o ∈ d.openOf (tagCtx g.tag), v ∈ o.seen ∧ (g.seq < o.seq ∨ (o.seq = g.seq ∧ lsid < v.lsid)) ∧ v.obj = x.obj ∧
          v.off = x.off.toNat / 4 * 4)

/-- A pooled ST or STI with active operands, and a pooled SCATTER for each lane active on both ports, notes its address, size and
value with its instance for the galley's commit, counts as its store-kind record seen, and counts its output tokens, which leave
after the commit; it writes no byte of memory now. KST counts, and notes its register half and value, or that it writes nothing
when its token is not active. (R144, R149, R156, R157, R158, R160) -/
def Obligations.StoresHeld : Prop :=
  (∀ (sz : Size) (disp : BitVec 24) (kb : BitVec 6) (r : Shell) (s : State) (f : Firing) (t : State), Fires s r f t → f.pinned = false →
      (f.port r 0).isDormant = false → (f.port r 1).isDormant = false →
      let u := t.seeStore f r.aux
      let x := u.kAddr f kb (f.port r 0).value.toNat disp
      let y := (Addr.ofVa ((f.port r 1).value ++ (f.port r 0).value)).plus disp.toInt
      let held (i : Instr) (a : Addr) (v : Word) : State := (u.addAct f { node := f.node, lsid := r.aux.toNat, instr := i, a := v, obj := a.obj
                                                                          off := a.off, size := Size.bytes sz, hnd := f.hnd }).countOuts f r
      exec (.st sz disp kb r) s = .next (held (.st sz disp kb r) x (f.port r 1).value) ∧
      ((f.port r 2).isDormant = false → exec (.sti sz disp r) s = .next (held (.sti sz disp r) y (f.port r 2).value)) ∧
      ∀ m, t.mem = m → (held (.st sz disp kb r) x (f.port r 1).value).mem = m) ∧
    (∀ (sz : Size) (raw : BitVec 32) (r : Shell) (s : State) (f : Firing) (t : State), Fires s r f t → f.pinned = false →
      (f.port r 0).isDormant = false → (f.port r 1).isDormant = false →
      let lm := laneLm sz ((f.port r 0).lmask &&& (f.port r 1).lmask)
      lm ≠ 0 →
      exec (.scatter sz raw r) s = .next (((activeLanes sz lm).foldl (fun u l =>
        let x := u.kAddr f (rawKb raw) (elemOf sz (f.port r 0).value l * Size.bytes sz) (rawDisp raw)
        u.addAct f { node := f.node, lsid := r.aux.toNat, instr := .scatter sz raw r, a := BitVec.ofNat 32 (elemOf sz (f.port r 1).value l)
                     obj := x.obj, off := x.off, size := Size.bytes sz, hnd := f.hnd }) (t.seeStore f r.aux)).countOuts f r)) ∧
    ∀ (hi : Bool) (kn : BitVec 6) (r : Shell) (s : State) (f : Firing) (t : State), s.gather r = some (f, t) →
      exec (.kst hi kn r) s = .next ((t.seeKst f).addAct f { node := f.node, lsid := 0, instr := .kst hi kn r, a := (f.port r 0).value
                                                             b := if (f.port r 0).isActive then 0 else 1 })

/-- With an address BASE plus port 0 that is aligned and lies in the visible bytes of the tile: TLD sends the extended value that
the tile shows there (in round mode the round-start one), and TST writes its value, in stream mode to the tile, in round mode to
the back half of the line where the staging area has room for it, and sends 0; without room it waits. A tile access that is
misaligned or out of bounds takes a bounds fault instead. A pinned GATHER reads each active lane so; a pinned SCATTER writes
each active lane as TST does. (R149, R150, R158, R159, R160, R252) -/
def Obligations.TileAccess : Prop :=
  ∀ (sz : Size) (sx : Bool) (base : BitVec 19) (dx dy : BitVec 6) (raw : BitVec 32) (r : Shell) (s : State) (f : Firing) (t : State) (g : Forme), Fires s r f t →
    f.pinned = true → t.forme? f.h = some g → (f.port r 0).isDormant = false →
    let n := Size.bytes sz
    let a := base.toNat + (f.port r 0).value.toNat
    let bay := tileBay f.x f.y dx dy
    let k := f.port r 0
    let v := f.port r 1
    let lm := laneLm sz (k.lmask &&& v.lmask)
    let lanes (m : BitVec 2) : List (Nat × Nat) := tileLanes (rawTileBase raw) sz k.value (activeLanes sz m)
    (a + n ≤ g.tileBytes → a % n = 0 →
      exec (.tld sz sx base dx dy r) s = .next (t.sendBoth f r (.data (extendTo sz sx (g.run.core.tileRead bay a n)))) ∧
      (v.isDormant = false → (g.cfg.stream = true ∨ t.stageRoom g.part n = true) → exec (.tst sz base dx dy r) s =
        .next ((t.setForme ((g.tileStore bay a (leBytes n v.value.toNat)).countStaged n)).sendBoth f r (.data 0))) ∧
      (v.isDormant = false → g.cfg.stream = false → t.stageRoom g.part n = false → exec (.tst sz base dx dy r) s = .next s.park)) ∧
    ((g.tileBytes < a + n ∨ a % n ≠ 0) →
      exec (.tld sz sx base dx dy r) s = .next ((t.accessFault f clsBounds a n 0).getD s.park) ∧
      (v.isDormant = false → exec (.tst sz base dx dy r) s = .next ((t.accessFault f clsBounds a n 1).getD s.park))) ∧
    ((∀ e ∈ lanes (laneLm sz k.lmask), e.2 + n ≤ g.tileBytes ∧ e.2 % n = 0) →
      let vs := (lanes (laneLm sz k.lmask)).map fun e => (e.1, g.run.core.tileRead (rawTileBay f raw) e.2 n)
      exec (.gather sz sx raw r) s = .next (t.sendBoth f r
        { value := if sz = .w32 then extendTo sz sx ((vs.map (·.2)).headD 0) else packLanes sz vs, lmask := laneLm sz k.lmask })) ∧
    (v.isDormant = false → lm ≠ 0 → (∀ e ∈ lanes lm, e.2 + n ≤ g.tileBytes ∧ e.2 % n = 0) →
      (g.cfg.stream = true ∨ t.stageRoom g.part (n * (lanes lm).length) = true) →
      exec (.scatter sz raw r) s = .next ((t.setForme (((lanes lm).foldl (fun (g : Forme) e =>
        g.tileStore (rawTileBay f raw) e.2 (leBytes n (elemOf sz v.value e.1))) g).countStaged (n * (lanes lm).length))).sendBoth f r (.data 0)))

/-- With the tile memories of the forme in the canonical form of the model: in a stream-mode forme a tile store of n bytes at
address a of a bay's tile makes those bytes read as stored, and every other byte of every tile reads as before. In a round-mode
forme it changes no byte that a tile read shows; the back half holds the stored bytes, and the rest of their line as the front
had it where the round had not written the line before. The tile memories stay canonical, and elements, AGs, links and
configuration are as they were. (R159, R251, R253) -/
def Obligations.TileStoreFrame : Prop :=
  ∀ (g : Forme) (bay a i : Nat) (b : List Byte), g.tilesCanonical = true → b ≠ [] → a / 128 = (a + b.length - 1) / 128 →
    let g' := g.tileStore bay a b
    let k := tileKey bay a
    (g.cfg.stream = true → Memory.read g'.run.core.tile i = if k ≤ i ∧ i < k + b.length then b.getD (i - k) 0 else Memory.read g.run.core.tile i) ∧
    (g.cfg.stream = false → g'.run.core.tile = g.run.core.tile ∧
      (i / 128 = k / 128 → Memory.read g'.run.core.back i = if k ≤ i ∧ i < k + b.length then b.getD (i - k) 0
        else if g.run.core.written.contains (k / 128) then Memory.read g.run.core.back i else Memory.read g.run.core.tile i) ∧
      (i / 128 ≠ k / 128 → Memory.read g'.run.core.back i = Memory.read g.run.core.back i)) ∧
    g'.tilesCanonical = true ∧ g'.run.core.elems = g.run.core.elems ∧ g'.run.core.ags = g.run.core.ags ∧ g'.run.core.links = g.run.core.links ∧ g'.cfg = g.cfg

/-- An SOPEN, SCLOSE, SSEEK, PSHIFT, PBOUND, PACT, PHALO, PFLIP or HANDOVER without a dormant operand, whose DSTA names an input of
an AG with a free entry, puts one control token with its operands into that input, and the AG then takes what it can take. PMARK
passes its token to B, moves its word index on, and marks through the AG; PCNT adds the non-zero sites of an active word to its
total, which starts again at word index 0, and passes the word to the AG for its block's counter; at EOS it sends the total to
B, and an EOS at word index 0 goes to the AG too, which clears the counts at the first token; PRULE sends port 0 to A and NULL
to B when its mask has the class of port 1, and the other way round otherwise. (R162, R163, R165, R166, R168, R169, R170, R171,
R172, R173, R174, R187) -/
def Obligations.AgControls : Prop :=
  (∀ (sz : Size) (wp dir all on : Bool) (n m pid : BitVec 3) (dx dy : BitVec 6) (hw : BitVec 5) (kind edge : BitVec 2) (edges : BitVec 4) (r : Shell)
      (s : State) (f : Firing) (t : State) (g : Forme) (bay port : Nat), FiresAwake s r f t → t.forme? f.h = some g →
      g.dest f.x f.y r.dsta = .ag bay port → ((g.run.core.ag bay).input port).length < 8 →
      let v := (f.port r 1).value
      let joins (i : Instr) (b c : Word) : Prop := JoinsAg i r s f t b c g bay port
      joins (.sopen sz wp dir n r) v (f.port r 2).value ∧ joins (.sclose n r) 0 0 ∧ joins (.sseek n r) 0 0 ∧ joins (.pshift dy dx pid n r) 0 0 ∧
      joins (.pbound all n hw kind edges r) 0 0 ∧ joins (.pact on all n r) 0 0 ∧ joins (.phalo hw edge pid r) v 0 ∧ joins (.pflip pid r) 0 0 ∧
      joins (.handover n m r) 0 0) ∧
    (∀ (pid : BitVec 3) (r : Shell) (s : State) (f : Firing) (t : State) (g : Forme), s.gather r = some (f, t) → t.forme? f.h = some g →
      let q := g.rtState f.x f.y f.rt
      let step (i : Word) : State := t.setRt f.h f.x f.y { q with index := i }
      ((f.port r 0).flag = .eos → exec (.pmark pid r) s = .next ((step 0).send f true r.dstb (f.port r 0)) ∧
        let w := t.setRt f.h f.x f.y { q with index := 0, value := 0 }
        (q.index ≠ 0 → exec (.pcnt pid r) s = .next (w.send f true r.dstb (.data q.value))) ∧
        ∀ (g' : Forme) (bay port : Nat), q.index = 0 → w.forme? f.h = some g' → g'.dest f.x f.y r.dsta = .ag bay port →
          ((g'.run.core.ag bay).input port).length < 8 → exec (.pcnt pid r) s =
            .next ((agJoined w f r (.pcnt pid r) (f.port r 0) 0 0 g' bay port).send f true r.dstb (.data q.value))) ∧
      ((f.port r 0).flag ≠ .eos → (f.port r 0).isActive = false →
        exec (.pmark pid r) s = .next ((step (q.index + 1)).send f true r.dstb (f.port r 0))) ∧
      ∀ (g' : Forme) (bay port : Nat), (f.port r 0).isActive = true → (step (q.index + 1)).forme? f.h = some g' →
        g'.dest f.x f.y r.dsta = .ag bay port → ((g'.run.core.ag bay).input port).length < 8 →
        exec (.pmark pid r) s = .next ((agJoined (step (q.index + 1)) f r (.pmark pid r) (f.port r 0) q.index 0 g' bay port).send f true r.dstb
          (f.port r 0))) ∧
    (∀ (pid : BitVec 3) (r : Shell) (s : State) (f : Firing) (t : State) (g : Forme), s.gather r = some (f, t) → t.forme? f.h = some g →
      (f.port r 0).flag ≠ .eos →
      let k := f.port r 0
      let q := g.rtState f.x f.y f.rt
      let n := match t.planeAt f r.dsta pid.toNat with
        | some p => if k.isActive then (p.changed q.index.toNat k.value).1.length else 0
        | none => 0
      let u := t.setRt f.h f.x f.y { q with index := q.index + 1, value := (if q.index = 0 then 0 else q.value) + BitVec.ofNat 32 n }
      (k.isActive = false → q.index ≠ 0 → exec (.pcnt pid r) s = .next u) ∧
      ∀ (g' : Forme) (bay port : Nat), (k.isActive = true ∨ q.index = 0) → u.forme? f.h = some g' → g'.dest f.x f.y r.dsta = .ag bay port →
        ((g'.run.core.ag bay).input port).length < 8 →
        exec (.pcnt pid r) s = .next (agJoined u f r (.pcnt pid r) k q.index 0 g' bay port)) ∧
    ∀ (mask : BitVec 16) (r : Shell) (s : State) (f : Firing) (t : State), Fires s r f t →
      let c := if (f.port r 1).isActive then (f.port r 1).value.toNat % 16 else 0
      exec (.prule mask r) s = .next (if mask.getLsbD c then t.sendTwo f r (f.port r 0) .null else t.sendTwo f r .null (f.port r 0))

/-- AADD, AMIN, AMAX, AAND, AOR, AXOR, AXCHG, ACAS, AFADD, LOCKACQ and LOCKREL each complete so, on operands that are not dormant. A
pooled one without IMM notes its operation for the galley's commit and counts its output tokens. With IMM, and an access that
translates for reading and writing outside T3, it replaces the word at once by its new word and sends its result: the old word,
for LOCKACQ 1 when it took a free word, for LOCKREL 1 when it freed its own; it waits first for a record with .ACQ that it
follows and, with .REL, for the accesses that precede it (of two records of a galley that do not both carry an LSID, which comes
first is the model's choice, log 77), and older loads of the word then return it as it was. Pinned in a stream-mode forme it
does so on the tile word. In a round-mode forme AADD, AMIN, AMAX, AAND, AOR, AXOR and AFADD are staged for the round's commit
and send the round-start word; the others are rejected there. (R152, R153, R175, R177, R178, R180, R269) -/
def Obligations.Atomics : Prop :=
  ∀ (acq rel : Bool) (c : Scope) (raw : BitVec 32) (r : Shell) (s : State) (f : Firing) (t : State), Fires s r f t →
    let v := (f.port r 1).value
    let w := (f.port r 2).value
    let u := t.seeStore f r.aux
    let x := u.kAddr f (rawKb raw) (f.port r 0).value.toNat (rawDisp raw)
    let a := (f.port r 0).value.toNat
    let bay := tileBay f.x f.y (raw.extractLsb' 6 6) (raw.extractLsb' 0 6)
    let n := u.noteAtomic f r.aux.toNat x
    let completes (i : Instr) (data : List Nat) (staged : Bool) : Prop := (∀ k ∈ data, (f.port r k).isDormant = false) →
      (f.pinned = false → raw.getLsbD 7 = false →
        exec i s = .next ((u.addAct f { node := f.node, lsid := r.aux.toNat, instr := i, a := v, b := w, obj := x.obj, off := x.off, size := 4
                                        hnd := f.hnd }).countOuts f r)) ∧
      (∀ pa tier, f.pinned = false → raw.getLsbD 7 = true → u.outOfOrder f i r = false → n.translate f.part x 4 .both = .ok pa tier → tier ≠ 3 →
        let e := atomicStep i false f.ctx (BitVec.ofNat 32 (n.readLe pa 4)) v w
        exec i s = .next (((n.writeLe pa 4 e.1.toNat).leave f e.2.2 0).sendBoth f r (.data e.2.1))) ∧
      (f.pinned = false → raw.getLsbD 7 = true → u.outOfOrder f i r = true → exec i s = .next s.park) ∧
      ∀ g, f.pinned = true → t.forme? f.h = some g →
        let old : Word := BitVec.ofNat 32 (g.run.core.tileRead bay a 4)
        a + 4 ≤ g.tileBytes → a % 4 = 0 →
        (g.cfg.stream = true →
          let e := atomicStep i true f.ctx old v w
          exec i s = .next (((t.setForme (g.tileStore bay a (leBytes 4 e.1.toNat))).leave f e.2.2 0).sendBoth f r (.data e.2.1))) ∧
        (staged = true → g.cfg.stream = false → t.stageRoom g.part 4 = true →
          exec i s = .next ((t.stage f (.act i (BitVec.ofNat 32 a) v w)).sendBoth f r (.data old)))
    completes (.aadd acq c rel raw r) [0, 1] true ∧ completes (.amin acq c rel raw r) [0, 1] true ∧ completes (.amax acq c rel raw r) [0, 1] true ∧
    completes (.aand acq c rel raw r) [0, 1] true ∧ completes (.aor acq c rel raw r) [0, 1] true ∧ completes (.axor acq c rel raw r) [0, 1] true ∧
    completes (.axchg acq c rel raw r) [0, 1] false ∧ completes (.acas acq c rel raw r) [0, 1, 2] false ∧
    completes (.afadd acq c rel raw r) [0, 1] true ∧ completes (.lockacq acq c raw r) [0] false ∧ completes (.lockrel c rel raw r) [0] false

/-- AADD adds, AAND, AOR and AXOR act bit by bit, AMIN and AMAX keep the lesser and the greater (unsigned with UNS), AXCHG stores
its operand, ACAS stores port 2 when the old word equals port 1; each returns the old word and sets no sticky bit. AFADD stores
the FP32 sum rounded to nearest even, returns the old word and sets the sticky bits of the sum. LOCKACQ of a free word stores
0x8000_0000 plus the context and returns 1, of any other word leaves it and returns 0; LOCKREL frees a word held by its own
context and returns 1, and leaves any other and returns 0. (R177, R180) -/
def Obligations.AtomicWords : Prop :=
  ∀ (acq rel uns pin : Bool) (c : Scope) (raw : BitVec 32) (r : Shell) (ctx : Nat) (old v w : Word), ctx < 4096 → rawUns pin raw = uns →
    atomicStep (.aadd acq c rel raw r) pin ctx old v w = (old + v, old, 0) ∧ atomicStep (.aand acq c rel raw r) pin ctx old v w = (old &&& v, old, 0) ∧
    atomicStep (.aor acq c rel raw r) pin ctx old v w = (old ||| v, old, 0) ∧ atomicStep (.axor acq c rel raw r) pin ctx old v w = (old ^^^ v, old, 0) ∧
    atomicStep (.axchg acq c rel raw r) pin ctx old v w = (v, old, 0) ∧
    atomicStep (.acas acq c rel raw r) pin ctx old v w = (if old = v then w else old, old, 0) ∧
    (let q := Fmt.fp32.add .rne 0 (Fmt.fp32.decode old.toNat) (Fmt.fp32.decode v.toNat)
     atomicStep (.afadd acq c rel raw r) pin ctx old v w = (BitVec.ofNat 32 q.bits, old, q.flags)) ∧
    atomicStep (.amin acq c rel raw r) pin ctx old v w =
      (if (if uns then old.toNat ≤ v.toNat else old.toInt ≤ v.toInt) then old else v, old, 0) ∧
    atomicStep (.amax acq c rel raw r) pin ctx old v w =
      (if (if uns then v.toNat ≤ old.toNat else v.toInt ≤ old.toInt) then old else v, old, 0) ∧
    atomicStep (.lockacq acq c raw r) pin ctx 0 v w = (0x80000000 ||| BitVec.ofNat 32 ctx, 1, 0) ∧
    (old ≠ 0 → atomicStep (.lockacq acq c raw r) pin ctx old v w = (old, 0, 0)) ∧
    atomicStep (.lockrel c rel raw r) pin ctx (0x80000000 ||| BitVec.ofNat 32 ctx) v w = (0, 1, 0) ∧
    (old.getLsbD 31 = false ∨ old.toNat % 4096 ≠ ctx → atomicStep (.lockrel c rel raw r) pin ctx old v w = (old, 0, 0))

/-- In a dataflow tile CMB sends the merged result that its instance holds. In an element a CMB whose arrival is not EOS merges it,
and at the AUX-th arrival sends the result and starts again; an EOS before the first arrival passes, a later one is a count
mismatch. A pooled RED notes its contribution for the commit; a pinned one in a stream-mode forme whose line checks performs it
at once, one in a round-mode forme stages it. REDWAIT on a word that translates, in a line with READY = 1, sends the word. (R43,
R176, R178, R179) -/
def Obligations.CombineAndReduce : Prop :=
  (∀ (cop : CombineOp) (r : Shell) (s : State) (f : Firing) (t : State), s.gather r = some (f, t) →
      (f.pinned = false → exec (.cmb cop r) s = .next (t.sendBoth f r (f.port r 0))) ∧
      (f.pinned = true → (f.port r 0).flag = .eos →
        exec (.cmb cop r) s = .next (if (t.rtOf f).count = 0 then t.sendBoth f r .eos else (t.countFault f 0).getD s.park)) ∧
      (f.pinned = true → (f.port r 0).flag ≠ .eos →
        let q := t.rtOf f
        let m := cmbMerge cop q.value q.count (q.flags &&& 12) (f.port r 0)
        (m.2.1.toNat < r.aux.toNat → exec (.cmb cop r) s =
          .next ((t.setRt f.h f.x f.y { q with value := m.1, count := m.2.1, flags := (q.flags &&& 3) ||| m.2.2.1 }).leave f m.2.2.2 0)) ∧
        (r.aux.toNat ≤ m.2.1.toNat → exec (.cmb cop r) s =
          .next (((t.setRt f.h f.x f.y { q with value := 0, count := 0, flags := q.flags &&& 3 }).leave f m.2.2.2 0).sendBoth f r
            (cmbResult m.1 m.2.2.1))))) ∧
    (∀ (c : Scope) (rel : Bool) (cop : CombineOp) (r : Shell) (s : State) (f : Firing) (t : State), Fires s r f t →
      (f.port r 0).isDormant = false → (f.port r 1).isDormant = false → (f.port r 2).isDormant = false →
      let x := Addr.ofVa ((f.port r 1).value ++ (f.port r 0).value)
      let v := (f.port r 2).value
      (f.pinned = false → exec (.red c rel cop r) s = .next ((t.seeStore f r.aux).addAct f
        { node := f.node, lsid := r.aux.toNat, instr := .red c rel cop r, a := v, obj := x.obj, off := x.off, size := 4, hnd := f.hnd })) ∧
      ∀ pa ca, f.pinned = true → t.redCheck f.part x c = some (.ok (pa, ca)) →
        (t.inRound f = false → exec (.red c rel cop r) s = .next ((t.redAt pa ca cop v).1.leave f (t.redAt pa ca cop v).2 0)) ∧
        (t.inRound f = true → t.stageRoom f.part 4 = true → exec (.red c rel cop r) s =
          .next ((t.touch f x 4 2).stage f (.act (.red c rel cop r) (f.port r 0).value (f.port r 1).value v)))) ∧
    ∀ (acq : Bool) (c : Scope) (r : Shell) (s : State) (f : Firing) (t : State) (ra tier : Nat), Fires s r f t →
      (f.port r 0).isDormant = false → (f.port r 1).isDormant = false →
      let x := Addr.ofVa ((f.port r 1).value ++ (f.port r 0).value)
      t.translate f.part { x with off := x.off - x.off % 128 + 124 } 4 .read = .ok ra tier → bit 31 (t.readLe ra 4) = true →
      (∀ pa t1, f.pinned = true → t.translate f.part x 4 .read = .ok pa t1 →
        exec (.redwait acq c r) s = .next ((t.touch f x 4).sendBoth f r (.data (BitVec.ofNat 32 (t.readLe pa 4))))) ∧
      ∀ g v, f.pinned = false → t.galleyOf f = some g → t.overtaken f g r.aux.toNat x 4 = none → t.galleyLoad f g r.aux.toNat x 4 = some (.ok v) →
        exec (.redwait acq c r) s = .next ((t.noteLoad f r.aux.toNat x 4).sendBoth f r (.data (BitVec.ofNat 32 v)))

/-- On a set without a dormant token. FENCE passes its token; a pooled one only when no earlier galley of its context on the tile is
open and every access of its own galley before it that is performed when it fires has fired. ORDTOK sends its completion token
at once, to an AG as a control token. (That a pinned FENCE passes and ORDTOK sends at once, where the manual has them wait until
accesses are performed, is the model's choice, log 14; so is which of two records without an LSID comes first, log 77.) EVENT
and YIELD pass their token; a pooled one is noted for its galley's commit, an EVENT in an open round with room to stage is
staged for its commit, and an EVENT in a stream-mode forme posts its code and value at once. A pinned YIELD marks its forme, in
round mode for the round's commit, in stream mode when a load of equal or higher effective priority waits for a chase, and has
no effect otherwise. ROUNDEND takes the token of its round, be it an EOS, a NULL, a dormant or an active one, and keeps its
route tag for the commit; a later token waits. A QUIESCE of a system context on a forme whose chase is empty sends 1; one of
another context takes a permission fault. (R87, R182, R185, R186, R188, R189, R299) -/
def Obligations.SyncRecords : Prop :=
  (∀ (r : Shell) (s : State) (f : Firing) (t : State) (g : Forme), s.gather r = some (f, t) → t.forme? f.h = some g →
    ((∀ e ∈ g.run.core.ends, ¬(e.1 = f.x ∧ e.2.1 = f.y)) →
      exec (.roundend r) s = .next (t.setCore g { g.run.core with ends := g.run.core.ends ++ [(f.x, f.y, f.rt)] })) ∧
    ((∃ e ∈ g.run.core.ends, e.1 = f.x ∧ e.2.1 = f.y) → exec (.roundend r) s = .next s.park)) ∧
  ∀ (r : Shell) (s : State) (f : Firing) (t : State), FiresAwake s r f t →
    let k := f.port r 0
    (∀ (acq rel : Bool) (c : Scope), (f.pinned = true ∨ ∀ g, t.galleyOf f = some g → (t.tile f.tile).mustAwait g f.node = false ∧
        ∀ o ∈ (t.tile f.tile).openOf f.ctx, g.seq ≤ o.seq) →
      exec (.fence acq c rel r) s = .next (t.sendBoth f r k)) ∧
    (∀ (c : Scope) (n : BitVec 3), f.pinned = false ∨ (isAg 0 r.dsta = false ∧ isAg 0 r.dstb = false) →
      exec (.ordtok c n r) s = .next (t.sendBoth f r (.data 0))) ∧
    (∀ (c : Scope) (n : BitVec 3) (g : Forme) (bay port : Nat), f.pinned = true → t.forme? f.h = some g → isAg 0 r.dsta = true → r.dstb = noDest →
      g.dest f.x f.y r.dsta = .ag bay port → ((g.run.core.ag bay).input port).length < 8 →
      exec (.ordtok c n r) s = .next (agJoined t f r (.ordtok c n r) (.data 0) 0 0 g bay port)) ∧
    (∀ c : BitVec 16,
      (f.pinned = false → exec (.event c r) s = .next ((t.addAct f { node := f.node, lsid := 0, instr := .event c r, a := k.value }).sendBoth f r k)) ∧
      (f.pinned = true → t.inRound f = true → t.stageRoom f.part 32 = true →
        exec (.event c r) s = .next ((t.stage f (.act (.event c r) k.value 0 0)).sendBoth f r k)) ∧
      ∀ u, f.pinned = true → t.inRound f = false → t.postEvent f.ctx 0 f.h c.toNat k.value.toNat = some u →
        exec (.event c r) s = .next (u.sendBoth f r k)) ∧
    (f.pinned = false → exec (.yield r) s = .next ((t.addAct f { node := f.node, lsid := 0, instr := .yield r }).sendBoth f r k)) ∧
    (∀ g, f.pinned = true → t.forme? f.h = some g →
      (g.cfg.stream = false → exec (.yield r) s = .next ((t.setForme { g with run := { g.run with yielding := true } }).sendBoth f r k)) ∧
      (g.cfg.stream = true → exec (.yield r) s = .next ((t.setForme { g with
        yielded := decide (∃ d ∈ t.loaders g.part, t.prio g.ctx ≤ t.prio d) }).sendBoth f r k))) ∧
    ((t.ctxOf f).sys = false → exec (.quiesce r) s = .next ((t.privFault f).getD s.park)) ∧
    ∀ g, (t.ctxOf f).sys = true → s.forme? k.value.toNat = some g → s.quiet g = true →
      exec (.quiesce r) s = .next (({ t with quiesces := t.quiesces.filter fun q => !(q.tile == f.tile && q.node == f.node && q.tag == f.tag) } : State).sendBoth
        f r (.data 1))

/-- On a set without a dormant token, each on the word pair at ports 1 and 0 (WAITW on its offset form). A pooled BARARR, BARDROP or
WAKEW is noted for its galley's commit. A pinned one in a stream-mode forme acts at once where its address translates: BARARR
and BARDROP replace the barrier word by its word after the drops and then the arrivals of their cycle, and BARARR sends the
phase it arrived in (each word has a cycle of its own; which operations share a cycle is the model's, log 94, as is that WAKEW
asks for no permission, log 68); WAKEW wakes up to port 2 waiters on its word and sends how many. In an open round with room to
stage each is staged for its commit. BARWAIT on a readable barrier whose PHASE differs from port 2 sends PHASE. WAITW on a
readable word that differs from port 1, of an instance that is not among the waiters, sends the word; one whose word equals port
1 and that nothing has woken joins the waiters and stays, and its context waits. (R149, R152, R181, R183, R184) -/
def Obligations.BarriersAndWaits : Prop :=
  ∀ (r : Shell) (s : State) (f : Firing) (t : State), FiresAwake s r f t →
    let x := pairAddr f r 0
    let v := (f.port r 2).value
    let noted (i : Instr) (n : Nat) : State := t.addAct f { node := f.node, lsid := 0, instr := i, a := v, obj := x.obj, off := x.off,
                                                            size := n, hnd := f.hnd }
    (∀ (c : Scope) (rel : Bool), f.pinned = false →
      exec (.bararr c rel r) s = .next ((noted (.bararr c rel r) 8).countOuts f r) ∧ exec (.bardrop c rel r) s = .next (noted (.bardrop c rel r) 8) ∧
      exec (.wakew c rel r) s = .next ((noted (.wakew c rel r) 4).countOuts f r)) ∧
    (∀ (c : Scope) (rel : Bool) (pa tier : Nat), f.pinned = true → t.inRound f = false → t.translate f.part x 8 .both = .ok pa tier →
      let w := t.readLe pa 8
      let own := t.bar.find? fun b => b.addr == pa
      let alone := own = none ∨ ∃ b, own = some b ∧ (b.after ≠ w ∨ (b.clock ≠ t.clock ∧ b.clock + 1 ≠ t.clock))
      let others := t.bar.filter fun b => b.addr != pa && decide (t.clock ≤ b.clock + 1)
      let kept (b : BarCycle) : State := ({ t with bar := others ++ [{ b with clock := t.clock }] } : State).writeLe pa 8 b.after
      (alone → exec (.bararr c rel r) s = .next ((kept { addr := pa, word := w, arrivals := 1 }).sendBoth f r (.data (BitVec.ofNat 32 (w / 2 ^ 32)))) ∧
        exec (.bardrop c rel r) s = .next (kept { addr := pa, word := w, drops := 1 })) ∧
      ∀ b, own = some b → b.after = w → b.clock = t.clock →
        exec (.bararr c rel r) s = .next ((kept { b with arrivals := b.arrivals + 1 }).sendBoth f r (.data (BitVec.ofNat 32 (b.word / 2 ^ 32)))) ∧
        exec (.bardrop c rel r) s = .next (kept { b with drops := b.drops + 1 })) ∧
    (∀ (c : Scope) (rel : Bool) (pa tier : Nat), f.pinned = true → t.inRound f = true → t.stageRoom f.part 4 = true →
      let staged (i : Instr) (n : Nat) : Out := .next ((t.touch f x n (if n = 8 then 2 else 0)).stage f (.act i (f.port r 0).value (f.port r 1).value v))
      (t.translate f.part x 8 .both = .ok pa tier → exec (.bararr c rel r) s = staged (.bararr c rel r) 8 ∧
        exec (.bardrop c rel r) s = staged (.bardrop c rel r) 8) ∧
      (t.translate f.part x 4 .any = .ok pa tier → exec (.wakew c rel r) s = staged (.wakew c rel r) 4)) ∧
    (∀ (c : Scope) (rel : Bool) (pa tier : Nat), f.pinned = true → t.inRound f = false → t.translate f.part x 4 .any = .ok pa tier →
      let w := t.wake f.part (BitVec.ofNat 64 x.va) v.toNat
      exec (.wakew c rel r) s = .next (w.1.sendBoth f r (.data (BitVec.ofNat 32 w.2)))) ∧
    (∀ (acq : Bool) (c : Scope) (pa tier : Nat), t.follows f = false → t.translate f.part x 8 .read = .ok pa tier →
      let phase : Word := BitVec.ofNat 32 (t.readLe (pa + 4) 4)
      phase ≠ v → exec (.barwait acq c r) s = .next ((t.touch f x 8).sendBoth f r (.data phase))) ∧
    ∀ (acq : Bool) (c : Scope) (disp : BitVec 24) (kb : BitVec 6) (pa tier : Nat),
      let y := t.kAddr f kb (f.port r 0).value.toNat disp
      t.follows f = false → t.translate f.part y 4 .read = .ok pa tier → (∀ w ∈ s.waiters, ¬(w.tile = f.tile ∧ w.node = f.node ∧ w.tag = f.tag)) →
      (∀ w ∈ t.waiters, ¬(w.tile = f.tile ∧ w.node = f.node ∧ w.tag = f.tag)) →
      let now : Word := BitVec.ofNat 32 (t.readLe pa 4)
      (now ≠ (f.port r 1).value → exec (.waitw acq c disp kb r) s = .next ((t.stopWaiting f.ctx).sendBoth f r (.data now))) ∧
      (now = (f.port r 1).value → exec (.waitw acq c disp kb r) s = .next (s.startWait
        { part := f.part, va := BitVec.ofNat 64 y.va, ctx := f.ctx, tile := f.tile, node := f.node, tag := f.tag }).park)

/-- On a set without a dormant token. MMA and MMAS, with none of the context that issued before still to perform (with one they wait
and hold the island if it is free: the model's reading, log 87), K from 1 to 8,192 (a multiple of 4 with SP24), a task bound by
the context, an island free for it, every packet it consumes there and of its length, and no META group that names one position
twice unless SPPERM was set at their issue: the island multiplies, in the order that ORDFAST gave at their issue, and K is sent.
MZERO on a free island sets the M × N region to +0 and passes its token. MDRAIN, once every MMA that issued to the island before
it is performed, and a pooled MTASK are noted for the commit; a pinned MTASK binds at once in a stream-mode forme and is staged
in a round-mode one. A pooled SCIN writes one scale of a free island and passes its token; a pinned one sends a scale token to
each of its destinations. SMUL and SFMA send one rounded product, with C added by SFMA. SPCHK sends a word with bit q set when
group q of the word on port 0 names one position twice. MSTAT on an island of its partition sends the selected status word.
(R25, R41, R67, R68, R202, R195, R196, R197, R198, R199, R200, R203) -/
def Obligations.MatrixRecords : Prop :=
  ∀ (r : Shell) (s : State) (f : Firing) (t : State),
    (FiresAwake s r f t →
      let isl := t.island f.tile
      let x := s.siteIssue
      let p0 := (f.port r 0).value
      (∀ (i : Instr) (a : MmaArgs), matrixForm i f r = some a → s.mmaAhead false = true → exec i s = .next (s.park.takeIsland f.tile f.ctx)) ∧
      (∀ (i : Instr) (a : MmaArgs) (pa pb : Packet), matrixForm i f r = some a → 0 < a.k → a.k ≤ 8192 → (a.sp24 = true → a.k % 4 = 0) →
        s.mmaAhead false = false → (isl.binds.any fun b => b.ctx == f.ctx) = true → t.islandFree f.tile f.ctx = true → oldest isl.packets 0 a.task = some pa →
        oldest isl.packets 1 a.task = some pb →
        let get (k : Nat) : Option Packet := if a.kinds.contains k then oldest isl.packets k a.task else none
        (∀ k ∈ a.kinds, ∃ p, oldest isl.packets k a.task = some p ∧ p.words.length = a.words (get 5) k) →
        (∀ m, get 4 = some m → x.spperm = true ∨ a.badMeta m (get 5) = none) →
        let ops : MmaPackets := { a := pa, b := pb, sa := get 2, sb := get 3, meta_ := get 4, bm := get 5 }
        exec i s = .next ((t.setIsland (((isl.hold f.ctx f.hdr f.tag).consume f.hdr f.tag a.task a.kinds).multiply a ops x.ordfast).finish).sendBoth
          f r (.data (BitVec.ofNat 32 a.k)))) ∧
      (∀ n1 m1 : BitVec 7, t.islandFree f.tile f.ctx = true → exec (.mzero n1 m1 r) s =
        .next ((t.setIsland ((isl.hold f.ctx f.hdr f.tag).zero (m1.toNat + 1) (n1.toNat + 1)).finish).sendBoth f r (f.port r 0))) ∧
      (∀ (z : Bool) (o : OFmt) (n1 m1 : BitVec 7), s.mmaAhead true = false → exec (.mdrain z o n1 m1 r) s = .next ((t.addAct f
        { node := f.node, lsid := 0, instr := .mdrain z o n1 m1 r, obj := (pairAddr f r 0).obj, off := (pairAddr f r 0).off,
          size := (m1.toNat + 1) * (n1.toNat + 1) * OFmt.bytes o, hnd := f.hnd }).countOuts f r)) ∧
      (∀ (n : BitVec 5) (pd : BitVec 16) (tag : Tag), (f.port r 0).isActive = true → t.tagOf f = some tag → (pushTag tag 16 0).isSome = true →
        (f.pinned = false → t.unitPart (f.die * 32 + n.toNat) = f.part → exec (.mtask n pd r) s = .next ((t.addAct f
          { node := f.node, lsid := 0, instr := .mtask n pd r, a := p0, obj := f.die * 32 + n.toNat }).sendBoth f r (f.port r 0))) ∧
        ∀ (g : Forme) (u : Nat), f.pinned = true → t.forme? f.h = some g → g.dest f.x f.y r.dsta = .island u →
          (g.cfg.stream = true → exec (.mtask n pd r) s = .next ((t.setIsland ((t.island u).bind
            { task := p0.toNat % 256, pdest := pd, ctx := f.ctx, tag := tag })).send f true r.dstb (f.port r 0))) ∧
          (g.cfg.stream = false → t.stageRoom g.part 4 = true → exec (.mtask n pd r) s = .next ((t.stage f
            (.act (.mtask n pd r) p0 (tag.extractLsb' 0 32) (tag.extractLsb' 32 32))).send f true r.dstb (f.port r 0)))) ∧
      (f.pinned = false → t.islandFree f.tile f.ctx = true → exec (.scin r) s =
        .next ((t.setIsland { isl.hold f.ctx f.hdr f.tag with
          scales := assign ((f.port r 1).value.toNat % 65536) (p0.extractLsb' 0 8) isl.scales }).sendBoth f r (f.port r 0))) ∧
      (∀ g, f.pinned = true → t.forme? f.h = some g →
        let put (u : State) (d : BitVec 16) : State := if d = noDest then u else u.sendLink f.h
          { src := .elem f.x f.y, dst := g.dest f.x f.y d, rt := f.rt, wire := .scale ((f.port r 1).value.extractLsb' 0 16) (p0.extractLsb' 0 8) }
        exec (.scin r) s = .next (put (put t r.dsta) r.dstb)) ∧
      (∃ v : Word, WordAnswer (.spchk r) r s f t v ∧
        ∀ q, v.getLsbD q = (decide (q < 8) && (p0.extractLsb' (4 * q) 2 == p0.extractLsb' (4 * q + 2) 2))) ∧
      ∀ (sel : BitVec 3) (n : BitVec 5), t.unitPart (f.die * 32 + n.toNat) = f.part →
        exec (.mstat sel n r) s = .next (t.sendBoth f r (.data ((t.island (f.die * 32 + n.toNat)).stat (t.islandBusy (f.die * 32 + n.toNat)) sel.toNat)))) ∧
    ∀ (e : Nat) (fmt : MFmt), s.gatherScaled r = some (f, e, t) → f.verdict = .value → (∀ k ∈ f.toks, k.2.lmask = 3) →
      let w := mfmtWidth fmt
      let x := mfmtVal fmt true ((f.port r 0).value.toNat % 2 ^ w)
      let y := mfmtVal fmt false ((f.port r 1).value.toNat % 2 ^ w)
      let c := Fmt.fp32.decode (f.port r 2).value.toNat
      let p := FVal.scaled (FVal.mul x y).1 e
      let bad := (FVal.mul x y).2 || e == 255
      let sent (q : FRes) : Out := .next (((t.stepBlock f false).leave f q.flags 0).sendBoth f r (.data (BitVec.ofNat 32 q.bits)))
      exec (.smul fmt r) s = sent (Fmt.fp32.sum .rne 0 [x, y] [p] bad) ∧ exec (.sfma fmt r) s = sent (Fmt.fp32.sum .rne 0 [x, y, c] [p, c] bad)

/-- On a set without a dormant token. TEX and TEXN, with a sampler state that can be read and every byte they need, send the
channels R, G to A and B, A to B. A MARCH whose words lie in the tile sends the site word to A and the next t to B. CADD, CWMK
and CCLR act on the CA tile that LIT names; CADD sends nothing, the others 0. CRES sends 32,768, CLOG 0. A pooled CRES, CCLR or
CLOG that names a CA tile of a live forme of its context is noted for the commit, and one that names no such tile takes a
permission fault. A pooled CADJ or FREL is noted for the commit with its descriptor; pinned in a stream-mode forme it acts at
once on a descriptor that can be read. (Of the sampling, logs 7, 105 and 110 are the model's.) (R204, R205, R206, R207, R208,
R210, R211, R213, R214, R215) -/
def Obligations.RenderRecords : Prop :=
  ∀ (r : Shell) (s : State) (f : Firing) (t : State), FiresAwake s r f t →
    let a := (f.port r 0).value
    let b := (f.port r 1).value
    let c := (f.port r 2).value
    (∀ (n : BitVec 12) (q : Ssr) (size : Nat) (px : List Tap) (vs : List (List FVal)), t.ssrAt f n = some (.ok q) → texelBytes q.format = some size →
      halfNan (half a 0) = false → halfNan (half a 1) = false → q.taps (half a 0) (half a 1) (f32 b) = some px →
      collect (fun p => q.texel t f.part size p) px = some (.ok vs) →
      let l := (List.range 4).map fun k => blend ((px.zip vs).map fun e => (e.1.w, e.2.getD k (.nan false)))
      exec (.tex n r) s = .next ((t.touch f q.base (2 ^ 40) 0 size).sendRgba f r (l.map FRes.bits) (l.foldl (fun st x => st ||| x.flags) 0))) ∧
    (∀ (n : BitVec 12) (q : Ssr) (px : List Tap) (vs : List (List FVal)) (hb : List Byte) (o : List Nat) (st : Sticky),
      t.ssrAt f n = some (.ok q) → (q.format = 0x30 ∨ q.format = 0x31) → halfNan (half a 0) = false → halfNan (half a 1) = false →
      q.taps (half a 0) (half a 1) (f32 b) = some px →
      let fmt : MFmt := if q.format = 0x30 then .e4m3 else .tw8
      collect (fun p => q.latent t f.part fmt p) px = some (.ok vs) → t.bytesAt f.part q.mlp 4 = some (.ok hb) →
      let l := (List.range q.chans).map fun k => blend ((px.zip vs).map fun e => (e.1.w, e.2.getD k (.nan false)))
      t.network f.part fmt (leNat hb % 4) (q.mlp.plus (4 : Nat)) (l.map FRes.bits) (l.foldl (fun st x => st ||| x.flags) 0) = some (.ok (o, st)) →
      exec (.texn n r) s = .next (((t.touch f q.base (2 ^ 40) 0 1).touch f q.mlp (2 ^ 40) 0 4).sendRgba f r o st)) ∧
    (∀ (base : BitVec 19) (dx dy : BitVec 6) (g : Forme), t.forme? f.h = some g →
      let ray := base.toNat + 32 + 32 * a.toNat
      base.toNat % 4 = 0 → ray + 28 ≤ g.tileBytes → base.toNat + 12 ≤ g.tileBytes →
      let w (n : Nat) : Nat := g.run.core.tileRead (tileBay f.x f.y dx dy) n 4
      let v (k : Nat) : FVal := Fmt.fp32.decode (w (ray + 4 * k))
      let q : Ray := { dims := [w base.toNat % 65536, w base.toNat / 65536, w (base.toNat + 4) % 65536], step := w (base.toNat + 8)
                       o := [v 0, v 1, v 2], d := [v 3, v 4, v 5], tmax := w (ray + 24) }
      exec (.march base dx dy r) s = .next (t.sendTwo f r (.data (BitVec.ofNat 32 (marchStep q b.toNat).1)) (.data (BitVec.ofNat 32 (marchStep q b.toNat).2)))) ∧
    (∀ (page : BitVec 4) (dx dy : BitVec 6) (u : State) (st : Sticky),
      let term : CaEntry := { key := BitVec.ofNat 40 (a.toNat % 2 ^ 24 * 65536 + t.termSeq f), alpha := c.extractLsb' 16 16, cr := b.extractLsb' 0 16
                              cg := b.extractLsb' 16 16, cb := c.extractLsb' 0 16 }
      t.caDo f.h f.x f.y f.rt (tileBay f.x f.y dx dy) (fun x => x.term (page.toNat * 256 + a.toNat / 2 ^ 24) term) = some (.ok (u, st)) →
      exec (.cadd page dx dy r) s = .next (u.leave f st 0)) ∧
    (∀ (dx dy : BitVec 6) (u : State) (st : Sticky),
      let bay := tileBay f.x f.y dx dy
      (t.caDo f.h f.x f.y f.rt bay (fun x => x.watermark (BitVec.ofNat 40 (a.toNat % 2 ^ 24 * 65536 + b.toNat % 65536))) = some (.ok (u, st)) →
        exec (.cwmk dx dy r) s = .next ((u.leave f st 0).sendBoth f r (.data 0))) ∧
      (f.pinned = true → t.caDo f.h f.x f.y f.rt bay CaState.clear = some (.ok (u, st)) →
        exec (.cclr dx dy r) s = .next ((u.leave f st 0).sendBoth f r (.data 0))) ∧
      (f.pinned = true → t.caResolve f.h f.x f.y f.rt bay (b ++ a) = some (.ok (u, st)) →
        exec (.cres dx dy r) s = .next (((u.touch f (Addr.ofVa (b ++ a)) 32768 3 0).leave f st 0).sendBoth f r (.data 32768))) ∧
      (f.pinned = true → t.caLog f.h f.x f.y f.rt bay (b ++ a) = some (.ok u) →
        exec (.clog dx dy r) s = .next ((u.touch f (Addr.ofVa (b ++ a)) 32 3).sendBoth f r (.data 0)))) ∧
    (∀ dx dy : BitVec 6, f.pinned = false →
      let noted (i : Instr) (port : Nat) : Out := 
        .next ((t.addAct f { node := f.node, lsid := 0, instr := i, a := a, b := b, c := (f.port r port).value
                             obj := (pairAddr f r 0).obj, off := (pairAddr f r 0).off, hnd := f.hnd }).countOuts f r)
      let refused : Out := .next ((t.faultAt f 0 clsPermission 0 (.access 0 0 3)).getD s.park)
      ((t.caOwner f (c.toNat % 256)).isSome = true →
        exec (.cres dx dy r) s = noted (.cres dx dy r) 2 ∧ exec (.clog dx dy r) s = noted (.clog dx dy r) 2) ∧
      (t.caOwner f (c.toNat % 256) = none → exec (.cres dx dy r) s = refused ∧ exec (.clog dx dy r) s = refused) ∧
      ((t.caOwner f (a.toNat % 256)).isSome = true → exec (.cclr dx dy r) s = noted (.cclr dx dy r) 0) ∧
      (t.caOwner f (a.toNat % 256) = none → exec (.cclr dx dy r) s = refused)) ∧
    (f.pinned = false →
      let noted (i : Instr) (n : Nat) : Out := 
        .next ((t.addAct f { node := f.node, lsid := 0, instr := i, obj := (pairAddr f r 0).obj
                             off := (pairAddr f r 0).off, size := n, hnd := f.hnd }).countOuts f r)
      exec (.cadj r) s = noted (.cadj r) 64 ∧ exec (.frel r) s = noted (.frel r) 32) ∧
    (∀ (out : Addr) (p : List (Nat × Nat)) (bs : List Byte) (n : Word) (st : Sticky), f.pinned = true → t.inRound f = false →
      t.cadj f.part (pairAddr f r 0) = some (.ok (out, p, bs, n, st)) → bs ≠ [] →
      exec (.cadj r) s = .next (((t.touch f (pairAddr f r 0) 64 3).touch f out bs.length 3 0 |>.caStore f.h f.x f.y f.rt false out p bs |>.leave f st 0).sendBoth
        f r (.data n))) ∧
    ∀ bs : List Byte, f.pinned = true → t.inRound f = false → t.bytesAt f.part (pairAddr f r 0) 32 = some (.ok bs) →
      exec (.frel r) s = .next ((t.frelTo f.ctx (leNat bs)).1.sendBoth f r (.data (t.frelTo f.ctx (leNat bs)).2))

/-- On a set without a dormant token. COPYE, QCOMMIT, LOFFER, LTAKE, DEGRADE, FLOAD, FSWAP, OVLD, OVFREE, TRAP, BRK and HALT are
held for the commit of their galley with their operands, the address at ports 1 and 0 and the bytes that are checked there, and
count their output tokens. LRECLAIM, MARKER and SNAP are held so in a system context, a SYSWR of a system context on a writable
index, and an ERET in a fault-handler instance. Each of these five in any other case does not execute and takes a permission
fault at its firing. Performed at the commit on what their checks read: COPYE starts a copy under the lowest free id of the die
(failure 1 with 16 in use); QCOMMIT of an uncommitted reservation moves CMTD on and gives 1, else 0; LOFFER of a region that one
owned local extent holds makes the lowest free lease, with failures 1 to 3; LTAKE sends TAKE and answers later, or failure 4
(when it is known is the model's reading, log 69); LRECLAIM starts the reclaim of a taken lease with 1, else 0; DEGRADE requests
a level; FLOAD gives the handle, a failure, or waits for a chase; FSWAP and MARKER start and answer later, or 0; OVLD gives the
base or a failure; OVFREE gives 1, or 0; TRAP, and BRK under debug, post a trap; HALT halts the context with an event; SYSWR
writes its half and gives 1; SNAP writes the image and gives its length. (R193, R216, R217, R218, R219, R220, R221, R222, R224,
R225, R226, R362) -/
def Obligations.DeferredRecords : Prop :=
  (∀ (r : Shell) (s : State) (f : Firing) (t : State), FiresAwake s r f t →
    let x := pairAddr f r 0
    let held (i : Instr) (n : Nat) : Out := .next ((t.addAct f
      { node := f.node, lsid := 0, instr := i, a := (f.port r 0).value, b := (f.port r 1).value, c := (f.port r 2).value
        obj := x.obj, off := x.off, size := n, hnd := f.hnd }).countOuts f r)
    let refused : Out := .next ((t.privFault f).getD s.park)
    let sys := (t.ctxOf f).sys
    let handler := f.hnd || (t.galleyOf f).elim false Galley.hnd
    exec (.copye r) s = held (.copye r) 32 ∧ exec (.qcommit r) s = held (.qcommit r) 64 ∧ exec (.loffer r) s = held (.loffer r) 32 ∧
    exec (.ltake r) s = held (.ltake r) 32 ∧ exec (.degrade r) s = held (.degrade r) 0 ∧ exec (.fload r) s = held (.fload r) 0 ∧
    exec (.fswap r) s = held (.fswap r) 0 ∧ exec (.ovld r) s = held (.ovld r) 0 ∧ exec (.ovfree r) s = held (.ovfree r) 0 ∧
    exec (.halt r) s = held (.halt r) 0 ∧ (∀ c, exec (.trap c r) s = held (.trap c r) 0 ∧ exec (.brk c r) s = held (.brk c r) 0) ∧
    (sys = true → exec (.lreclaim r) s = held (.lreclaim r) 0 ∧ exec (.marker r) s = held (.marker r) 0 ∧ exec (.snap r) s = held (.snap r) 0) ∧
    (sys = false → exec (.lreclaim r) s = refused ∧ exec (.marker r) s = refused ∧ exec (.snap r) s = refused) ∧
    (∀ hi n, exec (.syswr hi n r) s = if sys && regWritable n.toNat then held (.syswr hi n r) 0 else refused) ∧
    exec (.eret r) s = if handler then held (.eret r) 0 else refused) ∧
  ∀ (s : State) (t : Nat) (g : Galley) (p : Prepared) (r : Shell),
    let a := p.act
    let c := tagCtx g.tag
    let part := s.unitPart t
    let die := t / 32
    let n := leNat p.bytes
    let v := a.a.toNat
    let gives (u : State) (w : Word) : Prop := s.performAct t g p = some (.ok (u, some w, 0))
    let waits (u : State) : Prop := s.performAct t g p = some (.ok (u, none, 0))
    (a.instr = .copye r → ∀ d, s.die? die = some d →
      ((∀ k, k < 16 → ∃ x ∈ d.copies, x.id = k) → gives s 0x80000001) ∧
      ∀ k, k < 16 → (∀ x ∈ d.copies, x.id ≠ k) → (∀ j, j < k → ∃ x ∈ d.copies, x.id = j) →
        gives (s.setDie { d with copies := d.copies ++ [{ id := k, src := BitVec.ofNat 64 (bits 0 64 n), dst := BitVec.ofNat 64 (bits 64 64 n)
                                                          len := bits 128 40 n, cls := bits 168 2 n, ctx := c, part := part
                                                          hnd := g.hnd || a.hnd }] }) (BitVec.ofNat 32 k)) ∧
    (a.instr = .qcommit r → ∀ q, s.part? part = some q →
      let h := q.home (BitVec.ofNat 64 a.addr.va)
      ((∀ o ∈ h.open_, ¬(o.1 = a.c.toNat ∧ o.2.2 = false)) → gives s 0) ∧
      ((∃ o ∈ h.open_, o.1 = a.c.toNat ∧ o.2.2 = false) → ∃ (k : QueueHome) (m : Nat),
        gives ((s.setPart (q.setHome k)).writeLe p.pa 64 (k.dated (setBits 192 32 (s.readLe p.pa 64) m))) 1)) ∧
    (a.instr = .loffer r → ∀ u, (s.leaseOffer die c part n).1.demandRun die 256 = some u → gives u (s.leaseOffer die c part n).2) ∧
    (let x := Addr.ofVa (BitVec.ofNat 64 (bits 0 64 n))
     let gran := bits 64 32 n
     let rbw := bits 144 16 n
     (s.oneExtent part x (gran * 2 ^ 21) = none → s.leaseOffer die c part n = (s, 0x80000001)) ∧
     ∀ (d : Die) (o : Obj) (e : Nat) (y : Ext), s.die? die = some d → s.oneExtent part x (gran * 2 ^ 21) = some (o, e, y) → o.pl = true →
      y.tier = 0 → y.loc % 4 = die → 1 ≤ gran → x.off.toNat % 2 ^ 21 = 0 →
      ((rbw < 100 ∨ 400 < d.rbwSum + rbw) → s.leaseOffer die c part n = (s, 0x80000002)) ∧
      (100 ≤ rbw → d.rbwSum + rbw ≤ 400 → (∀ k, k < 256 → (d.lease? k).isSome = true) → s.leaseOffer die c part n = (s, 0x80000003)) ∧
      ∀ k, 100 ≤ rbw → d.rbwSum + rbw ≤ 400 → k < 256 → d.lease? k = none → (∀ j, j < k → (d.lease? j).isSome = true) →
        s.leaseOffer die c part n = (s.setDie (d.setLease { idx := k, state := .offered, ctx := c, part := part, va := BitVec.ofNat 64 (bits 0 64 n)
                                                            page := y.pfn + (x.off.toNat / 4096 - y.start), gran := gran, term := bits 96 32 n
                                                            rclass := bits 128 4 n, wt := bit 132 n, rbw := rbw, order := d.nextOrder }),
          BitVec.ofNat 32 (die * 256 + k))) ∧
    (a.instr = .ltake r → ∀ d, s.die? die = some d →
      let lender := bits 128 10 n
      let fb : VA := BitVec.ofNat 64 (bits 64 64 n)
      (s.reachable lender = false → gives s 0x80000004) ∧
      (s.reachable lender = true → waits ((s.setDie { d with borrowed := d.borrowed ++ [
        { lender := lender, lease := bits 144 16 n, state := .none, ctx := c, part := part, target := BitVec.ofNat 64 (bits 0 64 n)
          fallback := fb, reply := some (g.reply t a) }] }).sendLease die lender
        (.take lender (bits 144 16 n) s.fijId.toNat ((s.placeOf part (Addr.ofVa fb)).getD ⟨0, 0, 0⟩))))) ∧
    (a.instr = .lreclaim r →
      (∀ d l, v < 1024 → s.die? (v / 256) = some d → d.lease? (v % 256) = some l → l.state = .taken →
        gives ((s.setDie (d.setLease { l with state := .reclaiming })).sendLease (v / 256) l.borrower
          (.reclaim l.borrower (v / 256 * 256 + v % 256))) 1) ∧
      ((1024 ≤ v ∨ ∀ d l, s.die? (v / 256) = some d → d.lease? (v % 256) = some l → l.state ≠ .taken) → gives s 0)) ∧
    (a.instr = .degrade r → ∀ q j, s.part? part = some q → q.job? (v % 65536) = some j →
      let now := max j.level (j.request.getD 0)
      let l := a.b.toNat % 4
      ((j.valid = false ∨ l ≤ now ∨ j.nlevm1 < l) → gives s (BitVec.ofNat 32 now)) ∧
      (j.valid = true → now < l → l ≤ j.nlevm1 → gives (s.setPart (q.setJob { j with request := some l })) (BitVec.ofNat 32 l))) ∧
    (a.instr = .fload r → (bits 8 23 a.c.toNat ≠ 0 → gives s 0x80000004) ∧
      (bits 8 23 a.c.toNat = 0 → (p.image = some .noPerm → gives s 0x80000003) ∧ ∀ f, p.image = some (.ok f) →
        (s.takeChase part c f a.c = some none → gives s 0x80000001) ∧
        (∀ h u, s.takeChase part c f a.c = some (some (h, u)) → gives u (BitVec.ofNat 32 h)) ∧
        (s.takeChase part c f a.c = none → waits { s with
          loads := s.loads ++ [{ part := part, ctx := c, cfg := f, placement := a.c, reply := some (g.reply t a) }] }))) ∧
    (a.instr = .fswap r → (s.forme? v = none → gives s 0) ∧ ∀ f, s.forme? v = some f →
      ((f.part ≠ part ∨ f.status ≠ .standing ∨ s.chaseBusy f = true) → gives s 0) ∧
      (f.part = part → f.status = .standing → s.chaseBusy f = false →
        waits (s.setForme { f with swap := .waiting, reply := some (g.reply t a), since := s.clock }))) ∧
    (a.instr = .marker r → (s.markable part v = none → gives s 0) ∧
      ∀ f, s.markable part v = some f → waits (s.setForme { f.inject (some (g.reply t a)) with since := s.clock })) ∧
    (a.instr = .ovld r → let ws := overlayWords p.bytes
      (checkOverlay ws = none → (s.placeOverlay t ws none = none → gives s 0x80000001) ∧
        ∀ b u, s.placeOverlay t ws none = some (b, u) → gives u (BitVec.ofNat 32 b)) ∧
      ∀ f u, checkOverlay ws = some f → s.postIllegal false part c (t % 32) f (g.hnd || a.hnd) = some u → gives u 0x80000002) ∧
    (a.instr = .ovfree r → let d := s.tile t
      ((∀ o ∈ d.overlays, o.base ≠ v) → gives s 0) ∧
      ∀ o, (d.overlays.find? fun o => o.base == v) = some o → (s.overlayNamed t o = true → gives s 0) ∧
        (s.overlayNamed t o = false → ∃ u, gives u 1 ∧ (u.tile t).overlays = d.overlays.filter (fun q => q.base != v) ∧
          (u.tile t).nodes = d.nodes.filter (fun e => !(decide (o.base ≤ e.1) && decide (e.1 < o.base + o.len))))) ∧
    (∀ (x : Ctx) (code : BitVec 16), s.ctx? c = some x →
      let posted (b : Bool) : Option State := (s.setCtx { x with trapHold := true }).postFault
        { ctx := c, src := 1, srcid := t % 32, cls := clsTrap, prec := 5, loc := a.node }
        (code.toNat * 2 ^ 176 + v * 2 ^ 144 + atBit 143 b) g.hnd (.trapped t g.tag)
      (∀ u, a.instr = .trap code r → posted false = some u → waits u) ∧ (∀ u, a.instr = .brk code r → x.dbg = true → posted true = some u → waits u) ∧
      (a.instr = .brk code r → x.dbg = false → waits s)) ∧
    (∀ (x : Ctx) (u : State), a.instr = .halt r → s.ctx? c = some x →
      (s.setCtx (if x.state = .faulted then { x with before := .halted } else { x with state := .halted })).postEvent c 6 (t % 32) 0 v = some u →
      waits u) ∧
    (∀ (x : Ctx) (hi : Bool) (i : BitVec 16), a.instr = .syswr hi i r → s.ctx? c = some x →
      let by_ : RegBy := { part := part, ctx := some c, tile := some t }
      let free := s.setCtx { x with writeLatch := none }
      (hi = false → regShort i.toNat = false → gives (s.setCtx { x with writeLatch := some (i.toNat, a.a) }) 1) ∧
      (∀ u, hi = false → regShort i.toNat = true → free.regWrite by_ i.toNat (a.a.setWidth 64) = some u → gives u 1) ∧
      (hi = true → regShort i.toNat = true → gives free 1) ∧
      ∀ (lo : Word) (u : State), hi = true → regShort i.toNat = false → x.writeLatch = some (i.toNat, lo) →
        free.regWrite by_ i.toNat (a.a ++ lo) = some u → gives u 1) ∧
    (a.instr = .snap r → gives (s.writePieces p.pieces p.bytes) (BitVec.ofNat 32 p.bytes.length) ∧
      (s.snapImage part v = none → s.readNow part c p = some (.ok p)) ∧
      ∀ b, s.snapImage part v = some b → s.readNow part c p = s.prepWrite part a (Addr.ofWords a.b a.c) b.length 0 b) ∧
    ∀ (d : Done) (q : Prepared) (u : State) (w : Option Word) (st : Sticky), d.s.readNow (d.s.unitPart t) c p = some (.ok q) →
      d.s.performAct t g q = some (.ok (u, w, st)) → d.act t g p = some (.ok
        { s := u, st := d.st ||| st, outs := d.outs ++ (match w with
          | some w => g.answers q.act w
          | none => []) })

/-- On a set without a dormant token. COPYW of a copy that has ended sends 1 or its failure and frees the id, of an id in no use 2.
QRESV on a readable and writable descriptor with RSVDE minus FREED plus n not above CAP adds n to RSVDE and sends the old RSVDE
and n; without room it sends RSVDE and 0. QTAKE sends the start and the count of the records that its home gives it, and writes
the descriptor. The home first performs the returns of dropped galleys that it has kept (that it keeps them is the model's
reading, log 88). QRESV and QTAKE wait for a record with .ACQ that they follow. LQUERY sends the state of the lease, NOP passes
its token, SYSRD of a readable index sends the half it names, PERF the half of the counter it selects. A SYSRD of a user context
on an index that it may not read takes a permission fault. (R87, R192, R216, R217, R218, R219, R223, R225, R339) -/
def Obligations.ImmediateRecords : Prop :=
  ∀ (r : Shell) (s : State) (f : Firing) (t : State), FiresAwake s r f t →
    let p0 := (f.port r 0).value
    let x := pairAddr f r 0
    let va : VA := BitVec.ofNat 64 x.va
    (∀ (d : Die) (c : CopyJob), t.die? f.die = some d → (d.copies.find? fun c => c.id == p0.toNat) = some c → c.status ≠ 0 →
      exec (.copyw r) s = .next ((t.setDie { d with copies := d.copies.filter fun x => x.id != p0.toNat }).sendBoth f r
        (.data (if c.status = 1 then 1 else BitVec.ofNat 32 (2 ^ 31 + (c.status - 2)))))) ∧
    (∀ d : Die, t.die? f.die = some d → (∀ c ∈ d.copies, c.id ≠ p0.toNat) → exec (.copyw r) s = .next (t.sendBoth f r (.data 2))) ∧
    (∀ (pa tier : Nat) (q : Part), t.follows f = false → t.translate f.part x 64 .both = .ok pa tier → (t.lateReturns f.part).part? f.part = some q →
      let t := t.lateReturns f.part
      let d := t.readLe pa 64
      let n := (f.port r 2).value.toNat
      let rsvde := bits 160 32 d
      let used := (rsvde + 2 ^ 32 - bits 256 32 d) % 2 ^ 32
      (used + n ≤ bits 0 32 d → exec (.qresv r) s =
        .next (((((t.setPart (q.setHome { q.home va with open_ := (q.home va).open_ ++ [(rsvde, n, false)] })).writeLe pa 64
          (setBits 160 32 d (rsvde + n))).hold f { va := va, take := false, start := rsvde, count := n })).sendTwo f r
            (.data (BitVec.ofNat 32 rsvde)) (.data (BitVec.ofNat 32 n)))) ∧
      (bits 0 32 d < used + n → exec (.qresv r) s = .next (t.sendTwo f r (.data (BitVec.ofNat 32 rsvde)) (.data 0))) ∧
      let k := (q.home va).takeFrom d n
      exec (.qtake r) s = .next ((((t.setPart (q.setHome k.2.2.2)).writeLe pa 64 k.2.2.1).hold f
        { va := va, take := true, start := k.1, count := k.2.1 }).sendTwo f r (.data (BitVec.ofNat 32 k.1)) (.data (BitVec.ofNat 32 k.2.1)))) ∧
    exec (.lquery r) s = .next (t.sendBoth f r (.data (t.lquery p0))) ∧ exec (.nop r) s = .next (t.sendBoth f r (f.port r 0)) ∧
    (∀ (hi : Bool) (n : BitVec 16), (t.ctxOf f).sys = true ∨ regUser n.toNat = true →
      let v := (t.keepLatch f).sysRead f.regBy f.ctx hi n.toNat
      exec (.sysrd false hi n r) s = .next (v.2.sendBoth f r (.data v.1)) ∧
      exec (.sysrd true hi n r) s = .next ((if hi then v.2 else v.2.clearStatus f.ctx v.1).sendBoth f r (.data v.1))) ∧
    (∀ (clr hi : Bool) (n : BitVec 16), (t.ctxOf f).sys = false → regUser n.toNat = false →
      exec (.sysrd clr hi n r) s = .next ((t.privFault f).getD s.park)) ∧
    ∀ (hi : Bool) (n : BitVec 8), exec (.perf hi n r) s =
      .next (t.sendBoth f r (.data (BitVec.ofNat 32 (if hi then t.perf f.tile n.toNat / 2 ^ 32 else t.perf f.tile n.toNat))))

/-- An access whose offset lies outside 0 to 2^40, or whose object or extent does not exist, is a translation fault (with no extent
for it while a change of the object runs, a stall); in an extent that does not wait, one past the object's length or not a
multiple of its size is a bounds fault, one without the permission it needs is a permission fault, and every other translates to
its place in the extent. (That a page beyond the memory of its tier has no extent is the model's reading, log 16.) A write of
bytes to canonical memory leaves it canonical, the bytes read as written, and every other byte reads as before. (R149, R150,
R306, R308, R313) -/
def Obligations.TranslationChecks : Prop :=
  (∀ (s : State) (p size : Nat) (a : Addr) (need : Need),
    ((a.off < 0 ∨ 2 ^ 40 ≤ a.off) → s.translate p a size need = .fault clsTranslation) ∧
    (s.walkWaits p a.obj = false → s.obj? p a.obj = none → s.translate p a size need = .fault clsTranslation) ∧
    (∀ o, 0 ≤ a.off → a.off < 2 ^ 40 → s.walkWaits p a.obj = false → s.obj? p a.obj = some o → s.findExt p o (a.off.toNat / 4096) = none →
      s.translate p a size need = if s.changingAny p a.obj then .stall else .fault clsTranslation) ∧
    ∀ o e x, 0 ≤ a.off → a.off < 2 ^ 40 → s.walkWaits p a.obj = false → s.obj? p a.obj = some o →
      s.findExt p o (a.off.toNat / 4096) = some (e, x) → s.waits p a.obj e x = false →
      let off := a.off.toNat
      ((o.len < off + size ∨ off % size ≠ 0) → s.translate p a size need = .fault clsBounds) ∧
      (off + size ≤ o.len → off % size = 0 →
        (need.holds o = false → s.translate p a size need = .fault clsPermission) ∧
        (need.holds o = true → s.translate p a size need =
          .ok (spaceBase x.tier x.loc + (x.pfn + (off / 4096 - x.start)) * 4096 + off % 4096) x.tier))) ∧
    ∀ (m : Memory) (a : Nat) (b : List Byte), Memory.wf m = true → Memory.wf (Memory.writeN m a b) = true ∧
      (∀ i, i < b.length → Memory.read (Memory.writeN m a b) (a + i) = b.getD i 0) ∧
      ∀ k, k < a ∨ a + b.length ≤ k → Memory.read (Memory.writeN m a b) k = Memory.read m k

/-- A fault of a round-mode forme voids its round (its core is the round-start one without tokens, its staging area empty) and one
of a stream-mode forme kills it, then the record goes to the forme's context; a fault of a galley drops the instance with its
younger ones, then posts. MULTI, whether the part found further faults of the round or instance, is the model's pick (log 18). A
record that the fault queue takes makes the context FAULTED with its old state kept, and the device sends one token to the named
handler, under the context's tag with a 16-bit field TAIL, its value TAIL and HND set; with no handler named, or after a record
that went without one (the model's reading, log 68), the record is copied to the host queue. (R342, R351, R352, R353, R354,
R355, R356, R358) -/
def Obligations.FaultEntry : Prop :=
  (∀ (s : State) (h x y port cls reason : Nat) (pay : Pay) (f : Forme), s.forme? h = some f →
    let head (prec : Nat) (multi : Bool) : FaultHead := { ctx := f.ctx, src := 0, srcid := h, cls := cls, prec := prec, reason := reason, multi := multi
                                                          loc := x % 256 * 2 ^ 10 + y % 256 * 4 + port % 4 }
    (f.cfg.stream = false → s.faultForme h x y port cls reason pay =
      ((s.pick 2).2.setForme f.void).postFault (head 0 ((s.pick 2).1 == 1)) (pay.bits 0 f.run.round) false (.round h) ∧
      f.void.status = .voided ∧ f.void.run.core = f.run.start.cleared ∧ f.void.run.staging = [] ∧ f.void.run.start = f.run.start ∧
      f.void.run.inlog = f.run.inlog ∧ f.void.run.core.links = [] ∧ f.void.run.core.tile = f.run.start.tile ∧ f.void.held = f.held ∧
      ∀ e ∈ f.void.run.core.elems, e.q0 = [] ∧ e.q1 = [] ∧ e.q2 = [] ∧ e.q3 = [] ∧ e.scales = []) ∧
    (f.cfg.stream = true → s.faultForme h x y port cls reason pay =
      (s.killForme f true).postFault (head 2 false) (pay.bits 0 0) false (.killed h))) ∧
    (∀ (s : State) (t node cls reason : Nat) (g : Galley) (pay : Pay), s.faultGalley t g node cls reason pay =
      ((s.pick 2).2.dropGalley t g).postFault
        { ctx := tagCtx g.tag, src := 1, srcid := t % 32, cls := cls, prec := 1, reason := reason, loc := node, multi := (s.pick 2).1 == 1 }
        (pay.bits g.seq 0) g.hnd (.galley t g.hdr g.tag g.seq)) ∧
    (∀ (s : State) (t : Nat) (g : Galley), ∀ x ∈ ((s.dropGalley t g).tile t).galleys, tagCtx x.tag = tagCtx g.tag → g.seq ≤ x.seq →
      x.dropped = true) ∧
    ∀ (s u : State) (head : FaultHead) (pay tail : Nat) (work : FaultWork) (x : Ctx), s.ctx? head.ctx = some x →
      s.postRing x.part x.fqb (faultRecord head pay) = some (.done u tail) →
      let y : Ctx := { x with state := .faulted, before := if x.state = .faulted then x.before else x.state, work := x.work ++ [work] }
      let v := x.fhnd.toNat
      (bit 31 v = true → x.noHandler = false → ∀ tag, pushTag (ctxTag x.id) 16 tail = some tag →
        s.postFault head pay false work = some ((u.setCtx { y with noHandler := false }).sendTile (x.part / 4 * 32 + bits 26 5 v)
          { tag := tag, port := BitVec.ofNat 2 (bits 24 2 v), node := BitVec.ofNat 14 (bits 0 14 v), hnd := true
            tok := { value := BitVec.ofNat 32 tail } })) ∧
      ((bit 31 v = false ∨ x.noHandler = true) → s.postFault head pay false work =
        (u.setCtx { y with noHandler := true }).postHost x.part (faultRecord head pay)) ∧
      s.postFault head pay true work = (u.setCtx { y with noHandler := true }).postHost x.part (faultRecord head pay)

/-- CMD 1, 2 or 3 on the context that CTX_SEL names is ERET action 0, 1 or 2 on it: with a record between HEAD and TAIL and a fault
queue that can be reached, it advances HEAD, applies the action to what the record stopped, and restores STATE when nothing is
left, as a committing ERET of the context does with its action (3 taken as 2); with no record it does nothing. CMD 4 kills a
live forme of the context, whose work then counts no longer, CMD 5 resumes a HALTED context, CMD 6 replays the work of the
records that could not be posted. Without a selected context every command does nothing (log 73); STATE is the one shown,
SWAPPED while a forme of the context is swapped out (log 95): both are the model's readings. Action 0 on a voided round starts
it again from its start with its logged tokens; on a killed forme it imposes it again where its chase is free, and where a live
forme stands there the image goes (the model's reading, log 102). (R224, R354, R356, R358, R359) -/
def Obligations.FaultReturn : Prop :=
  (∀ (s : State) (p : Nat) (x : Ctx), s.selected p = some x →
    (∀ (w : FaultWork) (l : List FaultWork) (hdr : List (Nat × Nat)), x.work = w :: l → s.ctx? x.id = some x →
      s.single x.part (Addr.ofVa x.fqb) 64 .both = .ok hdr → s.pendingFaults x ≠ 0 →
      let u := s.setCtx { x with work := l }
      u.single x.part (Addr.ofVa x.fqb) 64 .both = .ok hdr →
      let h := leNat (u.readPieces hdr)
      let acted (a : Nat) : State := ((u.writePieces hdr (leBytes 64 (setBits 0 32 h (bits 0 32 h + 1)))).resolve x.id a w).restoreState x.id
      exec (.ctxCmdReplay p) s = .next (acted 0) ∧ exec (.ctxCmdContinue p) s = .next (acted 1) ∧ exec (.ctxCmdKill p) s = .next (acted 2) ∧
      ∀ (t : Nat) (g : Galley) (e : Prepared) (r : Shell), e.act.instr = .eret r → tagCtx g.tag = x.id →
        s.performAct t g e = some (.ok (acted (min 2 (e.act.a.toNat % 4)), none, 0))) ∧
    (x.work = [] → s.ctx? x.id = some x →
      exec (.ctxCmdReplay p) s = .next s ∧ exec (.ctxCmdContinue p) s = .next s ∧ exec (.ctxCmdKill p) s = .next s) ∧
    (∀ (h : Nat) (f : Forme), s.forme? h = some f → f.isLive = true → f.ctx = x.id → exec (.ctxCmdKillForme p h) s =
      .next (((s.setCtx { x with unposted := x.unposted.filter fun w => w != .round h }).killForme f false).restoreState x.id)) ∧
    ((s.ctxShown x).state = .halted → exec (.ctxCmdResume p) s = .next ((s.setCtx { x with state := .runnable }).refreshSwapped x.id)) ∧
    ((s.ctxShown x).state ≠ .halted → exec (.ctxCmdResume p) s = .next s) ∧
    exec (.ctxCmdReplayUnposted p) s = .next (s.replayUnposted x.id)) ∧
    (∀ (s : State) (p h : Nat), s.selected p = none →
      exec (.ctxCmdReplay p) s = .next s ∧ exec (.ctxCmdContinue p) s = .next s ∧ exec (.ctxCmdKill p) s = .next s ∧
      exec (.ctxCmdKillForme p h) s = .next s ∧ exec (.ctxCmdResume p) s = .next s ∧ exec (.ctxCmdReplayUnposted p) s = .next s) ∧
    (∀ (s : State) (c h : Nat) (f : Forme), s.forme? h = some f → f.status = .voided →
      s.resolve c 0 (.round h) = s.setForme { f with
        status := .live, held := f.run.inlog ++ f.held
        run := { f.run with core := f.run.start, inlog := [], replaying := f.run.inlog.length + f.run.replaying } }) ∧
    ∀ (s : State) (c h : Nat) (f : Forme), s.forme? h = some f → f.status = .killed →
      (s.meets f.die f.cfg f.bx f.oy = [] → s.resolve c 0 (.killed h) = s.setForme { f with status := .entering, run := {}, since := s.clock }) ∧
      ((∃ o ∈ s.meets f.die f.cfg f.bx f.oy, o.isLive = true) → s.resolve c 0 (.killed h) = s.dropForme h)

/-- In a live forme without markers. The first token of its producer and consumer joins the element queue it is for when a place is
free. A FIFO tile that is not full takes the next token that has reached it, and sends the token at its head when its target has
credit. A window of an open stream fills by one line. In a round that is not sealed a read stream sends its next four bytes as a
word, and EOS at its end; a write stream of a stream-mode forme without a window takes an active word and writes it; an inactive
one moves its position on by 4; EOS ends it. A running pass sends its next word and moves on. (That an access also marks or
installs its range entry is the model's form of R310, log 31.) (R38, R164, R165, R166, R167, R169, R237, R249, R255, R256) -/
def Obligations.FabricEvents : Prop :=
  ∀ (s : State) (h : Nat) (f : Forme), s.forme? h = some f → f.status = .live → f.mark = none →
    let c := f.run.core
    (∀ (n x y k : Nat) (l : LinkTok) (t : Tok), c.links[n]? = some l → l.dst = .elem x y k → l.wire = .tok t → t ≠ Tok.marker → c.firstOn n l = true →
      ((c.elem x y).queue k).length < 8 →
      exec (.elementTokenArrival h n) s = .next (s.putCore f ((c.unlink n).setElem
        (((c.unlink n).elem x y).setQueue k (((c.unlink n).elem x y).queue k ++ [{ rt := l.rt, tok := t, age := s.clock, tag := l.tag }]))))) ∧
    (∀ (bay p n : Nat) (q : FifoState) (l : LinkTok) (t : Tok), c.fifo? bay = some q → c.nextFor bay = some (p, n, l, t) → q.ring.length < q.cap →
      exec (.fifoTileEnqueue h bay) s = .next (s.putCore f ((c.unlink n).setFifo
        { q with ring := q.ring ++ [{ rt := l.rt, tok := t, age := s.clock, tag := l.tag }] }))) ∧
    (∀ (bay : Nat) (q : FifoState) (t : QTok) (ring : List QTok), c.fifo? bay = some q → q.ring = t :: ring → f.sealed = false →
      c.unblocked (.fifo bay) = true → c.credit (.elem q.outx q.outy q.outport) = true →
      exec (.fifoTileDequeue h bay) s = .next (s.setCore f ((c.setFifo { q with ring := ring, head := (q.head + 1) % max 1 q.cap }).putLink
        { src := .fifo bay, dst := .elem q.outx q.outy q.outport, rt := t.rt, wire := .tok t.tok, tag := t.tag }))) ∧
    (∀ (bay n : Nat) (w : WinState) (b : List Byte), c.win? bay n = some w → w.valid = true → (c.slot bay n).opened = true → w.dirty = [] →
      let sl := c.slot bay n
      let lim := s.streamLimit f.part sl
      let len := min 128 (lim - w.head)
      let a := (Addr.ofVa sl.base).plus w.head
      w.head < lim → (w.head + 128 ≤ w.tail + w.size ∨ w.head + 128 ≤ sl.pos + w.size) → sl.write = false → s.limitWaits f.part sl = false →
      s.fetchRange f.part a len .read = some (.ok b) →
      ∃ u, exec (.winFill h bay n) s = .next u ∧ u.mem = s.mem ∧ ∃ g v, u.forme? h = some g ∧ g.run.core.win? bay n = some v ∧
        v.head = w.head + len ∧ v.tail = max w.tail (w.head + len - w.size)) ∧
    (∀ (bay n : Nat) (b : List Byte),
      let sl := c.slot bay n
      let lim := s.streamLimit f.part sl
      f.sealed = false → sl.opened = true → sl.write = false → sl.eos = false → c.unblocked (.ag bay n) = true → s.limitWaits f.part sl = false →
      (sl.pos = lim → exec (.streamReadWord h bay n) s = .next (s.putCore f ((c.setSlot bay { sl with eos := true }).putLink
        { src := .ag bay n, dst := sl.consumer, rt := sl.rt, wire := .tok .eos }))) ∧
      (sl.pos + 4 ≤ lim → s.streamBytes f bay sl 4 = some (.ok b) → b.length = 4 →
        let x := (Addr.ofVa sl.base).plus sl.pos
        let f' := f.touch x 4 0 (Size.bytes sl.size)
        exec (.streamReadWord h bay n) s = .next ((s.usePort f' bay x).putCore f'
          ((c.setSlot bay (sl.sends (c.links.filter (sl.wordOf bay)).length 4)).putLink
            { src := .ag bay n, dst := sl.consumer, rt := sl.rt, wire := .tok (.data (BitVec.ofNat 32 (leNat b))) })))) ∧
    (∀ (bay : Nat) (wp : Bool) (k : AgTok) (rest : List AgTok) (sl : Slot),
      let port := if wp then 3 else 2
      let d := c.setAg ((c.ag bay).setInput port rest)
      let f' : Forme := { f with run := { f.run with core := d } }
      (c.ag bay).input port = k :: rest → k.tok.flag ≠ .marker → (c.ag bay).writer wp = some sl → sl.eos = false →
      let at_ (u : State) : Out := .next (State.agDrain h bay 16 u)
      (k.tok.isEos = true → exec (.streamWriteWord h bay wp) s =
        at_ ((s.setForme f').putCore f' (d.setSlot bay { sl with eos := true }))) ∧
      (k.tok.isEos = false → k.tok.isActive = false → exec (.streamWriteWord h bay wp) s =
        at_ ((s.setForme f').putCore f' (d.setSlot bay { sl with pos := sl.pos + 4 }))) ∧
      ∀ pas : List Nat, k.tok.isEos = false → k.tok.isActive = true → f.cfg.stream = true → d.win? bay sl.n = none →
        (s.setForme f').limitWaits f.part sl = false → sl.pos + 4 ≤ (s.setForme f').streamLimit f.part sl →
        let a := (Addr.ofVa sl.base).plus sl.pos
        (s.setForme f').elems f.part a (Size.bytes sl.size) .write (elemCount 4 (Size.bytes sl.size)) = some (.ok pas) →
        ∃ u : State, exec (.streamWriteWord h bay wp) s = at_ u ∧ u.mem = (((s.setForme f').usePort f' bay a).streamStore (f'.touch a 4 1 (Size.bytes sl.size))
          bay sl pas (leBytes 4 k.tok.value.toNat)).2.mem) ∧
    ∀ (bay n : Nat) (q : Pass) (p : PlaneState), (c.slot bay n).pass = some q → c.unblocked (.ag bay (8 + n)) = true →
      c.plane? bay q.pid = some p →
      let sl := c.slot bay n
      (q.row < p.rows →
        let last := decide (p.wpr ≤ q.word + 1)
        exec (.planePassWord h bay n) s = .next (s.putCore f ((c.setSlot bay { sl with
            pass := some { q with word := if last then 0 else q.word + 1, row := if last then q.row + 1 else q.row } }).putLink
          { src := .ag bay (8 + n), dst := q.consumer, rt := q.rt, wire := .tok (if p.sleeps q then .dormant else .data (c.passWord p q)) }))) ∧
      (p.rows ≤ q.row → exec (.planePassWord h bay n) s = .next (State.agDrain h bay 16 (s.putCore f
        ((c.setSlot bay { sl with pass := none }).putLink { src := .ag bay (8 + n), dst := q.consumer, rt := q.rt, wire := .tok .eos }))))

/-- A token at the head of a tile's links whose context does not exist or is one of another partition is dropped and reported as a
stray token; one of an open instance joins the matching store, and a copy of one from outside is kept. Below LWM the oldest
spilled entry returns to the store. The committing instance, its checks passed, commits; a check that fails drops it with a
fault at that node. A galley whose only record is a store writes the bytes, sends its tokens and closes. When SLICE runs out, no
context is favoured. Pre-emption of a context saves its entries, ready instances and held tokens; its open instances are dropped
from the oldest on and their inputs are saved. The model's choices: a check that fails only as its record is performed drops the
instance too (log 47); the age that a token takes at its acceptance (log 48); a context may be pre-empted at any step (log 49);
the value 0 of a store's token (log 114); the range entries that a commit marks (log 31). (R42, R44, R45, R142, R144, R152,
R157, R193, R300, R326) -/
def Obligations.TileEvents : Prop :=
  (∀ (s : State) (t : Nat) (k : PTok) (l : List PTok), (s.tile t).inbox = k :: l →
    let d := s.tile t
    let taken := s.setTile { d with inbox := l }
    let k' : PTok := { k with age := if k.age = 0 then s.clock else k.age }
    ((s.ctx? (tagCtx k.tag) = none ∨ (∃ x, s.ctx? (tagCtx k.tag) = some x ∧ x.part ≠ s.unitPart t) ∨ d.record? k.node.toNat = none ∨ d.header? k.node.toNat = none) → ∀ u,
      taken.stray (s.unitPart t) 1 (t % 32) k' = some u → exec (.matchTokenAccept t 0) s = .next (u.setTile (u.tile t).spent)) ∧
    ∀ (x : Ctx) (i : Instr) (r : Shell) (n : Nat) (g : Galley) (u : State), s.ctx? (tagCtx k.tag) = some x → d.record? k.node.toNat = some i →
      d.header? k.node.toNat = some n → i.shell? = some r → x.part = s.unitPart t → k.port.toNat ∈ expectedPorts r → d.galley? n k.tag = some g →
      taken.storeIn t g i r k' = some u → exec (.matchTokenAccept t 0) s = .next (u.setTile (u.tile t).spent)) ∧
    (∀ (s : State) (t : Nat) (g : Galley) (i : Instr) (r : Shell) (k : PTok) (d : DTile) (st : Sticky),
      let inside := k.src == .inst g.hdr g.tag
      let g' := { g with inputs := if inside then g.inputs else g.inputs ++ [k], last := s.clock, heard := if inside then g.heard else s.clock }
      let s' := s.setGalley t g'
      (s'.tile t).store (s'.spillRoom t) i r k = .done d st → s'.spillWaits d = false →
        s.storeIn t g i r k = some (s'.keepTile (d.setGalley { g' with sticky := g.sticky ||| st }))) ∧
    (∀ (s : State) (t : Nat) (d : DTile), s.homeReady (t / 32) 0 (t / 32) = true → (s.tile t).refill = some d →
      exec (.spillRefill t) s = .next (s.setTile d) ∧ (s.tile t).occ < (s.tile t).low ∧
      ∃ e ∈ (s.tile t).entries, e.spilled = true ∧ (∀ x ∈ (s.tile t).entries, x.spilled = true → e.age ≤ x.age) ∧
        d.entries = (s.tile t).entries.map fun x => if x == e then { x with spilled := false } else x) ∧
    (∀ (s : State) (t : Nat) (g : Galley), (s.tile t).committing = some g →
      (s.tile t).mayCommit g = true ∧
      (∀ (ps : List Prepared) (u : State),
        s.prepAll (s.unitPart t) (tagCtx g.tag) (sortBy (fun (a b : Act) => decide (a.node < b.node)) g.acts) = some (.ok ps) →
        s.commitNow t g ps = some (.ok u) → exec (.galleyCommit t) s =
          .next (ps.foldl (fun v q => if q.act.obj = 0 then v else v.useXl (t / 32) (64 + t % 32) (v.unitPart t) q.act.addr) u)) ∧
      (∀ (node : Nat) (e : Failed) (u : State), let checks := s.prepAll (s.unitPart t) (tagCtx g.tag) (sortBy (fun (a b : Act) => decide (a.node < b.node)) g.acts)
        (checks = some (.error (node, e)) ∨ ∃ ps, checks = some (.ok ps) ∧ s.commitNow t g ps = some (.error (node, e))) →
        s.faultGalley t g node e.cls 0 (.access e.va e.size e.kind) = some u → exec (.galleyCommit t) s = .next u) ∧
      ∀ (a : Act) (pa tier : Nat) (u : State), g.acts = [a] → isStore a.instr = true → g.holds = [] →
        s.translate (s.unitPart t) a.addr a.size .write = .ok pa tier →
        ((((s.writeN pa (leBytes a.size a.a.toNat)).writeKregs g).closeGalley t g).foldStatus (tagCtx g.tag)
          g.sticky).sendOuts t g (g.outs ++ g.answers a 0) = some u → exec (.galleyCommit t) s =
            .next (if a.obj = 0 then u else u.useXl (t / 32) (64 + t % 32) (u.unitPart t) a.addr)) ∧
    (∀ (s : State) (t : Nat), exec (.favourSliceExpiry t) s = .next (s.setTile { s.tile t with favoured := none })) ∧
    (∀ (d : DTile) (c clock : Nat) (opened : List Galley), ∃ p : SavedPool, (d.poolOut c opened clock).savedPools = d.savedPools ++ [p] ∧
      p.ctx = c ∧ p.entries = (d.entries.filter fun e => tagCtx e.tag == c) ∧ p.ready = (d.ready.filter fun i => tagCtx i.tag == c) ∧
      ∀ k, k ∈ p.toks ↔ (∃ x ∈ d.galleys, x.dropped = true ∧ (∃ o ∈ opened, o.hdr = x.hdr ∧ o.tag = x.tag ∧ o.seq = x.seq) ∧ k ∈ x.inputs) ∨
        (k ∈ d.held ∧ tagCtx k.tag = c)) ∧
    ∀ (s : State) (t c : Nat) (x : Ctx), s.ctx? c = some x → x.part = s.unitPart t → (∀ p ∈ (s.tile t).savedPools, p.ctx ≠ c) →
      let d := s.tile t
      let mine (q : Tag) : Bool := tagCtx q == c
      (∀ g ∈ d.openOf c, (d.redone.filter fun r => r == (g.hdr, g.tag)).length < 3) →
      (∀ g ∈ d.openOf c, (∀ o ∈ d.openOf c, o = g ∨ g.seq < o.seq) →
        let v := s.dropGalley t g
        let u := v.giveBits t ((v.tile t).droppedFrom c g.seq)
        exec (.pooledPreempt t c) s = .next (u.setTile ((u.tile t).poolOut c (d.openOf c) s.clock))) ∧
      (d.openOf c = [] → exec (.pooledPreempt t c) s = .next (s.setTile (DTile.spent { d with
        entries := d.entries.filter fun e => !(mine e.tag)
        ready := d.ready.filter fun i => !(mine i.tag)
        held := d.held.filter fun k => !(mine k.tag)
        savedPools := d.savedPools ++ [{ ctx := c, entries := d.entries.filter fun e => mine e.tag
                                         ready := d.ready.filter fun i => mine i.tag
                                         toks := d.held.filter fun k => mine k.tag, since := s.clock }] })))

/-- The quiescence tree reports a chase that is not busy: a swap that waits has its report. A swap that is still waiting when its
bound expires on a chase that is busy is refused with a stray-token record and sends 0; where the chase is not busy the report
decides. After the report the standing planes enter, the live forme stands again, and the tokens held at its boundary go over;
at the first live cycle a forme starts from its image and FSWAP sends 1. A marker that reaches an element port is noted, the
element saves and passes markers on; one that reaches a FIFO tile is noted by its arc, one at an array generator under the
number 256 plus its bay (the model's choice, log 43). When all has saved, MARKER sends 1 and the chase is saved; when its bound
expires it sends 0 and posts a quiescence timeout. A QUIESCE whose bound expires sends 0. A round that may commit performs in
one step what pooled galleys handed over, its staged stores, then its staged atomics by y, x, route tag and age, the barriers,
the events and releases, its deposits, and lets its tokens leave (that these wait for the commit is the model's reading, log
27); a store whose check fails voids the round and leaves nothing performed. With nothing staged it ends at once. Its ROUNDENDs
send the round number, which rises by 1. (R185, R186, R244, R245, R246, R247, R249, R251, R319, R320, R321, R322) -/
def Obligations.SwapAndMarkerEvents : Prop :=
  (∀ (s : State) (h : Nat) (f : Forme), s.forme? h = some f →
    (s.liveOn f = none → f.swap = .waiting → exec (.quiescenceReport h) s = .next (s.setForme { f with swap := .reported })) ∧
    (∀ g, s.liveOn f = some g → g.busy = false → g.run.eosSeen = false → f.swap = .waiting →
      exec (.quiescenceReport h) s = .next (s.setForme { f with swap := .reported })) ∧
    (∀ (g : Forme) (u : State), f.swap = .waiting → s.liveOn f = some g → g.busy = true → let v := s.strayPay g
      v.2.postPart f.part { ctx := g.ctx, src := 0, srcid := g.handle, cls := clsStray, prec := 3 } v.1 = some u →
      exec (.fswapBoundExpiry h) s = .next ((u.setForme { f with swap := .idle, reply := none }).answerOpt f.reply (.data 0)).retryLoads) ∧
    (∀ g, s.liveOn f = some g → g.busy = false → exec (.fswapBoundExpiry h) s = .next s) ∧
    (f.swap = .reported → f.status = .standing →
      let e : Forme := { f with status := .entering, swap := .idle, run := f.cfg.start, mark := none, since := s.clock }
      (s.liveOn f = none → exec (.planeExchange h) s = .next (s.setForme e)) ∧
      ∀ g, s.liveOn f = some g → exec (.planeExchange h) s = .next (((s.doorsAbsent g.part g.handle).setForme { g with
        status := .standing, swap := .idle, run := {}, held := [], mark := none, reply := none, yielded := false }).setForme
          { e with held := e.held ++ g.held })) ∧
    (f.status = .entering → f.mark = none → exec (.formeFirstLiveCycle h) s =
      .next (((((s.unowed f.part h).setForme { f with
        run := f.cfg.start, held := f.cfg.savedHeld ++ f.held, status := .live, since := s.clock, reply := none, yielded := false }).answerOpt f.reply (.data 1)).refreshSwapped f.ctx).retryLoads)) ∧
    (∀ (n : Nat) (l : LinkTok) (g : Forme) (m : Mark), f.takeMarker n = some (l, g) → g.mark = some m →
      (∀ x y k, l.dst = .elem x y k → exec (.elementMarkerArrival h n) s =
        .next (s.setForme ((Forme.saveElem { g with mark := some { m with ports := m.ports ++ [(x, y, k)] } } x y).passMark x y))) ∧
      (∀ bay k, l.dst = .ag bay k → exec (.elementMarkerArrival h n) s =
        .next (s.setForme { g with mark := some { m with arcs := m.arcs ++ [(256 + bay, k)] } })) ∧
      ∀ bay k x y, l.dst = .tile bay k → l.src = .elem x y → exec (.fifoMarkerArrival h n) s =
        .next (s.setForme { g with mark := some { m with arcs := m.arcs ++ [(bay, g.arcOf bay l.src)] } })) ∧
    (∀ (m : Mark) (u : State) (g : Forme), f.mark = some m → f.status = .live → f.unsaved = 0 → f.run.core.links = [] → s.flushAll f = some u →
      u.forme? h = some g → exec (.markerSaveComplete h) s = .next ((u.setForme { g with
        status := .saved, mark := some { m with linkToks := sortBy (fun a b => keyLt a.key b.key) m.linkToks } }).answerOpt m.reply (.data 1))) ∧
    (∀ (m : Mark) (u : State), f.mark = some m → f.status = .live →
      s.postPart f.part { ctx := f.ctx, src := 0, srcid := h, cls := clsQuiesce, prec := 3 } (min 65535 f.unsaved * 2 ^ 48) = some u →
      exec (.markerBoundExpiry h) s = .next ((u.setForme { f with status := .marked, mark := none }).answerOpt m.reply (.data 0))) ∧
    (∀ (u₀ : State) (g : Forme), f.mayCommit = true → Round.each (fun s a => s.handedNow h a) s f.run.handed = .ok u₀ → u₀.forme? h = some g →
      let ordered := sortBy (fun (a b : Staged) => keyLt a.key b.key) g.run.staging
      (∀ u₁ u₂ u₃ u₄ u₅ : State, Round.each (fun s w => s.storeNow f.part w) u₀ g.run.staging = .ok u₁ →
        Round.each (fun s w => s.atomicNow h w) u₁ ordered = .ok u₂ → Round.each (fun s w => s.syncNow h w) u₂ ordered = .ok u₃ →
        Round.each (fun s w => s.restNow h w) u₃ ordered = .ok u₄ → Round.each (fun s d => s.depositNow f d) u₄ f.run.core.roundDeposits = .ok u₅ →
        exec (.roundCommit h) s = .next ((g.run.staging.foldl State.leaveNow u₅).roundDone h)) ∧
      ∀ (x y cls va size kind : Nat) (u : State), Round.each (fun s w => s.storeNow f.part w) u₀ g.run.staging = .void x y cls va size kind →
        s.faultForme h x y 0 cls 0 (.access va size kind) = some u → exec (.roundCommit h) s = .next u) ∧
    (∀ (w : Staged) (va : VA) (b : List Byte) (l : List (Nat × Nat)), w.work = .store va b →
      (s.range f.part (Addr.ofVa va) b.length .write = .ok l → s.storeNow f.part w = .ok (s.writePieces l b)) ∧
      ∀ c, s.range f.part (Addr.ofVa va) b.length .write = .fault c → s.storeNow f.part w = .void w.x w.y c (Addr.ofVa va).va b.length 1) ∧
    (∀ (w : Staged) (i : Instr) (a b v raw : Word), w.work = .act i a b v → Instr.atomicRaw i = some raw →
      let bay := tileBay w.x w.y (raw.extractLsb' 6 6) (raw.extractLsb' 0 6)
      let r := atomicStep i true f.ctx (BitVec.ofNat 32 (f.run.core.stagedRead bay a.toNat 4)) b v
      w.key = [w.y, w.x, w.rt.toNat, w.n] ∧ s.atomicNow h w =
        .ok (s.putCore f ((f.run.core.backWrite bay a.toNat (leBytes 4 r.1.toNat)).stick w.x w.y r.2.2))) ∧
    (f.mayCommit = true → f.run.staging = [] → f.run.handed = [] → f.run.core.roundDeposits = [] →
      exec (.roundCommit h) s = .next (s.roundDone h))) ∧
    (∀ (s : State) (h : Nat) (f : Forme), s.forme? h = some f → ∃ g, (s.roundDone h).forme? h = some g ∧
      g.run.round = (f.run.round + 1) % 2 ^ 32 ∧ g.run.core.ends = [] ∧ g.run.staging = [] ∧ g.run.core.written = [] ∧
      g.run.start.tile = g.run.core.tile ∧ g.run.roundOpen = false) ∧
    ∀ (s : State) (tile node : Nat) (tag : Tag) (r : Shell) (f : Firing) (t : State),
      (∃ q ∈ s.quiesces, q.tile = tile ∧ q.node = node ∧ q.tag = tag) → (s.tile tile).record? node = some (.quiesce r) →
      s.gatherInst tile node tag = some (f, t) → exec (.quiesceBoundExpiry tile node tag) s =
        .next (({ t with quiesces := t.quiesces.filter fun q => !(q.tile == tile && q.node == node && q.tag == tag) } : State).sendBoth f r (.data 0))

/-- A host write to an ingress window that is not 16 bytes at a multiple of 16, or no well-formed token of its door, is counted as
malformed; a token that its door takes is delivered, held, starts a load or is discarded as the door's STATE says. A write of a
door entry binds or unbinds the door, and waits while it loads. A write of a job entry with VALID launches the job. A door whose
image is malformed, or whose overlay fails a check, posts an illegal configuration and fails with reason 2, its held tokens
discarded and counted; an overlay that no tile of the partition has room for fails with reason 1, and waits while such a tile is
still to come up. A forme door whose image passes takes a chase and its forme enters, or waits; then the held tokens are
delivered. The queue that the scheduler selects launches one token. The selected forme is pre-empted by markers; once it is
saved it is swapped out. What waits first for a chase that it fits is restored: a swapped forme enters with its saved state at
an origin that fits now. The model's choices: the slot is the lowest free one that the image fits (log 57); a launch performs
first the returns of dropped galleys kept for the partition (log 88); what counts as malformed (log 50), how a failed load is
posted (log 58), the RO fields that a binding clears (log 84). (R31, R288, R289, R290, R291, R293, R296, R302, R324, R325, R327,
R337) -/
def Obligations.LaunchEvents : Prop :=
  (∀ (s : State) (p : Nat) (q : Part), s.part? p = some q →
    (∀ (off len : Nat) (v : BitVec 128), off < 16384 → (len ≠ 16 ∨ off % 16 ≠ 0 ∨ parseToken v.toNat = none) →
      exec (.ingressWrite p off len v) s = .next (s.setPart { q with malf := if q.malf < 65535 then q.malf + 1 else 65535 })) ∧
    (∀ (off : Nat) (v : BitVec 128) (k : PTok), off < 16384 → off % 16 = 0 → s.partReady p = true → parseToken v.toNat = some k →
      let e := q.door (off / 256)
      e.takes k = true →
      (e.state = .absent → exec (.ingressWrite p off 16 v) s = .next (s.setPart (q.setDoor { e with state := .loading, held := [k] }))) ∧
      (e.state = .loading → e.held.length < 4096 → exec (.ingressWrite p off 16 v) s =
        .next (s.setPart (q.setDoor { e with held := e.held ++ [k] }))) ∧
      (e.state = .loading → 4096 ≤ e.held.length → exec (.ingressWrite p off 16 v) s =
        .next (s.setPart { q with ovrun := satAdd 65535 q.ovrun 1 })) ∧
      (e.state = .failed → exec (.ingressWrite p off 16 v) s = .next (s.setPart { q with faild := satAdd 65535 q.faild 1 })) ∧
      (e.state = .resident → e.forme = false → exec (.ingressWrite p off 16 v) s =
        .next (s.sendTile (p / 4 * 32 + e.tile) { k with node := BitVec.ofNat 14 (e.base + k.node.toNat) }))) ∧
    (∀ (d : Nat) (v : BitVec 128), let e := q.door (d % 64)
      let q' := q.dropWide (0x200 + 2 * (d % 64)) 2
      (e.state = .loading → exec (.doorEntryWrite p d v) s = .next ((s.setPart q').setPart (q'.setDoor { e with pending := some v }))) ∧
      (e.state ≠ .loading → exec (.doorEntryWrite p d v) s = .next ((s.setPart q').setPart (q'.setDoor (e.bind v))))) ∧
    (∀ (j : Nat) (v : BitVec 256), v.getLsbD 156 = true → let q' := q.dropWide (0x800 + 4 * (j % 64)) 4
      ∃ e : Job, exec (.jobEntryWrite p j v) s = .next ((s.setPart q').setPart (q'.setJob e)) ∧
      e.start = s.fru.now ∧ e.done = 0 ∧ e.level = 0 ∧ e.drops = 0 ∧ e.valid = true ∧ e.sec = bits 208 48 v.toNat ∧ e.ns = bits 178 30 v.toNat ∧
      e.total = bits 96 32 v.toNat) ∧
    (∀ d : Nat, let e := q.door d
      e.state = .loading → e.forme = true →
      let to_ (u : State) : Prop := exec (.doorLoadRetry p d) s = .next u ∧ exec (.doorLoadDone p d) s = .next u
      (∀ (b : Failure) (u : State), s.readImage p e.image = .bad b → s.postIllegal true p e.ctx.toNat e.d b = some u → to_ (u.doorFail p e 2)) ∧
      (∀ (c va : Nat) (u : State), s.readImage p e.image = .fault c va → s.doorFault p e c va = some u → to_ u) ∧
      ∀ g : FormeCfg, s.readImage p e.image = .ok g →
        (∀ (h : Nat) (v : State) (f : Forme) (u : State), s.takeChase p e.ctx.toNat g autoPlace = some (some (h, v)) → v.forme? h = some f →
          (v.setForme { f with status := .entering, run := g.start, door := some e.d, since := v.clock }).doorDone p { e with base := h } = some u →
          to_ (u.reweigh p)) ∧
        ((s.takeChase p e.ctx.toNat g autoPlace = none ∨ s.takeChase p e.ctx.toNat g autoPlace = some none) → to_ s)) ∧
    (∀ (d : Nat) (b : List Byte), let e := q.door d
      e.state = .loading → e.forme = false → 12 * e.nrec ≤ 65532 → s.fetchRange p (Addr.ofVa e.image) (12 * e.nrec) .exec = some (.ok b) →
      let ws := overlayWords b
      (∀ (r : Failure) (u : State), checkOverlay ws = some r → s.postIllegal true p e.ctx.toNat e.d r = some u →
        exec (.doorLoadDone p d) s = .next (u.doorFail p e 2)) ∧
      (checkOverlay ws = none → s.roomiest p ws.length = none →
        exec (.doorLoadDone p d) s = .next (if s.tileToCome p ws.length then s else s.doorFail p e 1)) ∧
      ∀ (t base : Nat) (v u : State), checkOverlay ws = none → s.roomiest p ws.length = some t → s.placeOverlay t ws (some e.d) = some (base, v) →
        v.doorDone p { e with base := base, tile := t % 32 } = some u → exec (.doorLoadDone p d) s = .next u) ∧
    (∀ (e : Door) (reason : Nat), e.pending = none → ∃ q' : Part, (s.doorFail p e reason).part? p = some q' ∧ (q'.door e.d).state = .failed ∧
      (q'.door e.d).reason = reason ∧ (q'.door e.d).held = [] ∧ q'.faild = satAdd 65535 q.faild e.held.length) ∧
    (∀ (v : QueueView) (t : Tag) (r : Part) (u : State), let s' := s.lateReturns p
      s'.part? p = some r → s'.selectQueue r = some v → r.p = p →
      pushTag (ctxTag v.hctx) 16 (v.launches % 65536) = some t →
      let q' : Part := { r with queues := r.queues.map fun e => if e.q == v.q then { e with launches := e.launches + 1 } else e }
      ((s'.writePieces v.pieces (leBytes 64 (setBits 449 8 v.desc (bits 449 8 v.desc + 1)))).setPart q').doorToken p q'
        (q'.door (bits 489 6 v.desc)) { tag := t, port := BitVec.ofNat 2 (bits 473 2 v.desc), node := BitVec.ofNat 14 (bits 475 14 v.desc)
                                        tok := .data (BitVec.ofNat 32 (bits 465 8 v.desc * 256 + v.q)) } = some u →
      exec (.queueLaunch p) s = .next u) ∧
    (∀ (h : Nat) (f : Forme), s.forme? h = some f → f.part = p → f.handle = h → s.victim q = some f → s.markable p h = some f →
      exec (.formePreempt h) s = .next (s.setForme { f.inject none with since := s.clock })) ∧
    (∀ (h o : Nat) (f : Forme), s.forme? h = some f → f.isSwapped p = true → s.doorAhead p (s.prio f.ctx) = false →
      s.originFor p f.cfg true = some o → ∃ (t : State) (g : Forme), ([8 - s.prio f.ctx, f.since, 0, f.handle], t) ∈ s.waitingOut p ∧
        t.forme? h = some g ∧ g.status = .entering ∧ g.bx = o % 16 ∧ g.oy = o / 16 ∧ g.held = f.held ∧ g.since = s.clock ∧ t.mem = s.mem) ∧
    ∀ e : List Nat × State, leastBy (fun (a b : List Nat × State) => keyLt a.1 b.1) (s.waitingOut p) = some e →
      exec (.formeRestore p) s = .next e.2) ∧
    ∀ (s : State) (h : Nat) (f : Forme), s.forme? h = some f → f.status = .saved → f.leaving = true →
      exec (.shadowSwap h) s = .next ((((s.doorsAbsent f.part h).setForme { f with
        status := .swapped (if f.imageSize ≤ 41943040 then s.freeSlot f.die else none), since := s.clock, yielded := false }).refreshSwapped
          f.ctx).retryLoads)

/-- At a round commit of a forme of a running job, DONE rises by 1 and a request of DEGRADE takes force; then a DEADLINE job that is
not finished, has a level below the one it stands at, and is estimated to end later than its release time less the guard goes
one level down and counts a drop; LEVEL never falls. (R220, R304) -/
def Obligations.JobCommit : Prop :=
  ∀ (j : Job) (now : Nat), let k := (j.commit now).1
    let level := max j.level (j.request.getD 0)
    let est : Int := now + ((now : Int) - j.start) * ((j.total : Int) - ((j.done + 1 : Nat) : Int)) / ((j.done + 1 : Nat) : Int)
    let late := decide (((j.sec * 10 ^ 9 + j.ns : Nat) : Int) - ((j.guardUs * 1000 : Nat) : Int) < est)
    k.done = (j.done + 1) % 2 ^ 32 ∧ k.request = none ∧ j.level ≤ k.level ∧ k.start = j.start ∧ k.total = j.total ∧ k.valid = j.valid ∧
    ((j.bestEffort = true ∨ j.total ≤ j.done + 1 ∨ j.nlevm1 ≤ level ∨ late = false) → k.level = level ∧ k.drops = j.drops) ∧
    (j.bestEffort = false → j.done + 1 < j.total → level < j.nlevm1 → late = true →
      k.level = level + 1 ∧ k.drops = min 255 (j.drops + 1)) ∧
    ((j.commit now).2 = true ↔ k.level ≠ j.level)

/-- Once die 0's L2 is READY, before which an access waits: a host write of a low half of a register that is not short waits in its
latch, of a high half writes the register with the half that waits, and a full write writes it; a read of a low half latches the
high half, which a read of that takes, and a full read needs no latch. CLR of ISSUE_STAT and of INGRESS_STAT clears every count.
BEGIN with no change running on an object with that extent stops it: STATE becomes BUSY and MOV is set, then HELD. END of a held
change that passes its checks steps GEN, clears MOV and returns to IDLE; one that fails is REFUSED with reason 5; ABORT clears
MOV. A walk installs the entry it finds. A change of SPLIT without allocated contexts takes effect, with one it is refused. A
host access writes ready memory, but for REPORT's bytes. The model's choices: a half that waits (log 40); BEGIN purges in its
own step (log 38); END and ABORT are followed by the returns of dropped galleys that waited for them (log 88). (R48, R268, R310,
R313, R317, R336, R338, R339, R340, R376) -/
def Obligations.RegisterEvents : Prop :=
  (∀ (s : State) (p : Nat) (q : Part), s.part? p = some q →
    (∀ (n : Nat) (v : BitVec 64), regShort n = false →
      (s.barShown = false → ∀ a, exec (.registerWrite a n v) s = .next s ∧ exec (.registerRead a n) s = .next s) ∧
      (s.barShown = true → exec (.registerWrite (.low p) n v) s = .next (s.setPart { q with barWrite := some (n, v.extractLsb' 0 32) })) ∧
      (∀ u, s.barShown = true → s.regWrite { part := p } n v = some u → exec (.registerWrite (.full p) n v) s = .next u) ∧
      ∀ (lo : Word) (u : State), s.barShown = true → q.barWrite = some (n, lo) →
        (s.setPart { q with barWrite := none }).regWrite { part := p } n (v.extractLsb' 0 32 ++ lo) = some u →
        exec (.registerWrite (.high p) n v) s = .next u) ∧
    (s.barShown = true → ∀ n, let v := (s.regRead { part := p } n).getD 0
      (n ≠ 0x2001 → exec (.registerRead (.low p) n) s = .next (s.setPart { q with barRead := some (n, BitVec.ofNat 32 (v / 2 ^ 32)) }) ∧
        (s.hostRegRead (.low p) n).1 = BitVec.ofNat 64 (v % 2 ^ 32) ∧
        exec (.registerRead (.full p) n) s = .next s ∧ (s.hostRegRead (.full p) n).1 = BitVec.ofNat 64 v ∧
        (q.barRead = none → exec (.registerRead (.high p) n) s = .next s ∧ (s.hostRegRead (.high p) n).1 = BitVec.ofNat 64 (v / 2 ^ 32))) ∧
      ∀ w : Word, q.barRead = some (n, w) → exec (.registerRead (.high p) n) s = .next (s.setPart { q with barRead := none }) ∧
        (s.hostRegRead (.high p) n).1 = w.setWidth 64) ∧
    exec (.ingressStatClr p) s = .next (s.setPart { q with hqlost := 0, faild := 0, ovrun := 0, malf := 0 }) ∧
    (∀ (c : ExtChange), q.change = some c → c.held = false →
      ((s.obj? p c.obj).any fun o => s.windowsLeft p c.obj (s.changePages p o c.idx)) = false →
      exec (.extChgHeld p) s = .next (s.setPart { q with extState := .held, extReason := 0, change := some { c with held := true } })) ∧
    (∀ (v : BitVec 64) (o : Obj), q.change = none → s.obj? p (bits 0 24 v.toNat) = some o →
      let idx := bits 40 16 v.toNat
      (idx = 65535 ∨ idx < o.ecnt) → s.reclaimingOver p (bits 0 24 v.toNat) (s.changePages p o idx) = false →
      let u := (s.purge p (bits 0 24 v.toNat) (s.changePages p o idx)).setMov p o idx true
      ∀ q', u.part? p = some q' → exec (.extChgBegin p v) s =
        .next (u.setPart { q'.extFields v with extState := .busy, extReason := 0, change := some ⟨idx, bits 0 24 v.toNat, false⟩ })) ∧
    ∀ (v : BitVec 64) (c : ExtChange) (o : Obj), q.change = some c → c.held = true → s.rawObj p c.obj = some o →
      let q' := q.extFields v
      (s.changeOk p o c.idx = true → exec (.extChgEnd p v) s = .next ((((s.closeChange p c.obj c.idx true).setPart
        { q' with extState := .idle, extReason := 0, change := none }).lateReturns p).resumeReclaims)) ∧
      (s.changeOk p o c.idx = false → exec (.extChgEnd p v) s =
        .next (((s.setPart { q' with extState := .refused, extReason := 5 }).lateReturns p).resumeReclaims)) ∧
      exec (.extChgAbort p v) s = .next ((((s.closeChange p c.obj c.idx false).setPart
        { q' with extState := .idle, extReason := 0, change := none }).lateReturns p).resumeReclaims)) ∧
    (∀ (s : State) (t : Nat), exec (.issueStatClr t) s = .next (s.setTile { s.tile t with instances := 0, issues := 0 })) ∧
    (∀ (s : State) (die : Nat) (d : Die), s.die? die = some d →
      (∀ (xl p : Nat) (va : VA) (e : RangeEntry), s.walkEntry xl p va = some e →
        exec (.walkerWalk die xl p va) s = .next (s.setDie { d with ranges := installEntry d.ranges e })) ∧
      ∀ v : BitVec 64, v.getLsbD 2 = false → v.extractLsb' 0 2 ≠ 3 → v.extractLsb' 0 2 ≠ d.split →
        ((∀ c ∈ s.ctxs, c.part / 4 ≠ die) → exec (.dieSplitWrite die v) s =
          .next ((s.setDie { d with split := v.extractLsb' 0 2, splitRefused := false }).firmwareParts die)) ∧
        ((∃ c ∈ s.ctxs, c.part / 4 = die) → exec (.dieSplitWrite die v) s = .next (s.setDie { d with splitRefused := true }))) ∧
    ∀ (s : State) (a n : Nat) (v : BitVec 512), a / Config.dramBytes < 4 → s.homeReady 0 0 (a / Config.dramBytes) = true →
      exec (.hostMemAccess true a n v) s =
        .next (s.hostWrite (spaceBase 0 (a / Config.dramBytes) + a % Config.dramBytes) (leBytes (min 64 n) v.toNat)) ∧
      exec (.hostMemAccess false a n v) s = .next s ∧
      ∀ (x : Nat) (b : List Byte), ((∀ k < b.length, reportByte (x + k) = false) → s.hostWrite x b = s.writeN x b) ∧
        ∀ y, reportByte y = true → Memory.read (s.hostWrite x b).mem y = Memory.read s.mem y

/-- PMODE reads the mode written from that step on, codes 5 to 7 are ignored; a clock domain goes to its figure, and a throttle
never above it nor in STAGE. FWGO starts the check from WAIT or REJECTED; the check ends in RUN or REJECTED. CECLR clears CECNT.
Power-up restores the reset values. A GROUP that comes up once firmware runs, and a unit, is marked in the readiness map; a
change of the map fires vector 16. An edge with FRU_TOD written sets the counter; 2 s without one end LOCKED; a read of NOWS
latches NOWNS; a release fires when due and leaves its slot. A retrain is counted; one that ends stalls nothing more; a link
that fails is DOWN in LINK_STAT and in the readiness map before the faults are posted. A correctable error counts in CECNT and
changes nothing else; an uncorrectable one with an intact source runs a round again. A stall past the watchdog interval is a
watchdog fault. The model's choices: an edge without FRU_TOD written does nothing (log 51); what power-up leaves in memory (log
54); CRC-32 is that of IEEE 802.3 (log 74); a retrain stalls nothing in the model (log 53); where a watchdog fault points (log
55). (R26, R345, R348, R349, R357, R360, R375, R376, R377, R380, R381) -/
def Obligations.ModuleEvents : Prop :=
  (∀ s : State,
    (∀ m : BitVec 3, exec (.pmodeWrite m) s = .next (if m.toNat < 5 then { s with pmode := m } else s)) ∧
    (∀ d, exec (.clockDomainSwitch d) s = .next { s with clocks := s.clocks.set d ((modeClocks s.pmode).getD d 0) }) ∧
    (∀ d n, exec (.clockThrottle d n) s =
      .next (if s.pmode = 3 then s else { s with clocks := s.clocks.set d (min n ((modeClocks s.pmode).getD d 0)) })) ∧
    (s.fwst = .wait ∨ s.fwst = .rejected → exec .fwgo s = .next { s with fwst := .check }) ∧
    (s.fwst = .check ∨ s.fwst = .run → exec .fwgo s = .next s) ∧
    (s.fwst = .check → s.homeReady 0 0 0 = false → exec .fwCheckDone s = .next s) ∧
    (s.fwst = .check → s.homeReady 0 0 0 = true → ∃ u, exec .fwCheckDone s = .next u ∧ (u.fwst = .run ∨ u.fwst = .rejected) ∧
      (u.fwst = .run → s.readLe (bringUp + 4) 4 ≤ 48 * 2 ^ 20 ∧
        crc32 (s.readN (bringUp + 4096) (s.readLe (bringUp + 4) 4)) = s.readLe bringUp 4)) ∧
    exec .ceclr s = .next { s with cecnt := 0 } ∧
    (∃ u, exec .powerUp s = .next u ∧ u.parts = State.reset.parts ∧ u.dies = State.reset.dies ∧ u.ctxs = [] ∧ u.formes = [] ∧ u.tiles = [] ∧
      u.readyBays = 0 ∧ u.readyUnits = [] ∧ u.fwst = .wait ∧ u.pmode = 0 ∧ u.cecnt = 0 ∧ u.fru = State.reset.fru) ∧
    (∀ d row, d < 4 → row < 16 →
      (s.fwst = .run → s.readyBays.getLsbD (16 * d + row) = false → exec (.functionReady (.group d row) 1) s =
        .next (({ s with readyBays := s.readyBays ||| (1 <<< (16 * d + row)), msix := s.msix ++ [16] } : State).retryLoads)) ∧
      (s.fwst ≠ .run ∨ s.readyBays.getLsbD (16 * d + row) = true → exec (.functionReady (.group d row) 1) s = .next s)) ∧
    (∀ (e : Nat) (c : BitVec 2), e < 8 → s.unitCode e ≠ 2 → c ≠ 2 → s.trainsLater e = false → exec (.functionReady (.unit e) c) s =
      .next { s with readyUnits := assign e c s.readyUnits, msix := if s.unitCode e = c.toNat then s.msix else s.msix ++ [16] }) ∧
    (∀ o : Int, s.fru.todWritten = true → s.fru.state = .locked → o.natAbs ≤ 50 → exec (.ppsEdge o) s =
      .next { s with fru := { s.fru with sec := s.fru.tod.toNat, ns := 0, todWritten := false, offset := BitVec.ofInt 32 o } }) ∧
    (s.fru.todWritten = false → ∀ o, exec (.ppsEdge o) s = .next s) ∧
    (∀ u, s.fru.state = .locked → s.fruTo .holdover 0 = some u → exec .fruPpsTimeout s = .next u) ∧
    exec .fruNowsRead s = .next { s with fru := { s.fru with nowns := s.fru.ns } } ∧
    (∀ (now : Nat) (u : State) (q : Release), s.fru.now ≤ now → s.fru.pend = [q] → q.due ≤ now →
      ({ s with fru := { s.fru with sec := now / 10 ^ 9, ns := now % 10 ^ 9, pend := []
                                    pulses := s.fru.pulses ++ [(q.chan.toNat % 8, q.due)] } } : State).postEvent q.ctx 4 q.slot 2 q.size = some u →
      exec (.fruReleaseFire now) s = .next u) ∧
    (∀ (n : Nat) (l : LinkState), s.linkAt n = some l →
      (l.up = true → l.recent = [] → exec (.linkRetrain n) s =
        .next (s.setLink { l with retraining := true, retrains := satAdd 65535 l.retrains 1, recent := [s.clock] })) ∧
      exec (.linkRetrainDone n) s = .next (s.setLink { l with retraining := false }) ∧
      ∀ w u : State, l.up = true → let v : State := { (s.setLink { l with up := false, retraining := false }).notice with
          readyUnits := assign (entryOfLink n) 0 s.readyUnits }
        v.postParts v.allParts { ctx := 0, src := 7, srcid := (linkIndex n).2, cls := clsLink, prec := 3 } (linkPay n) = some w →
        w.loseUnreachable = some u → exec (.linkDown n) s = .next u ∧ v.linkAt n = some { l with up := false, retraining := false } ∧
          (entryOfLink n ≠ 22 → v.unitCode (entryOfLink n) = 0) ∧ w.links = v.links ∧ w.readyUnits = v.readyUnits) ∧
    exec .eccCorrectable s = .next { s with cecnt := satAdd 16777215 s.cecnt 1 } ∧ (∀ a, exec (.patrolScrub a) s = .next s)) ∧
    (∀ (s : State) (h x y : Nat) (f : Forme) (va : VA), s.forme? h = some f → f.status = .live → f.cfg.stream = false →
      (f.run.voids < 3 → exec (.eccUncorrectable (.round h x y true va)) s =
        .next (({ s with cecnt := satAdd 16777215 s.cecnt 1 } : State).setForme f.rerun)) ∧
      ∀ u, s.faultFormeBy 7 h x y 0 clsEcc 0 (s.eccPay f.part va) = some u → exec (.eccUncorrectable (.round h x y false va)) s = .next u) ∧
    ∀ (s u : State) (h x y n kind : Nat) (f : Forme) (va : VA), s.forme? h = some f → f.status = .live → s.stalls f.part va = true →
      s.elemAccesses f x y va = true → s.faultFormeBy 7 h x y 0 clsWatchdog 0 (.access va.toNat n kind) = some u → exec (.watchdogExpiry (.access h x y va n kind)) s = .next u

/-- At the lender: an offered region that has been zeroed reads zero; a TAKE of a zeroed offer whose ports can carry it makes the
lease TAKEN and sends TAKE_ACK; STOPPED sends the dirty pages and DONE; DEMOTED closes the lease; the stop timer quarantines it,
its dirty pages pushed where the fallback can be reached and its region zeroed where not; a borrower that cannot be reached
after STOPPED has it quarantined too; QTIME closes it; TERM withdraws an offer; LEASE_CFG sets DEMAND and QTIME. At the
borrower: TAKE_ACK retargets the extent and sends 1; TAKE_NAK sends its reason; RECLAIM stops the target and sends STOPPED; DONE
demotes and sends DEMOTED; LOST or no reply demotes, with event 2 for a WT lease and a lease-lost fault for a WB one. PUSH
writes its bytes. The copy that came first in its class and whose ranges translate moves its bytes and ends with 1. A packet
with a legal header joins the staging buffer. A flit for this package is performed here. The model's readings: the order of
copies within a class (log 96), when a quarantined region is zeroed (log 39), which LTAKE an answer is for (log 69), the pages
of a demoted lease (log 104); the stop timer's event applies where its operand is what the routes say of the fallback. (R195,
R196, R217, R362, R363, R364, R365, R366, R368, R369, R372, R374) -/
def Obligations.LeaseEvents : Prop :=
  (∀ (s : State) (die idx : Nat) (l : Lent), s.lent? die idx = some l →
    (l.state = .offered → l.zeroed = false → l.heldTake = none → exec (.leaseZeroDone die idx) s =
      .next (({ s with mem := Memory.clear s.mem (spaceBase 0 die + l.page * 4096) (l.gran * 2 ^ 21) } : State).setLent die { l with zeroed := true })) ∧
    (∀ (b : Nat) (f : LeasePlace) (u v : State), ((s.die? die).bind fun d => d.lent.find? fun x => x.idx == idx) = some l →
      l.state = .offered → l.heldTake = none → l.zeroed = true → s.canCarry l.rbw b f = true →
      ((s.setLent die { l with
        state := .taken, borrower := b, fallback := f, dirty := [], pushed := false, order := ((s.die? die).map Die.nextOrder).getD 0 }).sendLease die b (.takeAck b (leaseId die l.idx) { gran := l.gran, wt := l.wt, rbw := l.rbw, page := l.page })).lentEvent die l 16 = some u →
      u.demandRun die 256 = some v → exec (.take die idx b f) s = .next v) ∧
    (l.state = .reclaiming → l.pushed = false → exec (.stopped die idx) s =
      .next ((((if l.wt then [] else sortBy (fun a b => decide (a < b)) l.dirty).foldl (fun u p => u.sendPush die l p) s).sendLease
        die l.borrower (.done l.borrower (leaseId die idx))).setLent die { l with pushed := true })) ∧
    (∀ u, l.state = .reclaiming → ((s.setLent die { l with state := .closed }).returned die l.gran).lentEvent die l 17 = some u →
      exec (.demoted die idx) s = .next u) ∧
    (∀ u, l.state = .reclaiming → l.pushed = false → s.fallbackReached l = false →
      ((({ s with mem := Memory.clear s.mem (spaceBase 0 die + l.page * 4096) (l.gran * 2 ^ 21) } : State).setLent die
        { l with state := .quarantined, pushed := false }).returned die l.gran).lentEvent die l 18 = some u →
      exec (.leaseStopTimerExpiry die idx false) s = .next u) ∧
    (∀ u, l.state = .reclaiming → (l.pushed = false ∧ s.fallbackReached l = true ∨ l.pushed = true ∧ s.reachable l.borrower = false) →
      (((if l.pushed then s else (if l.wt then [] else sortBy (fun a b => decide (a < b)) l.dirty).foldl (fun v p => v.sendPush die l p) s).setLent die
        { l with state := .quarantined, pushed := true }).returned die l.gran).lentEvent die l 18 = some u →
      exec (.leaseStopTimerExpiry die idx (s.fallbackReached l)) s = .next u) ∧
    (∀ r, r ≠ s.fallbackReached l → exec (.leaseStopTimerExpiry die idx r) s = .next s) ∧
    (∀ u, l.state = .quarantined → (s.setLent die { l with state := .closed }).lentEvent die l 19 = some u → exec (.qtimeExpiry die idx) s = .next u) ∧
    ∀ u, l.term ≠ 0 → l.state = .offered → s.withdraw die l = some u → exec (.leaseTermExpiry die idx) s = .next u) ∧
    (∀ (s u : State) (die : Nat) (d : Die) (v : BitVec 64), s.die? die = some d →
      (s.setDie { d with demand := bits 32 16 v.toNat, qtime := bits 16 16 v.toNat }).demandRun die 256 = some u →
      exec (.leaseCfgDemand die v) s = .next u) ∧
    (∀ (s : State) (die lender lease : Nat) (b : Borrow),
      (∀ (g : LeaseGrant) (e : Nat), (s.asking die lender lease).head? = some b → s.fallbackOk b g.gran = true →
        s.targetExt b g.gran = some e → s.targetBusy b = false →
        let t := ((s.dropAsk die b).stopTarget b).retarget b 2 lender g.page
        let u : State := { t with mem := Memory.clear t.mem (spaceBase 2 lender + g.page * 4096) (g.gran * 2 ^ 21) }
        exec (.takeAck die lender lease g) s =
          .next ((u.setBorrow die { b with state := .taken, grant := g, reply := none }).answerOpt b.reply (.data 1))) ∧
      (∀ n, s.refusedAsk die lender lease n = some b → exec (.takeNak die lender lease n) s =
        .next ((s.dropAsk die b).answerOpt b.reply (.data (BitVec.ofNat 32 (2 ^ 31 + n)))))) ∧
    (∀ (s : State) (die lender lease : Nat) (b : Borrow), s.borrow? die lender lease = some b →
      (b.state = .taken → s.targetBusy b = false → exec (.reclaim die lender lease) s =
        .next (((s.stopTarget b).setBorrow die { b with state := .reclaiming, asked := false }).sendLease die lender
          (.stopped lender lease))) ∧
      (∀ u, b.state = .reclaiming → (s.demote die b true).borrowEvent b 1 = some u →
        exec (.done die lender lease) s = .next (u.sendLease die lender (.demoted lender lease))) ∧
      (∀ u, b.state = .reclaiming → b.grant.wt = true → (s.demote die b true).borrowEvent b 2 = some u →
        exec (.lost die lender lease true) s = .next u ∧ exec (.leaseReplyTimeout die lender lease) s = .next u) ∧
      ∀ (u : State) (pushed : Bool), b.state = .reclaiming → b.grant.wt = false →
        (s.demote die b pushed).faultOp b.ctx 3 b.lease clsLease (if pushed then 0 else 1) b.lostPay false = some u →
        exec (.lost die lender lease pushed) s = .next u ∧ (pushed = false → exec (.leaseReplyTimeout die lender lease) s = .next u)) ∧
    (∀ (s : State) (a : Nat) (b : List Byte), a + b.length ≤ 8 * Config.spaceSize → exec (.push a b) s = .next (s.writeN a b)) ∧
    (∀ (s : State) (die id : Nat) (d : Die) (c : CopyJob) (p q : List (Nat × Nat)), s.die? die = some d →
      (d.copies.find? fun c => c.id == id && c.status == 0) = some c → s.range c.part (Addr.ofVa c.src) c.len .read = .ok p →
      s.range c.part (Addr.ofVa c.dst) c.len .write = .ok q → s.pathDown die c.part (Addr.ofVa c.src) c.len = none →
      s.pathDown die c.part (Addr.ofVa c.dst) c.len = none → d.served c.cls = some c →
      exec (.copyComplete die id) s = .next ((s.writePieces q (s.readPieces p)).endCopy die id 1)) ∧
    (∀ (s : State) (u n : Nat) (rt : BitVec 4) (hd : Word) (ws : List Word) (rest : List (BitVec 4 × Word)),
      let isl := s.island u
      let words := hd.toNat % 65536
      isl.inq[n]? = some (rt, hd) → (∀ e ∈ isl.inq.take n, e.1 ≠ rt) → takeRt rt (words + 1) isl.inq = (ws, rest) → ws.length = words + 1 →
      bits 29 3 hd.toNat < 6 → bits 24 5 hd.toNat = 0 → isl.binds = [] →
      exec (.islandPacket u n) s = .next (s.setIsland { isl with
        inq := rest, packets := isl.packets ++ [{ kind := bits 29 3 hd.toNat, task := bits 16 8 hd.toNat, words := ws.drop 1 }] })) ∧
    ∀ (s : State) (f : Flit), f.dest = s.fijId.toNat → exec (.fijanFlitArrival f) s = .next (s.flitHere f.body)

/-- From every state whose memory is in the canonical form of the model (addresses strictly rising, no entry equal to what an
unlisted byte reads as), a step that answers a next state leaves memory in that form. The form is the model's own (log 3).
(R149, R152, R157, R185, R268) -/
def Obligations.StepKeepsMemoryCanonical : Prop :=
  ∀ s t : State, Memory.wf s.mem = true → step s = .next t → Memory.wf t.mem = true

/-- From every state in which the tile memories of every forme, and those of its round start, are in the canonical form of the
model, a step that answers a next state leaves them all in that form. The form is the model's own (log 3). (R22, R159, R251,
R253) -/
def Obligations.StepKeepsTilesCanonical : Prop :=
  ∀ s t : State, (∀ f ∈ s.formes, f.tilesCanonical = true) → step s = .next t → ∀ f ∈ t.formes, f.tilesCanonical = true
end

