-- ==== Sys2Proof/Laws/Memory.lean ====
section
/-! SUPPORT. Byte memory: reading after a write, and the canonical form that every operation on memory keeps (log 3). -/

namespace Sys2Proof.Machine

/-- Every listed address lies above `a`. -/
def Memory.above (a : Nat) (m : Memory) : Prop := ∀ c ∈ m, a < c.1

/-- The canonical form said recursively: head nonzero and below the rest, the rest canonical. -/
theorem Memory.wf_cons (c : Host.Cell) (m : Memory) : Memory.wf (c :: m) = true ↔ c.2 ≠ 0 ∧ Memory.above c.1 m ∧ Memory.wf m = true := by
  induction m generalizing c with
  | nil => simp [Memory.wf, Memory.above]
  | cons d m ih =>
    simp only [Memory.wf, Bool.and_eq_true, decide_eq_true_eq, bne_iff_ne, ih]
    constructor
    · rintro ⟨⟨hc, hlt⟩, hd, ha, hm⟩
      refine ⟨hc, ?_, hd, ha, hm⟩
      intro e he
      rcases List.mem_cons.1 he with rfl | he
      · exact hlt
      · exact Nat.lt_trans hlt (ha e he)
    · rintro ⟨hc, hab, hd, ha, hm⟩
      exact ⟨⟨hc, hab d (List.mem_cons_self ..)⟩, hd, ha, hm⟩

theorem Memory.wf_nil : Memory.wf [] = true := rfl

/-- Where a listed address of a written memory comes from. -/
theorem Memory.mem_write {m : Memory} {a : Nat} {b : Byte} {c : Host.Cell} (h : c ∈ m.write a b) : c ∈ m ∨ c.1 = a := by
  induction m with
  | nil =>
    unfold Memory.write at h
    split at h
    · simp at h
    · simp at h; exact .inr (by rw [h])
  | cons d m ih =>
    unfold Memory.write at h
    split at h
    · split at h
      · exact .inl h
      · rcases List.mem_cons.1 h with rfl | h
        · exact .inr rfl
        · exact .inl h
    · split at h
      · split at h
        · exact .inl (List.mem_cons_of_mem _ h)
        · rcases List.mem_cons.1 h with rfl | h
          · exact .inr rfl
          · exact .inl (List.mem_cons_of_mem _ h)
      · rcases List.mem_cons.1 h with rfl | h
        · exact .inl (List.mem_cons_self ..)
        · rcases ih h with h | h
          · exact .inl (List.mem_cons_of_mem _ h)
          · exact .inr h

/-- A write keeps the canonical form. -/
theorem Memory.write_wf {m : Memory} (h : m.wf = true) (a : Nat) (b : Byte) : (m.write a b).wf = true := by
  induction m with
  | nil => unfold Memory.write; split <;> simp_all [Memory.wf]
  | cons d m ih =>
    obtain ⟨hd, hab, hm⟩ := (Memory.wf_cons d m).1 h
    unfold Memory.write
    split
    · split
      · exact h
      · refine (Memory.wf_cons _ _).2 ⟨by assumption, ?_, h⟩
        intro c hc
        rcases List.mem_cons.1 hc with rfl | hc
        · assumption
        · exact Nat.lt_trans ‹_› (hab c hc)
    · split
      · split
        · exact hm
        · exact (Memory.wf_cons _ _).2 ⟨by assumption, by simp [*], hm⟩
      · refine (Memory.wf_cons _ _).2 ⟨hd, ?_, ih hm⟩
        intro c hc
        rcases Memory.mem_write hc with hc | hc
        · exact hab c hc
        · omega

/-- Writing bytes keeps the canonical form. -/
theorem Memory.writeN_wf {m : Memory} (h : m.wf = true) (a : Nat) (l : List Byte) : (m.writeN a l).wf = true := by
  induction l generalizing m a with
  | nil => exact h
  | cons b l ih => exact ih (Memory.write_wf h a b) (a + 1)

/-- Writing cells keeps the canonical form. -/
theorem Memory.putCells_wf {m : Memory} (h : m.wf = true) (a : Nat) (l : List Host.Cell) : (m.putCells a l).wf = true := by
  induction l generalizing m with
  | nil => exact h
  | cons c l ih => exact ih (Memory.write_wf h (a + c.1) c.2)

/-- Leaving out entries keeps the canonical form. -/
theorem Memory.filter_wf {m : Memory} (h : m.wf = true) (p : Host.Cell → Bool) : Memory.wf (m.filter p) = true := by
  induction m with
  | nil => rfl
  | cons d m ih =>
    obtain ⟨hd, hab, hm⟩ := (Memory.wf_cons d m).1 h
    rw [List.filter_cons]
    split
    · exact (Memory.wf_cons _ _).2 ⟨hd, fun c hc => hab c (List.mem_of_mem_filter hc), ih hm⟩
    · exact ih hm

/-- Clearing a range keeps the canonical form. -/
theorem Memory.clear_wf {m : Memory} (h : m.wf = true) (a n : Nat) : (m.clear a n).wf = true := Memory.filter_wf h _

/-- Below every listed address memory reads zero. -/
theorem Memory.read_above {m : Memory} {a : Nat} (h : Memory.above a m) : m.read a = 0 := by
  cases m with
  | nil => rfl
  | cons c m =>
    have := h c (List.mem_cons_self ..)
    unfold Memory.read
    rw [if_neg (by omega), if_pos this]

/-- A read after a write to the same address gives the value written. -/
theorem Memory.read_write_same {m : Memory} (h : m.wf = true) (a : Nat) (b : Byte) : (m.write a b).read a = b := by
  induction m with
  | nil => unfold Memory.write; split <;> simp_all [Memory.read]
  | cons d m ih =>
    obtain ⟨_, hab, hm⟩ := (Memory.wf_cons d m).1 h
    unfold Memory.write
    split
    · split
      · subst b
        exact Memory.read_above fun c hc => by
          rcases List.mem_cons.1 hc with rfl | hc
          · assumption
          · exact Nat.lt_trans ‹_› (hab c hc)
      · simp [Memory.read]
    · split
      · split
        · subst b; subst a; exact Memory.read_above hab
        · simp [Memory.read]
      · unfold Memory.read
        rw [if_neg (by omega), if_neg (by omega), ih hm]

/-- A write leaves every other address alone. -/
theorem Memory.read_write_other {m : Memory} (h : m.wf = true) {a a' : Nat} (b : Byte) (ne : a' ≠ a) :
    (m.write a b).read a' = m.read a' := by
  induction m with
  | nil =>
    unfold Memory.write
    split
    · rfl
    · simp only [Memory.read]
      rw [if_neg (Ne.symm ne)]
      split <;> rfl
  | cons d m ih =>
    obtain ⟨_, hab, hm⟩ := (Memory.wf_cons d m).1 h
    unfold Memory.write
    split
    · split
      · rfl
      · by_cases hlt : a' < a
        · rw [Memory.read_above (m := d :: m) (a := a') (fun c hc => by
            rcases List.mem_cons.1 hc with rfl | hc
            · omega
            · exact Nat.lt_trans (by omega) (hab c hc))]
          simp only [Memory.read]
          rw [if_neg (Ne.symm ne), if_pos hlt]
        · conv => lhs; unfold Memory.read
          simp only
          rw [if_neg (Ne.symm ne), if_neg hlt]
    · split
      · rename_i hn he
        have away (hn : ¬ a' < a) : Memory.read (d :: m) a' = Memory.read m a' := by
          conv => lhs; unfold Memory.read
          rw [if_neg (by omega), if_neg (by omega)]
        have under (hn : a' < a) : Memory.read (d :: m) a' = 0 ∧ Memory.read m a' = 0 := by
          constructor
          · conv => lhs; unfold Memory.read
            rw [if_neg (by omega), if_pos (by omega)]
          · exact Memory.read_above fun c hc => Nat.lt_trans (by omega) (hab c hc)
        split
        · by_cases hlt : a' < a
          · rw [(under hlt).1, (under hlt).2]
          · exact (away hlt).symm
        · conv => lhs; unfold Memory.read
          simp only
          rw [if_neg (Ne.symm ne)]
          by_cases hlt : a' < a
          · rw [if_pos hlt, (under hlt).1]
          · rw [if_neg hlt, away hlt]
      · conv => lhs; unfold Memory.read
        conv => rhs; unfold Memory.read
        rw [ih hm]

/-- Writing bytes leaves every address outside them alone. -/
theorem Memory.read_writeN_other {m : Memory} (h : m.wf = true) {a a' : Nat} (l : List Byte) (ne : a' < a ∨ a + l.length ≤ a') :
    (m.writeN a l).read a' = m.read a' := by
  induction l generalizing m a with
  | nil => rfl
  | cons b l ih =>
    simp only [List.length_cons] at ne
    unfold Memory.writeN
    rw [ih (Memory.write_wf h a b) (by omega), Memory.read_write_other h b (by omega)]

/-- Bytes written are read back. -/
theorem Memory.readN_writeN {m : Memory} (h : m.wf = true) (a : Nat) (l : List Byte) : (m.writeN a l).readN a l.length = l := by
  induction l generalizing m a with
  | nil => rfl
  | cons b l ih =>
    simp only [List.length_cons, Memory.readN, Memory.writeN]
    rw [ih (Memory.write_wf h a b) (a + 1),
      Memory.read_writeN_other (Memory.write_wf h a b) l (by omega), Memory.read_write_same h]

/-- Two canonical memories that read the same are the same list. -/
theorem Memory.eq_of_read {m n : Memory} (hm : m.wf = true) (hn : n.wf = true) (h : ∀ a, m.read a = n.read a) : m = n := by
  induction m generalizing n with
  | nil =>
    cases n with
    | nil => rfl
    | cons c n =>
      have := h c.1
      simp only [Memory.read, if_pos] at this
      exact absurd this.symm ((Memory.wf_cons c n).1 hn).1
  | cons d m ih =>
    obtain ⟨hd, hab, hm'⟩ := (Memory.wf_cons d m).1 hm
    cases n with
    | nil =>
      have := h d.1
      simp only [Memory.read, if_pos] at this
      exact absurd this hd
    | cons c n =>
      obtain ⟨hc, hac, hn'⟩ := (Memory.wf_cons c n).1 hn
      have hdc : d.1 = c.1 := by
        have h1 := h d.1
        have h2 := h c.1
        simp only [Memory.read, if_pos] at h1 h2
        by_contra hne
        rcases Nat.lt_or_gt_of_ne hne with hlt | hlt
        · rw [if_neg (Ne.symm hne), if_pos hlt] at h1; exact hd h1
        · rw [if_neg hne, if_pos hlt] at h2; exact hc h2.symm
      have hv : d.2 = c.2 := by
        have h1 := h d.1
        simp only [Memory.read, if_pos] at h1
        rwa [if_pos hdc.symm] at h1
      have : d = c := Prod.ext hdc hv
      subst this
      rw [ih hm' hn' fun a => ?_]
      have ha := h a
      simp only [Memory.read] at ha
      by_cases h1 : d.1 = a
      · rw [← h1, Memory.read_above hab, Memory.read_above hac]
      · by_cases h2 : a < d.1
        · rw [Memory.read_above fun e he => Nat.lt_trans h2 (hab e he), Memory.read_above fun e he => Nat.lt_trans h2 (hac e he)]
        · rwa [if_neg h1, if_neg h2, if_neg h1, if_neg h2] at ha

end Sys2Proof.Machine
end

