-- ==== Sys2Proof/Laws/State.lean ====
section
/-! SUPPORT. What each update of State leaves alone, and what is read back after it. -/

namespace Sys2Proof.Machine

/-- The element put in is the one found under its key. -/
theorem find?_putBy_same {α : Type} (key : α → Nat) (l : List α) (a : α) :
    (putBy (fun x => key x == key a) a l).find? (fun x => key x == key a) = some a := by
  induction l with
  | nil => simp [putBy]
  | cons b l ih =>
    unfold putBy
    by_cases h : (key b == key a) = true
    · simp [h]
    · simp [h, ih]

/-- Under another key the same element is found. -/
theorem find?_putBy_other {α : Type} (key : α → Nat) (l : List α) (a : α) {n : Nat} (h : n ≠ key a) :
    (putBy (fun x => key x == key a) a l).find? (fun x => key x == n) = l.find? fun x => key x == n := by
  have ha : (key a == n) = false := by simpa using Ne.symm h
  induction l with
  | nil => simp [putBy, ha]
  | cons b l ih =>
    unfold putBy
    by_cases hb : (key b == key a) = true
    · have : (key b == n) = false := by
        rw [beq_iff_eq.1 hb]; exact ha
      simp [hb, ha, this]
    · simp only [hb]
      rw [if_neg (by simp), List.find?_cons, List.find?_cons, ih]

/-- A write to the machine keeps memory canonical. -/
theorem State.writeN_wf {s : State} (h : Memory.wf s.mem = true) (a : Nat) (b : List Byte) : Memory.wf (s.writeN a b).mem = true := by
  unfold State.writeN
  generalize s.places a = l
  simp only
  generalize s.mem = m at h
  induction l generalizing m with
  | nil => exact h
  | cons t l ih => exact ih _ (Memory.writeN_wf h t b)

/-- A write over a translated range keeps memory canonical. -/
theorem State.writePieces_wf (l : List (Nat × Nat)) {s : State} (h : Memory.wf s.mem = true) (b : List Byte) :
    Memory.wf (s.writePieces l b).mem = true := by
  induction l generalizing s b with
  | nil => exact h
  | cons c l ih => exact ih (State.writeN_wf h c.1 (b.take c.2)) (b.drop c.2)

@[simp] theorem State.setDie_clock (s : State) (d : Die) : (s.setDie d).clock = s.clock := rfl
@[simp] theorem State.setDie_agenda (s : State) (d : Die) : (s.setDie d).agenda = s.agenda := rfl
@[simp] theorem State.setDie_site (s : State) (d : Die) : (s.setDie d).site = s.site := rfl
@[simp] theorem State.setDie_free (s : State) (d : Die) : (s.setDie d).free = s.free := rfl
@[simp] theorem State.setDie_picks (s : State) (d : Die) : (s.setDie d).picks = s.picks := rfl
@[simp] theorem State.setDie_mem (s : State) (d : Die) : (s.setDie d).mem = s.mem := rfl
@[simp] theorem State.setDie_parts (s : State) (d : Die) : (s.setDie d).parts = s.parts := rfl
@[simp] theorem State.setDie_ctxs (s : State) (d : Die) : (s.setDie d).ctxs = s.ctxs := rfl
@[simp] theorem State.setDie_tiles (s : State) (d : Die) : (s.setDie d).tiles = s.tiles := rfl
@[simp] theorem State.setDie_islands (s : State) (d : Die) : (s.setDie d).islands = s.islands := rfl
@[simp] theorem State.setDie_formes (s : State) (d : Die) : (s.setDie d).formes = s.formes := rfl
@[simp] theorem State.setDie_loads (s : State) (d : Die) : (s.setDie d).loads = s.loads := rfl
@[simp] theorem State.setDie_waiters (s : State) (d : Die) : (s.setDie d).waiters = s.waiters := rfl
@[simp] theorem State.setDie_bar (s : State) (d : Die) : (s.setDie d).bar = s.bar := rfl
@[simp] theorem State.setDie_quiesces (s : State) (d : Die) : (s.setDie d).quiesces = s.quiesces := rfl
@[simp] theorem State.setDie_fru (s : State) (d : Die) : (s.setDie d).fru = s.fru := rfl
@[simp] theorem State.setDie_links (s : State) (d : Die) : (s.setDie d).links = s.links := rfl
@[simp] theorem State.setDie_fijId (s : State) (d : Die) : (s.setDie d).fijId = s.fijId := rfl
@[simp] theorem State.setDie_routes (s : State) (d : Die) : (s.setDie d).routes = s.routes := rfl
@[simp] theorem State.setDie_forwarded (s : State) (d : Die) : (s.setDie d).forwarded = s.forwarded := rfl
@[simp] theorem State.setDie_readyBays (s : State) (d : Die) : (s.setDie d).readyBays = s.readyBays := rfl
@[simp] theorem State.setDie_readyUnits (s : State) (d : Die) : (s.setDie d).readyUnits = s.readyUnits := rfl
@[simp] theorem State.setDie_pmode (s : State) (d : Die) : (s.setDie d).pmode = s.pmode := rfl
@[simp] theorem State.setDie_clocks (s : State) (d : Die) : (s.setDie d).clocks = s.clocks := rfl
@[simp] theorem State.setDie_fwst (s : State) (d : Die) : (s.setDie d).fwst = s.fwst := rfl
@[simp] theorem State.setDie_cecnt (s : State) (d : Die) : (s.setDie d).cecnt = s.cecnt := rfl
@[simp] theorem State.setDie_msix (s : State) (d : Die) : (s.setDie d).msix = s.msix := rfl

@[simp] theorem State.setPart_clock (s : State) (p : Part) : (s.setPart p).clock = s.clock := rfl
@[simp] theorem State.setPart_agenda (s : State) (p : Part) : (s.setPart p).agenda = s.agenda := rfl
@[simp] theorem State.setPart_site (s : State) (p : Part) : (s.setPart p).site = s.site := rfl
@[simp] theorem State.setPart_free (s : State) (p : Part) : (s.setPart p).free = s.free := rfl
@[simp] theorem State.setPart_picks (s : State) (p : Part) : (s.setPart p).picks = s.picks := rfl
@[simp] theorem State.setPart_mem (s : State) (p : Part) : (s.setPart p).mem = s.mem := rfl
@[simp] theorem State.setPart_dies (s : State) (p : Part) : (s.setPart p).dies = s.dies := rfl
@[simp] theorem State.setPart_ctxs (s : State) (p : Part) : (s.setPart p).ctxs = s.ctxs := rfl
@[simp] theorem State.setPart_tiles (s : State) (p : Part) : (s.setPart p).tiles = s.tiles := rfl
@[simp] theorem State.setPart_islands (s : State) (p : Part) : (s.setPart p).islands = s.islands := rfl
@[simp] theorem State.setPart_formes (s : State) (p : Part) : (s.setPart p).formes = s.formes := rfl
@[simp] theorem State.setPart_loads (s : State) (p : Part) : (s.setPart p).loads = s.loads := rfl
@[simp] theorem State.setPart_waiters (s : State) (p : Part) : (s.setPart p).waiters = s.waiters := rfl
@[simp] theorem State.setPart_bar (s : State) (p : Part) : (s.setPart p).bar = s.bar := rfl
@[simp] theorem State.setPart_quiesces (s : State) (p : Part) : (s.setPart p).quiesces = s.quiesces := rfl
@[simp] theorem State.setPart_fru (s : State) (p : Part) : (s.setPart p).fru = s.fru := rfl
@[simp] theorem State.setPart_links (s : State) (p : Part) : (s.setPart p).links = s.links := rfl
@[simp] theorem State.setPart_fijId (s : State) (p : Part) : (s.setPart p).fijId = s.fijId := rfl
@[simp] theorem State.setPart_routes (s : State) (p : Part) : (s.setPart p).routes = s.routes := rfl
@[simp] theorem State.setPart_forwarded (s : State) (p : Part) : (s.setPart p).forwarded = s.forwarded := rfl
@[simp] theorem State.setPart_readyBays (s : State) (p : Part) : (s.setPart p).readyBays = s.readyBays := rfl
@[simp] theorem State.setPart_readyUnits (s : State) (p : Part) : (s.setPart p).readyUnits = s.readyUnits := rfl
@[simp] theorem State.setPart_pmode (s : State) (p : Part) : (s.setPart p).pmode = s.pmode := rfl
@[simp] theorem State.setPart_clocks (s : State) (p : Part) : (s.setPart p).clocks = s.clocks := rfl
@[simp] theorem State.setPart_fwst (s : State) (p : Part) : (s.setPart p).fwst = s.fwst := rfl
@[simp] theorem State.setPart_cecnt (s : State) (p : Part) : (s.setPart p).cecnt = s.cecnt := rfl
@[simp] theorem State.setPart_msix (s : State) (p : Part) : (s.setPart p).msix = s.msix := rfl

@[simp] theorem State.setCtx_clock (s : State) (c : Ctx) : (s.setCtx c).clock = s.clock := rfl
@[simp] theorem State.setCtx_agenda (s : State) (c : Ctx) : (s.setCtx c).agenda = s.agenda := rfl
@[simp] theorem State.setCtx_site (s : State) (c : Ctx) : (s.setCtx c).site = s.site := rfl
@[simp] theorem State.setCtx_free (s : State) (c : Ctx) : (s.setCtx c).free = s.free := rfl
@[simp] theorem State.setCtx_picks (s : State) (c : Ctx) : (s.setCtx c).picks = s.picks := rfl
@[simp] theorem State.setCtx_mem (s : State) (c : Ctx) : (s.setCtx c).mem = s.mem := rfl
@[simp] theorem State.setCtx_dies (s : State) (c : Ctx) : (s.setCtx c).dies = s.dies := rfl
@[simp] theorem State.setCtx_parts (s : State) (c : Ctx) : (s.setCtx c).parts = s.parts := rfl
@[simp] theorem State.setCtx_tiles (s : State) (c : Ctx) : (s.setCtx c).tiles = s.tiles := rfl
@[simp] theorem State.setCtx_islands (s : State) (c : Ctx) : (s.setCtx c).islands = s.islands := rfl
@[simp] theorem State.setCtx_formes (s : State) (c : Ctx) : (s.setCtx c).formes = s.formes := rfl
@[simp] theorem State.setCtx_loads (s : State) (c : Ctx) : (s.setCtx c).loads = s.loads := rfl
@[simp] theorem State.setCtx_waiters (s : State) (c : Ctx) : (s.setCtx c).waiters = s.waiters := rfl
@[simp] theorem State.setCtx_bar (s : State) (c : Ctx) : (s.setCtx c).bar = s.bar := rfl
@[simp] theorem State.setCtx_quiesces (s : State) (c : Ctx) : (s.setCtx c).quiesces = s.quiesces := rfl
@[simp] theorem State.setCtx_fru (s : State) (c : Ctx) : (s.setCtx c).fru = s.fru := rfl
@[simp] theorem State.setCtx_links (s : State) (c : Ctx) : (s.setCtx c).links = s.links := rfl
@[simp] theorem State.setCtx_fijId (s : State) (c : Ctx) : (s.setCtx c).fijId = s.fijId := rfl
@[simp] theorem State.setCtx_routes (s : State) (c : Ctx) : (s.setCtx c).routes = s.routes := rfl
@[simp] theorem State.setCtx_forwarded (s : State) (c : Ctx) : (s.setCtx c).forwarded = s.forwarded := rfl
@[simp] theorem State.setCtx_readyBays (s : State) (c : Ctx) : (s.setCtx c).readyBays = s.readyBays := rfl
@[simp] theorem State.setCtx_readyUnits (s : State) (c : Ctx) : (s.setCtx c).readyUnits = s.readyUnits := rfl
@[simp] theorem State.setCtx_pmode (s : State) (c : Ctx) : (s.setCtx c).pmode = s.pmode := rfl
@[simp] theorem State.setCtx_clocks (s : State) (c : Ctx) : (s.setCtx c).clocks = s.clocks := rfl
@[simp] theorem State.setCtx_fwst (s : State) (c : Ctx) : (s.setCtx c).fwst = s.fwst := rfl
@[simp] theorem State.setCtx_cecnt (s : State) (c : Ctx) : (s.setCtx c).cecnt = s.cecnt := rfl
@[simp] theorem State.setCtx_msix (s : State) (c : Ctx) : (s.setCtx c).msix = s.msix := rfl

@[simp] theorem State.setTile_clock (s : State) (d : DTile) : (s.setTile d).clock = s.clock := rfl
@[simp] theorem State.setTile_agenda (s : State) (d : DTile) : (s.setTile d).agenda = s.agenda := rfl
@[simp] theorem State.setTile_site (s : State) (d : DTile) : (s.setTile d).site = s.site := rfl
@[simp] theorem State.setTile_free (s : State) (d : DTile) : (s.setTile d).free = s.free := rfl
@[simp] theorem State.setTile_picks (s : State) (d : DTile) : (s.setTile d).picks = s.picks := rfl
@[simp] theorem State.setTile_mem (s : State) (d : DTile) : (s.setTile d).mem = s.mem := rfl
@[simp] theorem State.setTile_dies (s : State) (d : DTile) : (s.setTile d).dies = s.dies := rfl
@[simp] theorem State.setTile_parts (s : State) (d : DTile) : (s.setTile d).parts = s.parts := rfl
@[simp] theorem State.setTile_ctxs (s : State) (d : DTile) : (s.setTile d).ctxs = s.ctxs := rfl
@[simp] theorem State.setTile_islands (s : State) (d : DTile) : (s.setTile d).islands = s.islands := rfl
@[simp] theorem State.setTile_formes (s : State) (d : DTile) : (s.setTile d).formes = s.formes := rfl
@[simp] theorem State.setTile_loads (s : State) (d : DTile) : (s.setTile d).loads = s.loads := rfl
@[simp] theorem State.setTile_waiters (s : State) (d : DTile) : (s.setTile d).waiters = s.waiters := rfl
@[simp] theorem State.setTile_bar (s : State) (d : DTile) : (s.setTile d).bar = s.bar := rfl
@[simp] theorem State.setTile_quiesces (s : State) (d : DTile) : (s.setTile d).quiesces = s.quiesces := rfl
@[simp] theorem State.setTile_fru (s : State) (d : DTile) : (s.setTile d).fru = s.fru := rfl
@[simp] theorem State.setTile_links (s : State) (d : DTile) : (s.setTile d).links = s.links := rfl
@[simp] theorem State.setTile_fijId (s : State) (d : DTile) : (s.setTile d).fijId = s.fijId := rfl
@[simp] theorem State.setTile_routes (s : State) (d : DTile) : (s.setTile d).routes = s.routes := rfl
@[simp] theorem State.setTile_forwarded (s : State) (d : DTile) : (s.setTile d).forwarded = s.forwarded := rfl
@[simp] theorem State.setTile_readyBays (s : State) (d : DTile) : (s.setTile d).readyBays = s.readyBays := rfl
@[simp] theorem State.setTile_readyUnits (s : State) (d : DTile) : (s.setTile d).readyUnits = s.readyUnits := rfl
@[simp] theorem State.setTile_pmode (s : State) (d : DTile) : (s.setTile d).pmode = s.pmode := rfl
@[simp] theorem State.setTile_clocks (s : State) (d : DTile) : (s.setTile d).clocks = s.clocks := rfl
@[simp] theorem State.setTile_fwst (s : State) (d : DTile) : (s.setTile d).fwst = s.fwst := rfl
@[simp] theorem State.setTile_cecnt (s : State) (d : DTile) : (s.setTile d).cecnt = s.cecnt := rfl
@[simp] theorem State.setTile_msix (s : State) (d : DTile) : (s.setTile d).msix = s.msix := rfl

@[simp] theorem State.setIsland_clock (s : State) (i : Island) : (s.setIsland i).clock = s.clock := rfl
@[simp] theorem State.setIsland_agenda (s : State) (i : Island) : (s.setIsland i).agenda = s.agenda := rfl
@[simp] theorem State.setIsland_site (s : State) (i : Island) : (s.setIsland i).site = s.site := rfl
@[simp] theorem State.setIsland_free (s : State) (i : Island) : (s.setIsland i).free = s.free := rfl
@[simp] theorem State.setIsland_picks (s : State) (i : Island) : (s.setIsland i).picks = s.picks := rfl
@[simp] theorem State.setIsland_mem (s : State) (i : Island) : (s.setIsland i).mem = s.mem := rfl
@[simp] theorem State.setIsland_dies (s : State) (i : Island) : (s.setIsland i).dies = s.dies := rfl
@[simp] theorem State.setIsland_parts (s : State) (i : Island) : (s.setIsland i).parts = s.parts := rfl
@[simp] theorem State.setIsland_ctxs (s : State) (i : Island) : (s.setIsland i).ctxs = s.ctxs := rfl
@[simp] theorem State.setIsland_tiles (s : State) (i : Island) : (s.setIsland i).tiles = s.tiles := rfl
@[simp] theorem State.setIsland_formes (s : State) (i : Island) : (s.setIsland i).formes = s.formes := rfl
@[simp] theorem State.setIsland_loads (s : State) (i : Island) : (s.setIsland i).loads = s.loads := rfl
@[simp] theorem State.setIsland_waiters (s : State) (i : Island) : (s.setIsland i).waiters = s.waiters := rfl
@[simp] theorem State.setIsland_bar (s : State) (i : Island) : (s.setIsland i).bar = s.bar := rfl
@[simp] theorem State.setIsland_quiesces (s : State) (i : Island) : (s.setIsland i).quiesces = s.quiesces := rfl
@[simp] theorem State.setIsland_fru (s : State) (i : Island) : (s.setIsland i).fru = s.fru := rfl
@[simp] theorem State.setIsland_links (s : State) (i : Island) : (s.setIsland i).links = s.links := rfl
@[simp] theorem State.setIsland_fijId (s : State) (i : Island) : (s.setIsland i).fijId = s.fijId := rfl
@[simp] theorem State.setIsland_routes (s : State) (i : Island) : (s.setIsland i).routes = s.routes := rfl
@[simp] theorem State.setIsland_forwarded (s : State) (i : Island) : (s.setIsland i).forwarded = s.forwarded := rfl
@[simp] theorem State.setIsland_readyBays (s : State) (i : Island) : (s.setIsland i).readyBays = s.readyBays := rfl
@[simp] theorem State.setIsland_readyUnits (s : State) (i : Island) : (s.setIsland i).readyUnits = s.readyUnits := rfl
@[simp] theorem State.setIsland_pmode (s : State) (i : Island) : (s.setIsland i).pmode = s.pmode := rfl
@[simp] theorem State.setIsland_clocks (s : State) (i : Island) : (s.setIsland i).clocks = s.clocks := rfl
@[simp] theorem State.setIsland_fwst (s : State) (i : Island) : (s.setIsland i).fwst = s.fwst := rfl
@[simp] theorem State.setIsland_cecnt (s : State) (i : Island) : (s.setIsland i).cecnt = s.cecnt := rfl
@[simp] theorem State.setIsland_msix (s : State) (i : Island) : (s.setIsland i).msix = s.msix := rfl

@[simp] theorem State.setForme_clock (s : State) (f : Forme) : (s.setForme f).clock = s.clock := rfl
@[simp] theorem State.setForme_agenda (s : State) (f : Forme) : (s.setForme f).agenda = s.agenda := rfl
@[simp] theorem State.setForme_site (s : State) (f : Forme) : (s.setForme f).site = s.site := rfl
@[simp] theorem State.setForme_free (s : State) (f : Forme) : (s.setForme f).free = s.free := rfl
@[simp] theorem State.setForme_picks (s : State) (f : Forme) : (s.setForme f).picks = s.picks := rfl
@[simp] theorem State.setForme_mem (s : State) (f : Forme) : (s.setForme f).mem = s.mem := rfl
@[simp] theorem State.setForme_dies (s : State) (f : Forme) : (s.setForme f).dies = s.dies := rfl
@[simp] theorem State.setForme_parts (s : State) (f : Forme) : (s.setForme f).parts = s.parts := rfl
@[simp] theorem State.setForme_ctxs (s : State) (f : Forme) : (s.setForme f).ctxs = s.ctxs := rfl
@[simp] theorem State.setForme_tiles (s : State) (f : Forme) : (s.setForme f).tiles = s.tiles := rfl
@[simp] theorem State.setForme_islands (s : State) (f : Forme) : (s.setForme f).islands = s.islands := rfl
@[simp] theorem State.setForme_loads (s : State) (f : Forme) : (s.setForme f).loads = s.loads := rfl
@[simp] theorem State.setForme_waiters (s : State) (f : Forme) : (s.setForme f).waiters = s.waiters := rfl
@[simp] theorem State.setForme_bar (s : State) (f : Forme) : (s.setForme f).bar = s.bar := rfl
@[simp] theorem State.setForme_quiesces (s : State) (f : Forme) : (s.setForme f).quiesces = s.quiesces := rfl
@[simp] theorem State.setForme_fru (s : State) (f : Forme) : (s.setForme f).fru = s.fru := rfl
@[simp] theorem State.setForme_links (s : State) (f : Forme) : (s.setForme f).links = s.links := rfl
@[simp] theorem State.setForme_fijId (s : State) (f : Forme) : (s.setForme f).fijId = s.fijId := rfl
@[simp] theorem State.setForme_routes (s : State) (f : Forme) : (s.setForme f).routes = s.routes := rfl
@[simp] theorem State.setForme_forwarded (s : State) (f : Forme) : (s.setForme f).forwarded = s.forwarded := rfl
@[simp] theorem State.setForme_readyBays (s : State) (f : Forme) : (s.setForme f).readyBays = s.readyBays := rfl
@[simp] theorem State.setForme_readyUnits (s : State) (f : Forme) : (s.setForme f).readyUnits = s.readyUnits := rfl
@[simp] theorem State.setForme_pmode (s : State) (f : Forme) : (s.setForme f).pmode = s.pmode := rfl
@[simp] theorem State.setForme_clocks (s : State) (f : Forme) : (s.setForme f).clocks = s.clocks := rfl
@[simp] theorem State.setForme_fwst (s : State) (f : Forme) : (s.setForme f).fwst = s.fwst := rfl
@[simp] theorem State.setForme_cecnt (s : State) (f : Forme) : (s.setForme f).cecnt = s.cecnt := rfl
@[simp] theorem State.setForme_msix (s : State) (f : Forme) : (s.setForme f).msix = s.msix := rfl

@[simp] theorem State.dropForme_clock (s : State) (h : Nat) : (s.dropForme h).clock = s.clock := rfl
@[simp] theorem State.dropForme_agenda (s : State) (h : Nat) : (s.dropForme h).agenda = s.agenda := rfl
@[simp] theorem State.dropForme_site (s : State) (h : Nat) : (s.dropForme h).site = s.site := rfl
@[simp] theorem State.dropForme_free (s : State) (h : Nat) : (s.dropForme h).free = s.free := rfl
@[simp] theorem State.dropForme_picks (s : State) (h : Nat) : (s.dropForme h).picks = s.picks := rfl
@[simp] theorem State.dropForme_mem (s : State) (h : Nat) : (s.dropForme h).mem = s.mem := rfl
@[simp] theorem State.dropForme_dies (s : State) (h : Nat) : (s.dropForme h).dies = s.dies := rfl
@[simp] theorem State.dropForme_parts (s : State) (h : Nat) : (s.dropForme h).parts = s.parts := rfl
@[simp] theorem State.dropForme_ctxs (s : State) (h : Nat) : (s.dropForme h).ctxs = s.ctxs := rfl
@[simp] theorem State.dropForme_tiles (s : State) (h : Nat) : (s.dropForme h).tiles = s.tiles := rfl
@[simp] theorem State.dropForme_islands (s : State) (h : Nat) : (s.dropForme h).islands = s.islands := rfl
@[simp] theorem State.dropForme_loads (s : State) (h : Nat) : (s.dropForme h).loads = s.loads := rfl
@[simp] theorem State.dropForme_waiters (s : State) (h : Nat) : (s.dropForme h).waiters = s.waiters := rfl
@[simp] theorem State.dropForme_bar (s : State) (h : Nat) : (s.dropForme h).bar = s.bar := rfl
@[simp] theorem State.dropForme_quiesces (s : State) (h : Nat) : (s.dropForme h).quiesces = s.quiesces := rfl
@[simp] theorem State.dropForme_fru (s : State) (h : Nat) : (s.dropForme h).fru = s.fru := rfl
@[simp] theorem State.dropForme_links (s : State) (h : Nat) : (s.dropForme h).links = s.links := rfl
@[simp] theorem State.dropForme_fijId (s : State) (h : Nat) : (s.dropForme h).fijId = s.fijId := rfl
@[simp] theorem State.dropForme_routes (s : State) (h : Nat) : (s.dropForme h).routes = s.routes := rfl
@[simp] theorem State.dropForme_forwarded (s : State) (h : Nat) : (s.dropForme h).forwarded = s.forwarded := rfl
@[simp] theorem State.dropForme_readyBays (s : State) (h : Nat) : (s.dropForme h).readyBays = s.readyBays := rfl
@[simp] theorem State.dropForme_readyUnits (s : State) (h : Nat) : (s.dropForme h).readyUnits = s.readyUnits := rfl
@[simp] theorem State.dropForme_pmode (s : State) (h : Nat) : (s.dropForme h).pmode = s.pmode := rfl
@[simp] theorem State.dropForme_clocks (s : State) (h : Nat) : (s.dropForme h).clocks = s.clocks := rfl
@[simp] theorem State.dropForme_fwst (s : State) (h : Nat) : (s.dropForme h).fwst = s.fwst := rfl
@[simp] theorem State.dropForme_cecnt (s : State) (h : Nat) : (s.dropForme h).cecnt = s.cecnt := rfl
@[simp] theorem State.dropForme_msix (s : State) (h : Nat) : (s.dropForme h).msix = s.msix := rfl

@[simp] theorem State.writeN_clock (s : State) (a : Nat) (b : List Byte) : (s.writeN a b).clock = s.clock := rfl
@[simp] theorem State.writeN_agenda (s : State) (a : Nat) (b : List Byte) : (s.writeN a b).agenda = s.agenda := rfl
@[simp] theorem State.writeN_site (s : State) (a : Nat) (b : List Byte) : (s.writeN a b).site = s.site := rfl
@[simp] theorem State.writeN_free (s : State) (a : Nat) (b : List Byte) : (s.writeN a b).free = s.free := rfl
@[simp] theorem State.writeN_picks (s : State) (a : Nat) (b : List Byte) : (s.writeN a b).picks = s.picks := rfl
@[simp] theorem State.writeN_dies (s : State) (a : Nat) (b : List Byte) : (s.writeN a b).dies = s.dies := rfl
@[simp] theorem State.writeN_parts (s : State) (a : Nat) (b : List Byte) : (s.writeN a b).parts = s.parts := rfl
@[simp] theorem State.writeN_ctxs (s : State) (a : Nat) (b : List Byte) : (s.writeN a b).ctxs = s.ctxs := rfl
@[simp] theorem State.writeN_tiles (s : State) (a : Nat) (b : List Byte) : (s.writeN a b).tiles = s.tiles := rfl
@[simp] theorem State.writeN_islands (s : State) (a : Nat) (b : List Byte) : (s.writeN a b).islands = s.islands := rfl
@[simp] theorem State.writeN_formes (s : State) (a : Nat) (b : List Byte) : (s.writeN a b).formes = s.formes := rfl
@[simp] theorem State.writeN_loads (s : State) (a : Nat) (b : List Byte) : (s.writeN a b).loads = s.loads := rfl
@[simp] theorem State.writeN_waiters (s : State) (a : Nat) (b : List Byte) : (s.writeN a b).waiters = s.waiters := rfl
@[simp] theorem State.writeN_bar (s : State) (a : Nat) (b : List Byte) : (s.writeN a b).bar = s.bar := rfl
@[simp] theorem State.writeN_quiesces (s : State) (a : Nat) (b : List Byte) : (s.writeN a b).quiesces = s.quiesces := rfl
@[simp] theorem State.writeN_fru (s : State) (a : Nat) (b : List Byte) : (s.writeN a b).fru = s.fru := rfl
@[simp] theorem State.writeN_links (s : State) (a : Nat) (b : List Byte) : (s.writeN a b).links = s.links := rfl
@[simp] theorem State.writeN_fijId (s : State) (a : Nat) (b : List Byte) : (s.writeN a b).fijId = s.fijId := rfl
@[simp] theorem State.writeN_routes (s : State) (a : Nat) (b : List Byte) : (s.writeN a b).routes = s.routes := rfl
@[simp] theorem State.writeN_forwarded (s : State) (a : Nat) (b : List Byte) : (s.writeN a b).forwarded = s.forwarded := rfl
@[simp] theorem State.writeN_readyBays (s : State) (a : Nat) (b : List Byte) : (s.writeN a b).readyBays = s.readyBays := rfl
@[simp] theorem State.writeN_readyUnits (s : State) (a : Nat) (b : List Byte) : (s.writeN a b).readyUnits = s.readyUnits := rfl
@[simp] theorem State.writeN_pmode (s : State) (a : Nat) (b : List Byte) : (s.writeN a b).pmode = s.pmode := rfl
@[simp] theorem State.writeN_clocks (s : State) (a : Nat) (b : List Byte) : (s.writeN a b).clocks = s.clocks := rfl
@[simp] theorem State.writeN_fwst (s : State) (a : Nat) (b : List Byte) : (s.writeN a b).fwst = s.fwst := rfl
@[simp] theorem State.writeN_cecnt (s : State) (a : Nat) (b : List Byte) : (s.writeN a b).cecnt = s.cecnt := rfl
@[simp] theorem State.writeN_msix (s : State) (a : Nat) (b : List Byte) : (s.writeN a b).msix = s.msix := rfl

@[simp] theorem State.draw_clock (s : State) : s.draw.2.clock = s.clock := rfl
@[simp] theorem State.draw_agenda (s : State) : s.draw.2.agenda = s.agenda := rfl
@[simp] theorem State.draw_site (s : State) : s.draw.2.site = s.site := rfl
@[simp] theorem State.draw_picks (s : State) : s.draw.2.picks = s.picks := rfl
@[simp] theorem State.draw_mem (s : State) : s.draw.2.mem = s.mem := rfl
@[simp] theorem State.draw_dies (s : State) : s.draw.2.dies = s.dies := rfl
@[simp] theorem State.draw_parts (s : State) : s.draw.2.parts = s.parts := rfl
@[simp] theorem State.draw_ctxs (s : State) : s.draw.2.ctxs = s.ctxs := rfl
@[simp] theorem State.draw_tiles (s : State) : s.draw.2.tiles = s.tiles := rfl
@[simp] theorem State.draw_islands (s : State) : s.draw.2.islands = s.islands := rfl
@[simp] theorem State.draw_formes (s : State) : s.draw.2.formes = s.formes := rfl
@[simp] theorem State.draw_loads (s : State) : s.draw.2.loads = s.loads := rfl
@[simp] theorem State.draw_waiters (s : State) : s.draw.2.waiters = s.waiters := rfl
@[simp] theorem State.draw_bar (s : State) : s.draw.2.bar = s.bar := rfl
@[simp] theorem State.draw_quiesces (s : State) : s.draw.2.quiesces = s.quiesces := rfl
@[simp] theorem State.draw_fru (s : State) : s.draw.2.fru = s.fru := rfl
@[simp] theorem State.draw_links (s : State) : s.draw.2.links = s.links := rfl
@[simp] theorem State.draw_fijId (s : State) : s.draw.2.fijId = s.fijId := rfl
@[simp] theorem State.draw_routes (s : State) : s.draw.2.routes = s.routes := rfl
@[simp] theorem State.draw_forwarded (s : State) : s.draw.2.forwarded = s.forwarded := rfl
@[simp] theorem State.draw_readyBays (s : State) : s.draw.2.readyBays = s.readyBays := rfl
@[simp] theorem State.draw_readyUnits (s : State) : s.draw.2.readyUnits = s.readyUnits := rfl
@[simp] theorem State.draw_pmode (s : State) : s.draw.2.pmode = s.pmode := rfl
@[simp] theorem State.draw_clocks (s : State) : s.draw.2.clocks = s.clocks := rfl
@[simp] theorem State.draw_fwst (s : State) : s.draw.2.fwst = s.fwst := rfl
@[simp] theorem State.draw_cecnt (s : State) : s.draw.2.cecnt = s.cecnt := rfl
@[simp] theorem State.draw_msix (s : State) : s.draw.2.msix = s.msix := rfl
@[simp] theorem State.draw_free (s : State) : s.draw.2.free = s.free + 1 := rfl

@[simp] theorem State.pick_clock (s : State) (n : Nat) : (s.pick n).2.clock = s.clock := rfl
@[simp] theorem State.pick_agenda (s : State) (n : Nat) : (s.pick n).2.agenda = s.agenda := rfl
@[simp] theorem State.pick_site (s : State) (n : Nat) : (s.pick n).2.site = s.site := rfl
@[simp] theorem State.pick_free (s : State) (n : Nat) : (s.pick n).2.free = s.free := rfl
@[simp] theorem State.pick_mem (s : State) (n : Nat) : (s.pick n).2.mem = s.mem := rfl
@[simp] theorem State.pick_dies (s : State) (n : Nat) : (s.pick n).2.dies = s.dies := rfl
@[simp] theorem State.pick_parts (s : State) (n : Nat) : (s.pick n).2.parts = s.parts := rfl
@[simp] theorem State.pick_ctxs (s : State) (n : Nat) : (s.pick n).2.ctxs = s.ctxs := rfl
@[simp] theorem State.pick_tiles (s : State) (n : Nat) : (s.pick n).2.tiles = s.tiles := rfl
@[simp] theorem State.pick_islands (s : State) (n : Nat) : (s.pick n).2.islands = s.islands := rfl
@[simp] theorem State.pick_formes (s : State) (n : Nat) : (s.pick n).2.formes = s.formes := rfl
@[simp] theorem State.pick_loads (s : State) (n : Nat) : (s.pick n).2.loads = s.loads := rfl
@[simp] theorem State.pick_waiters (s : State) (n : Nat) : (s.pick n).2.waiters = s.waiters := rfl
@[simp] theorem State.pick_bar (s : State) (n : Nat) : (s.pick n).2.bar = s.bar := rfl
@[simp] theorem State.pick_quiesces (s : State) (n : Nat) : (s.pick n).2.quiesces = s.quiesces := rfl
@[simp] theorem State.pick_fru (s : State) (n : Nat) : (s.pick n).2.fru = s.fru := rfl
@[simp] theorem State.pick_links (s : State) (n : Nat) : (s.pick n).2.links = s.links := rfl
@[simp] theorem State.pick_fijId (s : State) (n : Nat) : (s.pick n).2.fijId = s.fijId := rfl
@[simp] theorem State.pick_routes (s : State) (n : Nat) : (s.pick n).2.routes = s.routes := rfl
@[simp] theorem State.pick_forwarded (s : State) (n : Nat) : (s.pick n).2.forwarded = s.forwarded := rfl
@[simp] theorem State.pick_readyBays (s : State) (n : Nat) : (s.pick n).2.readyBays = s.readyBays := rfl
@[simp] theorem State.pick_readyUnits (s : State) (n : Nat) : (s.pick n).2.readyUnits = s.readyUnits := rfl
@[simp] theorem State.pick_pmode (s : State) (n : Nat) : (s.pick n).2.pmode = s.pmode := rfl
@[simp] theorem State.pick_clocks (s : State) (n : Nat) : (s.pick n).2.clocks = s.clocks := rfl
@[simp] theorem State.pick_fwst (s : State) (n : Nat) : (s.pick n).2.fwst = s.fwst := rfl
@[simp] theorem State.pick_cecnt (s : State) (n : Nat) : (s.pick n).2.cecnt = s.cecnt := rfl
@[simp] theorem State.pick_msix (s : State) (n : Nat) : (s.pick n).2.msix = s.msix := rfl

@[simp] theorem State.die_setDie (s : State) (d : Die) : (s.setDie d).die? d.i = some d :=
  find?_putBy_same (fun x : Die => x.i) s.dies d
theorem State.die_setDie_other (s : State) (d : Die) (n : Nat) (h : n ≠ d.i) : (s.setDie d).die? n = s.die? n :=
  find?_putBy_other (fun x : Die => x.i) s.dies d h
@[simp] theorem State.part_setPart (s : State) (p : Part) : (s.setPart p).part? p.p = some p :=
  find?_putBy_same (fun x : Part => x.p) s.parts p
theorem State.part_setPart_other (s : State) (p : Part) (n : Nat) (h : n ≠ p.p) : (s.setPart p).part? n = s.part? n :=
  find?_putBy_other (fun x : Part => x.p) s.parts p h
@[simp] theorem State.ctx_setCtx (s : State) (c : Ctx) : (s.setCtx c).ctx? c.id = some c :=
  find?_putBy_same (fun x : Ctx => x.id) s.ctxs c
theorem State.ctx_setCtx_other (s : State) (c : Ctx) (n : Nat) (h : n ≠ c.id) : (s.setCtx c).ctx? n = s.ctx? n :=
  find?_putBy_other (fun x : Ctx => x.id) s.ctxs c h
@[simp] theorem State.forme_setForme (s : State) (f : Forme) : (s.setForme f).forme? f.handle = some f :=
  find?_putBy_same (fun x : Forme => x.handle) s.formes f
theorem State.forme_setForme_other (s : State) (f : Forme) (n : Nat) (h : n ≠ f.handle) : (s.setForme f).forme? n = s.forme? n :=
  find?_putBy_other (fun x : Forme => x.handle) s.formes f h
@[simp] theorem State.island_setIsland (s : State) (i : Island) : (s.setIsland i).island i.i = i := by
  unfold State.island State.setIsland
  rw [find?_putBy_same (fun x : Island => x.i) _ i]
  rfl
theorem State.island_setIsland_other (s : State) (i : Island) (n : Nat) (h : n ≠ i.i) : (s.setIsland i).island n = s.island n := by
  unfold State.island State.setIsland
  rw [find?_putBy_other (fun x : Island => x.i) _ i h]
/-- A tile is stored with its THROTTLE brought up to date (R44). -/
@[simp] theorem State.tile_setTile (s : State) (d : DTile) : (s.setTile d).tile d.i = d.marks := by
  unfold State.tile State.setTile
  have h : d.marks.i = d.i := rfl
  rw [← h, find?_putBy_same (fun x : DTile => x.i) _ d.marks]
  rfl
theorem State.tile_setTile_other (s : State) (d : DTile) (n : Nat) (h : n ≠ d.i) : (s.setTile d).tile n = s.tile n :=
  congrArg (fun o : Option DTile => o.getD { i := n }) (find?_putBy_other (fun x : DTile => x.i) s.tiles d.marks h)

@[simp] theorem DTile.marks_i (d : DTile) : d.marks.i = d.i := rfl
@[simp] theorem DTile.marks_nodes (d : DTile) : d.marks.nodes = d.nodes := rfl
@[simp] theorem DTile.marks_overlays (d : DTile) : d.marks.overlays = d.overlays := rfl
@[simp] theorem DTile.marks_inbox (d : DTile) : d.marks.inbox = d.inbox := rfl
@[simp] theorem DTile.marks_held (d : DTile) : d.marks.held = d.held := rfl
@[simp] theorem DTile.marks_entries (d : DTile) : d.marks.entries = d.entries := rfl
@[simp] theorem DTile.marks_ready (d : DTile) : d.marks.ready = d.ready := rfl
@[simp] theorem DTile.marks_galleys (d : DTile) : d.marks.galleys = d.galleys := rfl
@[simp] theorem DTile.marks_seqs (d : DTile) : d.marks.seqs = d.seqs := rfl
@[simp] theorem DTile.marks_redone (d : DTile) : d.marks.redone = d.redone := rfl
@[simp] theorem DTile.marks_hwm (d : DTile) : d.marks.hwm = d.hwm := rfl
@[simp] theorem DTile.marks_lwm (d : DTile) : d.marks.lwm = d.lwm := rfl
@[simp] theorem DTile.marks_instances (d : DTile) : d.marks.instances = d.instances := rfl
@[simp] theorem DTile.marks_issues (d : DTile) : d.marks.issues = d.issues := rfl
@[simp] theorem DTile.marks_perf (d : DTile) : d.marks.perf = d.perf := rfl
@[simp] theorem DTile.marks_favoured (d : DTile) : d.marks.favoured = d.favoured := rfl
@[simp] theorem DTile.marks_savedPools (d : DTile) : d.marks.savedPools = d.savedPools := rfl

end Sys2Proof.Machine
end

