-- ==== Sys2Proof/Laws/Canonical.lean ====
section
/-! SUPPORT. The shared operations keep what is canonical in a state: memory, and the tile memories of its formes (log 3). -/

namespace Sys2Proof.Machine

/-- What `putBy` leaves in a list. -/
theorem mem_putBy {α : Type} {p : α → Bool} {a x : α} {l : List α} (h : x ∈ putBy p a l) : x = a ∨ x ∈ l := by
  induction l with
  | nil => exact .inl (by simpa [putBy] using h)
  | cons b l ih =>
    unfold putBy at h
    split at h
    · rcases List.mem_cons.1 h with rfl | h
      · exact .inl rfl
      · exact .inr (List.mem_cons_of_mem _ h)
    · rcases List.mem_cons.1 h with rfl | h
      · exact .inr (List.mem_cons_self ..)
      · exact (ih h).imp id (List.mem_cons_of_mem _)

/-- A state with the same memory and the same formes. -/
theorem State.Canon.of_eq {m t : Bool} {s u : State} (h : s.Canon m t) (hm : u.mem = s.mem) (hf : u.formes = s.formes) : u.Canon m t := by
  unfold State.Canon
  rw [hm, hf]
  exact h

theorem State.Canon.setDie {m t : Bool} {s : State} (h : s.Canon m t) (d : Die) : (s.setDie d).Canon m t := h.of_eq rfl rfl
theorem State.Canon.setPart {m t : Bool} {s : State} (h : s.Canon m t) (p : Part) : (s.setPart p).Canon m t := h.of_eq rfl rfl
theorem State.Canon.setCtx {m t : Bool} {s : State} (h : s.Canon m t) (c : Ctx) : (s.setCtx c).Canon m t := h.of_eq rfl rfl
theorem State.Canon.setTile {m t : Bool} {s : State} (h : s.Canon m t) (d : DTile) : (s.setTile d).Canon m t := h.of_eq rfl rfl
theorem State.Canon.setIsland {m t : Bool} {s : State} (h : s.Canon m t) (i : Island) : (s.setIsland i).Canon m t := h.of_eq rfl rfl
theorem State.Canon.draw {m t : Bool} {s : State} (h : s.Canon m t) : s.draw.2.Canon m t := h.of_eq rfl rfl
theorem State.Canon.pick {m t : Bool} {s : State} (h : s.Canon m t) (n : Nat) : (s.pick n).2.Canon m t := h.of_eq rfl rfl
theorem State.Canon.sendTile {m t : Bool} {s : State} (h : s.Canon m t) (d : Nat) (k : PTok) : (s.sendTile d k).Canon m t := h.setTile _

/-- A forme that is put in has to be canonical itself. -/
theorem State.Canon.setForme {m t : Bool} {s : State} (h : s.Canon m t) {f : Forme} (hf : f.Canon t) : (s.setForme f).Canon m t :=
  ⟨h.1, fun g hg => by
    rcases mem_putBy hg with rfl | hg
    · exact hf
    · exact h.2 g hg⟩

theorem State.Canon.dropForme {m t : Bool} {s : State} (h : s.Canon m t) (n : Nat) : (s.dropForme n).Canon m t :=
  ⟨h.1, fun g hg => h.2 g (List.mem_of_mem_filter hg)⟩

/-- The forme found under a handle is canonical. -/
theorem State.Canon.forme {m t : Bool} {s : State} (h : s.Canon m t) {n : Nat} {f : Forme} (hf : s.forme? n = some f) : f.Canon t :=
  h.2 f (List.mem_of_find?_eq_some hf)

/-- What every step of a fold keeps, the fold keeps. -/
theorem State.Canon.foldl {m t : Bool} {α : Type} {g : State → α → State} (hg : ∀ s a, s.Canon m t → (g s a).Canon m t) (l : List α) :
    ∀ {s : State}, s.Canon m t → (l.foldl g s).Canon m t := by
  induction l with
  | nil => intro s h; exact h
  | cons a l ih => intro s h; exact ih (hg s a h)

/-- Writes keep a canonical memory canonical, at every place that they reach. -/
theorem Memory.writePlaces_wf (b : List Byte) (l : List Nat) :
    ∀ {m : Memory}, Memory.wf m = true → Memory.wf (l.foldl (fun m t => Memory.writeN m t b) m) = true := by
  induction l with
  | nil => intro m h; exact h
  | cons a l ih => intro m h; exact ih (Memory.writeN_wf h a b)

theorem State.Canon.writeN {m t : Bool} {s : State} (h : s.Canon m t) (a : Nat) (b : List Byte) : (s.writeN a b).Canon m t :=
  ⟨fun hm => Memory.writePlaces_wf b _ (h.1 hm), h.2⟩

theorem State.Canon.writePieces {m t : Bool} (l : List (Nat × Nat)) :
    ∀ {s : State} (b : List Byte), s.Canon m t → (s.writePieces l b).Canon m t := by
  induction l with
  | nil => intro s b h; exact h
  | cons c l ih => intro s b h; exact ih _ (h.writeN ..)

/-! ## Report queues and faults -/

theorem State.Canon.postRing {m t : Bool} {s u : State} (h : s.Canon m t) {p n : Nat} {q : VA} {rec : Nat}
    (e : s.postRing p q rec = some (.done u n)) : u.Canon m t := by
  unfold State.postRing at e
  split at e
  · cases e
  · cases e
  · dsimp only at e
    split at e
    · cases e
    · cases e
    · split at e
      · cases e
      · cases e
        exact .writePieces _ _ (.writePieces _ _ h)

theorem State.Canon.countLost {m t : Bool} {s : State} (h : s.Canon m t) (p : Nat) (q : VA) : (s.countLost p q).Canon m t := by
  unfold State.countLost
  split
  · exact .writePieces _ _ h
  · exact h

theorem State.Canon.postHost {m t : Bool} {s u : State} (h : s.Canon m t) {p rec : Nat} (e : s.postHost p rec = some u) : u.Canon m t := by
  unfold State.postHost at e
  split at e
  · cases e; exact h
  · split at e
    · cases e
    · rename_i r; cases e; exact (h.postRing r).of_eq rfl rfl
    · cases e; exact h.countLost ..
    · cases e; exact h.setPart _

theorem State.Canon.postPart {m t : Bool} {s u : State} (h : s.Canon m t) {p pay : Nat} {f : FaultHead} (e : s.postPart p f pay = some u) :
    u.Canon m t := h.postHost e

theorem State.Canon.stray {m t : Bool} {s u : State} (h : s.Canon m t) {p src n : Nat} {k : PTok} (e : s.stray p src n k = some u) :
    u.Canon m t := h.postPart e

theorem State.Canon.postEvent {m t : Bool} {s u : State} (h : s.Canon m t) {c src n code v : Nat}
    (e : s.postEvent c src n code v = some u) : u.Canon m t := by
  unfold State.postEvent at e
  split at e
  · cases e; exact h
  · split at e
    · cases e; exact h
    · split at e
      · cases e
      · rename_i r; cases e; exact h.postRing r
      · cases e; exact h.countLost ..
      · exact h.postHost e

theorem State.Canon.tellHandler {m t : Bool} {s : State} (h : s.Canon m t) (x : Ctx) (n : Nat) : (s.tellHandler x n).Canon m t := by
  unfold State.tellHandler
  split
  · exact h
  · exact h.sendTile ..

theorem State.Canon.recorded {m t : Bool} {s u : State} (h : s.Canon m t) {x : Ctx} {full n : Nat} {q : Bool} {w : FaultWork}
    (e : s.recorded x full n q w = some u) : u.Canon m t := by
  unfold State.recorded at e
  dsimp only at e
  split at e
  · exact (h.setCtx _).postHost e
  · cases e; exact (h.setCtx _).tellHandler ..

theorem State.Canon.postFault {m t : Bool} {s u : State} (h : s.Canon m t) {f : FaultHead} {pay : Nat} {hnd : Bool} {w : FaultWork}
    (e : s.postFault f pay hnd w = some u) : u.Canon m t := by
  unfold State.postFault at e
  split at e
  · cases e; exact h
  · split at e
    · cases e
    · rename_i r; exact (h.postRing r).recorded e
    · exact (h.setCtx _).postHost e
    · exact (h.setCtx _).postHost e

/-! ## What a fault stops -/

theorem State.Canon.returnNow {m t : Bool} {s u : State} (h : s.Canon m t) {p : Nat} {q : QHold} (e : s.returnNow p q = some u) :
    u.Canon m t := by
  unfold State.returnNow at e
  split at e
  · cases e
  · cases e; exact .writePieces _ _ (h.setPart _)
  · cases e; exact h

theorem State.Canon.returnHold {m t : Bool} {s : State} (h : s.Canon m t) (p : Nat) (q : QHold) : (s.returnHold p q).Canon m t := by
  unfold State.returnHold
  split
  · exact h
  · split
    · rename_i e; exact h.returnNow e
    · exact h.setPart _
    · exact h

theorem State.Canon.stopWaiting {m t : Bool} {s : State} (h : s.Canon m t) (c : Nat) : (s.stopWaiting c).Canon m t := by
  unfold State.stopWaiting
  repeat' split
  all_goals first | exact h.setCtx _ | exact h

theorem State.Canon.dropWaits {m t : Bool} {s : State} (h : s.Canon m t) (n : Nat) (l : List Galley) : (s.dropWaits n l).Canon m t :=
  .foldl (fun _ _ k => k.stopWaiting _) _ (h.of_eq rfl rfl)

theorem State.Canon.ite {m t : Bool} {s u : State} {c : Prop} [Decidable c] (h : s.Canon m t) (k : u.Canon m t) :
    (if c then s else u).Canon m t := by
  split
  · exact h
  · exact k

theorem State.Canon.dropGalley {m t : Bool} {s : State} (h : s.Canon m t) (n : Nat) (g : Galley) : (s.dropGalley n g).Canon m t := by
  unfold State.dropGalley
  refine State.Canon.setTile (.foldl (fun s a k => ?_) _ ?_) _
  · split
    · exact k.setCtx _
    · exact k
  · have a := State.Canon.dropWaits (State.Canon.foldl
      (g := fun s (x : Galley) => x.holds.reverse.foldl (fun s h => s.returnHold (s.unitPart n) h) s)
      (fun _ _ k => .foldl (fun _ _ k => k.returnHold ..) _ k)
      (sortBy (fun (a b : Galley) => decide (b.seq < a.seq)) ((s.tile n).fallen g)) h) n ((s.tile n).fallen g)
    exact .ite a (a.setIsland _)

theorem State.Canon.giveBits {m t : Bool} {s : State} (h : s.Canon m t) (n : Nat) (l : List Galley) : (s.giveBits n l).Canon m t :=
  .ite h (h.setIsland _)

theorem State.Canon.reopen {m t : Bool} {s : State} (h : s.Canon m t) (n : Nat) (l : List Galley) : (s.reopen n l).Canon m t :=
  (h.giveBits n l).setTile _

theorem State.Canon.doorsAbsent {m t : Bool} {s : State} (h : s.Canon m t) (p n : Nat) : (s.doorsAbsent p n).Canon m t := by
  unfold State.doorsAbsent
  split
  · exact h
  · exact h.setPart _

theorem State.Canon.refreshSwapped {m t : Bool} {s : State} (h : s.Canon m t) (c : Nat) : (s.refreshSwapped c).Canon m t := by
  unfold State.refreshSwapped
  split
  · exact h
  · dsimp only
    split
    · exact h.setCtx _
    · split
      · exact h.setCtx _
      · exact h

/-- A forme that has not run yet is canonical. -/
theorem Forme.Canon.fresh (t : Bool) (f : Forme) (h : f.run = {}) : f.Canon t := fun _ => by
  unfold Forme.tilesCanonical
  rw [h]
  rfl

theorem Forme.Canon.void {t : Bool} {f : Forme} (h : f.Canon t) : f.void.Canon t := fun k => by
  have := h k
  simp only [Forme.tilesCanonical, Bool.and_eq_true] at this ⊢
  exact ⟨⟨⟨this.1.2, this.2⟩, this.1.2⟩, this.2⟩

theorem Forme.Canon.replay {t : Bool} {f : Forme} (h : f.Canon t) : f.replay.Canon t := by
  unfold Forme.replay
  split
  · intro k
    have := h k
    simp only [Forme.tilesCanonical, Bool.and_eq_true] at this ⊢
    exact ⟨⟨⟨this.1.2, this.2⟩, this.1.2⟩, this.2⟩
  · exact h

theorem State.Canon.killForme {m t : Bool} {s : State} (h : s.Canon m t) (f : Forme) (keep : Bool) : (s.killForme f keep).Canon m t := by
  unfold State.killForme
  refine State.Canon.refreshSwapped ?_ _
  split
  · exact (h.doorsAbsent ..).setForme (.fresh _ _ rfl)
  · exact (h.doorsAbsent ..).dropForme _

theorem State.Canon.faultFormeBy {m t : Bool} {s u : State} (h : s.Canon m t) {src n x y port cls reason : Nat} {pay : Pay}
    (e : s.faultFormeBy src n x y port cls reason pay = some u) : u.Canon m t := by
  unfold State.faultFormeBy at e
  split at e
  · cases e; exact h
  · rename_i f hf
    dsimp only at e
    split at e
    · exact (h.killForme ..).postFault e
    · exact ((h.pick 2).setForme (h.forme hf).void).postFault e

theorem State.Canon.faultForme {m t : Bool} {s u : State} (h : s.Canon m t) {n x y port cls reason : Nat} {pay : Pay}
    (e : s.faultForme n x y port cls reason pay = some u) : u.Canon m t := h.faultFormeBy e

theorem State.Canon.faultGalleyBy {m t : Bool} {s u : State} (h : s.Canon m t) {src n node cls reason : Nat} {g : Galley} {pay : Pay}
    (e : s.faultGalleyBy src n g node cls reason pay = some u) : u.Canon m t := ((h.pick 2).dropGalley n g).postFault e

theorem State.Canon.faultGalley {m t : Bool} {s u : State} (h : s.Canon m t) {n node cls reason : Nat} {g : Galley} {pay : Pay}
    (e : s.faultGalley n g node cls reason pay = some u) : u.Canon m t := h.faultGalleyBy e

theorem State.Canon.faultOp {m t : Bool} {s u : State} (h : s.Canon m t) {c src n cls reason pay : Nat} {hnd : Bool}
    (e : s.faultOp c src n cls reason pay hnd = some u) : u.Canon m t := h.postFault e

/-! ## Returning from a fault -/

theorem State.Canon.advanceHead {m t : Bool} {s u : State} (h : s.Canon m t) {x : Ctx} (e : s.advanceHead x = some u) : u.Canon m t := by
  unfold State.advanceHead at e
  split at e
  · cases e
  · cases e; exact h
  · cases e; exact .writePieces _ _ h

theorem State.Canon.restoreState {m t : Bool} {s : State} (h : s.Canon m t) (c : Nat) : (s.restoreState c).Canon m t := by
  unfold State.restoreState
  split
  · exact h
  · split
    · exact (h.setCtx _).refreshSwapped _
    · exact h

theorem State.Canon.endThread {m t : Bool} {s : State} (h : s.Canon m t) (n : Nat) (l : List Galley) (dead : Galley → Bool) :
    (s.endThread n l dead).Canon m t := (h.setTile _).reopen ..

theorem State.Canon.endTag {m t : Bool} {s : State} (h : s.Canon m t) (n : Nat) (tag : Tag) : (s.endTag n tag).Canon m t := by
  unfold State.endTag
  split
  · exact h
  · exact (h.dropGalley ..).endThread ..

theorem State.Canon.resolve {m t : Bool} {s : State} (h : s.Canon m t) (c a : Nat) (w : FaultWork) : (s.resolve c a w).Canon m t := by
  unfold State.resolve
  split
  · split
    · exact h
    · rename_i f hf
      split
      · exact h.killForme ..
      · exact h.setForme (h.forme hf).replay
  · dsimp only
    split
    · exact h.endThread ..
    · exact h.reopen ..
  · split
    · exact h
    · split
      · exact h
      · split
        · exact h.setForme (.fresh _ _ rfl)
        · exact h.dropForme _
  · exact h
  · dsimp only
    have k : ∀ o : Option Ctx, (match o with
        | some x => s.setCtx { x with trapHold := false }
        | none => s).Canon m t := fun o => by cases o <;> first | exact h.setCtx _ | exact h
    split
    · exact ((k _).endTag ..).setTile _
    · exact k _

theorem State.Canon.eret {m t : Bool} {s u : State} (h : s.Canon m t) {c a : Nat} (e : s.eret c a = some u) : u.Canon m t := by
  unfold State.eret at e
  split at e
  · cases e; exact h
  · split at e
    · cases e
    · split at e
      · cases e; exact h
      · split at e
        · cases e; exact h
        · split at e
          · cases e
          · rename_i k
            cases e
            exact (((h.setCtx _).advanceHead k).resolve ..).restoreState _

theorem State.Canon.replayUnposted {m t : Bool} {s : State} (h : s.Canon m t) (c : Nat) : (s.replayUnposted c).Canon m t := by
  unfold State.replayUnposted
  split
  · exact h
  · refine State.Canon.restoreState (.foldl (fun s w k => ?_) _ (h.setCtx _)) _
    split <;> exact k.resolve ..

end Sys2Proof.Machine
end

