-- ==== Sys2Proof/Laws/Decode.lean ====
section
/-! SUPPORT. The record word: its parts are read back from its bits (R69), and what a well-formed record says of its literal. -/

namespace Sys2Proof

/-- Parts that fit the fields of a record: a literal leaves no room for packed parameters (R72). -/
structure Parts.Fit (p : Parts) : Prop where
  op : p.op < 256
  mod : p.mod < 16
  lit : p.lit < 2^32
  zero : p.shell.lit.isSome → p.lit = 0

theorem Parts.fit {op mod lit : Nat} {var : Bool} (r : Shell) (h1 : op < 256) (h2 : mod < 16) (h3 : lit < 2 ^ 32)
    (h4 : r.lit.isSome → lit = 0) : Parts.Fit ⟨op, mod, var, lit, r⟩ := ⟨h1, h2, h3, h4⟩

/-- A record fits 96 bits (R69). -/
theorem Parts.word_lt (p : Parts) (h : p.Fit) : p.word < 2^96 := by
  obtain ⟨op, mod, var, lit, ⟨im, pin, l, aux, a, b⟩⟩ := p
  obtain ⟨h1,h2,h3,h4⟩ := h
  simp only at *
  have := im.isLt; have := aux.isLt; have := a.isLt; have := b.isLt
  cases l with
  | none => cases var <;> cases pin <;> simp [Parts.word] <;> omega
  | some q => obtain ⟨q,v⟩ := q; have := q.isLt; have := v.isLt; cases var <;> cases pin <;> simp [Parts.word] <;> omega

/-- The bits of a record give its parts back. -/
theorem Parts.split_word {p : Parts} (h : p.Fit) : splitWord p.word = p := by
  obtain ⟨op, mod, var, lit, ⟨im, pin, l, aux, a, b⟩⟩ := p
  obtain ⟨h1,h2,h3,h4⟩ := h
  simp only at *
  have := im.isLt; have := aux.isLt; have := a.isLt; have := b.isLt
  cases l with
  | none =>
    have hv : var.toNat < 2 := by cases var <;> decide
    have hp : pin.toNat < 2 := by cases pin <;> decide
    simp only [Parts.word]
    suffices key : ∀ n, n = (lit + b.toNat * 2 ^ 32 + a.toNat * 2 ^ 48 + pin.toNat * 2 ^ 71 + im.toNat * 2 ^ 72 + aux.toNat * 2 ^ 75 + var.toNat * 2 ^ 80 + 0 * 2 ^ 81 + 0 * 2 ^ 83 + mod * 2 ^ 84 + op * 2 ^ 88) → splitWord n = ⟨op, mod, var, lit, ⟨im, pin, none, aux, a, b⟩⟩ by exact key _ rfl
    intro n hn
    have e0 : fld 83 1 n = 0 := by unfold fld; omega
    have e1 : fld 88 8 n = op := by unfold fld; omega
    have e2 : fld 84 4 n = mod := by unfold fld; omega
    have e3 : fld 80 1 n = var.toNat := by unfold fld; omega
    have e4 : fld 0 32 n = lit := by unfold fld; omega
    have e5 : fld 72 3 n = im.toNat := by unfold fld; omega
    have e6 : fld 71 1 n = pin.toNat := by unfold fld; omega
    have e7 : fld 75 5 n = aux.toNat := by unfold fld; omega
    have e8 : fld 48 16 n = a.toNat := by unfold fld; omega
    have e9 : fld 32 16 n = b.toNat := by unfold fld; omega
    simp only [splitWord, e0, e1,e2,e3,e4,e5,e6,e7,e8,e9]
    cases var <;> cases pin <;> simp
  | some q =>
    obtain ⟨q,v⟩ := q; have := q.isLt; have := v.isLt
    have hz : lit = 0 := h4 rfl
    subst hz
    have hv : var.toNat < 2 := by cases var <;> decide
    have hp : pin.toNat < 2 := by cases pin <;> decide
    simp only [Parts.word]
    suffices key : ∀ n, n = (v.toNat + b.toNat * 2 ^ 32 + a.toNat * 2 ^ 48 + pin.toNat * 2 ^ 71 + im.toNat * 2 ^ 72 + aux.toNat * 2 ^ 75 + var.toNat * 2 ^ 80 + q.toNat * 2 ^ 81 + 1 * 2 ^ 83 + mod * 2 ^ 84 + op * 2 ^ 88) → splitWord n = ⟨op, mod, var, 0, ⟨im, pin, some (q, v), aux, a, b⟩⟩ by exact key _ rfl
    intro n hn
    have e0 : fld 83 1 n = 1 := by unfold fld; omega
    have e1 : fld 88 8 n = op := by unfold fld; omega
    have e2 : fld 84 4 n = mod := by unfold fld; omega
    have e3 : fld 80 1 n = var.toNat := by unfold fld; omega
    have e4 : fld 0 32 n = v.toNat := by unfold fld; omega
    have e5 : fld 72 3 n = im.toNat := by unfold fld; omega
    have e6 : fld 71 1 n = pin.toNat := by unfold fld; omega
    have e7 : fld 75 5 n = aux.toNat := by unfold fld; omega
    have e8 : fld 48 16 n = a.toNat := by unfold fld; omega
    have e9 : fld 32 16 n = b.toNat := by unfold fld; omega
    have e10 : fld 81 2 n = q.toNat := by unfold fld; omega
    simp only [splitWord, e0, e1,e2,e3,e4,e5,e6,e7,e8,e9,e10]
    cases var <;> cases pin <;> simp

theorem GetSel.bits_lt (s : GetSel) : s.bits < 16 := by
  cases s with
  | field i => exact Nat.lt_trans i.isLt (by decide)
  | lo | hi | ctx => decide

theorem GetSel.ofBits_bits (s : GetSel) : GetSel.ofBits (fld 0 4 s.bits) = some s := by
  cases s with
  | field i =>
    have := i.isLt
    have h : fld 0 4 (GetSel.field i).bits = i.toNat := by simp only [GetSel.bits, fld]; omega
    rw [h, GetSel.ofBits, if_pos this, BitVec.ofNat_toNat, BitVec.setWidth_eq]
  | lo | hi | ctx => decide

theorem SetSel.bits_lt (s : SetSel) : s.bits < 16 := by
  cases s with
  | field i => exact Nat.lt_trans i.isLt (by decide)
  | ctx => decide

theorem SetSel.ofBits_bits (s : SetSel) : SetSel.ofBits (fld 0 4 s.bits) = some s := by
  cases s with
  | field i =>
    have := i.isLt
    have h : fld 0 4 (SetSel.field i).bits = i.toNat := by simp only [SetSel.bits, fld]; omega
    rw [h, SetSel.ofBits, if_pos this, BitVec.ofNat_toNat, BitVec.setWidth_eq]
  | ctx => decide

/-- A well-formed record has an operand form and LIT values that it allows (R71, R72). -/
theorem Instr.wf_form {pl : Placement} {i : Instr} {r : Shell} (hs : i.shell? = some r) (h : i.wf pl = true) :
    i.litOk pl = true ∧ (i.form pl).allows r = true := by
  unfold Instr.wf at h
  rw [hs] at h
  simp only [Instr.check, Bool.true_and] at h
  split at h
  · simp at h
  · split at h
    · simp at h
    · rename_i h2
      simpa using h2

/-- A form without literal ports has no literal. -/
theorem Form.no_lit {f : Form} {r : Shell} (h : f.allows r = true) (hf : f.lit = 0) : r.lit = none := by
  unfold Form.allows at h
  cases hl : r.lit with
  | none => rfl
  | some q => obtain ⟨q, v⟩ := q; rw [hl] at h; simp [hf] at h

end Sys2Proof
end

