-- ==== Sys2Proof/Laws/Firing.lean ====
section
/-! SUPPORT. What each common shape of a firing does with a complete set: by its flags, and on a value. -/

namespace Sys2Proof.Machine

@[simp] theorem settle_some (s t : State) : settle s (some t) = .next t := rfl
@[simp] theorem settle_none (s : State) : settle s none = .next s := rfl
@[simp] theorem settleFire_some (s t : State) : settleFire s (some t) = .next t := rfl
@[simp] theorem settleFire_none (s : State) : settleFire s none = .next s.park := rfl

/-- A set without a dormant token: its parts, in the form that the meanings ask for. -/
theorem FiresAwake.parts {s : State} {r : Shell} {f : Firing} {t : State} (h : FiresAwake s r f t) :
    s.gather r = some (f, t) ∧ f.verdict = .value ∧ (f.toks.any fun e => e.2.isDormant) = false := by
  refine ⟨h.1.1, h.1.2, List.any_eq_false.2 fun e he => ?_⟩
  simp [h.2 e he]

/-- The token on a port of a set without a dormant one is not dormant. -/
theorem FiresAwake.port {s : State} {r : Shell} {f : Firing} {t : State} (h : FiresAwake s r f t) (k : Nat) : (f.port r k).isDormant = false := by
  have m : ∀ j t, (j, t) ∈ f.toks → Tok.isDormant t = false := fun j t he => h.2 (j, t) he
  have lit : (match r.lit with
      | some (q, v) => if q.toNat = k then ({ value := v } : Tok) else {}
      | none => {}).isDormant = false := by
    split
    · split <;> rfl
    · rfl
  unfold Firing.port
  split
  · rename_i a ha
    by_cases h0 : k = 0
    · rw [if_pos h0] at ha
      exact m 0 a (List.mem_filterMap.2 ⟨(0, f.p0), by simp, by simp [ha]⟩)
    · by_cases h1 : k = 1
      · rw [if_neg h0, if_pos h1] at ha
        exact m 1 a (List.mem_filterMap.2 ⟨(1, f.p1), by simp, by simp [ha]⟩)
      · rw [if_neg h0, if_neg h1] at ha
        exact m 2 a (List.mem_filterMap.2 ⟨(2, f.p2), by simp, by simp [ha]⟩)
  · exact lit

/-- A record of the common shape on a set that gives a value. -/
theorem fire_of_fires {s : State} {r : Shell} {f : Firing} {t : State} (h : Fires s r f t) (value : Firing → State → Option State) :
    s.fire r value = settleFire s (value f t) := by
  simp only [State.fire, h.1, h.2]

/-- A record that does nothing on a dormant operand, on a set without one. -/
theorem fireActive_of_awake {s : State} {r : Shell} {f : Firing} {t : State} (h : FiresAwake s r f t) (value : Firing → State → Option State) :
    s.fireActive r value = settleFire s (value f t) := by
  obtain ⟨a, b, c⟩ := h.parts
  simp [State.fireActive, State.fire, a, b, c]

/-- A control record of an AG on a set without a dormant token. -/
theorem fireControl_of_awake {s : State} {r : Shell} {f : Firing} {t : State} (h : FiresAwake s r f t) (act : Firing → State → Option State) :
    s.fireControl r act = settleFire s (act f t) := by
  obtain ⟨a, b, c⟩ := h.parts
  simp [State.fireControl, a, b, c]

/-- A tag record on a set that is no count mismatch. -/
theorem fireTag_of_gather {s : State} {r : Shell} {f : Firing} {t : State} (g : s.gather r = some (f, t))
    (m : ∀ k, f.verdict ≠ .mismatch k) (act : Firing → State → Option State) : s.fireTag r act = settleFire s (act f t) := by
  simp only [State.fireTag, g]

/-- A memory record on a set that gives a value and has no dormant data operand. -/
theorem fireData_of_fires {s : State} {r : Shell} {f : Firing} {t : State} (h : Fires s r f t) (data : List Nat)
    (note : Firing → State → State) (value : Firing → State → Option State) (a : ∀ k ∈ data, (f.port r k).isDormant = false) :
    s.fireData r data note value = settleFire s (value f (note f t)) := by
  have hd : (data.any fun k => (f.port r k).isDormant) = false := List.any_eq_false.2 fun k hk => by simp [a k hk]
  simp [State.fireData, h.1, h.2, hd]

/-- A computing record answers with what it computes from its operands. -/
theorem compute_of_fires {s : State} {r : Shell} {f : Firing} {t : State} (h : Fires s r f t) (comp : Opnds → Option Comp) :
    s.compute r comp = .next (t.emitComp f r (comp (t.opnds f r))) := by
  simp only [State.compute, fire_of_fires h, settleFire_some]

/-- NULL and EOS go to both destinations of a record of the common shape (R33, R34). -/
theorem fire_of_null {s : State} {r : Shell} {f : Firing} {t : State} (g : s.gather r = some (f, t)) (v : f.verdict = .null)
    (value : Firing → State → Option State) : s.fire r value = .next (t.sendBoth f r .null) := by
  simp only [State.fire, g, v, settleFire_some]

theorem fire_of_eos {s : State} {r : Shell} {f : Firing} {t : State} (g : s.gather r = some (f, t)) (v : f.verdict = .eos)
    (value : Firing → State → Option State) : s.fire r value = .next (t.sendBoth f r .eos) := by
  simp only [State.fire, g, v, settleFire_some]

/-- Without a complete set nothing happens but that an instance is marked as tried. -/
theorem fire_of_none {s : State} {r : Shell} (g : s.gather r = none) (value : Firing → State → Option State) :
    s.fire r value = .next s.park := by
  simp only [State.fire, g, settleFire_none]

end Sys2Proof.Machine
end

