-- ==== Sys2Proof/Laws/PerInstr.lean ====
section
/-! SUPPORT. Families of statements made instruction by instruction. Coding: the parts of a well-formed record fit its fields and
decode to the record (R69, R80). -/

namespace Sys2Proof.Laws.Coding

/-- The parts of a well-formed record fit, decode to it, and hold its shell. -/
def Statement (i : Instr) : Prop :=
  ∀ (pl : Placement) (p : Parts), i.wf pl = true → encodeParts i = some p → p.Fit ∧ decodeOp p = .ok i ∧ i.shell? = some p.shell

theorem of_parts {i : Instr} {p : Parts} (he : encodeParts i = some p) (hd : decodeOp p = .ok i) (hf : p.Fit)
    (hs : i.shell? = some p.shell) : Statement i := by
  intro _ q _ hq
  rw [he] at hq
  cases hq
  exact ⟨hf, hd, hs⟩

theorem add (lt : LaneType) (sat : Bool) (r : Shell) : Statement (.add lt sat r) := by
  cases lt <;> cases sat <;>
    exact of_parts rfl (by first | rfl | simp [decodeOp, decodeG0, need, fld, bind, Except.bind, LaneType.ofBits, LaneType.bits]) (Parts.fit _ (by decide) (by decide) (by decide) fun _ => rfl) rfl
theorem sub (lt : LaneType) (sat : Bool) (r : Shell) : Statement (.sub lt sat r) := by
  cases lt <;> cases sat <;>
    exact of_parts rfl (by first | rfl | simp [decodeOp, decodeG0, need, fld, bind, Except.bind, LaneType.ofBits, LaneType.bits]) (Parts.fit _ (by decide) (by decide) (by decide) fun _ => rfl) rfl
theorem mul (lt : LaneType) (sat : Bool) (r : Shell) : Statement (.mul lt sat r) := by
  cases lt <;> cases sat <;>
    exact of_parts rfl (by first | rfl | simp [decodeOp, decodeG0, need, fld, bind, Except.bind, LaneType.ofBits, LaneType.bits]) (Parts.fit _ (by decide) (by decide) (by decide) fun _ => rfl) rfl
theorem mulh (lt : LaneType) (r : Shell) : Statement (.mulh lt r) := by
  cases lt <;>
    exact of_parts rfl (by first | rfl | simp [decodeOp, decodeG0, need, fld, bind, Except.bind, LaneType.ofBits, LaneType.bits]) (Parts.fit _ (by decide) (by decide) (by decide) fun _ => rfl) rfl
theorem mulhu (lt : LaneType) (r : Shell) : Statement (.mulhu lt r) := by
  cases lt <;>
    exact of_parts rfl (by first | rfl | simp [decodeOp, decodeG0, need, fld, bind, Except.bind, LaneType.ofBits, LaneType.bits]) (Parts.fit _ (by decide) (by decide) (by decide) fun _ => rfl) rfl
theorem mad (lt : LaneType) (sat : Bool) (r : Shell) : Statement (.mad lt sat r) := by
  cases lt <;> cases sat <;>
    exact of_parts rfl (by first | rfl | simp [decodeOp, decodeG0, need, fld, bind, Except.bind, LaneType.ofBits, LaneType.bits]) (Parts.fit _ (by decide) (by decide) (by decide) fun _ => rfl) rfl
theorem div (lt : LaneType) (sat : Bool) (r : Shell) : Statement (.div lt sat r) := by
  cases lt <;> cases sat <;>
    exact of_parts rfl (by first | rfl | simp [decodeOp, decodeG0, need, fld, bind, Except.bind, LaneType.ofBits, LaneType.bits]) (Parts.fit _ (by decide) (by decide) (by decide) fun _ => rfl) rfl
theorem divu (lt : LaneType) (r : Shell) : Statement (.divu lt r) := by
  cases lt <;>
    exact of_parts rfl (by first | rfl | simp [decodeOp, decodeG0, need, fld, bind, Except.bind, LaneType.ofBits, LaneType.bits]) (Parts.fit _ (by decide) (by decide) (by decide) fun _ => rfl) rfl
theorem rem (lt : LaneType) (r : Shell) : Statement (.rem lt r) := by
  cases lt <;>
    exact of_parts rfl (by first | rfl | simp [decodeOp, decodeG0, need, fld, bind, Except.bind, LaneType.ofBits, LaneType.bits]) (Parts.fit _ (by decide) (by decide) (by decide) fun _ => rfl) rfl
theorem remu (lt : LaneType) (r : Shell) : Statement (.remu lt r) := by
  cases lt <;>
    exact of_parts rfl (by first | rfl | simp [decodeOp, decodeG0, need, fld, bind, Except.bind, LaneType.ofBits, LaneType.bits]) (Parts.fit _ (by decide) (by decide) (by decide) fun _ => rfl) rfl
theorem min (lt : LaneType) (r : Shell) : Statement (.min lt r) := by
  cases lt <;>
    exact of_parts rfl (by first | rfl | simp [decodeOp, decodeG0, need, fld, bind, Except.bind, LaneType.ofBits, LaneType.bits]) (Parts.fit _ (by decide) (by decide) (by decide) fun _ => rfl) rfl
theorem max (lt : LaneType) (r : Shell) : Statement (.max lt r) := by
  cases lt <;>
    exact of_parts rfl (by first | rfl | simp [decodeOp, decodeG0, need, fld, bind, Except.bind, LaneType.ofBits, LaneType.bits]) (Parts.fit _ (by decide) (by decide) (by decide) fun _ => rfl) rfl
theorem minu (lt : LaneType) (r : Shell) : Statement (.minu lt r) := by
  cases lt <;>
    exact of_parts rfl (by first | rfl | simp [decodeOp, decodeG0, need, fld, bind, Except.bind, LaneType.ofBits, LaneType.bits]) (Parts.fit _ (by decide) (by decide) (by decide) fun _ => rfl) rfl
theorem maxu (lt : LaneType) (r : Shell) : Statement (.maxu lt r) := by
  cases lt <;>
    exact of_parts rfl (by first | rfl | simp [decodeOp, decodeG0, need, fld, bind, Except.bind, LaneType.ofBits, LaneType.bits]) (Parts.fit _ (by decide) (by decide) (by decide) fun _ => rfl) rfl
theorem abs (lt : LaneType) (sat : Bool) (r : Shell) : Statement (.abs lt sat r) := by
  cases lt <;> cases sat <;>
    exact of_parts rfl (by first | rfl | simp [decodeOp, decodeG0, need, fld, bind, Except.bind, LaneType.ofBits, LaneType.bits]) (Parts.fit _ (by decide) (by decide) (by decide) fun _ => rfl) rfl
theorem neg (lt : LaneType) (sat : Bool) (r : Shell) : Statement (.neg lt sat r) := by
  cases lt <;> cases sat <;>
    exact of_parts rfl (by first | rfl | simp [decodeOp, decodeG0, need, fld, bind, Except.bind, LaneType.ofBits, LaneType.bits]) (Parts.fit _ (by decide) (by decide) (by decide) fun _ => rfl) rfl
theorem andW (r : Shell) : Statement (.andW r) := of_parts rfl (by simp [decodeOp, decodeG1]) (Parts.fit _ (by decide) (by decide) (by decide) fun _ => rfl) rfl
theorem orW (r : Shell) : Statement (.orW r) := of_parts rfl (by simp [decodeOp, decodeG1]) (Parts.fit _ (by decide) (by decide) (by decide) fun _ => rfl) rfl
theorem xorW (r : Shell) : Statement (.xorW r) := of_parts rfl (by simp [decodeOp, decodeG1]) (Parts.fit _ (by decide) (by decide) (by decide) fun _ => rfl) rfl
theorem andn (r : Shell) : Statement (.andn r) := of_parts rfl (by simp [decodeOp, decodeG1]) (Parts.fit _ (by decide) (by decide) (by decide) fun _ => rfl) rfl
theorem lut3 (tt : BitVec 8) (r : Shell) : Statement (.lut3 tt r) := by
  intro pl p hwf he
  obtain ⟨_, ha⟩ := Instr.wf_form rfl hwf
  cases he
  have := tt.isLt
  refine ⟨Parts.fit _ (by decide) (by decide) (by first | omega | (simp <;> omega) | decide) (fun h => absurd h (by simp [Form.no_lit ha rfl])), ?_, rfl⟩
  first | rfl | (simp [decodeOp, decodeG1, need, fld, bind, Except.bind] <;> (repeat' apply And.intro) <;> first | omega | (apply BitVec.eq_of_toNat_eq; simp <;> omega))
theorem maj (r : Shell) : Statement (.maj r) := of_parts rfl (by simp [decodeOp, decodeG1]) (Parts.fit _ (by decide) (by decide) (by decide) fun _ => rfl) rfl
theorem shl (lt : LaneType) (r : Shell) : Statement (.shl lt r) := by
  cases lt <;>
    exact of_parts rfl (by first | rfl | simp [decodeOp, decodeG1, need, fld, bind, Except.bind, LaneType.ofBits, LaneType.bits]) (Parts.fit _ (by decide) (by decide) (by decide) fun _ => rfl) rfl
theorem shr (lt : LaneType) (r : Shell) : Statement (.shr lt r) := by
  cases lt <;>
    exact of_parts rfl (by first | rfl | simp [decodeOp, decodeG1, need, fld, bind, Except.bind, LaneType.ofBits, LaneType.bits]) (Parts.fit _ (by decide) (by decide) (by decide) fun _ => rfl) rfl
theorem sar (lt : LaneType) (r : Shell) : Statement (.sar lt r) := by
  cases lt <;>
    exact of_parts rfl (by first | rfl | simp [decodeOp, decodeG1, need, fld, bind, Except.bind, LaneType.ofBits, LaneType.bits]) (Parts.fit _ (by decide) (by decide) (by decide) fun _ => rfl) rfl
theorem fshl (lt : LaneType) (r : Shell) : Statement (.fshl lt r) := by
  cases lt <;>
    exact of_parts rfl (by first | rfl | simp [decodeOp, decodeG1, need, fld, bind, Except.bind, LaneType.ofBits, LaneType.bits]) (Parts.fit _ (by decide) (by decide) (by decide) fun _ => rfl) rfl
theorem fshr (lt : LaneType) (r : Shell) : Statement (.fshr lt r) := by
  cases lt <;>
    exact of_parts rfl (by first | rfl | simp [decodeOp, decodeG1, need, fld, bind, Except.bind, LaneType.ofBits, LaneType.bits]) (Parts.fit _ (by decide) (by decide) (by decide) fun _ => rfl) rfl
theorem popc (lt : LaneType) (r : Shell) : Statement (.popc lt r) := by
  cases lt <;>
    exact of_parts rfl (by first | rfl | simp [decodeOp, decodeG1, need, fld, bind, Except.bind, LaneType.ofBits, LaneType.bits]) (Parts.fit _ (by decide) (by decide) (by decide) fun _ => rfl) rfl
theorem clz (lt : LaneType) (r : Shell) : Statement (.clz lt r) := by
  cases lt <;>
    exact of_parts rfl (by first | rfl | simp [decodeOp, decodeG1, need, fld, bind, Except.bind, LaneType.ofBits, LaneType.bits]) (Parts.fit _ (by decide) (by decide) (by decide) fun _ => rfl) rfl
theorem brev (lt : LaneType) (r : Shell) : Statement (.brev lt r) := by
  cases lt <;>
    exact of_parts rfl (by first | rfl | simp [decodeOp, decodeG1, need, fld, bind, Except.bind, LaneType.ofBits, LaneType.bits]) (Parts.fit _ (by decide) (by decide) (by decide) fun _ => rfl) rfl
theorem bfx (lt : LaneType) (pos : BitVec 5) (len : BitVec 6) (sx : Bool) (r : Shell) : Statement (.bfx lt pos len sx r) := by
  intro pl p hwf he
  obtain ⟨_, ha⟩ := Instr.wf_form rfl hwf
  cases he
  have := pos.isLt
  have := len.isLt
  have hz : sx.toNat < 2 := by cases sx <;> decide
  have e : LaneType.ofBits (fld 0 2 lt.bits) = some lt := by cases lt <;> rfl
  have l : lt.bits < 16 := by cases lt <;> decide
  have e1 : fld 0 5 (pos.toNat + len.toNat * 256 + sx.toNat * 65536) = pos.toNat := by unfold fld; omega
  have e2 : fld 8 6 (pos.toNat + len.toNat * 256 + sx.toNat * 65536) = len.toNat := by unfold fld; omega
  have e3 : fld 16 1 (pos.toNat + len.toNat * 256 + sx.toNat * 65536) = sx.toNat := by unfold fld; omega
  refine ⟨Parts.fit _ (by decide) l (by omega) (fun h => absurd h (by simp [Form.no_lit ha rfl])), ?_, rfl⟩
  cases sx <;> simp_all [decodeOp, decodeG1, need, bind, Except.bind]
theorem bfi (lt : LaneType) (pos : BitVec 5) (len : BitVec 6) (r : Shell) : Statement (.bfi lt pos len r) := by
  intro pl p hwf he
  obtain ⟨_, ha⟩ := Instr.wf_form rfl hwf
  cases he
  have := pos.isLt; have := len.isLt
  cases lt <;>
    refine ⟨Parts.fit _ (by decide) (by decide) (by first | omega | (simp <;> omega) | decide) (fun h => absurd h (by simp [Form.no_lit ha rfl])), ?_, rfl⟩ <;>
    first | rfl | (simp [decodeOp, decodeG1, need, fld, bind, Except.bind, LaneType.ofBits, LaneType.bits] <;> (repeat' apply And.intro) <;> first | omega | (apply BitVec.eq_of_toNat_eq; simp <;> omega))
theorem icmp (cond : ICond) (r : Shell) : Statement (.icmp cond r) := by
  cases cond <;>
    exact of_parts rfl (by first | rfl | simp [decodeOp, decodeG2, need, fld, bind, Except.bind, ICond.ofBits, ICond.bits]) (Parts.fit _ (by decide) (by decide) (by decide) fun _ => rfl) rfl
theorem icmpv (cond : ICond) (x2 : Bool) (r : Shell) : Statement (.icmpv cond x2 r) := by
  have e : ICond.ofBits (fld 0 4 cond.bits) = some cond := by cases cond <;> rfl
  have l : cond.bits < 16 := by cases cond <;> decide
  cases x2 <;> exact of_parts rfl (by simp [decodeOp, decodeG2, need, e, bind, Except.bind]) (Parts.fit _ (by decide) l (by decide) fun _ => rfl) rfl
theorem fcmp (cond : FCond) (r : Shell) : Statement (.fcmp cond r) := by
  cases cond <;>
    exact of_parts rfl (by first | rfl | simp [decodeOp, decodeG2, need, fld, bind, Except.bind, FCond.ofBits, FCond.bits]) (Parts.fit _ (by decide) (by decide) (by decide) fun _ => rfl) rfl
theorem fcmpv (cond : FCond) (r : Shell) : Statement (.fcmpv cond r) := by
  cases cond <;>
    exact of_parts rfl (by first | rfl | simp [decodeOp, decodeG2, need, fld, bind, Except.bind, FCond.ofBits, FCond.bits]) (Parts.fit _ (by decide) (by decide) (by decide) fun _ => rfl) rfl
theorem sel (r : Shell) : Statement (.sel r) := of_parts rfl (by simp [decodeOp, decodeG2]) (Parts.fit _ (by decide) (by decide) (by decide) fun _ => rfl) rfl
theorem fclass (r : Shell) : Statement (.fclass r) := of_parts rfl (by simp [decodeOp, decodeG2]) (Parts.fit _ (by decide) (by decide) (by decide) fun _ => rfl) rfl
theorem pand (r : Shell) : Statement (.pand r) := of_parts rfl (by simp [decodeOp, decodeG2]) (Parts.fit _ (by decide) (by decide) (by decide) fun _ => rfl) rfl
theorem por (r : Shell) : Statement (.por r) := of_parts rfl (by simp [decodeOp, decodeG2]) (Parts.fit _ (by decide) (by decide) (by decide) fun _ => rfl) rfl
theorem pxor (r : Shell) : Statement (.pxor r) := of_parts rfl (by simp [decodeOp, decodeG2]) (Parts.fit _ (by decide) (by decide) (by decide) fun _ => rfl) rfl
theorem pnot (r : Shell) : Statement (.pnot r) := of_parts rfl (by simp [decodeOp, decodeG2]) (Parts.fit _ (by decide) (by decide) (by decide) fun _ => rfl) rfl
theorem pconst (val : Bool) (r : Shell) : Statement (.pconst val r) := by
  cases val <;>
    exact of_parts rfl (by first | rfl | simp [decodeOp, decodeG2, need, fld, bind, Except.bind]) (Parts.fit _ (by decide) (by decide) (by decide) fun _ => rfl) rfl
theorem ptest (z : Bool) (r : Shell) : Statement (.ptest z r) := by
  cases z <;>
    exact of_parts rfl (by first | rfl | simp [decodeOp, decodeG2, need, fld, bind, Except.bind]) (Parts.fit _ (by decide) (by decide) (by decide) fun _ => rfl) rfl
theorem fadd (rnd : Rnd) (r : Shell) : Statement (.fadd rnd r) := by
  cases rnd <;>
    exact of_parts rfl (by first | rfl | simp [decodeOp, decodeG3, need, fld, bind, Except.bind, Rnd.ofBits, Rnd.bits]) (Parts.fit _ (by decide) (by decide) (by decide) fun _ => rfl) rfl
theorem fsub (rnd : Rnd) (r : Shell) : Statement (.fsub rnd r) := by
  cases rnd <;>
    exact of_parts rfl (by first | rfl | simp [decodeOp, decodeG3, need, fld, bind, Except.bind, Rnd.ofBits, Rnd.bits]) (Parts.fit _ (by decide) (by decide) (by decide) fun _ => rfl) rfl
theorem fmul (rnd : Rnd) (r : Shell) : Statement (.fmul rnd r) := by
  cases rnd <;>
    exact of_parts rfl (by first | rfl | simp [decodeOp, decodeG3, need, fld, bind, Except.bind, Rnd.ofBits, Rnd.bits]) (Parts.fit _ (by decide) (by decide) (by decide) fun _ => rfl) rfl
theorem ffma (rnd : Rnd) (r : Shell) : Statement (.ffma rnd r) := by
  cases rnd <;>
    exact of_parts rfl (by first | rfl | simp [decodeOp, decodeG3, need, fld, bind, Except.bind, Rnd.ofBits, Rnd.bits]) (Parts.fit _ (by decide) (by decide) (by decide) fun _ => rfl) rfl
theorem fmin (r : Shell) : Statement (.fmin r) := of_parts rfl (by simp [decodeOp, decodeG3]) (Parts.fit _ (by decide) (by decide) (by decide) fun _ => rfl) rfl
theorem fmax (r : Shell) : Statement (.fmax r) := of_parts rfl (by simp [decodeOp, decodeG3]) (Parts.fit _ (by decide) (by decide) (by decide) fun _ => rfl) rfl
theorem fabs (r : Shell) : Statement (.fabs r) := of_parts rfl (by simp [decodeOp, decodeG3]) (Parts.fit _ (by decide) (by decide) (by decide) fun _ => rfl) rfl
theorem fneg (r : Shell) : Statement (.fneg r) := of_parts rfl (by simp [decodeOp, decodeG3]) (Parts.fit _ (by decide) (by decide) (by decide) fun _ => rfl) rfl
theorem fdiv (rnd : Rnd) (r : Shell) : Statement (.fdiv rnd r) := by
  cases rnd <;>
    exact of_parts rfl (by first | rfl | simp [decodeOp, decodeG3, need, fld, bind, Except.bind, Rnd.ofBits, Rnd.bits]) (Parts.fit _ (by decide) (by decide) (by decide) fun _ => rfl) rfl
theorem fsqrt (rnd : Rnd) (r : Shell) : Statement (.fsqrt rnd r) := by
  cases rnd <;>
    exact of_parts rfl (by first | rfl | simp [decodeOp, decodeG3, need, fld, bind, Except.bind, Rnd.ofBits, Rnd.bits]) (Parts.fit _ (by decide) (by decide) (by decide) fun _ => rfl) rfl
theorem frcpe (r : Shell) : Statement (.frcpe r) := of_parts rfl (by simp [decodeOp, decodeG3]) (Parts.fit _ (by decide) (by decide) (by decide) fun _ => rfl) rfl
theorem frsqe (r : Shell) : Statement (.frsqe r) := of_parts rfl (by simp [decodeOp, decodeG3]) (Parts.fit _ (by decide) (by decide) (by decide) fun _ => rfl) rfl
theorem fexp2 (rnd : Rnd) (r : Shell) : Statement (.fexp2 rnd r) := by
  cases rnd <;>
    exact of_parts rfl (by first | rfl | simp [decodeOp, decodeG3, need, fld, bind, Except.bind, Rnd.ofBits, Rnd.bits]) (Parts.fit _ (by decide) (by decide) (by decide) fun _ => rfl) rfl
theorem flog2 (rnd : Rnd) (r : Shell) : Statement (.flog2 rnd r) := by
  cases rnd <;>
    exact of_parts rfl (by first | rfl | simp [decodeOp, decodeG3, need, fld, bind, Except.bind, Rnd.ofBits, Rnd.bits]) (Parts.fit _ (by decide) (by decide) (by decide) fun _ => rfl) rfl
theorem fsin (cos : Bool) (rnd : Rnd) (r : Shell) : Statement (.fsin cos rnd r) := by
  cases cos <;> cases rnd <;>
    exact of_parts rfl (by first | rfl | simp [decodeOp, decodeG3, need, fld, bind, Except.bind, Rnd.ofBits, Rnd.bits]) (Parts.fit _ (by decide) (by decide) (by decide) fun _ => rfl) rfl
theorem frnd (rnd : Rnd) (x : Bool) (r : Shell) : Statement (.frnd rnd x r) := by
  cases rnd <;> cases x <;>
    exact of_parts rfl (by first | rfl | simp [decodeOp, decodeG3, need, fld, bind, Except.bind, Rnd.ofBits, Rnd.bits]) (Parts.fit _ (by decide) (by decide) (by decide) fun _ => rfl) rfl
theorem hadd (bf : Bool) (rnd : Rnd) (r : Shell) : Statement (.hadd bf rnd r) := by
  cases bf <;> cases rnd <;>
    exact of_parts rfl (by first | rfl | simp [decodeOp, decodeG4, need, fld, bind, Except.bind, Rnd.ofBits, Rnd.bits]) (Parts.fit _ (by decide) (by decide) (by decide) fun _ => rfl) rfl
theorem hsub (bf : Bool) (rnd : Rnd) (r : Shell) : Statement (.hsub bf rnd r) := by
  cases bf <;> cases rnd <;>
    exact of_parts rfl (by first | rfl | simp [decodeOp, decodeG4, need, fld, bind, Except.bind, Rnd.ofBits, Rnd.bits]) (Parts.fit _ (by decide) (by decide) (by decide) fun _ => rfl) rfl
theorem hmul (bf : Bool) (rnd : Rnd) (r : Shell) : Statement (.hmul bf rnd r) := by
  cases bf <;> cases rnd <;>
    exact of_parts rfl (by first | rfl | simp [decodeOp, decodeG4, need, fld, bind, Except.bind, Rnd.ofBits, Rnd.bits]) (Parts.fit _ (by decide) (by decide) (by decide) fun _ => rfl) rfl
theorem hfma (bf : Bool) (rnd : Rnd) (r : Shell) : Statement (.hfma bf rnd r) := by
  cases bf <;> cases rnd <;>
    exact of_parts rfl (by first | rfl | simp [decodeOp, decodeG4, need, fld, bind, Except.bind, Rnd.ofBits, Rnd.bits]) (Parts.fit _ (by decide) (by decide) (by decide) fun _ => rfl) rfl
theorem hmin (bf : Bool) (r : Shell) : Statement (.hmin bf r) := by
  cases bf <;>
    exact of_parts rfl (by first | rfl | simp [decodeOp, decodeG4, need, fld, bind, Except.bind]) (Parts.fit _ (by decide) (by decide) (by decide) fun _ => rfl) rfl
theorem hmax (bf : Bool) (r : Shell) : Statement (.hmax bf r) := by
  cases bf <;>
    exact of_parts rfl (by first | rfl | simp [decodeOp, decodeG4, need, fld, bind, Except.bind]) (Parts.fit _ (by decide) (by decide) (by decide) fun _ => rfl) rfl
theorem habs (bf : Bool) (r : Shell) : Statement (.habs bf r) := by
  cases bf <;>
    exact of_parts rfl (by first | rfl | simp [decodeOp, decodeG4, need, fld, bind, Except.bind]) (Parts.fit _ (by decide) (by decide) (by decide) fun _ => rfl) rfl
theorem hneg (bf : Bool) (r : Shell) : Statement (.hneg bf r) := by
  cases bf <;>
    exact of_parts rfl (by first | rfl | simp [decodeOp, decodeG4, need, fld, bind, Except.bind]) (Parts.fit _ (by decide) (by decide) (by decide) fun _ => rfl) rfl
theorem hdot2 (bf : Bool) (rnd : Rnd) (r : Shell) : Statement (.hdot2 bf rnd r) := by
  cases bf <;> cases rnd <;>
    exact of_parts rfl (by first | rfl | simp [decodeOp, decodeG4, need, fld, bind, Except.bind, Rnd.ofBits, Rnd.bits]) (Parts.fit _ (by decide) (by decide) (by decide) fun _ => rfl) rfl
theorem hcmp (bf : Bool) (cond : FCond) (r : Shell) : Statement (.hcmp bf cond r) := by
  intro pl p hwf he
  obtain ⟨_, ha⟩ := Instr.wf_form rfl hwf
  cases he
  cases bf <;> cases cond <;>
    refine ⟨Parts.fit _ (by decide) (by decide) (by first | omega | (simp <;> omega) | decide) (fun h => absurd h (by simp [Form.no_lit ha rfl])), ?_, rfl⟩ <;>
    first | rfl | (simp [decodeOp, decodeG4, need, fld, bind, Except.bind, FCond.ofBits, FCond.bits] <;> (repeat' apply And.intro) <;> first | omega | (apply BitVec.eq_of_toNat_eq; simp <;> omega))
theorem hsel (bf : Bool) (r : Shell) : Statement (.hsel bf r) := by
  cases bf <;>
    exact of_parts rfl (by first | rfl | simp [decodeOp, decodeG4, need, fld, bind, Except.bind]) (Parts.fit _ (by decide) (by decide) (by decide) fun _ => rfl) rfl
theorem hmask (bf : Bool) (r : Shell) : Statement (.hmask bf r) := by
  cases bf <;>
    exact of_parts rfl (by first | rfl | simp [decodeOp, decodeG4, need, fld, bind, Except.bind]) (Parts.fit _ (by decide) (by decide) (by decide) fun _ => rfl) rfl
theorem cvtif (half : Bool) (uns : Bool) (rnd : Rnd) (r : Shell) : Statement (.cvtif half uns rnd r) := by
  cases half <;> cases uns <;> cases rnd <;>
    exact of_parts rfl (by first | rfl | simp [decodeOp, decodeG5, need, fld, bind, Except.bind, Rnd.ofBits, Rnd.bits]) (Parts.fit _ (by decide) (by decide) (by decide) fun _ => rfl) rfl
theorem cvtfi (half : Bool) (uns : Bool) (rnd : Rnd) (r : Shell) : Statement (.cvtfi half uns rnd r) := by
  cases half <;> cases uns <;> cases rnd <;>
    exact of_parts rfl (by first | rfl | simp [decodeOp, decodeG5, need, fld, bind, Except.bind, Rnd.ofBits, Rnd.bits]) (Parts.fit _ (by decide) (by decide) (by decide) fun _ => rfl) rfl
theorem cvtff (toFp16 : Bool) (rnd : Rnd) (r : Shell) : Statement (.cvtff toFp16 rnd r) := by
  cases toFp16 <;> cases rnd <;>
    exact of_parts rfl (by first | rfl | simp [decodeOp, decodeG5, need, fld, bind, Except.bind, Rnd.ofBits, Rnd.bits]) (Parts.fit _ (by decide) (by decide) (by decide) fun _ => rfl) rfl
theorem packh (bf : Bool) (rnd : Rnd) (r : Shell) : Statement (.packh bf rnd r) := by
  cases bf <;> cases rnd <;>
    exact of_parts rfl (by first | rfl | simp [decodeOp, decodeG5, need, fld, bind, Except.bind, Rnd.ofBits, Rnd.bits]) (Parts.fit _ (by decide) (by decide) (by decide) fun _ => rfl) rfl
theorem unpkh (hi : Bool) (bf : Bool) (r : Shell) : Statement (.unpkh hi bf r) := by
  cases hi <;> cases bf <;>
    exact of_parts rfl (by first | rfl | simp [decodeOp, decodeG5, need, fld, bind, Except.bind]) (Parts.fit _ (by decide) (by decide) (by decide) fun _ => rfl) rfl
theorem cvtf8 (e5 : Bool) (sat : Bool) (rnd : Rnd) (from32 : Bool) (r : Shell) : Statement (.cvtf8 e5 sat rnd from32 r) := by
  intro pl p hwf he
  obtain ⟨_, ha⟩ := Instr.wf_form rfl hwf
  cases he
  cases e5 <;> cases sat <;> cases rnd <;> cases from32 <;>
    refine ⟨Parts.fit _ (by decide) (by decide) (by first | omega | (simp <;> omega) | decide) (fun h => absurd h (by simp [Form.no_lit ha rfl])), ?_, rfl⟩ <;>
    first | rfl | (simp [decodeOp, decodeG5, need, fld, bind, Except.bind, Rnd.ofBits, Rnd.bits] <;> (repeat' apply And.intro) <;> first | omega | (apply BitVec.eq_of_toNat_eq; simp <;> omega))
theorem cvt8f (e5 : Bool) (hi : Bool) (r : Shell) : Statement (.cvt8f e5 hi r) := by
  cases e5 <;> cases hi <;>
    exact of_parts rfl (by first | rfl | simp [decodeOp, decodeG5, need, fld, bind, Except.bind]) (Parts.fit _ (by decide) (by decide) (by decide) fun _ => rfl) rfl
theorem twenc (bf : Bool) (r : Shell) : Statement (.twenc bf r) := by
  cases bf <;>
    exact of_parts rfl (by first | rfl | simp [decodeOp, decodeG5, need, fld, bind, Except.bind]) (Parts.fit _ (by decide) (by decide) (by decide) fun _ => rfl) rfl
theorem twdec (bf : Bool) (hi : Bool) (r : Shell) : Statement (.twdec bf hi r) := by
  cases bf <;> cases hi <;>
    exact of_parts rfl (by first | rfl | simp [decodeOp, decodeG5, need, fld, bind, Except.bind]) (Parts.fit _ (by decide) (by decide) (by decide) fun _ => rfl) rfl
theorem scq (fmt : ScqFmt) (r : Shell) : Statement (.scq fmt r) := by
  intro pl p hwf he
  obtain ⟨_, ha⟩ := Instr.wf_form rfl hwf
  cases he
  cases fmt <;>
    refine ⟨Parts.fit _ (by decide) (by decide) (by first | omega | (simp <;> omega) | decide) (fun h => absurd h (by simp [Form.no_lit ha rfl])), ?_, rfl⟩ <;>
    first | rfl | (simp [decodeOp, decodeG5, need, fld, bind, Except.bind, ScqFmt.ofBits, ScqFmt.bits] <;> (repeat' apply And.intro) <;> first | omega | (apply BitVec.eq_of_toNat_eq; simp <;> omega))
theorem scdq (quot : Bool) (rnd : Rnd) (r : Shell) : Statement (.scdq quot rnd r) := by
  cases quot <;> cases rnd <;>
    exact of_parts rfl (by first | rfl | simp [decodeOp, decodeG5, need, fld, bind, Except.bind, Rnd.ofBits, Rnd.bits]) (Parts.fit _ (by decide) (by decide) (by decide) fun _ => rfl) rfl
theorem copy (r : Shell) : Statement (.copy r) := of_parts rfl (by simp [decodeOp, decodeG6]) (Parts.fit _ (by decide) (by decide) (by decide) fun _ => rfl) rfl
theorem steer (nul : Bool) (r : Shell) : Statement (.steer nul r) := by
  cases nul <;>
    exact of_parts rfl (by first | rfl | simp [decodeOp, decodeG6, need, fld, bind, Except.bind]) (Parts.fit _ (by decide) (by decide) (by decide) fun _ => rfl) rfl
theorem merge (kind : MergeKind) (r : Shell) : Statement (.merge kind r) := by
  cases kind <;>
    exact of_parts rfl (by first | rfl | simp [decodeOp, decodeG6, need, fld, bind, Except.bind, MergeKind.ofBits, MergeKind.bits]) (Parts.fit _ (by decide) (by decide) (by decide) fun _ => rfl) rfl
theorem gate (nul : Bool) (r : Shell) : Statement (.gate nul r) := by
  cases nul <;>
    exact of_parts rfl (by first | rfl | simp [decodeOp, decodeG6, need, fld, bind, Except.bind]) (Parts.fit _ (by decide) (by decide) (by decide) fun _ => rfl) rfl
theorem sink (r : Shell) : Statement (.sink r) := of_parts rfl (by simp [decodeOp, decodeG6]) (Parts.fit _ (by decide) (by decide) (by decide) fun _ => rfl) rfl
theorem join (r : Shell) : Statement (.join r) := of_parts rfl (by simp [decodeOp, decodeG6]) (Parts.fit _ (by decide) (by decide) (by decide) fun _ => rfl) rfl
theorem const (value : BitVec 32) (r : Shell) : Statement (.const value r) := by
  intro pl p hwf he
  obtain ⟨_, ha⟩ := Instr.wf_form rfl hwf
  cases he
  have := value.isLt
  refine ⟨Parts.fit _ (by decide) (by decide) (by first | omega | (simp <;> omega) | decide) (fun h => absurd h (by cases pl <;> simp [Form.no_lit ha rfl])), ?_, rfl⟩
  first | rfl | (simp [decodeOp, decodeG6, need, fld, bind, Except.bind] <;> (repeat' apply And.intro) <;> first | omega | (apply BitVec.eq_of_toNat_eq; simp <;> omega))
theorem repeatN (eos : Bool) (raw : BitVec 32) (r : Shell) : Statement (.repeatN eos raw r) := by
  intro pl p hwf he
  obtain ⟨ho, ha⟩ := Instr.wf_form rfl hwf
  cases he
  have e : BitVec.ofNat 32 (fld 0 32 raw.toNat) = raw := by
    have := raw.isLt
    apply BitVec.eq_of_toNat_eq; simp [fld]; omega
  refine ⟨Parts.fit _ (by decide) (by decide) raw.isLt (fun h => ?_), by simp [decodeOp, decodeG6, e], rfl⟩
  have ho' : r.inmask = 0 ∨ raw = 0 := by simpa [Instr.litOk] using ho
  rcases ho' with h0 | h0
  · unfold Form.allows at ha
    cases hl : r.lit with
    | none => rw [hl] at h; cases h
    | some q => obtain ⟨q, v⟩ := q; rw [hl] at ha; simp [h0] at ha
  · simp [h0]
theorem seq (eos : Bool) (r : Shell) : Statement (.seq eos r) := by
  cases eos <;>
    exact of_parts rfl (by first | rfl | simp [decodeOp, decodeG6, need, fld, bind, Except.bind]) (Parts.fit _ (by decide) (by decide) (by decide) fun _ => rfl) rfl
theorem nullout (r : Shell) : Statement (.nullout r) := of_parts rfl (by simp [decodeOp, decodeG6]) (Parts.fit _ (by decide) (by decide) (by decide) fun _ => rfl) rfl
theorem eosout (r : Shell) : Statement (.eosout r) := of_parts rfl (by simp [decodeOp, decodeG6]) (Parts.fit _ (by decide) (by decide) (by decide) fun _ => rfl) rfl
theorem eoswait (fwd : Bool) (r : Shell) : Statement (.eoswait fwd r) := by
  cases fwd <;>
    exact of_parts rfl (by first | rfl | simp [decodeOp, decodeG6, need, fld, bind, Except.bind]) (Parts.fit _ (by decide) (by decide) (by decide) fun _ => rfl) rfl
theorem loopin (wc : WidthCode) (start : BitVec 16) (rt : BitVec 4) (r : Shell) : Statement (.loopin wc start rt r) := by
  intro pl p hwf he
  obtain ⟨_, ha⟩ := Instr.wf_form rfl hwf
  cases he
  have := start.isLt; have := rt.isLt
  cases wc <;>
    refine ⟨Parts.fit _ (by decide) (by decide) (by first | omega | (simp <;> omega) | decide) (fun h => absurd h (by simp [Form.no_lit ha rfl])), ?_, rfl⟩ <;>
    first | rfl | (simp [decodeOp, decodeG7, need, fld, bind, Except.bind, WidthCode.ofBits, WidthCode.bits] <;> (repeat' apply And.intro) <;> first | omega | (apply BitVec.eq_of_toNat_eq; simp <;> omega))
theorem nexti (rt : BitVec 4) (r : Shell) : Statement (.nexti rt r) := by
  intro pl p hwf he
  obtain ⟨_, ha⟩ := Instr.wf_form rfl hwf
  cases he
  have := rt.isLt
  refine ⟨Parts.fit _ (by decide) (by decide) (by first | omega | (simp <;> omega) | decide) (fun h => absurd h (by simp [Form.no_lit ha rfl])), ?_, rfl⟩
  first | rfl | (simp [decodeOp, decodeG7, need, fld, bind, Except.bind] <;> (repeat' apply And.intro) <;> first | omega | (apply BitVec.eq_of_toNat_eq; simp <;> omega))
theorem loopout (rt : BitVec 4) (r : Shell) : Statement (.loopout rt r) := by
  intro pl p hwf he
  obtain ⟨_, ha⟩ := Instr.wf_form rfl hwf
  cases he
  have := rt.isLt
  refine ⟨Parts.fit _ (by decide) (by decide) (by first | omega | (simp <;> omega) | decide) (fun h => absurd h (by simp [Form.no_lit ha rfl])), ?_, rfl⟩
  first | rfl | (simp [decodeOp, decodeG7, need, fld, bind, Except.bind] <;> (repeat' apply And.intro) <;> first | omega | (apply BitVec.eq_of_toNat_eq; simp <;> omega))
theorem call (callSite : BitVec 16) (rt : BitVec 4) (r : Shell) : Statement (.call callSite rt r) := by
  intro pl p hwf he
  obtain ⟨ho, ha⟩ := Instr.wf_form rfl hwf
  cases he
  have := rt.isLt
  have := callSite.isLt
  have e : BitVec.ofNat 4 (fld 16 4 (callSite.toNat + rt.toNat * 65536)) = rt := by
    apply BitVec.eq_of_toNat_eq; simp [fld]; omega
  have e' : BitVec.ofNat 16 (fld 0 16 (callSite.toNat + rt.toNat * 65536)) = callSite := by
    apply BitVec.eq_of_toNat_eq; simp [fld]; omega
  refine ⟨Parts.fit _ (by decide) (by decide) (by omega) (fun h => ?_), by simp [decodeOp, decodeG7, e, e'], rfl⟩
  cases pl with
  | pinned => exact absurd h (by simp [Form.no_lit ha rfl])
  | pooled =>
    have : callSite = 0 ∧ rt = 0 := by simpa [Instr.litOk] using ho
    simp [this.1, this.2]
theorem ret (rt : BitVec 4) (r : Shell) : Statement (.ret rt r) := by
  intro pl p hwf he
  obtain ⟨_, ha⟩ := Instr.wf_form rfl hwf
  cases he
  have := rt.isLt
  refine ⟨Parts.fit _ (by decide) (by decide) (by first | omega | (simp <;> omega) | decide) (fun h => absurd h (by simp [Form.no_lit ha rfl])), ?_, rfl⟩
  first | rfl | (simp [decodeOp, decodeG7, need, fld, bind, Except.bind] <;> (repeat' apply And.intro) <;> first | omega | (apply BitVec.eq_of_toNat_eq; simp <;> omega))
theorem gettag (sel : GetSel) (r : Shell) : Statement (.gettag sel r) :=
  of_parts rfl (by simp [decodeOp, decodeG7, need, GetSel.ofBits_bits, bind, Except.bind]) (Parts.fit _ (by decide) sel.bits_lt (by decide) fun _ => rfl) rfl
theorem settag (sel : SetSel) (rt : BitVec 4) (r : Shell) : Statement (.settag sel rt r) := by
  intro pl p hwf he
  obtain ⟨ho, ha⟩ := Instr.wf_form rfl hwf
  cases he
  have := rt.isLt
  have e : BitVec.ofNat 4 (fld 16 4 (rt.toNat * 65536)) = rt := by
    apply BitVec.eq_of_toNat_eq; simp [fld]; omega
  refine ⟨Parts.fit _ (by decide) sel.bits_lt (by omega) (fun h => ?_), by simp [decodeOp, decodeG7, need, SetSel.ofBits_bits, bind, Except.bind, e], rfl⟩
  cases pl with
  | pinned => exact absurd h (by simp [Form.no_lit ha rfl])
  | pooled =>
    simp only [Instr.litOk] at ho
    have : rt = 0 := by simpa using ho
    simp [this]
theorem window (k : BitVec 8) (r : Shell) : Statement (.window k r) := by
  intro pl p hwf he
  obtain ⟨_, ha⟩ := Instr.wf_form rfl hwf
  cases he
  have := k.isLt
  refine ⟨Parts.fit _ (by decide) (by decide) (by first | omega | (simp <;> omega) | decide) (fun h => absurd h (by simp [Form.no_lit ha rfl])), ?_, rfl⟩
  first | rfl | (simp [decodeOp, decodeG7, need, fld, bind, Except.bind] <;> (repeat' apply And.intro) <;> first | omega | (apply BitVec.eq_of_toNat_eq; simp <;> omega))
theorem route (mask : BitVec 16) (r : Shell) : Statement (.route mask r) := by
  intro pl p hwf he
  obtain ⟨_, ha⟩ := Instr.wf_form rfl hwf
  cases he
  have := mask.isLt
  refine ⟨Parts.fit _ (by decide) (by decide) (by first | omega | (simp <;> omega) | decide) (fun h => absurd h (by simp [Form.no_lit ha rfl])), ?_, rfl⟩
  first | rfl | (simp [decodeOp, decodeG7, need, fld, bind, Except.bind] <;> (repeat' apply And.intro) <;> first | omega | (apply BitVec.eq_of_toNat_eq; simp <;> omega))
theorem unroute (pdest : BitVec 16) (r : Shell) : Statement (.unroute pdest r) := by
  intro pl p hwf he
  obtain ⟨_, ha⟩ := Instr.wf_form rfl hwf
  cases he
  have := pdest.isLt
  refine ⟨Parts.fit _ (by decide) (by decide) (by first | omega | (simp <;> omega) | decide) (fun h => absurd h (by simp [Form.no_lit ha rfl])), ?_, rfl⟩
  first | rfl | (simp [decodeOp, decodeG7, need, fld, bind, Except.bind] <;> (repeat' apply And.intro) <;> first | omega | (apply BitVec.eq_of_toNat_eq; simp <;> omega))
theorem ctxnew (r : Shell) : Statement (.ctxnew r) := of_parts rfl (by simp [decodeOp, decodeG7]) (Parts.fit _ (by decide) (by decide) (by decide) fun _ => rfl) rfl
theorem ctxfree (r : Shell) : Statement (.ctxfree r) := of_parts rfl (by simp [decodeOp, decodeG7]) (Parts.fit _ (by decide) (by decide) (by decide) fun _ => rfl) rfl
theorem nextg (r : Shell) : Statement (.nextg r) := of_parts rfl (by simp [decodeOp, decodeG7]) (Parts.fit _ (by decide) (by decide) (by decide) fun _ => rfl) rfl
theorem ld (sz : Size) (sx : Bool) (disp : BitVec 24) (kb : BitVec 6) (r : Shell) : Statement (.ld sz sx disp kb r) := by
  intro pl p hwf he
  obtain ⟨_, ha⟩ := Instr.wf_form rfl hwf
  cases he
  have := disp.isLt; have := kb.isLt
  cases sz <;> cases sx <;>
    refine ⟨Parts.fit _ (by decide) (by decide) (by first | omega | (simp <;> omega) | decide) (fun h => absurd h (by simp [Form.no_lit ha rfl])), ?_, rfl⟩ <;>
    first | rfl | (simp [decodeOp, decodeG8, need, fld, bind, Except.bind, Size.ofBits, Size.bits] <;> (repeat' apply And.intro) <;> first | omega | (apply BitVec.eq_of_toNat_eq; simp <;> omega))
theorem st (sz : Size) (disp : BitVec 24) (kb : BitVec 6) (r : Shell) : Statement (.st sz disp kb r) := by
  intro pl p hwf he
  obtain ⟨_, ha⟩ := Instr.wf_form rfl hwf
  cases he
  have := disp.isLt; have := kb.isLt
  cases sz <;>
    refine ⟨Parts.fit _ (by decide) (by decide) (by first | omega | (simp <;> omega) | decide) (fun h => absurd h (by simp [Form.no_lit ha rfl])), ?_, rfl⟩ <;>
    first | rfl | (simp [decodeOp, decodeG8, need, fld, bind, Except.bind, Size.ofBits, Size.bits] <;> (repeat' apply And.intro) <;> first | omega | (apply BitVec.eq_of_toNat_eq; simp <;> omega))
theorem ldi (sz : Size) (sx : Bool) (disp : BitVec 24) (r : Shell) : Statement (.ldi sz sx disp r) := by
  intro pl p hwf he
  obtain ⟨_, ha⟩ := Instr.wf_form rfl hwf
  cases he
  have := disp.isLt
  cases sz <;> cases sx <;>
    refine ⟨Parts.fit _ (by decide) (by decide) (by first | omega | (simp <;> omega) | decide) (fun h => absurd h (by simp [Form.no_lit ha rfl])), ?_, rfl⟩ <;>
    first | rfl | (simp [decodeOp, decodeG8, need, fld, bind, Except.bind, Size.ofBits, Size.bits] <;> (repeat' apply And.intro) <;> first | omega | (apply BitVec.eq_of_toNat_eq; simp <;> omega))
theorem sti (sz : Size) (disp : BitVec 24) (r : Shell) : Statement (.sti sz disp r) := by
  intro pl p hwf he
  obtain ⟨_, ha⟩ := Instr.wf_form rfl hwf
  cases he
  have := disp.isLt
  cases sz <;>
    refine ⟨Parts.fit _ (by decide) (by decide) (by first | omega | (simp <;> omega) | decide) (fun h => absurd h (by simp [Form.no_lit ha rfl])), ?_, rfl⟩ <;>
    first | rfl | (simp [decodeOp, decodeG8, need, fld, bind, Except.bind, Size.ofBits, Size.bits] <;> (repeat' apply And.intro) <;> first | omega | (apply BitVec.eq_of_toNat_eq; simp <;> omega))
theorem kld (hi : Bool) (kn : BitVec 6) (r : Shell) : Statement (.kld hi kn r) := by
  intro pl p hwf he
  obtain ⟨_, ha⟩ := Instr.wf_form rfl hwf
  cases he
  have := kn.isLt
  cases hi <;>
    refine ⟨Parts.fit _ (by decide) (by decide) (by first | omega | (simp <;> omega) | decide) (fun h => absurd h (by simp [Form.no_lit ha rfl])), ?_, rfl⟩ <;>
    first | rfl | (simp [decodeOp, decodeG8, need, fld, bind, Except.bind] <;> (repeat' apply And.intro) <;> first | omega | (apply BitVec.eq_of_toNat_eq; simp <;> omega))
theorem kst (hi : Bool) (kn : BitVec 6) (r : Shell) : Statement (.kst hi kn r) := by
  intro pl p hwf he
  obtain ⟨_, ha⟩ := Instr.wf_form rfl hwf
  cases he
  have := kn.isLt
  cases hi <;>
    refine ⟨Parts.fit _ (by decide) (by decide) (by first | omega | (simp <;> omega) | decide) (fun h => absurd h (by simp [Form.no_lit ha rfl])), ?_, rfl⟩ <;>
    first | rfl | (simp [decodeOp, decodeG8, need, fld, bind, Except.bind] <;> (repeat' apply And.intro) <;> first | omega | (apply BitVec.eq_of_toNat_eq; simp <;> omega))
theorem gather (sz : Size) (sx : Bool) (raw : BitVec 32) (r : Shell) : Statement (.gather sz sx raw r) := by
  intro pl p hwf he
  obtain ⟨_, ha⟩ := Instr.wf_form rfl hwf
  cases he
  have := raw.isLt
  cases sz <;> cases sx <;>
    refine ⟨Parts.fit _ (by decide) (by decide) (by first | omega | (simp <;> omega) | decide) (fun h => absurd h (by cases pl <;> simp [Form.no_lit ha rfl])), ?_, rfl⟩ <;>
    first | rfl | (simp [decodeOp, decodeG8, need, fld, bind, Except.bind, Size.ofBits, Size.bits] <;> (repeat' apply And.intro) <;> first | omega | (apply BitVec.eq_of_toNat_eq; simp <;> omega))
theorem scatter (sz : Size) (raw : BitVec 32) (r : Shell) : Statement (.scatter sz raw r) := by
  intro pl p hwf he
  obtain ⟨_, ha⟩ := Instr.wf_form rfl hwf
  cases he
  have := raw.isLt
  cases sz <;>
    refine ⟨Parts.fit _ (by decide) (by decide) (by first | omega | (simp <;> omega) | decide) (fun h => absurd h (by cases pl <;> simp [Form.no_lit ha rfl])), ?_, rfl⟩ <;>
    first | rfl | (simp [decodeOp, decodeG8, need, fld, bind, Except.bind, Size.ofBits, Size.bits] <;> (repeat' apply And.intro) <;> first | omega | (apply BitVec.eq_of_toNat_eq; simp <;> omega))
theorem sopen (sz : Size) (wport : Bool) (dir : Bool) (slot : BitVec 3) (r : Shell) : Statement (.sopen sz wport dir slot r) := by
  intro pl p hwf he
  obtain ⟨_, ha⟩ := Instr.wf_form rfl hwf
  cases he
  have := slot.isLt
  cases sz <;> cases wport <;> cases dir <;>
    refine ⟨Parts.fit _ (by decide) (by decide) (by first | omega | (simp <;> omega) | decide) (fun h => absurd h (by simp [Form.no_lit ha rfl])), ?_, rfl⟩ <;>
    first | rfl | (simp [decodeOp, decodeG8, need, fld, bind, Except.bind, Size.ofBits, Size.bits] <;> (repeat' apply And.intro) <;> first | omega | (apply BitVec.eq_of_toNat_eq; simp <;> omega))
theorem sclose (slot : BitVec 3) (r : Shell) : Statement (.sclose slot r) := by
  intro pl p hwf he
  obtain ⟨_, ha⟩ := Instr.wf_form rfl hwf
  cases he
  have := slot.isLt
  refine ⟨Parts.fit _ (by decide) (by decide) (by first | omega | (simp <;> omega) | decide) (fun h => absurd h (by simp [Form.no_lit ha rfl])), ?_, rfl⟩
  first | rfl | (simp [decodeOp, decodeG8, need, fld, bind, Except.bind] <;> (repeat' apply And.intro) <;> first | omega | (apply BitVec.eq_of_toNat_eq; simp <;> omega))
theorem sseek (slot : BitVec 3) (r : Shell) : Statement (.sseek slot r) := by
  intro pl p hwf he
  obtain ⟨_, ha⟩ := Instr.wf_form rfl hwf
  cases he
  have := slot.isLt
  refine ⟨Parts.fit _ (by decide) (by decide) (by first | omega | (simp <;> omega) | decide) (fun h => absurd h (by simp [Form.no_lit ha rfl])), ?_, rfl⟩
  first | rfl | (simp [decodeOp, decodeG8, need, fld, bind, Except.bind] <;> (repeat' apply And.intro) <;> first | omega | (apply BitVec.eq_of_toNat_eq; simp <;> omega))
theorem pref (raw : BitVec 32) (r : Shell) : Statement (.pref raw r) := by
  intro pl p hwf he
  obtain ⟨_, ha⟩ := Instr.wf_form rfl hwf
  cases he
  have := raw.isLt
  refine ⟨Parts.fit _ (by decide) (by decide) (by first | omega | (simp <;> omega) | decide) (fun h => absurd h (by simp [Form.no_lit ha rfl])), ?_, rfl⟩
  first | rfl | (simp [decodeOp, decodeG8, need, fld, bind, Except.bind] <;> (repeat' apply And.intro) <;> first | omega | (apply BitVec.eq_of_toNat_eq; simp <;> omega))
theorem tld (sz : Size) (sx : Bool) (base : BitVec 19) (dx : BitVec 6) (dy : BitVec 6) (r : Shell) : Statement (.tld sz sx base dx dy r) := by
  intro pl p hwf he
  obtain ⟨_, ha⟩ := Instr.wf_form rfl hwf
  cases he
  have := base.isLt; have := dx.isLt; have := dy.isLt
  cases sz <;> cases sx <;>
    refine ⟨Parts.fit _ (by decide) (by decide) (by first | omega | (simp <;> omega) | decide) (fun h => absurd h (by simp [Form.no_lit ha rfl])), ?_, rfl⟩ <;>
    first | rfl | (simp [decodeOp, decodeG8, need, fld, bind, Except.bind, Size.ofBits, Size.bits] <;> (repeat' apply And.intro) <;> first | omega | (apply BitVec.eq_of_toNat_eq; simp <;> omega))
theorem tst (sz : Size) (base : BitVec 19) (dx : BitVec 6) (dy : BitVec 6) (r : Shell) : Statement (.tst sz base dx dy r) := by
  intro pl p hwf he
  obtain ⟨_, ha⟩ := Instr.wf_form rfl hwf
  cases he
  have := base.isLt; have := dx.isLt; have := dy.isLt
  cases sz <;>
    refine ⟨Parts.fit _ (by decide) (by decide) (by first | omega | (simp <;> omega) | decide) (fun h => absurd h (by simp [Form.no_lit ha rfl])), ?_, rfl⟩ <;>
    first | rfl | (simp [decodeOp, decodeG8, need, fld, bind, Except.bind, Size.ofBits, Size.bits] <;> (repeat' apply And.intro) <;> first | omega | (apply BitVec.eq_of_toNat_eq; simp <;> omega))
theorem pshift (dy : BitVec 6) (dx : BitVec 6) (pid : BitVec 3) (slot : BitVec 3) (r : Shell) : Statement (.pshift dy dx pid slot r) := by
  intro pl p hwf he
  obtain ⟨_, ha⟩ := Instr.wf_form rfl hwf
  cases he
  have := dy.isLt; have := dx.isLt; have := pid.isLt; have := slot.isLt
  refine ⟨Parts.fit _ (by decide) (by decide) (by first | omega | (simp <;> omega) | decide) (fun h => absurd h (by simp [Form.no_lit ha rfl])), ?_, rfl⟩
  first | rfl | (simp [decodeOp, decodeG9, need, fld, bind, Except.bind] <;> (repeat' apply And.intro) <;> first | omega | (apply BitVec.eq_of_toNat_eq; simp <;> omega))
theorem pbound (all : Bool) (slot : BitVec 3) (hw : BitVec 5) (kind : BitVec 2) (edges : BitVec 4) (r : Shell) : Statement (.pbound all slot hw kind edges r) := by
  intro pl p hwf he
  obtain ⟨_, ha⟩ := Instr.wf_form rfl hwf
  cases he
  have := slot.isLt; have := hw.isLt; have := kind.isLt; have := edges.isLt
  cases all <;>
    refine ⟨Parts.fit _ (by decide) (by decide) (by first | omega | (simp <;> omega) | decide) (fun h => absurd h (by simp [Form.no_lit ha rfl])), ?_, rfl⟩ <;>
    first | rfl | (simp [decodeOp, decodeG9, need, fld, bind, Except.bind] <;> (repeat' apply And.intro) <;> first | omega | (apply BitVec.eq_of_toNat_eq; simp <;> omega))
theorem pact (on : Bool) (all : Bool) (slot : BitVec 3) (r : Shell) : Statement (.pact on all slot r) := by
  intro pl p hwf he
  obtain ⟨_, ha⟩ := Instr.wf_form rfl hwf
  cases he
  have := slot.isLt
  cases on <;> cases all <;>
    refine ⟨Parts.fit _ (by decide) (by decide) (by first | omega | (simp <;> omega) | decide) (fun h => absurd h (by simp [Form.no_lit ha rfl])), ?_, rfl⟩ <;>
    first | rfl | (simp [decodeOp, decodeG9, need, fld, bind, Except.bind] <;> (repeat' apply And.intro) <;> first | omega | (apply BitVec.eq_of_toNat_eq; simp <;> omega))
theorem pmark (pid : BitVec 3) (r : Shell) : Statement (.pmark pid r) := by
  intro pl p hwf he
  obtain ⟨_, ha⟩ := Instr.wf_form rfl hwf
  cases he
  have := pid.isLt
  refine ⟨Parts.fit _ (by decide) (by decide) (by first | omega | (simp <;> omega) | decide) (fun h => absurd h (by simp [Form.no_lit ha rfl])), ?_, rfl⟩
  first | rfl | (simp [decodeOp, decodeG9, need, fld, bind, Except.bind] <;> (repeat' apply And.intro) <;> first | omega | (apply BitVec.eq_of_toNat_eq; simp <;> omega))
theorem prule (mask : BitVec 16) (r : Shell) : Statement (.prule mask r) := by
  intro pl p hwf he
  obtain ⟨_, ha⟩ := Instr.wf_form rfl hwf
  cases he
  have := mask.isLt
  refine ⟨Parts.fit _ (by decide) (by decide) (by first | omega | (simp <;> omega) | decide) (fun h => absurd h (by simp [Form.no_lit ha rfl])), ?_, rfl⟩
  first | rfl | (simp [decodeOp, decodeG9, need, fld, bind, Except.bind] <;> (repeat' apply And.intro) <;> first | omega | (apply BitVec.eq_of_toNat_eq; simp <;> omega))
theorem phalo (hw : BitVec 5) (edge : BitVec 2) (pid : BitVec 3) (r : Shell) : Statement (.phalo hw edge pid r) := by
  intro pl p hwf he
  obtain ⟨_, ha⟩ := Instr.wf_form rfl hwf
  cases he
  have := hw.isLt; have := edge.isLt; have := pid.isLt
  refine ⟨Parts.fit _ (by decide) (by decide) (by first | omega | (simp <;> omega) | decide) (fun h => absurd h (by simp [Form.no_lit ha rfl])), ?_, rfl⟩
  first | rfl | (simp [decodeOp, decodeG9, need, fld, bind, Except.bind] <;> (repeat' apply And.intro) <;> first | omega | (apply BitVec.eq_of_toNat_eq; simp <;> omega))
theorem pflip (pid : BitVec 3) (r : Shell) : Statement (.pflip pid r) := by
  intro pl p hwf he
  obtain ⟨_, ha⟩ := Instr.wf_form rfl hwf
  cases he
  have := pid.isLt
  refine ⟨Parts.fit _ (by decide) (by decide) (by first | omega | (simp <;> omega) | decide) (fun h => absurd h (by simp [Form.no_lit ha rfl])), ?_, rfl⟩
  first | rfl | (simp [decodeOp, decodeG9, need, fld, bind, Except.bind] <;> (repeat' apply And.intro) <;> first | omega | (apply BitVec.eq_of_toNat_eq; simp <;> omega))
theorem pcnt (pid : BitVec 3) (r : Shell) : Statement (.pcnt pid r) := by
  intro pl p hwf he
  obtain ⟨_, ha⟩ := Instr.wf_form rfl hwf
  cases he
  have := pid.isLt
  refine ⟨Parts.fit _ (by decide) (by decide) (by first | omega | (simp <;> omega) | decide) (fun h => absurd h (by simp [Form.no_lit ha rfl])), ?_, rfl⟩
  first | rfl | (simp [decodeOp, decodeG9, need, fld, bind, Except.bind] <;> (repeat' apply And.intro) <;> first | omega | (apply BitVec.eq_of_toNat_eq; simp <;> omega))
theorem cmb (cop : CombineOp) (r : Shell) : Statement (.cmb cop r) := by
  cases cop <;>
    exact of_parts rfl (by first | rfl | simp [decodeOp, decodeGA, need, fld, bind, Except.bind, CombineOp.ofBits, CombineOp.bits]) (Parts.fit _ (by decide) (by decide) (by decide) fun _ => rfl) rfl
theorem aadd (acq : Bool) (scope : Scope) (rel : Bool) (raw : BitVec 32) (r : Shell) : Statement (.aadd acq scope rel raw r) := by
  intro pl p hwf he
  obtain ⟨_, ha⟩ := Instr.wf_form rfl hwf
  cases he
  have := raw.isLt
  cases acq <;> cases scope <;> cases rel <;>
    refine ⟨Parts.fit _ (by decide) (by decide) (by first | omega | (simp <;> omega) | decide) (fun h => absurd h (by simp [Form.no_lit ha rfl])), ?_, rfl⟩ <;>
    first | rfl | (simp [decodeOp, decodeGA, need, fld, bind, Except.bind, Scope.ofBits, Scope.bits] <;> (repeat' apply And.intro) <;> first | omega | (apply BitVec.eq_of_toNat_eq; simp <;> omega))
theorem amin (acq : Bool) (scope : Scope) (rel : Bool) (raw : BitVec 32) (r : Shell) : Statement (.amin acq scope rel raw r) := by
  intro pl p hwf he
  obtain ⟨_, ha⟩ := Instr.wf_form rfl hwf
  cases he
  have := raw.isLt
  cases acq <;> cases scope <;> cases rel <;>
    refine ⟨Parts.fit _ (by decide) (by decide) (by first | omega | (simp <;> omega) | decide) (fun h => absurd h (by simp [Form.no_lit ha rfl])), ?_, rfl⟩ <;>
    first | rfl | (simp [decodeOp, decodeGA, need, fld, bind, Except.bind, Scope.ofBits, Scope.bits] <;> (repeat' apply And.intro) <;> first | omega | (apply BitVec.eq_of_toNat_eq; simp <;> omega))
theorem amax (acq : Bool) (scope : Scope) (rel : Bool) (raw : BitVec 32) (r : Shell) : Statement (.amax acq scope rel raw r) := by
  intro pl p hwf he
  obtain ⟨_, ha⟩ := Instr.wf_form rfl hwf
  cases he
  have := raw.isLt
  cases acq <;> cases scope <;> cases rel <;>
    refine ⟨Parts.fit _ (by decide) (by decide) (by first | omega | (simp <;> omega) | decide) (fun h => absurd h (by simp [Form.no_lit ha rfl])), ?_, rfl⟩ <;>
    first | rfl | (simp [decodeOp, decodeGA, need, fld, bind, Except.bind, Scope.ofBits, Scope.bits] <;> (repeat' apply And.intro) <;> first | omega | (apply BitVec.eq_of_toNat_eq; simp <;> omega))
theorem aand (acq : Bool) (scope : Scope) (rel : Bool) (raw : BitVec 32) (r : Shell) : Statement (.aand acq scope rel raw r) := by
  intro pl p hwf he
  obtain ⟨_, ha⟩ := Instr.wf_form rfl hwf
  cases he
  have := raw.isLt
  cases acq <;> cases scope <;> cases rel <;>
    refine ⟨Parts.fit _ (by decide) (by decide) (by first | omega | (simp <;> omega) | decide) (fun h => absurd h (by simp [Form.no_lit ha rfl])), ?_, rfl⟩ <;>
    first | rfl | (simp [decodeOp, decodeGA, need, fld, bind, Except.bind, Scope.ofBits, Scope.bits] <;> (repeat' apply And.intro) <;> first | omega | (apply BitVec.eq_of_toNat_eq; simp <;> omega))
theorem aor (acq : Bool) (scope : Scope) (rel : Bool) (raw : BitVec 32) (r : Shell) : Statement (.aor acq scope rel raw r) := by
  intro pl p hwf he
  obtain ⟨_, ha⟩ := Instr.wf_form rfl hwf
  cases he
  have := raw.isLt
  cases acq <;> cases scope <;> cases rel <;>
    refine ⟨Parts.fit _ (by decide) (by decide) (by first | omega | (simp <;> omega) | decide) (fun h => absurd h (by simp [Form.no_lit ha rfl])), ?_, rfl⟩ <;>
    first | rfl | (simp [decodeOp, decodeGA, need, fld, bind, Except.bind, Scope.ofBits, Scope.bits] <;> (repeat' apply And.intro) <;> first | omega | (apply BitVec.eq_of_toNat_eq; simp <;> omega))
theorem axor (acq : Bool) (scope : Scope) (rel : Bool) (raw : BitVec 32) (r : Shell) : Statement (.axor acq scope rel raw r) := by
  intro pl p hwf he
  obtain ⟨_, ha⟩ := Instr.wf_form rfl hwf
  cases he
  have := raw.isLt
  cases acq <;> cases scope <;> cases rel <;>
    refine ⟨Parts.fit _ (by decide) (by decide) (by first | omega | (simp <;> omega) | decide) (fun h => absurd h (by simp [Form.no_lit ha rfl])), ?_, rfl⟩ <;>
    first | rfl | (simp [decodeOp, decodeGA, need, fld, bind, Except.bind, Scope.ofBits, Scope.bits] <;> (repeat' apply And.intro) <;> first | omega | (apply BitVec.eq_of_toNat_eq; simp <;> omega))
theorem axchg (acq : Bool) (scope : Scope) (rel : Bool) (raw : BitVec 32) (r : Shell) : Statement (.axchg acq scope rel raw r) := by
  intro pl p hwf he
  obtain ⟨_, ha⟩ := Instr.wf_form rfl hwf
  cases he
  have := raw.isLt
  cases acq <;> cases scope <;> cases rel <;>
    refine ⟨Parts.fit _ (by decide) (by decide) (by first | omega | (simp <;> omega) | decide) (fun h => absurd h (by simp [Form.no_lit ha rfl])), ?_, rfl⟩ <;>
    first | rfl | (simp [decodeOp, decodeGA, need, fld, bind, Except.bind, Scope.ofBits, Scope.bits] <;> (repeat' apply And.intro) <;> first | omega | (apply BitVec.eq_of_toNat_eq; simp <;> omega))
theorem acas (acq : Bool) (scope : Scope) (rel : Bool) (raw : BitVec 32) (r : Shell) : Statement (.acas acq scope rel raw r) := by
  intro pl p hwf he
  obtain ⟨_, ha⟩ := Instr.wf_form rfl hwf
  cases he
  have := raw.isLt
  cases acq <;> cases scope <;> cases rel <;>
    refine ⟨Parts.fit _ (by decide) (by decide) (by first | omega | (simp <;> omega) | decide) (fun h => absurd h (by simp [Form.no_lit ha rfl])), ?_, rfl⟩ <;>
    first | rfl | (simp [decodeOp, decodeGA, need, fld, bind, Except.bind, Scope.ofBits, Scope.bits] <;> (repeat' apply And.intro) <;> first | omega | (apply BitVec.eq_of_toNat_eq; simp <;> omega))
theorem afadd (acq : Bool) (scope : Scope) (rel : Bool) (raw : BitVec 32) (r : Shell) : Statement (.afadd acq scope rel raw r) := by
  intro pl p hwf he
  obtain ⟨_, ha⟩ := Instr.wf_form rfl hwf
  cases he
  have := raw.isLt
  cases acq <;> cases scope <;> cases rel <;>
    refine ⟨Parts.fit _ (by decide) (by decide) (by first | omega | (simp <;> omega) | decide) (fun h => absurd h (by simp [Form.no_lit ha rfl])), ?_, rfl⟩ <;>
    first | rfl | (simp [decodeOp, decodeGA, need, fld, bind, Except.bind, Scope.ofBits, Scope.bits] <;> (repeat' apply And.intro) <;> first | omega | (apply BitVec.eq_of_toNat_eq; simp <;> omega))
theorem red (scope : Scope) (rel : Bool) (cop : CombineOp) (r : Shell) : Statement (.red scope rel cop r) := by
  intro pl p hwf he
  obtain ⟨_, ha⟩ := Instr.wf_form rfl hwf
  cases he
  cases scope <;> cases rel <;> cases cop <;>
    refine ⟨Parts.fit _ (by decide) (by decide) (by first | omega | (simp <;> omega) | decide) (fun h => absurd h (by simp [Form.no_lit ha rfl])), ?_, rfl⟩ <;>
    first | rfl | (simp [decodeOp, decodeGA, need, fld, bind, Except.bind, CombineOp.ofBits, Scope.ofBits, CombineOp.bits, Scope.bits] <;> (repeat' apply And.intro) <;> first | omega | (apply BitVec.eq_of_toNat_eq; simp <;> omega))
theorem redwait (acq : Bool) (scope : Scope) (r : Shell) : Statement (.redwait acq scope r) := by
  cases acq <;> cases scope <;>
    exact of_parts rfl (by first | rfl | simp [decodeOp, decodeGA, need, fld, bind, Except.bind, Scope.ofBits, Scope.bits]) (Parts.fit _ (by decide) (by decide) (by decide) fun _ => rfl) rfl
theorem lockacq (acq : Bool) (scope : Scope) (raw : BitVec 32) (r : Shell) : Statement (.lockacq acq scope raw r) := by
  intro pl p hwf he
  obtain ⟨_, ha⟩ := Instr.wf_form rfl hwf
  cases he
  have := raw.isLt
  cases acq <;> cases scope <;>
    refine ⟨Parts.fit _ (by decide) (by decide) (by first | omega | (simp <;> omega) | decide) (fun h => absurd h (by simp [Form.no_lit ha rfl])), ?_, rfl⟩ <;>
    first | rfl | (simp [decodeOp, decodeGA, need, fld, bind, Except.bind, Scope.ofBits, Scope.bits] <;> (repeat' apply And.intro) <;> first | omega | (apply BitVec.eq_of_toNat_eq; simp <;> omega))
theorem lockrel (scope : Scope) (rel : Bool) (raw : BitVec 32) (r : Shell) : Statement (.lockrel scope rel raw r) := by
  intro pl p hwf he
  obtain ⟨_, ha⟩ := Instr.wf_form rfl hwf
  cases he
  have := raw.isLt
  cases scope <;> cases rel <;>
    refine ⟨Parts.fit _ (by decide) (by decide) (by first | omega | (simp <;> omega) | decide) (fun h => absurd h (by simp [Form.no_lit ha rfl])), ?_, rfl⟩ <;>
    first | rfl | (simp [decodeOp, decodeGA, need, fld, bind, Except.bind, Scope.ofBits, Scope.bits] <;> (repeat' apply And.intro) <;> first | omega | (apply BitVec.eq_of_toNat_eq; simp <;> omega))
theorem fence (acq : Bool) (scope : Scope) (rel : Bool) (r : Shell) : Statement (.fence acq scope rel r) := by
  cases acq <;> cases scope <;> cases rel <;>
    exact of_parts rfl (by first | rfl | simp [decodeOp, decodeGB, need, fld, bind, Except.bind, Scope.ofBits, Scope.bits]) (Parts.fit _ (by decide) (by decide) (by decide) fun _ => rfl) rfl
theorem bararr (scope : Scope) (rel : Bool) (r : Shell) : Statement (.bararr scope rel r) := by
  cases scope <;> cases rel <;>
    exact of_parts rfl (by first | rfl | simp [decodeOp, decodeGB, need, fld, bind, Except.bind, Scope.ofBits, Scope.bits]) (Parts.fit _ (by decide) (by decide) (by decide) fun _ => rfl) rfl
theorem bardrop (scope : Scope) (rel : Bool) (r : Shell) : Statement (.bardrop scope rel r) := by
  cases scope <;> cases rel <;>
    exact of_parts rfl (by first | rfl | simp [decodeOp, decodeGB, need, fld, bind, Except.bind, Scope.ofBits, Scope.bits]) (Parts.fit _ (by decide) (by decide) (by decide) fun _ => rfl) rfl
theorem barwait (acq : Bool) (scope : Scope) (r : Shell) : Statement (.barwait acq scope r) := by
  cases acq <;> cases scope <;>
    exact of_parts rfl (by first | rfl | simp [decodeOp, decodeGB, need, fld, bind, Except.bind, Scope.ofBits, Scope.bits]) (Parts.fit _ (by decide) (by decide) (by decide) fun _ => rfl) rfl
theorem waitw (acq : Bool) (scope : Scope) (disp : BitVec 24) (kb : BitVec 6) (r : Shell) : Statement (.waitw acq scope disp kb r) := by
  intro pl p hwf he
  obtain ⟨_, ha⟩ := Instr.wf_form rfl hwf
  cases he
  have := disp.isLt; have := kb.isLt
  cases acq <;> cases scope <;>
    refine ⟨Parts.fit _ (by decide) (by decide) (by first | omega | (simp <;> omega) | decide) (fun h => absurd h (by simp [Form.no_lit ha rfl])), ?_, rfl⟩ <;>
    first | rfl | (simp [decodeOp, decodeGB, need, fld, bind, Except.bind, Scope.ofBits, Scope.bits] <;> (repeat' apply And.intro) <;> first | omega | (apply BitVec.eq_of_toNat_eq; simp <;> omega))
theorem wakew (scope : Scope) (rel : Bool) (r : Shell) : Statement (.wakew scope rel r) := by
  cases scope <;> cases rel <;>
    exact of_parts rfl (by first | rfl | simp [decodeOp, decodeGB, need, fld, bind, Except.bind, Scope.ofBits, Scope.bits]) (Parts.fit _ (by decide) (by decide) (by decide) fun _ => rfl) rfl
theorem roundend (r : Shell) : Statement (.roundend r) := of_parts rfl (by simp [decodeOp, decodeGB]) (Parts.fit _ (by decide) (by decide) (by decide) fun _ => rfl) rfl
theorem quiesce (r : Shell) : Statement (.quiesce r) := of_parts rfl (by simp [decodeOp, decodeGB]) (Parts.fit _ (by decide) (by decide) (by decide) fun _ => rfl) rfl
theorem handover (nslot : BitVec 3) (oslot : BitVec 3) (r : Shell) : Statement (.handover nslot oslot r) := by
  intro pl p hwf he
  obtain ⟨_, ha⟩ := Instr.wf_form rfl hwf
  cases he
  have := nslot.isLt; have := oslot.isLt
  refine ⟨Parts.fit _ (by decide) (by decide) (by first | omega | (simp <;> omega) | decide) (fun h => absurd h (by simp [Form.no_lit ha rfl])), ?_, rfl⟩
  first | rfl | (simp [decodeOp, decodeGB, need, fld, bind, Except.bind] <;> (repeat' apply And.intro) <;> first | omega | (apply BitVec.eq_of_toNat_eq; simp <;> omega))
theorem ordtok (scope : Scope) (slot : BitVec 3) (r : Shell) : Statement (.ordtok scope slot r) := by
  intro pl p hwf he
  obtain ⟨_, ha⟩ := Instr.wf_form rfl hwf
  cases he
  have := slot.isLt
  cases scope <;>
    refine ⟨Parts.fit _ (by decide) (by decide) (by first | omega | (simp <;> omega) | decide) (fun h => absurd h (by simp [Form.no_lit ha rfl])), ?_, rfl⟩ <;>
    first | rfl | (simp [decodeOp, decodeGB, need, fld, bind, Except.bind, Scope.ofBits, Scope.bits] <;> (repeat' apply And.intro) <;> first | omega | (apply BitVec.eq_of_toNat_eq; simp <;> omega))
theorem event (code : BitVec 16) (r : Shell) : Statement (.event code r) := by
  intro pl p hwf he
  obtain ⟨_, ha⟩ := Instr.wf_form rfl hwf
  cases he
  have := code.isLt
  refine ⟨Parts.fit _ (by decide) (by decide) (by first | omega | (simp <;> omega) | decide) (fun h => absurd h (by simp [Form.no_lit ha rfl])), ?_, rfl⟩
  first | rfl | (simp [decodeOp, decodeGB, need, fld, bind, Except.bind] <;> (repeat' apply And.intro) <;> first | omega | (apply BitVec.eq_of_toNat_eq; simp <;> omega))
theorem yield (r : Shell) : Statement (.yield r) := of_parts rfl (by simp [decodeOp, decodeGB]) (Parts.fit _ (by decide) (by decide) (by decide) fun _ => rfl) rfl
theorem mma (fmt : MFmt) (n1 : BitVec 7) (m1 : BitVec 7) (r : Shell) : Statement (.mma fmt n1 m1 r) := by
  intro pl p hwf he
  obtain ⟨_, ha⟩ := Instr.wf_form rfl hwf
  cases he
  have := n1.isLt; have := m1.isLt
  cases fmt <;>
    refine ⟨Parts.fit _ (by decide) (by decide) (by first | omega | (simp <;> omega) | decide) (fun h => absurd h (by simp [Form.no_lit ha rfl])), ?_, rfl⟩ <;>
    first | rfl | (simp [decodeOp, decodeGC, need, fld, bind, Except.bind, MFmt.ofBits, MFmt.bits] <;> (repeat' apply And.intro) <;> first | omega | (apply BitVec.eq_of_toNat_eq; simp <;> omega))
theorem mmas (fmt : MFmt) (spkt : Bool) (sp24 : Bool) (bmap : Bool) (n1 : BitVec 7) (m1 : BitVec 7) (r : Shell) : Statement (.mmas fmt spkt sp24 bmap n1 m1 r) := by
  intro pl p hwf he
  obtain ⟨_, ha⟩ := Instr.wf_form rfl hwf
  cases he
  have := n1.isLt; have := m1.isLt
  cases fmt <;> cases spkt <;> cases sp24 <;> cases bmap <;>
    refine ⟨Parts.fit _ (by decide) (by decide) (by first | omega | (simp <;> omega) | decide) (fun h => absurd h (by simp [Form.no_lit ha rfl])), ?_, rfl⟩ <;>
    first | rfl | (simp [decodeOp, decodeGC, need, fld, bind, Except.bind, MFmt.ofBits, MFmt.bits] <;> (repeat' apply And.intro) <;> first | omega | (apply BitVec.eq_of_toNat_eq; simp <;> omega))
theorem mdrain (zero : Bool) (ofmt : OFmt) (n1 m1 : BitVec 7) (r : Shell) : Statement (.mdrain zero ofmt n1 m1 r) := by
  intro pl p hwf he
  obtain ⟨_, ha⟩ := Instr.wf_form rfl hwf
  cases he
  have := n1.isLt
  have := m1.isLt
  have hz : zero.toNat < 2 := by cases zero <;> decide
  have ho : ofmt.bits < 3 := by cases ofmt <;> decide
  have e : OFmt.ofBits ofmt.bits = some ofmt := by cases ofmt <;> rfl
  have e1 : fld 14 2 (zero.toNat * 65536 + ofmt.bits * 16384 + n1.toNat * 128 + m1.toNat) = ofmt.bits := by unfold fld; omega
  have e2 : fld 16 1 (zero.toNat * 65536 + ofmt.bits * 16384 + n1.toNat * 128 + m1.toNat) = zero.toNat := by unfold fld; omega
  have e3 : fld 7 7 (zero.toNat * 65536 + ofmt.bits * 16384 + n1.toNat * 128 + m1.toNat) = n1.toNat := by unfold fld; omega
  have e4 : fld 0 7 (zero.toNat * 65536 + ofmt.bits * 16384 + n1.toNat * 128 + m1.toNat) = m1.toNat := by unfold fld; omega
  refine ⟨Parts.fit _ (by decide) (by decide) (by omega) (fun h => absurd h (by simp [Form.no_lit ha rfl])), ?_, rfl⟩
  cases zero <;> simp_all [decodeOp, decodeGC, need, bind, Except.bind]
theorem mzero (n1 : BitVec 7) (m1 : BitVec 7) (r : Shell) : Statement (.mzero n1 m1 r) := by
  intro pl p hwf he
  obtain ⟨_, ha⟩ := Instr.wf_form rfl hwf
  cases he
  have := n1.isLt; have := m1.isLt
  refine ⟨Parts.fit _ (by decide) (by decide) (by first | omega | (simp <;> omega) | decide) (fun h => absurd h (by simp [Form.no_lit ha rfl])), ?_, rfl⟩
  first | rfl | (simp [decodeOp, decodeGC, need, fld, bind, Except.bind] <;> (repeat' apply And.intro) <;> first | omega | (apply BitVec.eq_of_toNat_eq; simp <;> omega))
theorem mtask (isl : BitVec 5) (pdest : BitVec 16) (r : Shell) : Statement (.mtask isl pdest r) := by
  intro pl p hwf he
  obtain ⟨_, ha⟩ := Instr.wf_form rfl hwf
  cases he
  have := isl.isLt; have := pdest.isLt
  refine ⟨Parts.fit _ (by decide) (by decide) (by first | omega | (simp <;> omega) | decide) (fun h => absurd h (by simp [Form.no_lit ha rfl])), ?_, rfl⟩
  first | rfl | (simp [decodeOp, decodeGC, need, fld, bind, Except.bind] <;> (repeat' apply And.intro) <;> first | omega | (apply BitVec.eq_of_toNat_eq; simp <;> omega))
theorem scin (r : Shell) : Statement (.scin r) := of_parts rfl (by simp [decodeOp, decodeGC]) (Parts.fit _ (by decide) (by decide) (by decide) fun _ => rfl) rfl
theorem smul (fmt : MFmt) (r : Shell) : Statement (.smul fmt r) := by
  cases fmt <;>
    exact of_parts rfl (by first | rfl | simp [decodeOp, decodeGC, need, fld, bind, Except.bind, MFmt.ofBits, MFmt.bits]) (Parts.fit _ (by decide) (by decide) (by decide) fun _ => rfl) rfl
theorem sfma (fmt : MFmt) (r : Shell) : Statement (.sfma fmt r) := by
  cases fmt <;>
    exact of_parts rfl (by first | rfl | simp [decodeOp, decodeGC, need, fld, bind, Except.bind, MFmt.ofBits, MFmt.bits]) (Parts.fit _ (by decide) (by decide) (by decide) fun _ => rfl) rfl
theorem spchk (r : Shell) : Statement (.spchk r) := of_parts rfl (by simp [decodeOp, decodeGC]) (Parts.fit _ (by decide) (by decide) (by decide) fun _ => rfl) rfl
theorem mstat (sel : BitVec 3) (isl : BitVec 5) (r : Shell) : Statement (.mstat sel isl r) := by
  intro pl p hwf he
  obtain ⟨_, ha⟩ := Instr.wf_form rfl hwf
  cases he
  have := sel.isLt; have := isl.isLt
  refine ⟨Parts.fit _ (by decide) (by decide) (by first | omega | (simp <;> omega) | decide) (fun h => absurd h (by simp [Form.no_lit ha rfl])), ?_, rfl⟩
  first | rfl | (simp [decodeOp, decodeGC, need, fld, bind, Except.bind] <;> (repeat' apply And.intro) <;> first | omega | (apply BitVec.eq_of_toNat_eq; simp <;> omega))
theorem tex (ssr : BitVec 12) (r : Shell) : Statement (.tex ssr r) := by
  intro pl p hwf he
  obtain ⟨_, ha⟩ := Instr.wf_form rfl hwf
  cases he
  have := ssr.isLt
  refine ⟨Parts.fit _ (by decide) (by decide) (by first | omega | (simp <;> omega) | decide) (fun h => absurd h (by simp [Form.no_lit ha rfl])), ?_, rfl⟩
  first | rfl | (simp [decodeOp, decodeGD, need, fld, bind, Except.bind] <;> (repeat' apply And.intro) <;> first | omega | (apply BitVec.eq_of_toNat_eq; simp <;> omega))
theorem texn (ssr : BitVec 12) (r : Shell) : Statement (.texn ssr r) := by
  intro pl p hwf he
  obtain ⟨_, ha⟩ := Instr.wf_form rfl hwf
  cases he
  have := ssr.isLt
  refine ⟨Parts.fit _ (by decide) (by decide) (by first | omega | (simp <;> omega) | decide) (fun h => absurd h (by simp [Form.no_lit ha rfl])), ?_, rfl⟩
  first | rfl | (simp [decodeOp, decodeGD, need, fld, bind, Except.bind] <;> (repeat' apply And.intro) <;> first | omega | (apply BitVec.eq_of_toNat_eq; simp <;> omega))
theorem march (base : BitVec 19) (dx : BitVec 6) (dy : BitVec 6) (r : Shell) : Statement (.march base dx dy r) := by
  intro pl p hwf he
  obtain ⟨_, ha⟩ := Instr.wf_form rfl hwf
  cases he
  have := base.isLt; have := dx.isLt; have := dy.isLt
  refine ⟨Parts.fit _ (by decide) (by decide) (by first | omega | (simp <;> omega) | decide) (fun h => absurd h (by simp [Form.no_lit ha rfl])), ?_, rfl⟩
  first | rfl | (simp [decodeOp, decodeGD, need, fld, bind, Except.bind] <;> (repeat' apply And.intro) <;> first | omega | (apply BitVec.eq_of_toNat_eq; simp <;> omega))
theorem cadd (page : BitVec 4) (dx : BitVec 6) (dy : BitVec 6) (r : Shell) : Statement (.cadd page dx dy r) := by
  intro pl p hwf he
  obtain ⟨_, ha⟩ := Instr.wf_form rfl hwf
  cases he
  have := page.isLt; have := dx.isLt; have := dy.isLt
  refine ⟨Parts.fit _ (by decide) (by decide) (by first | omega | (simp <;> omega) | decide) (fun h => absurd h (by simp [Form.no_lit ha rfl])), ?_, rfl⟩
  first | rfl | (simp [decodeOp, decodeGD, need, fld, bind, Except.bind] <;> (repeat' apply And.intro) <;> first | omega | (apply BitVec.eq_of_toNat_eq; simp <;> omega))
theorem cwmk (dx : BitVec 6) (dy : BitVec 6) (r : Shell) : Statement (.cwmk dx dy r) := by
  intro pl p hwf he
  obtain ⟨_, ha⟩ := Instr.wf_form rfl hwf
  cases he
  have := dx.isLt; have := dy.isLt
  refine ⟨Parts.fit _ (by decide) (by decide) (by first | omega | (simp <;> omega) | decide) (fun h => absurd h (by simp [Form.no_lit ha rfl])), ?_, rfl⟩
  first | rfl | (simp [decodeOp, decodeGD, need, fld, bind, Except.bind] <;> (repeat' apply And.intro) <;> first | omega | (apply BitVec.eq_of_toNat_eq; simp <;> omega))
theorem cres (dx : BitVec 6) (dy : BitVec 6) (r : Shell) : Statement (.cres dx dy r) := by
  intro pl p hwf he
  obtain ⟨_, ha⟩ := Instr.wf_form rfl hwf
  cases he
  have := dx.isLt; have := dy.isLt
  refine ⟨Parts.fit _ (by decide) (by decide) (by first | omega | (simp <;> omega) | decide) (fun h => absurd h (by cases pl <;> simp [Form.no_lit ha rfl])), ?_, rfl⟩
  first | rfl | (simp [decodeOp, decodeGD, need, fld, bind, Except.bind] <;> (repeat' apply And.intro) <;> first | omega | (apply BitVec.eq_of_toNat_eq; simp <;> omega))
theorem cclr (dx : BitVec 6) (dy : BitVec 6) (r : Shell) : Statement (.cclr dx dy r) := by
  intro pl p hwf he
  obtain ⟨_, ha⟩ := Instr.wf_form rfl hwf
  cases he
  have := dx.isLt; have := dy.isLt
  refine ⟨Parts.fit _ (by decide) (by decide) (by first | omega | (simp <;> omega) | decide) (fun h => absurd h (by simp [Form.no_lit ha rfl])), ?_, rfl⟩
  first | rfl | (simp [decodeOp, decodeGD, need, fld, bind, Except.bind] <;> (repeat' apply And.intro) <;> first | omega | (apply BitVec.eq_of_toNat_eq; simp <;> omega))
theorem clog (dx : BitVec 6) (dy : BitVec 6) (r : Shell) : Statement (.clog dx dy r) := by
  intro pl p hwf he
  obtain ⟨_, ha⟩ := Instr.wf_form rfl hwf
  cases he
  have := dx.isLt; have := dy.isLt
  refine ⟨Parts.fit _ (by decide) (by decide) (by first | omega | (simp <;> omega) | decide) (fun h => absurd h (by cases pl <;> simp [Form.no_lit ha rfl])), ?_, rfl⟩
  first | rfl | (simp [decodeOp, decodeGD, need, fld, bind, Except.bind] <;> (repeat' apply And.intro) <;> first | omega | (apply BitVec.eq_of_toNat_eq; simp <;> omega))
theorem cadj (r : Shell) : Statement (.cadj r) := of_parts rfl (by simp [decodeOp, decodeGD]) (Parts.fit _ (by decide) (by decide) (by decide) fun _ => rfl) rfl
theorem frel (r : Shell) : Statement (.frel r) := of_parts rfl (by simp [decodeOp, decodeGD]) (Parts.fit _ (by decide) (by decide) (by decide) fun _ => rfl) rfl
theorem copye (r : Shell) : Statement (.copye r) := of_parts rfl (by simp [decodeOp, decodeGE]) (Parts.fit _ (by decide) (by decide) (by decide) fun _ => rfl) rfl
theorem copyw (r : Shell) : Statement (.copyw r) := of_parts rfl (by simp [decodeOp, decodeGE]) (Parts.fit _ (by decide) (by decide) (by decide) fun _ => rfl) rfl
theorem qresv (r : Shell) : Statement (.qresv r) := of_parts rfl (by simp [decodeOp, decodeGE]) (Parts.fit _ (by decide) (by decide) (by decide) fun _ => rfl) rfl
theorem qcommit (r : Shell) : Statement (.qcommit r) := of_parts rfl (by simp [decodeOp, decodeGE]) (Parts.fit _ (by decide) (by decide) (by decide) fun _ => rfl) rfl
theorem qtake (r : Shell) : Statement (.qtake r) := of_parts rfl (by simp [decodeOp, decodeGE]) (Parts.fit _ (by decide) (by decide) (by decide) fun _ => rfl) rfl
theorem loffer (r : Shell) : Statement (.loffer r) := of_parts rfl (by simp [decodeOp, decodeGE]) (Parts.fit _ (by decide) (by decide) (by decide) fun _ => rfl) rfl
theorem ltake (r : Shell) : Statement (.ltake r) := of_parts rfl (by simp [decodeOp, decodeGE]) (Parts.fit _ (by decide) (by decide) (by decide) fun _ => rfl) rfl
theorem lreclaim (r : Shell) : Statement (.lreclaim r) := of_parts rfl (by simp [decodeOp, decodeGE]) (Parts.fit _ (by decide) (by decide) (by decide) fun _ => rfl) rfl
theorem lquery (r : Shell) : Statement (.lquery r) := of_parts rfl (by simp [decodeOp, decodeGE]) (Parts.fit _ (by decide) (by decide) (by decide) fun _ => rfl) rfl
theorem degrade (r : Shell) : Statement (.degrade r) := of_parts rfl (by simp [decodeOp, decodeGE]) (Parts.fit _ (by decide) (by decide) (by decide) fun _ => rfl) rfl
theorem fload (r : Shell) : Statement (.fload r) := of_parts rfl (by simp [decodeOp, decodeGE]) (Parts.fit _ (by decide) (by decide) (by decide) fun _ => rfl) rfl
theorem fswap (r : Shell) : Statement (.fswap r) := of_parts rfl (by simp [decodeOp, decodeGE]) (Parts.fit _ (by decide) (by decide) (by decide) fun _ => rfl) rfl
theorem ovld (r : Shell) : Statement (.ovld r) := of_parts rfl (by simp [decodeOp, decodeGE]) (Parts.fit _ (by decide) (by decide) (by decide) fun _ => rfl) rfl
theorem ovfree (r : Shell) : Statement (.ovfree r) := of_parts rfl (by simp [decodeOp, decodeGE]) (Parts.fit _ (by decide) (by decide) (by decide) fun _ => rfl) rfl
theorem nop (r : Shell) : Statement (.nop r) := of_parts rfl (by simp [decodeOp, decodeGF]) (Parts.fit _ (by decide) (by decide) (by decide) fun _ => rfl) rfl
theorem trap (code : BitVec 16) (r : Shell) : Statement (.trap code r) := by
  intro pl p hwf he
  obtain ⟨_, ha⟩ := Instr.wf_form rfl hwf
  cases he
  have := code.isLt
  refine ⟨Parts.fit _ (by decide) (by decide) (by first | omega | (simp <;> omega) | decide) (fun h => absurd h (by simp [Form.no_lit ha rfl])), ?_, rfl⟩
  first | rfl | (simp [decodeOp, decodeGF, need, fld, bind, Except.bind] <;> (repeat' apply And.intro) <;> first | omega | (apply BitVec.eq_of_toNat_eq; simp <;> omega))
theorem brk (code : BitVec 16) (r : Shell) : Statement (.brk code r) := by
  intro pl p hwf he
  obtain ⟨_, ha⟩ := Instr.wf_form rfl hwf
  cases he
  have := code.isLt
  refine ⟨Parts.fit _ (by decide) (by decide) (by first | omega | (simp <;> omega) | decide) (fun h => absurd h (by simp [Form.no_lit ha rfl])), ?_, rfl⟩
  first | rfl | (simp [decodeOp, decodeGF, need, fld, bind, Except.bind] <;> (repeat' apply And.intro) <;> first | omega | (apply BitVec.eq_of_toNat_eq; simp <;> omega))
theorem halt (r : Shell) : Statement (.halt r) := of_parts rfl (by simp [decodeOp, decodeGF]) (Parts.fit _ (by decide) (by decide) (by decide) fun _ => rfl) rfl
theorem sysrd (clr : Bool) (hi : Bool) (index : BitVec 16) (r : Shell) : Statement (.sysrd clr hi index r) := by
  intro pl p hwf he
  obtain ⟨_, ha⟩ := Instr.wf_form rfl hwf
  cases he
  have := index.isLt
  cases clr <;> cases hi <;>
    refine ⟨Parts.fit _ (by decide) (by decide) (by first | omega | (simp <;> omega) | decide) (fun h => absurd h (by simp [Form.no_lit ha rfl])), ?_, rfl⟩ <;>
    first | rfl | (simp [decodeOp, decodeGF, need, fld, bind, Except.bind] <;> (repeat' apply And.intro) <;> first | omega | (apply BitVec.eq_of_toNat_eq; simp <;> omega))
theorem syswr (hi : Bool) (index : BitVec 16) (r : Shell) : Statement (.syswr hi index r) := by
  intro pl p hwf he
  obtain ⟨_, ha⟩ := Instr.wf_form rfl hwf
  cases he
  have := index.isLt
  cases hi <;>
    refine ⟨Parts.fit _ (by decide) (by decide) (by first | omega | (simp <;> omega) | decide) (fun h => absurd h (by simp [Form.no_lit ha rfl])), ?_, rfl⟩ <;>
    first | rfl | (simp [decodeOp, decodeGF, need, fld, bind, Except.bind] <;> (repeat' apply And.intro) <;> first | omega | (apply BitVec.eq_of_toNat_eq; simp <;> omega))
theorem eret (r : Shell) : Statement (.eret r) := of_parts rfl (by simp [decodeOp, decodeGF]) (Parts.fit _ (by decide) (by decide) (by decide) fun _ => rfl) rfl
theorem perf (hi : Bool) (sel : BitVec 8) (r : Shell) : Statement (.perf hi sel r) := by
  intro pl p hwf he
  obtain ⟨_, ha⟩ := Instr.wf_form rfl hwf
  cases he
  have := sel.isLt
  cases hi <;>
    refine ⟨Parts.fit _ (by decide) (by decide) (by first | omega | (simp <;> omega) | decide) (fun h => absurd h (by simp [Form.no_lit ha rfl])), ?_, rfl⟩ <;>
    first | rfl | (simp [decodeOp, decodeGF, need, fld, bind, Except.bind] <;> (repeat' apply And.intro) <;> first | omega | (apply BitVec.eq_of_toNat_eq; simp <;> omega))
theorem marker (r : Shell) : Statement (.marker r) := of_parts rfl (by simp [decodeOp, decodeGF]) (Parts.fit _ (by decide) (by decide) (by decide) fun _ => rfl) rfl
theorem snap (r : Shell) : Statement (.snap r) := of_parts rfl (by simp [decodeOp, decodeGF]) (Parts.fit _ (by decide) (by decide) (by decide) fun _ => rfl) rfl
theorem elementTokenArrival (h : Nat) (n : Nat) : Statement (.elementTokenArrival h n) := fun _ _ hw _ => absurd hw Bool.false_ne_true
theorem islandPacket (isl : Nat) (n : Nat) : Statement (.islandPacket isl n) := fun _ _ hw _ => absurd hw Bool.false_ne_true
theorem copyComplete (die : Nat) (id : Nat) : Statement (.copyComplete die id) := fun _ _ hw _ => absurd hw Bool.false_ne_true
theorem formeRestore (part : Nat) : Statement (.formeRestore part) := fun _ _ hw _ => absurd hw Bool.false_ne_true
theorem matchTokenAccept (tile : Nat) (n : Nat) : Statement (.matchTokenAccept tile n) := fun _ _ hw _ => absurd hw Bool.false_ne_true
theorem spillRefill (tile : Nat) : Statement (.spillRefill tile) := fun _ _ hw _ => absurd hw Bool.false_ne_true
theorem galleyCommit (tile : Nat) : Statement (.galleyCommit tile) := fun _ _ hw _ => absurd hw Bool.false_ne_true
theorem roundCommit (h : Nat) : Statement (.roundCommit h) := fun _ _ hw _ => absurd hw Bool.false_ne_true
theorem fifoTileDequeue (h : Nat) (bay : Nat) : Statement (.fifoTileDequeue h bay) := fun _ _ hw _ => absurd hw Bool.false_ne_true
theorem fifoTileEnqueue (h : Nat) (bay : Nat) : Statement (.fifoTileEnqueue h bay) := fun _ _ hw _ => absurd hw Bool.false_ne_true
theorem winFill (h : Nat) (bay : Nat) (w : Nat) : Statement (.winFill h bay w) := fun _ _ hw _ => absurd hw Bool.false_ne_true
theorem streamReadWord (h : Nat) (bay : Nat) (slot : Nat) : Statement (.streamReadWord h bay slot) := fun _ _ hw _ => absurd hw Bool.false_ne_true
theorem streamWriteWord (h : Nat) (bay : Nat) (wport : Bool) : Statement (.streamWriteWord h bay wport) := fun _ _ hw _ => absurd hw Bool.false_ne_true
theorem planePassWord (h : Nat) (bay : Nat) (slot : Nat) : Statement (.planePassWord h bay slot) := fun _ _ hw _ => absurd hw Bool.false_ne_true
theorem quiescenceReport (h : Nat) : Statement (.quiescenceReport h) := fun _ _ hw _ => absurd hw Bool.false_ne_true
theorem fswapBoundExpiry (h : Nat) : Statement (.fswapBoundExpiry h) := fun _ _ hw _ => absurd hw Bool.false_ne_true
theorem planeExchange (h : Nat) : Statement (.planeExchange h) := fun _ _ hw _ => absurd hw Bool.false_ne_true
theorem formeFirstLiveCycle (h : Nat) : Statement (.formeFirstLiveCycle h) := fun _ _ hw _ => absurd hw Bool.false_ne_true
theorem elementMarkerArrival (h : Nat) (n : Nat) : Statement (.elementMarkerArrival h n) := fun _ _ hw _ => absurd hw Bool.false_ne_true
theorem fifoMarkerArrival (h : Nat) (n : Nat) : Statement (.fifoMarkerArrival h n) := fun _ _ hw _ => absurd hw Bool.false_ne_true
theorem markerSaveComplete (h : Nat) : Statement (.markerSaveComplete h) := fun _ _ hw _ => absurd hw Bool.false_ne_true
theorem markerBoundExpiry (h : Nat) : Statement (.markerBoundExpiry h) := fun _ _ hw _ => absurd hw Bool.false_ne_true
theorem formePreempt (h : Nat) : Statement (.formePreempt h) := fun _ _ hw _ => absurd hw Bool.false_ne_true
theorem shadowSwap (h : Nat) : Statement (.shadowSwap h) := fun _ _ hw _ => absurd hw Bool.false_ne_true
theorem pooledPreempt (tile : Nat) (ctx : Nat) : Statement (.pooledPreempt tile ctx) := fun _ _ hw _ => absurd hw Bool.false_ne_true
theorem queueLaunch (part : Nat) : Statement (.queueLaunch part) := fun _ _ hw _ => absurd hw Bool.false_ne_true
theorem favourSliceExpiry (tile : Nat) : Statement (.favourSliceExpiry tile) := fun _ _ hw _ => absurd hw Bool.false_ne_true
theorem ingressWrite (part : Nat) (off : Nat) (len : Nat) (data : BitVec 128) : Statement (.ingressWrite part off len data) := fun _ _ hw _ => absurd hw Bool.false_ne_true
theorem doorEntryWrite (part : Nat) (door : Nat) (entry : BitVec 128) : Statement (.doorEntryWrite part door entry) := fun _ _ hw _ => absurd hw Bool.false_ne_true
theorem doorLoadDone (part : Nat) (door : Nat) : Statement (.doorLoadDone part door) := fun _ _ hw _ => absurd hw Bool.false_ne_true
theorem doorLoadRetry (part : Nat) (door : Nat) : Statement (.doorLoadRetry part door) := fun _ _ hw _ => absurd hw Bool.false_ne_true
theorem jobEntryWrite (part : Nat) (job : Nat) (entry : BitVec 256) : Statement (.jobEntryWrite part job entry) := fun _ _ hw _ => absurd hw Bool.false_ne_true
theorem extChgBegin (part : Nat) (value : BitVec 64) : Statement (.extChgBegin part value) := fun _ _ hw _ => absurd hw Bool.false_ne_true
theorem extChgHeld (part : Nat) : Statement (.extChgHeld part) := fun _ _ hw _ => absurd hw Bool.false_ne_true
theorem extChgEnd (part : Nat) (value : BitVec 64) : Statement (.extChgEnd part value) := fun _ _ hw _ => absurd hw Bool.false_ne_true
theorem extChgAbort (part : Nat) (value : BitVec 64) : Statement (.extChgAbort part value) := fun _ _ hw _ => absurd hw Bool.false_ne_true
theorem walkerWalk (die : Nat) (xl : Nat) (part : Nat) (va : BitVec 64) : Statement (.walkerWalk die xl part va) := fun _ _ hw _ => absurd hw Bool.false_ne_true
theorem dieSplitWrite (die : Nat) (value : BitVec 64) : Statement (.dieSplitWrite die value) := fun _ _ hw _ => absurd hw Bool.false_ne_true
theorem issueStatClr (tile : Nat) : Statement (.issueStatClr tile) := fun _ _ hw _ => absurd hw Bool.false_ne_true
theorem ingressStatClr (part : Nat) : Statement (.ingressStatClr part) := fun _ _ hw _ => absurd hw Bool.false_ne_true
theorem ctxCmdReplay (part : Nat) : Statement (.ctxCmdReplay part) := fun _ _ hw _ => absurd hw Bool.false_ne_true
theorem ctxCmdContinue (part : Nat) : Statement (.ctxCmdContinue part) := fun _ _ hw _ => absurd hw Bool.false_ne_true
theorem ctxCmdKill (part : Nat) : Statement (.ctxCmdKill part) := fun _ _ hw _ => absurd hw Bool.false_ne_true
theorem ctxCmdKillForme (part : Nat) (h : Nat) : Statement (.ctxCmdKillForme part h) := fun _ _ hw _ => absurd hw Bool.false_ne_true
theorem ctxCmdResume (part : Nat) : Statement (.ctxCmdResume part) := fun _ _ hw _ => absurd hw Bool.false_ne_true
theorem ctxCmdReplayUnposted (part : Nat) : Statement (.ctxCmdReplayUnposted part) := fun _ _ hw _ => absurd hw Bool.false_ne_true
theorem pmodeWrite (mode : BitVec 3) : Statement (.pmodeWrite mode) := fun _ _ hw _ => absurd hw Bool.false_ne_true
theorem clockDomainSwitch (dom : Nat) : Statement (.clockDomainSwitch dom) := fun _ _ hw _ => absurd hw Bool.false_ne_true
theorem clockThrottle (dom : Nat) (mhz : Nat) : Statement (.clockThrottle dom mhz) := fun _ _ hw _ => absurd hw Bool.false_ne_true
theorem fwgo : Statement .fwgo := fun _ _ hw _ => absurd hw Bool.false_ne_true
theorem fwCheckDone : Statement .fwCheckDone := fun _ _ hw _ => absurd hw Bool.false_ne_true
theorem ceclr : Statement .ceclr := fun _ _ hw _ => absurd hw Bool.false_ne_true
theorem powerUp : Statement .powerUp := fun _ _ hw _ => absurd hw Bool.false_ne_true
theorem functionReady (entry : ReadyEntry) (code : BitVec 2) : Statement (.functionReady entry code) := fun _ _ hw _ => absurd hw Bool.false_ne_true
theorem ppsEdge (offset : Int) : Statement (.ppsEdge offset) := fun _ _ hw _ => absurd hw Bool.false_ne_true
theorem fruPpsTimeout : Statement .fruPpsTimeout := fun _ _ hw _ => absurd hw Bool.false_ne_true
theorem fruNowsRead : Statement .fruNowsRead := fun _ _ hw _ => absurd hw Bool.false_ne_true
theorem fruReleaseFire (now : Nat) : Statement (.fruReleaseFire now) := fun _ _ hw _ => absurd hw Bool.false_ne_true
theorem linkRetrain (link : Nat) : Statement (.linkRetrain link) := fun _ _ hw _ => absurd hw Bool.false_ne_true
theorem linkDown (link : Nat) : Statement (.linkDown link) := fun _ _ hw _ => absurd hw Bool.false_ne_true
theorem hostMemAccess (write : Bool) (addr : Nat) (size : Nat) (data : BitVec 512) : Statement (.hostMemAccess write addr size data) := fun _ _ hw _ => absurd hw Bool.false_ne_true
theorem leaseZeroDone (die : Nat) (idx : Nat) : Statement (.leaseZeroDone die idx) := fun _ _ hw _ => absurd hw Bool.false_ne_true
theorem take (die : Nat) (idx : Nat) (borrower : Nat) (fallback : LeasePlace) : Statement (.take die idx borrower fallback) := fun _ _ hw _ => absurd hw Bool.false_ne_true
theorem takeAck (die : Nat) (lender : Nat) (lease : Nat) (grant : LeaseGrant) : Statement (.takeAck die lender lease grant) := fun _ _ hw _ => absurd hw Bool.false_ne_true
theorem takeNak (die : Nat) (lender : Nat) (lease : Nat) (reason : Nat) : Statement (.takeNak die lender lease reason) := fun _ _ hw _ => absurd hw Bool.false_ne_true
theorem reclaim (die : Nat) (lender : Nat) (lease : Nat) : Statement (.reclaim die lender lease) := fun _ _ hw _ => absurd hw Bool.false_ne_true
theorem stopped (die : Nat) (idx : Nat) : Statement (.stopped die idx) := fun _ _ hw _ => absurd hw Bool.false_ne_true
theorem push (addr : Nat) (data : List (BitVec 8)) : Statement (.push addr data) := fun _ _ hw _ => absurd hw Bool.false_ne_true
theorem done (die : Nat) (lender : Nat) (lease : Nat) : Statement (.done die lender lease) := fun _ _ hw _ => absurd hw Bool.false_ne_true
theorem demoted (die : Nat) (idx : Nat) : Statement (.demoted die idx) := fun _ _ hw _ => absurd hw Bool.false_ne_true
theorem lost (die : Nat) (lender : Nat) (lease : Nat) (pushed : Bool) : Statement (.lost die lender lease pushed) := fun _ _ hw _ => absurd hw Bool.false_ne_true
theorem leaseStopTimerExpiry (die : Nat) (idx : Nat) (reachable : Bool) : Statement (.leaseStopTimerExpiry die idx reachable) := fun _ _ hw _ => absurd hw Bool.false_ne_true
theorem leaseTermExpiry (die : Nat) (idx : Nat) : Statement (.leaseTermExpiry die idx) := fun _ _ hw _ => absurd hw Bool.false_ne_true
theorem leaseCfgDemand (die : Nat) (value : BitVec 64) : Statement (.leaseCfgDemand die value) := fun _ _ hw _ => absurd hw Bool.false_ne_true
theorem qtimeExpiry (die : Nat) (idx : Nat) : Statement (.qtimeExpiry die idx) := fun _ _ hw _ => absurd hw Bool.false_ne_true
theorem leaseReplyTimeout (die : Nat) (lender : Nat) (lease : Nat) : Statement (.leaseReplyTimeout die lender lease) := fun _ _ hw _ => absurd hw Bool.false_ne_true
theorem watchdogExpiry (stall : Stall) : Statement (.watchdogExpiry stall) := fun _ _ hw _ => absurd hw Bool.false_ne_true
theorem eccUncorrectable (err : EccSite) : Statement (.eccUncorrectable err) := fun _ _ hw _ => absurd hw Bool.false_ne_true
theorem eccCorrectable : Statement .eccCorrectable := fun _ _ hw _ => absurd hw Bool.false_ne_true
theorem patrolScrub (addr : Nat) : Statement (.patrolScrub addr) := fun _ _ hw _ => absurd hw Bool.false_ne_true
theorem registerWrite (acc : RegAccess) (index : Nat) (value : BitVec 64) : Statement (.registerWrite acc index value) := fun _ _ hw _ => absurd hw Bool.false_ne_true
theorem linkRetrainDone (link : Nat) : Statement (.linkRetrainDone link) := fun _ _ hw _ => absurd hw Bool.false_ne_true
theorem quiesceBoundExpiry (tile : Nat) (node : Nat) (tag : BitVec 64) : Statement (.quiesceBoundExpiry tile node tag) := fun _ _ hw _ => absurd hw Bool.false_ne_true
theorem registerRead (acc : RegAccess) (index : Nat) : Statement (.registerRead acc index) := fun _ _ hw _ => absurd hw Bool.false_ne_true
theorem fijanFlitArrival (flit : Flit) : Statement (.fijanFlitArrival flit) := fun _ _ hw _ => absurd hw Bool.false_ne_true

end Sys2Proof.Laws.Coding
end

