-- ==== Sys2Proof/Tests/Slice0.lean ====
section
/-! SUPPORT. Tests: records of the manual decoded, ill-formed terms, single steps, and states that meet the hypotheses of the
statements. -/

namespace Sys2Proof.Tests

open Sys2Proof Sys2Proof.Machine

-- One theorem at a time: together they would ask for more memory than one compile of the package has.
set_option Elab.async false

/-! ## Small states -/

/-- A shell with ports by mask, P, and both destinations unused but A. -/
def sh (ports : BitVec 3) (p : Bool) (dsta : BitVec 16) : Shell := ⟨ports, p, none, 0, dsta, 0xFFFF⟩

/-- Data of value `v`. -/
def dat (v : Word) : Tok := { value := v }

/-- A record alone in a galley of tile 0, its one instance ready with the operands `p`; A a node of its galley's tile. -/
def pooled (r : Shell) (p : List (Option Tok)) : State :=
  let s := State.reset.placePooled 0 r
  let d := s.tile 0
  { s.setTile { d with ready := d.ready.map fun i => { i with p0 := p.getD 0 none, p1 := p.getD 1 none, p2 := p.getD 2 none, p3 := p.getD 3 none } }
    with agenda := [], site := .inst 0 1 placedTag }

/-- A record alone in a live forme of one bay in stream or round mode, with the operands `p` in its queues under route tag 0. -/
def pinned (stream : Bool) (r : Shell) (p : List (Option Tok)) : State :=
  let s := State.reset.placePinned 0 r
  let q (k : Nat) : List QTok := (p.getD k none).toList.map fun t => { rt := 0, tok := t }
  { s with agenda := [], site := .elem 1 0 0, formes := s.formes.map fun f => { f with
      cfg := { f.cfg with stream := stream }
      run := { f.run with core := { f.run.core with elems := [{ x := 0, y := 0, q0 := q 0, q1 := q 1, q2 := q 2, q3 := q 3 }] } } } }

/-- The firing of a complete set and the state without its tokens. -/
def firing (s : State) (r : Shell) : Firing := ((s.gather r).getD ({ pinned := false, ctx := 0, part := 0, die := 0 }, s)).1
def after (s : State) (r : Shell) : State := ((s.gather r).getD ({ pinned := false, ctx := 0, part := 0, die := 0 }, s)).2

/-- The forme with handle 1. -/
def fm (s : State) : Forme :=
  (s.forme? 1).getD { handle := 9, part := 0, ctx := 0, die := 0, bx := 0, oy := 0, status := .killed, cfg := { w := 1, h := 1, stream := true, fseed := 0, recs := [] } }

theorem gather_of {s : State} {r : Shell} (h : (s.gather r).isSome = true) : s.gather r = some (firing s r, after s r) := by
  unfold firing after
  cases g : s.gather r with
  | none => simp [g] at h
  | some x => rfl

theorem fires_of {s : State} {r : Shell} (h : ((s.gather r).isSome && (firing s r).verdict == .value) = true) :
    Fires s r (firing s r) (after s r) := by
  rw [Bool.and_eq_true, beq_iff_eq] at h
  exact ⟨gather_of h.1, h.2⟩

theorem awake_of {s : State} {r : Shell}
    (h : ((s.gather r).isSome && (firing s r).verdict == .value && (firing s r).toks.all fun e => !e.2.isDormant) = true) :
    FiresAwake s r (firing s r) (after s r) := by
  rw [Bool.and_eq_true, List.all_eq_true] at h
  exact ⟨fires_of h.1, fun e he => by simpa using h.2 e he⟩


/-! ## Decoding: words of the manual, bit by bit -/

theorem test_decode_add : decode .pinned 0x0011_0300_8F83_1040_0000_0000 = .ok (.add .i16x2 true ⟨3, false, none, 0, 0x8F83, 0x1040⟩) := by decide
theorem test_decode_lut3 : decode .pinned 0x1400_0700_0001_0041_0000_0096 = .ok (.lut3 0x96 ⟨7, false, none, 0, 0x0001, 0x0041⟩) := by decide
theorem test_decode_bfi : decode .pooled 0x1F00_0300_0001_FFFF_0000_0400 = .ok (.bfi .i32 0 4 ⟨3, false, none, 0, 0x0001, 0xFFFF⟩) := by decide
theorem test_decode_fcmp : decode .pooled 0x225A_0300_CFC1_FFFF_4000_0000 = .ok (.fcmp .ge ⟨3, false, some (1, 0x40000000), 0, 0xCFC1, 0xFFFF⟩) := by decide
theorem test_decode_sel : decode .pooled 0x240A_0380_A000_0040_0000_0000 = .ok (.sel ⟨3, true, some (1, 0), 0, 0xA000, 0x0040⟩) := by decide
theorem test_decode_fadd : decode .pooled 0x302A_0300_0123_FFFF_3F80_0000 = .ok (.fadd .rup ⟨3, false, some (1, 0x3F800000), 0, 0x0123, 0xFFFF⟩) := by decide
theorem test_decode_hsel : decode .pooled 0x4A00_0700_4040_FFFF_0000_0000 = .ok (.hsel false ⟨7, false, none, 0, 0x4040, 0xFFFF⟩) := by decide
theorem test_decode_hdot2 : decode .pooled 0x481C_0700_0001_FFFF_0000_0000 = .ok (.hdot2 true .rne ⟨7, false, some (2, 0), 0, 0x0001, 0xFFFF⟩) := by decide
theorem test_decode_packh : decode .pinned 0x5320_0300_0040_FFFF_0000_0000 = .ok (.packh false .rup ⟨3, false, none, 0, 0x0040, 0xFFFF⟩) := by decide
theorem test_decode_steer : decode .pooled 0x6101_0180_0041_0050_0000_0000 = .ok (.steer true ⟨1, true, none, 0, 0x0041, 0x0050⟩) := by decide
theorem test_decode_seq : decode .pooled 0x6809_0700_0040_0080_0000_0000 = .ok (.seq true ⟨7, false, some (0, 0), 0, 0x0040, 0x0080⟩) := by decide
theorem test_decode_window : decode .pinned 0x7700_0300_0040_0140_0000_0003 = .ok (.window 3 ⟨3, false, none, 0, 0x0040, 0x0140⟩) := by decide
theorem test_decode_route : decode .pinned 0x7800_0100_0040_FFFF_0000_0001 = .ok (.route 1 ⟨1, false, none, 0, 0x0040, 0xFFFF⟩) := by decide
theorem test_decode_st : decode .pooled 0x8100_0300_FFFF_FFFF_0000_0001 = .ok (.st .w32 0 1 ⟨3, false, none, 0, 0xFFFF, 0xFFFF⟩) := by decide
theorem test_decode_kld : decode .pooled 0x8400_0100_4009_FFFF_0000_0040 = .ok (.kld true 0 ⟨1, false, none, 0, 0x4009, 0xFFFF⟩) := by decide
theorem test_decode_tst : decode .pinned 0x8D00_0300_4040_FFFF_0000_4000 = .ok (.tst .w32 4 0 0 ⟨3, false, none, 0, 0x4040, 0xFFFF⟩) := by decide
theorem test_decode_sopen : decode .pinned 0x8800_0700_2000_FFFF_0000_000B = .ok (.sopen .w32 false true 3 ⟨7, false, none, 0, 0x2000, 0xFFFF⟩) := by decide
theorem test_decode_pshift : decode .pinned 0x9000_0100_6000_0040_0000_0042 = .ok (.pshift 0 1 0 2 ⟨1, false, none, 0, 0x6000, 0x0040⟩) := by decide
theorem test_decode_cmb : decode .pooled 0xA080_2100_A000_0040_0000_0000 = .ok (.cmb .fadd ⟨1, false, none, 4, 0xA000, 0x0040⟩) := by decide
theorem test_decode_red : decode .pooled 0xAA21_0700_FFFF_FFFF_0000_0000 = .ok (.red .die true .add ⟨7, false, none, 0, 0xFFFF, 0xFFFF⟩) := by decide
theorem test_decode_event : decode .pooled 0xBA00_0100_0040_8FC2_0000_0042 = .ok (.event 0x42 ⟨1, false, none, 0, 0x0040, 0x8FC2⟩) := by decide
theorem test_decode_mmas : decode .pooled 0xC120_0300_0200_FFFF_0001_FFFF = .ok (.mmas .e4m3 true true true 127 127 ⟨3, false, none, 0, 0x0200, 0xFFFF⟩) := by decide
theorem test_decode_cadd : decode .pinned 0xD300_0700_FFFF_FFFF_0000_0040 = .ok (.cadd 0 1 0 ⟨7, false, none, 0, 0xFFFF, 0xFFFF⟩) := by decide
theorem test_decode_fload : decode .pooled 0xEA00_0700_0016_FFFF_0000_0000 = .ok (.fload ⟨7, false, none, 0, 0x0016, 0xFFFF⟩) := by decide
theorem test_decode_marker : decode .pooled 0xF800_0100_4005_FFFF_0000_0000 = .ok (.marker ⟨1, false, none, 0, 0x4005, 0xFFFF⟩) := by decide


/-! ## Ill-formed terms, one for each check -/

theorem test_wf_ok : Instr.wf .pooled (.add .i32 false ⟨3, false, some (1, 7), 0, 0x4001, 0xFFFF⟩) = true := by decide
theorem test_wf_mod : Instr.wf .pooled (.ld .w32 true 0 0 ⟨1, false, none, 0, 1, 0xFFFF⟩) = false := by decide
theorem test_wf_mod_ctx : Instr.wf .pinned (.settag .ctx 0 ⟨3, false, none, 0, 1, 0xFFFF⟩) = false := by decide
theorem test_wf_literal_port : Instr.wf .pooled (.add .i32 false ⟨3, false, some (2, 7), 0, 0x4001, 0xFFFF⟩) = false := by decide
theorem test_wf_inmask : Instr.wf .pooled (.add .i32 false ⟨7, false, none, 0, 0x4001, 0xFFFF⟩) = false := by decide
theorem test_wf_pin : Instr.wf .pooled (.sel ⟨3, false, none, 0, 0x4001, 0xFFFF⟩) = false := by decide
theorem test_wf_field : Instr.wf .pooled (.bfx .i16x2 8 9 false ⟨1, false, none, 0, 1, 0xFFFF⟩) = false := by decide
theorem test_wf_start : Instr.wf .pooled (.loopin .w4 16 0 ⟨1, false, none, 0, 1, 0xFFFF⟩) = false := by decide
theorem test_wf_window_zero : Instr.wf .pinned (.window 0 ⟨3, false, none, 0, 1, 0xFFFF⟩) = false := by decide
theorem test_wf_route_mask : Instr.wf .pinned (.route 0 ⟨1, false, none, 0, 1, 0xFFFF⟩) = false := by decide
theorem test_wf_halo_width : Instr.wf .pinned (.phalo 17 0 0 ⟨3, false, none, 0, 0x6000, 0xFFFF⟩) = false := by decide
theorem test_wf_atomic_uns : Instr.wf .pooled (.aadd false .element false 0x40 ⟨3, false, none, 0, 1, 0xFFFF⟩) = false := by decide
theorem test_wf_aux : Instr.wf .pooled (.add .i32 false ⟨3, false, none, 1, 0x4001, 0xFFFF⟩) = false := by decide
theorem test_wf_count : Instr.wf .pooled (.cmb .add ⟨1, false, none, 0, 1, 0xFFFF⟩) = false := by decide
theorem test_wf_same_dest : Instr.wf .pooled (.copy ⟨1, false, none, 0, 1, 1⟩) = false := by decide
theorem test_wf_no_dest : Instr.wf .pooled (.copy ⟨1, false, none, 0, 0xFFFF, 0xFFFF⟩) = false := by decide
theorem test_wf_dest_kind : Instr.wf .pinned (.pshift 0 1 0 2 ⟨1, false, none, 0, 0x2000, 0xFFFF⟩) = false := by decide
theorem test_wf_network : Instr.wf .pooled (.add .i32 false ⟨3, false, none, 0, 0xC001, 0xFFFF⟩) = false := by decide
theorem test_wf_network_pred : Instr.wf .pooled (.icmp .eq ⟨3, false, none, 0, 0x0001, 0xFFFF⟩) = false := by decide
theorem test_wf_placement : Instr.wf .pinned (.trap 0 ⟨1, false, none, 0, 0xFFFF, 0xFFFF⟩) = false := by decide
theorem test_wf_placement_pinned : Instr.wf .pooled (.tld .w32 false 0 0 0 ⟨1, false, none, 0, 1, 0xFFFF⟩) = false := by decide
theorem test_wf_galley_gate : Instr.wf .pooled (.gate false ⟨1, true, none, 0, 1, 0xFFFF⟩) = false := by decide
theorem test_wf_event : Instr.wf .pooled (.fwgo) = false := by decide
theorem test_reject_opcode : decode .pooled 0x9800_0100_0001_FFFF_0000_0000 = .error .opcode := by decide
theorem test_reject_reserved : decode .pooled 0x0010_0301_0001_FFFF_0000_0000 = .error .reserved := by decide
theorem test_reject_lane_type : decode .pooled 0x0030_0300_0001_FFFF_0000_0000 = .error .modVar := by decide
theorem test_reject_scope : decode .pooled 0xB050_0100_0001_FFFF_0000_0000 = .error .modVar := by decide


/-! ## Hypotheses of the statements are met: firings -/

/-- A shell with all ports. -/
def rA : Shell := sh 7 true 0x0041
def oA : List (Option Tok) := [some (dat 3), some (dat 4), some (dat 5), some (dat 1)]
def sA : State := pooled rA oA
def sB : State := pinned true rA oA
/-- Halves 0 active only. -/
def sH : State := pooled rA [some { value := 3, lmask := 1 }, some { value := 4, lmask := 3 }, some { value := 5, lmask := 3 }, some (dat 1)]
/-- A dormant operand. -/
def sD : State := pooled rA [some .dormant, some (dat 4), some (dat 5), some (dat 1)]

theorem witness_StepRunsDecoded :
    (let s := State.reset.withFetchWord 96 0x0000_0300_0001_FFFF_0000_0000
     s.agenda = [.fire (.inst 0 1 placedTag)] ∧ s.siteWord (.inst 0 1 placedTag) = some (.pooled, 0x0000_0300_0001_FFFF_0000_0000) ∧
      decode .pooled 0x0000_0300_0001_FFFF_0000_0000 = .ok (.add .i32 false ⟨3, false, none, 0, 1, 0xFFFF⟩) ∧
      ({ s with agenda := [] } : State).autoAction = some (.fire (.inst 0 1 placedTag))) ∧
    ({ State.reset with agenda := [.event .fwgo] } : State).agenda = [.event .fwgo] ∧
    ({ sB with formes := sB.formes.map fun f => { f with status := .entering } } : State).autoAction =
      some (.event (.formeFirstLiveCycle 1)) := by decide

theorem witness_DecodeEncode :
    Instr.wf .pooled (.ld .w16 true 0xFFFFFF 63 ⟨1, false, none, 31, 0x7FFF, 0xBFFF⟩) = true ∧
    Instr.wf .pinned (.pbound true 7 16 3 15 ⟨1, false, none, 0, 0x6FFF, 0xFFFF⟩) = true := by decide

theorem witness_ScopeCodes :
    (scopedOps.contains ((0xB050_0100_0001_FFFF_0000_0000 : BitVec 96).extractLsb' 88 8).toNat = true ∧
      5 ≤ ((0xB050_0100_0001_FFFF_0000_0000 : BitVec 96).extractLsb' 84 3).toNat) ∧
    decode .pooled 0xB000_0100_0001_FFFF_0000_0000 = .ok (.fence false .element false ⟨1, false, none, 0, 1, 0xFFFF⟩) ∧
    decode .pooled 0xB040_0100_0001_FFFF_0000_0000 = .ok (.fence false .system false ⟨1, false, none, 0, 1, 0xFFFF⟩) := by decide

theorem witness_GatherElement : sB.gatherElem 1 0 0 (expectedPorts rA) = some (firing sB rA, after sB rA) := by decide

theorem witness_GatherInstance : sA.gatherInst 0 1 placedTag = some (firing sA rA, after sA rA) := by decide

theorem witness_VerdictOfFlags :
    ({ pinned := true, ctx := 1, part := 0, die := 0, p0 := some (dat 1), p2 := some .eos } : Firing).verdict = .mismatch 2 := by decide

theorem witness_SendPinned : ∃ g, (firing sB rA).pinned = true ∧ sB.forme? (firing sB rA).h = some g ∧ g.handle = (firing sB rA).h :=
  ⟨fm sB, by decide⟩

theorem witness_SendPooled : ∃ g, (firing sA rA).pinned = false ∧ sA.galleyOf (firing sA rA) = some g :=
  ⟨((sA.galleyOf (firing sA rA)).getD { hdr := 9, tag := 0, seq := 9 }), by decide⟩


/-- An EOS on every port, on one port, and a NULL. -/
def sE : State := pooled rA [some .eos, some .eos, some .eos, some .eos]
def sM : State := pooled rA [some (dat 1), some .eos, some (dat 1), some (dat 1)]
def sN : State := pooled rA [some .null, some .dormant, some (dat 1), some (dat 1)]

theorem nomatch_of {f : Firing} {v : Verdict} (h : f.verdict = v) (n : ∀ k, v ≠ .mismatch k) : ∀ k, f.verdict ≠ .mismatch k :=
  fun k => h ▸ n k

theorem witness_ComputeFrame :
    (plainRecord (.sel rA) = true ∧ (Instr.sel rA).shell? = some rA ∧ sB.gather rA = some (firing sB rA, after sB rA) ∧
      (∀ k, (firing sB rA).verdict ≠ .mismatch k) ∧ (∃ u, exec (.sel rA) sB = .next u) ∧ sB.site = .elem 1 0 0 ∧ (sB.forme? 1).isSome) ∧
    (plainRecord (.steer true rA) = true ∧ sA.gather rA = some (firing sA rA, after sA rA) ∧
      (∀ k, (firing sA rA).verdict ≠ .mismatch k) ∧ (∃ u, exec (.steer true rA) sA = .next u) ∧ sA.site = .inst 0 1 placedTag) :=
  ⟨⟨by decide, rfl, gather_of (by decide), nomatch_of (v := .value) (by decide) nofun, ⟨_, rfl⟩, by decide, by decide⟩,
    by decide, gather_of (by decide), nomatch_of (v := .value) (by decide) nofun, ⟨_, rfl⟩, by decide⟩

theorem witness_FlagsOfComputing : groupOf (.add .i32 false rA) = some 0 ∧ groupOf (.twdec false false rA) = some 5 ∧
    sE.gather rA = some (firing sE rA, after sE rA) ∧ (firing sE rA).verdict = .eos ∧
    sM.gather rA = some (firing sM rA, after sM rA) ∧ (firing sM rA).verdict = .mismatch 1 ∧
    sN.gather rA = some (firing sN rA, after sN rA) ∧ (firing sN rA).verdict = .null :=
  ⟨by decide, by decide, gather_of (by decide), by decide, gather_of (by decide), by decide, gather_of (by decide), by decide⟩

theorem witness_DormantFirings : Fires sD rA (firing sD rA) (after sD rA) ∧ wholeWord (.spchk rA) = true ∧
    ¬ LanesOpen .i32 ((after sD rA).opnds (firing sD rA) rA) ∧ packedLanes (.hadd true .sr rA) = true ∧
    ((after sD rA).opnds (firing sD rA) rA).lm = 0 :=
  ⟨fires_of (by decide), by decide, by unfold LanesOpen; decide, by decide, by decide⟩

/-- Sets that compute: whole words, and words with one inactive half. -/
theorem sA_fires : Fires sA rA (firing sA rA) (after sA rA) := fires_of (by decide)
theorem sH_fires : Fires sH rA (firing sH rA) (after sH rA) := fires_of (by decide)
theorem sB_fires : Fires sB rA (firing sB rA) (after sB rA) := fires_of (by decide)
theorem sA_awake : FiresAwake sA rA (firing sA rA) (after sA rA) := awake_of (by decide)
theorem sB_awake : FiresAwake sB rA (firing sB rA) (after sB rA) := awake_of (by decide)
theorem sA_whole : Whole ((after sA rA).opnds (firing sA rA) rA) := by unfold Whole LanesOpen; decide
theorem sH_open (lt : LaneType) : LanesOpen lt ((after sH rA).opnds (firing sH rA) rA) := by cases lt <;> unfold LanesOpen <;> decide

theorem witness_IntegerArithmetic : ∀ lt, Fires sH rA (firing sH rA) (after sH rA) ∧ LanesOpen lt ((after sH rA).opnds (firing sH rA) rA) :=
  fun lt => ⟨sH_fires, sH_open lt⟩
theorem witness_IntegerDivision : ∀ lt, Fires sH rA (firing sH rA) (after sH rA) ∧ LanesOpen lt ((after sH rA).opnds (firing sH rA) rA) :=
  fun lt => ⟨sH_fires, sH_open lt⟩
theorem witness_ShiftsAndFields : Fires sH rA (firing sH rA) (after sH rA) ∧ LanesOpen .i8x4 ((after sH rA).opnds (firing sH rA) rA) ∧
    1 ≤ (1 : BitVec 6).toNat ∧ (7 : BitVec 5).toNat + (1 : BitVec 6).toNat ≤ laneWidth .i8x4 ∧
    (0 : BitVec 5).toNat + (32 : BitVec 6).toNat ≤ laneWidth .i32 := ⟨sH_fires, sH_open _, by decide, by decide, by decide⟩
theorem witness_LogicWords : Fires sA rA (firing sA rA) (after sA rA) ∧ Whole ((after sA rA).opnds (firing sA rA) rA) := ⟨sA_fires, sA_whole⟩
theorem witness_Predicates : Fires sA rA (firing sA rA) (after sA rA) ∧ Whole ((after sA rA).opnds (firing sA rA) rA) := ⟨sA_fires, sA_whole⟩
theorem witness_FloatArithmetic : Fires sA rA (firing sA rA) (after sA rA) ∧ Whole ((after sA rA).opnds (firing sA rA) rA) := ⟨sA_fires, sA_whole⟩
theorem witness_FloatSpecialCases : (Fmt.fp32.decode 0x7FC00000).isNan = true ∧ (Fmt.fp32.decode 0xFFFFFFFF).isNan = true ∧
    (0xFFFFFFFF : Nat) < 2 ^ 32 ∧ (Fmt.fp32.decode 0xFF800000).isNan = false ∧ (Fmt.fp32.decode 0).isNan = false := by decide
theorem witness_PackedHalf : Fires sH rA (firing sH rA) (after sH rA) ∧ ((after sH rA).opnds (firing sH rA) rA).lm ≠ 0 ∧
    ((firing sA rA).port rA 2).isDormant = false ∧ ((firing sD rA).port rA 0).lmask = 0 := ⟨sH_fires, by decide, by decide, by decide⟩
theorem witness_Compares : Fires sA rA (firing sA rA) (after sA rA) ∧ LanesOpen .i32 ((after sA rA).opnds (firing sA rA) rA) ∧
    LanesOpen .i16x2 ((after sA rA).opnds (firing sA rA) rA) := ⟨sA_fires, sA_whole, by unfold LanesOpen; decide⟩
theorem witness_Conversions : Fires sA rA (firing sA rA) (after sA rA) ∧ Whole ((after sA rA).opnds (firing sA rA) rA) ∧
    ((after sA rA).opnds (firing sA rA) rA).lm ≠ 0 ∧ ((firing sH rA).port rA 0).lmask.getLsbD 0 = true ∧
    ((firing sH rA).port rA 0).lmask.getLsbD 1 = false := ⟨sA_fires, sA_whole, by decide, by decide, by decide⟩
theorem witness_PackedConversions : Fires sH rA (firing sH rA) (after sH rA) ∧ ((firing sH rA).port rA 1).isDormant = false ∧
    ((firing sH rA).port rA 0).lmask.getLsbD 0 = true ∧ ((firing sH rA).port rA 0).lmask.getLsbD 1 = false ∧
    (let s := pooled rA [some .dormant, some .dormant, some (dat 5), some (dat 1)]
     (s.gather rA).isSome = true ∧ (firing s rA).verdict = .value ∧ ((firing s rA).port rA 0).isDormant = true ∧
      ((firing s rA).port rA 1).isDormant = true) := ⟨sH_fires, by decide, by decide, by decide, by decide⟩
theorem witness_FlowPass : Fires sA rA (firing sA rA) (after sA rA) ∧ Fires sD rA (firing sD rA) (after sD rA) := ⟨sA_fires, fires_of (by decide)⟩

/-- Sets of MERGE: one NULL, two values, a predicate with its partner, one head, an EOS. -/
def rM : Shell := sh 3 false 0x0041
def rP : Shell := sh 3 true 0x0041
def mPick0 : State := pooled rM [some .null, some (dat 1)]
def mPick1 : State := pooled rM [some (dat 1), some .null]
def mPick2 : State := pooled rM [some (dat 1), some (dat 2)]
def mPred : State := pinned true rP [some (dat 1), none, none, some (dat 1)]
def mPredE : State := pinned true rP [some .eos, some .eos, none, some .eos]
def mAny : State := pinned true rM [some (dat 1)]
def mAnyE : State := pinned true rM [none, some .eos]
/-- An element whose route tag 0 keeps a count and flags. -/
def kept (c : Word) (fl : BitVec 4) (s : State) : State :=
  { s with formes := s.formes.map fun f => { f with run := { f.run with core := { f.run.core with
      elems := f.run.core.elems.map fun e => { e with rts := [{ rt := 0, lfsr := 1, count := c, flags := fl }] } } } } }

/-- What a gather of its own kind gives. -/
def got {α : Type} (d : α) (o : Option α) : α := o.getD d
def f0 : Firing := { pinned := false, ctx := 0, part := 0, die := 0 }

theorem witness_MergeForms :
    ((mPick0.gather rM).isSome = true ∧ ((firing mPick0 rM).port rM 0).flag = .null ∧ ∀ e ∈ (firing mPick0 rM).toks, e.2.flag ≠ .eos) ∧
    ((mPick1.gather rM).isSome = true ∧ ((firing mPick1 rM).port rM 0).flag ≠ .null ∧ ((firing mPick1 rM).port rM 1).flag = .null) ∧
    ((mPick2.gather rM).isSome = true ∧ ((firing mPick2 rM).port rM 0).flag ≠ .null ∧ ((firing mPick2 rM).port rM 1).flag ≠ .null) ∧
    (mPred.site = .elem 1 0 0 ∧ ∃ x p, mPred.gatherMerge 1 0 0 = some x ∧ x.1.p3 = some p ∧ p.flag ≠ .eos ∧ (x.1.port rP 0).flag ≠ .eos) ∧
    (mPredE.site = .elem 1 0 0 ∧ ∃ x p, mPredE.gatherMerge 1 0 0 = some x ∧ x.1.p3 = some p ∧ ∀ e ∈ x.1.toks, e.2.flag = .eos) ∧
    (mAny.site = .elem 1 0 0 ∧ ∃ x, mAny.gatherAny 1 0 0 = some (0, x) ∧ (x.1.port rM 0).flag ≠ .eos) ∧
    (∃ x, mAnyE.gatherAny 1 0 0 = some (1, x) ∧ (x.1.port rM 1).flag = .eos ∧ (x.2.kept x.1).2.getLsbD 0 = false) ∧
    (∃ x, (kept 0 1 mAnyE).gatherAny 1 0 0 = some (1, x) ∧ (x.1.port rM 1).flag = .eos ∧ (x.2.kept x.1).2.getLsbD 0 = true) :=
  ⟨by decide, by decide, by decide, ⟨rfl, got (f0, mPred) (mPred.gatherMerge 1 0 0), dat 1, by decide⟩,
    ⟨rfl, got (f0, mPredE) (mPredE.gatherMerge 1 0 0), .eos, by decide⟩,
    ⟨rfl, (got (0, f0, mAny) (mAny.gatherAny 1 0 0)).2, by decide⟩, ⟨(got (0, f0, mAnyE) (mAnyE.gatherAny 1 0 0)).2, by decide⟩,
    ⟨(got (0, f0, mAnyE) ((kept 0 1 mAnyE).gatherAny 1 0 0)).2, by decide⟩⟩

/-- Sources: an element that emits a stream, and one that has not fired. -/
def emitting (left : Nat) (eos : Bool) : State :=
  let s := pinned true rM []
  { s with formes := s.formes.map fun f => { f with run := { f.run with core := { f.run.core with
      elems := [{ x := 0, y := 0, emit := some ⟨0, left, 5, 1, eos⟩ }] } } } }
def rOnce : Shell := sh 0 false 0x0041
def rT : Shell := sh 1 false 0x0041

theorem witness_Sources :
    (FiresAwake sA rA (firing sA rA) (after sA rA) ∧ (firing sA rA).pinned = false ∧ sA.emitting = none ∧ rA.inmask ≠ 0) ∧
    (FiresAwake sB rA (firing sB rA) (after sB rA) ∧ (firing sB rA).pinned = true ∧ sB.emitting = none ∧
      ((after sB rA).forme? (firing sB rA).h).isSome = true) ∧
    (∃ g, (pinned true rOnce []).forme? 1 = some g ∧ g.status = .live ∧ g.mark = none ∧ (g.run.core.elem 0 0).fired = false ∧
      (g.run.core.elem 0 0).emit = none ∧ rOnce.inmask = 0) ∧
    (∀ left ∈ [0, 1, 2], ∃ g m, (emitting left true).forme? 1 = some g ∧ g.status = .live ∧ g.mark = none ∧
      g.run.core.unblocked (.elem 0 0) = true ∧ (g.run.core.elem 0 0).emit = some m ∧ m.left = left) ∧
    (Fires sA rA (firing sA rA) (after sA rA) ∧ rA.pin = true) ∧
    ((mPick1.gather rM).isSome = true ∧ rM.pin = false ∧ ((firing mPick1 rM).port rM 0).flag ≠ .eos) ∧
    ((sE.gather rA).isSome = true ∧ ((firing sE rA).port rA 0).flag = .eos) :=
  ⟨⟨sA_awake, by decide⟩, ⟨sB_awake, by decide⟩, ⟨fm (pinned true rOnce []), by decide⟩,
    fun left h => ⟨fm (emitting left true), ⟨0, left, 5, 1, true⟩, by revert left; decide⟩,
    ⟨sA_fires, rfl⟩, by decide, by decide⟩


/-! ## Tag records -/

def withRoute (s : State) (e : RouteEntry) : State := s.setRoute 1 0 e
/-- A tag of context 1 with one 16-bit field 7. -/
def tag16 : Tag := (pushTag placedTag 16 7).getD 0
/-- A pooled record under a tag. -/
def underTag (t : Tag) (s : State) : State :=
  { s with site := .inst 0 1 t, tiles := s.tiles.map fun d => { d with
      ready := d.ready.map fun i => { i with tag := t }, galleys := d.galleys.map fun g => { g with tag := t } } }
def wTag : State := underTag tag16 (pooled rM [some (dat 1), some (dat 0xFFFF)])
def wTagBig : State := underTag tag16 (pooled rM [some (dat 1), some (dat 0x10000)])
def wTag0 : State := pooled rM [some (dat 1), some .dormant]
def wTagP : State := withRoute (pinned true rM [some (dat 1), some (dat 3)]) ⟨true, tag16⟩
def wTagC : State := pinned true rM [some (dat 1), some (dat 3)]
/-- A tag with eight fields takes no ninth. -/
def tag8 : Tag := (List.range 8).foldl (fun t _ => (pushTag t 4 15).getD 0) placedTag

theorem witness_TagSteps :
    ((wTag.gather rM).isSome = true ∧ (firing wTag rM).verdict = .value ∧ (after wTag rM).tagOf (firing wTag rM) = some tag16 ∧
      fieldWidth tag16 0 = 16 ∧ (popTag tag16).isSome = true ∧ ((firing wTag rM).port rM 1).isActive = true ∧
      ((firing wTag rM).port rM 1).value.toNat < 2 ^ fieldWidth tag16 0 ∧ (firing wTag rM).pinned = false) ∧
    ((wTagBig.gather rM).isSome = true ∧ 2 ^ fieldWidth tag16 0 ≤ ((firing wTagBig rM).port rM 1).value.toNat ∧ fieldWidth tag16 1 = 0) ∧
    ((wTag0.gather rM).isSome = true ∧ ((firing wTag0 rM).port rM 1).isActive = false ∧ ((firing wTag0 rM).port rM 0).flag ≠ .eos ∧
      (after wTag0 rM).tagOf (firing wTag0 rM) = some placedTag ∧ fieldWidth placedTag 0 = 0 ∧ popTag placedTag = none ∧
      ((after wTag0 rM).galleyOf (firing wTag0 rM)).isSome = true) ∧
    ((wTagP.gather rM).isSome = true ∧ (firing wTagP rM).pinned = true ∧ (after wTagP rM).tagOf (firing wTagP rM) = some tag16) ∧
    ((wTagC.gather rM).isSome = true ∧ (after wTagC rM).tagOf (firing wTagC rM) = none) ∧
    (pushTag tag8 4 0 = none ∧ pushTag tag8 16 0 = none) := by decide

theorem witness_TagSteps_ctx :
    (let s := { wTag with ctxs := [placedCtx, { id := 2, part := 0, creator := 1 }] }
     let f := { firing s rM with p1 := some (dat 2) }
     (after s rM).mayTag f ((f.port rM 1).value.toNat % 2 ^ 12) = true) ∧
    (after wTag rM).mayTag (firing wTag rM) (((firing wTag rM).port rM 1).value.toNat % 2 ^ 12) = false := by decide

theorem witness_TagFields : tag16.toNat % 2 ^ 36 < 2 ^ fieldLow tag16 8 ∧ (pushTag tag16 16 0xFFFF).isSome = true ∧ 0xFFFF < 2 ^ 16 ∧
    placedTag.toNat % 2 ^ 36 < 2 ^ fieldLow placedTag 8 ∧ (pushTag placedTag 4 15).isSome = true ∧ (pushTag tag16 8 255).isSome = true := by decide

/-- WINDOW, ROUTE, UNROUTE. -/
def wWin (c : Word) (q0 q1 : Option Tok) : State := kept c 0 (pinned true rM [q0, q1])
theorem witness_WindowAndRoute :
    (∀ s ∈ [wWin 2 (some (dat 1)) none, wWin 0 (some .eos) none, wWin 1 none (some (dat 1)), wWin 0 none (some (dat 1)), wWin 3 none (some .eos)],
      s.site = .elem 1 0 0 ∧ s.forme? 1 = some (fm s) ∧ (fm s).mayFire 0 0 = true) ∧
    (let q := wWin 2 (some (dat 1)) none
     ((fm q).run.core.elem 0 0).q0 = [{ rt := 0, tok := dat 1 }] ∧ ((fm q).run.core.elem 0 0).q1 = [] ∧ ((fm q).rtState 0 0 0).count.toNat < (3 : BitVec 8).toNat) ∧
    (let q := wWin 1 none (some (dat 1))
     ((fm q).run.core.elem 0 0).q0 = [] ∧ ((fm q).run.core.elem 0 0).q1 = [{ rt := 0, tok := dat 1 }] ∧ ((fm q).rtState 0 0 0).count ≠ 0) ∧
    (let s := pooled rM [some (dat 1), none]
     ∃ i g, (s.tile 0).ready = [i] ∧ i.node = 1 ∧ i.tag = placedTag ∧ (s.tile 0).header? 1 = some 0 ∧ (s.tile 0).galley? 0 placedTag = some g ∧
       i.p0 = some (dat 1) ∧ i.p1 = none ∧ (s.tile 0).marks.throttle = false ∧ ((s.tile 0).counter 1 placedTag).count.toNat < (1 : BitVec 8).toNat) ∧
    (let s := (pooled rM [none, some (dat 1)]).setTile { (pooled rM [none, some (dat 1)]).tile 0 with
                entries := [{ node := 1, tag := placedTag, state := true, count := 1 }] }
     ∃ i, (s.tile 0).ready = [i] ∧ i.p0 = none ∧ i.p1 = some (dat 1) ∧ ((s.tile 0).counter 1 placedTag).count ≠ 0) ∧
    ((fm (pinned true rT [some (dat 1)])).run.core.bindTag 0x8000 0).isSome = true ∧
    (let r := sh 1 false 0xF000
     let s := withRoute (pinned true r [some (dat 1)]) ⟨true, tag16⟩
     (s.gather r).isSome = true ∧ (firing s r).verdict = .value ∧ ((after s r).route 1 0).valid = true ∧
       ∃ i, (fm (after s r)).dest 0 0 0xF000 = .dftile i) := by
  refine ⟨by decide, by decide, by decide, ⟨((pooled rM [some (dat 1), none]).tile 0).ready.headD { node := 0, tag := 0 },
    (((pooled rM [some (dat 1), none]).tile 0).galley? 0 placedTag).getD { hdr := 9, tag := 0, seq := 0 }, by decide⟩,
    ⟨((pooled rM [none, some (dat 1)]).tile 0).ready.headD { node := 0, tag := 0 }, by decide⟩, by decide, by decide, by decide, by decide, ?_⟩
  exact ⟨0, by decide⟩

/-- CTXNEW, CTXFREE and NEXTG. -/
theorem witness_ContextsAndNextg :
    (let s := pooled rT [some (dat 0)]
     (s.gather rT).isSome = true ∧ (firing s rT).verdict = .value ∧ ((firing s rT).port rT 0).isActive = true ∧
      ((after s rT).ctxOf (firing s rT)).sys = true ∧ ((after s rT).tile 0).throttle = false ∧ (after s rT).freeCtx = some 2 ∧
      ((after s rT).galleyOf (firing s rT)).isSome = true ∧ (after s rT).freeCode (firing s rT) 0 ≠ 1) ∧
    (let s := pooled rT [some (dat 16)]
     15 < ((firing s rT).port rT 0).value.toNat) ∧
    (let s := { pooled rT [some (dat 8)] with ctxs := [{ placedCtx with sys := false }] }
     ((firing s rT).port rT 0).value.getLsbD 3 = true ∧ ((after s rT).ctxOf (firing s rT)).sys = false) ∧
    (let s := (pooled rT [some (dat 0)]).setTile { (pooled rT [some (dat 0)]).tile 0 with hwm := 0 }
     ((after s rT).tile 0).throttle = true) ∧
    (let s := { pooled rT [some (dat 2)] with ctxs := [placedCtx, { id := 2, part := 0, creator := 1 }] }
     (after s rT).freeCode (firing s rT) 2 = 1) ∧
    (let s := pooled rT [some .null]
     (s.gather rT).isSome = true ∧ (firing s rT).verdict = .null ∧ ((firing s rT).port rT 0).isActive = false) := by decide +kernel

/-- With every id allocated there is no free one. -/
theorem witness_no_free_context : ({ State.reset with ctxs := (List.range 4096).map fun i => { id := i, part := 0 } } : State).freeCtx = none := by
  rw [State.freeCtx, List.find?_eq_none]
  intro c hc
  simp only [List.mem_map, List.mem_range] at hc
  obtain ⟨k, hk, rfl⟩ := hc
  simp only [State.ctxTaken, Bool.not_eq_true, Bool.not_eq_false', Bool.or_eq_true, List.any_eq_true]
  exact .inl ⟨{ id := k + 1, part := 0 }, List.mem_map.2 ⟨k + 1, List.mem_range.2 (by omega), rfl⟩, by simp⟩


/-! ## Memory -/

/-- Object 1 of partition 0: valid, readable, writable, executable and lendable, 64 KiB in one extent of die 0 from page 16; its
table at page 1, its extent at 0x3000. -/
def objWord : Nat := 0x10000 * 2 ^ 216 + 31 * 2 ^ 211 + 1 * 2 ^ 192 + 0x3000 * 2 ^ 128
def extWord : Nat := 16 * 2 ^ 72 + 16 * 2 ^ 24
def world (s : State) : State :=
  { s with
    parts := s.parts.map fun p => if p.p = 0 then { p with otlen := 2, otpfn := 1 } else p
    readyUnits := [(0, 1), (4, 1)]
    mem := Memory.writeN (Memory.writeN [] (4096 + 32) (leBytes 32 objWord)) 0x3000 (leBytes 16 extWord) }
/-- The address of byte `n` of object 1. -/
def obj1 (n : Int) : Addr := ⟨1, n⟩
/-- Object 1 in the upper word of an address. -/
def hi1 : Tok := dat 0x100

theorem test_translate : (world State.reset).translate 0 (obj1 8) 4 .both = .ok 0x10008 0 := by decide
theorem test_translate_last : (world State.reset).translate 0 (obj1 0xFFFC) 4 .both = .ok 0x1FFFC 0 := by decide
theorem test_translate_bounds : (world State.reset).translate 0 (obj1 0x10000) 4 .read = .fault clsTranslation := by decide
theorem test_translate_misaligned : (world State.reset).translate 0 (obj1 2) 4 .read = .fault clsBounds := by decide

def rX : Shell := sh 7 false 0x0041
/-- A pooled record on a word pair that names byte 8 of object 1. -/
def sX : State := world (pooled rX [some (dat 8), some hi1, some (dat 5)])
/-- A pinned one in stream and in round mode. -/
def sXs : State := world (pinned true rX [some (dat 8), some hi1, some (dat 5)])
def sXr : State := world (pinned false rX [some (dat 8), some hi1, some (dat 5)])
/-- The galley of the firing of `sX`. -/
def gX : Galley := ((after sX rX).galleyOf (firing sX rX)).getD { hdr := 9, tag := 0, seq := 0 }
theorem sX_awake : FiresAwake sX rX (firing sX rX) (after sX rX) := awake_of (by decide)
theorem sXs_awake : FiresAwake sXs rX (firing sXs rX) (after sXs rX) := awake_of (by decide)
theorem sXr_awake : FiresAwake sXr rX (firing sXr rX) (after sXr rX) := awake_of (by decide)

theorem witness_Loads : Fires sX rX (firing sX rX) (after sX rX) ∧ (after sX rX).galleyOf (firing sX rX) = some gX ∧
    ((firing sX rX).port rX 0).isDormant = false ∧ ((firing sX rX).port rX 1).isDormant = false ∧ (firing sX rX).pinned = false ∧
    (after sX rX).galleyLoad (firing sX rX) gX 0 (obj1 8) 4 = some (.ok 0) ∧
    (after sX rX).gatherLanes (firing sX rX) gX 0 2 [(0, obj1 0), (1, obj1 2)] = some (.ok [(0, 0), (1, 0)]) ∧
    ((after sX rX).tile 0).kldReady gX 1 = true := ⟨sX_awake.1, by decide⟩

/-- An instance with an earlier store of its context on the tile. -/
def actX : Act := { node := 1, lsid := 0, instr := .st .w32 0 0 rX, a := 0x11223344, obj := 1, off := 8, size := 4 }
def sX1 : State := sX.setTile { sX.tile 0 with galleys := [{ gX with acts := [actX] }] }
def sX2 : State := sX.setTile { sX.tile 0 with nodes := [(0, BitVec.ofNat 96 (0xFE * 2 ^ 88 + 0xFFFFFFFF * 2 ^ 32))] }
theorem witness_LoadSeesMemory :
    sX.translate 0 (obj1 8) 4 .read = .ok 0x10008 0 ∧ (sX.tile 0).loadReady gX 1 (obj1 8) 4 = true ∧ (sX.tile 0).olderStores gX 1 = [] ∧
    (sX1.tile 0).loadReady gX 1 (obj1 8) 4 = true ∧ (sX1.tile 0).olderStores gX 1 = [actX] ∧ actX.obj = 1 ∧ actX.off = 8 ∧ actX.size = 4 ∧
    (sX2.tile 0).loadReady gX 1 (obj1 8) 4 = false := by decide

theorem witness_StoresHeld : Fires sX rX (firing sX rX) (after sX rX) ∧ (firing sX rX).pinned = false ∧
    (∀ k ∈ [0, 1, 2], ((firing sX rX).port rX k).isDormant = false) ∧
    laneLm .w16 (((firing sX rX).port rX 0).lmask &&& ((firing sX rX).port rX 1).lmask) ≠ 0 := ⟨sX_awake.1, by decide⟩

theorem witness_TileAccess :
    (Fires sXs rX (firing sXs rX) (after sXs rX) ∧ (firing sXs rX).pinned = true ∧ (after sXs rX).forme? (firing sXs rX).h = some (fm (after sXs rX)) ∧
      ((firing sXs rX).port rX 0).isDormant = false ∧ ((firing sXs rX).port rX 1).isDormant = false ∧
      (0x7FFF4 : BitVec 19).toNat + ((firing sXs rX).port rX 0).value.toNat + 4 ≤ (fm (after sXs rX)).tileBytes ∧
      ((0x7FFF4 : BitVec 19).toNat + ((firing sXs rX).port rX 0).value.toNat) % 4 = 0) ∧
    (Fires sXr rX (firing sXr rX) (after sXr rX) ∧
      (fm (after sXr rX)).tileBytes < (0x3FFF8 : BitVec 19).toNat + ((firing sXr rX).port rX 0).value.toNat + 4 ∧
      ((1 : BitVec 19).toNat + ((firing sXr rX).port rX 0).value.toNat) % 2 ≠ 0) ∧
    (∀ e ∈ tileLanes 0 .w16 ((firing sXr rX).port rX 0).value (activeLanes .w16 3), e.2 + 2 ≤ (fm (after sXr rX)).tileBytes ∧ e.2 % 2 = 0) :=
  ⟨⟨sXs_awake.1, by decide⟩, ⟨sXr_awake.1, by decide⟩, by decide⟩

theorem witness_TileStoreFrame : (fm sXr).tilesCanonical = true ∧ [(1 : Byte), 2, 3, 4] ≠ [] ∧ 124 / 128 = (124 + [(1 : Byte), 2, 3, 4].length - 1) / 128 ∧
    (fm sXr).cfg.stream = false ∧ (fm sXs).cfg.stream = true := by decide

/-- DSTA the control input 1 of the AG of the element's own bay. -/
def rAg : Shell := sh 7 false 0x6000
def rAg1 : Shell := sh 1 false 0x6000
def sAg (q : Tok) : State := pinned true rAg [some q, some (dat 3), some (dat 5)]
theorem witness_AgControls :
    (FiresAwake (sAg (dat 1)) rAg (firing (sAg (dat 1)) rAg) (after (sAg (dat 1)) rAg) ∧
      (after (sAg (dat 1)) rAg).forme? 1 = some (fm (after (sAg (dat 1)) rAg)) ∧ (firing (sAg (dat 1)) rAg).h = 1 ∧
      (fm (after (sAg (dat 1)) rAg)).dest 0 0 rAg.dsta = .ag 0 1 ∧ (((fm (after (sAg (dat 1)) rAg)).run.core.ag 0).input 1).length < 8 ∧
      ((firing (sAg (dat 1)) rAg).port rAg 0).isActive = true) ∧
    (FiresAwake (sAg (dat 1)) rAg (firing (sAg (dat 1)) rAg) (after (sAg (dat 1)) rAg)) ∧
    (let s := pinned true rAg1 [some .eos]
     (s.gather rAg1).isSome = true ∧ ((firing s rAg1).port rAg1 0).flag = .eos ∧ (after s rAg1).forme? 1 = some (fm (after s rAg1))) ∧
    (let s := pinned true rAg1 [some .dormant]
     (s.gather rAg1).isSome = true ∧ ((firing s rAg1).port rAg1 0).isActive = false ∧ ((firing s rAg1).port rAg1 0).flag ≠ .eos ∧
      ((fm (after s rAg1)).rtState 0 0 0).index = 0) ∧
    (let s := { pinned true rAg1 [some .null] with formes := [{ fm (pinned true rAg1 [some .null]) with run := { core := { elems :=
                  [{ x := 0, y := 0, q0 := [{ rt := 0, tok := .null }], rts := [{ rt := 0, lfsr := 1, index := 4 }] }] } } }] }
     (s.gather rAg1).isSome = true ∧ ((fm (after s rAg1)).rtState 0 0 0).index ≠ 0) :=
  ⟨⟨awake_of (by decide), by decide⟩, awake_of (by decide), by decide, by decide, by decide⟩


/-- A pooled atomic on port 0 with k0 the base of object 1. -/
def sK : State :=
  let s := world (pooled rX [some (dat 8), some (dat 1), some (dat 2)])
  { s with ctxs := s.ctxs.map fun c => { c with kregs := [(0, BitVec.ofNat 64 (2 ^ 40))] } }
theorem sK_fires : Fires sK rX (firing sK rX) (after sK rX) := fires_of (by decide)
theorem witness_Atomics :
    ((0x80 : BitVec 32).getLsbD 7 = true ∧
      (0 : BitVec 32).getLsbD 7 = false ∧ Fires sK rX (firing sK rX) (after sK rX) ∧
      (∀ k ∈ [0, 1, 2], ((firing sK rX).port rX k).isDormant = false) ∧ (firing sK rX).pinned = false ∧
      (let u := (after sK rX).seeStore (firing sK rX) rX.aux
       u.translate 0 (u.kAddr (firing sK rX) (rawKb 0x80) 8 (rawDisp 0x80)) 4 .both = .ok 0x10008 0)) ∧
    (Fires sXs rX (firing sXs rX) (after sXs rX) ∧ (firing sXs rX).pinned = true ∧ (after sXs rX).forme? 1 = some (fm (after sXs rX)) ∧
      ((firing sXs rX).port rX 0).value.toNat + 4 ≤ (fm (after sXs rX)).tileBytes ∧ ((firing sXs rX).port rX 0).value.toNat % 4 = 0 ∧
      (fm (after sXs rX)).cfg.stream = true) ∧
    (Fires sXr rX (firing sXr rX) (after sXr rX) ∧ (fm (after sXr rX)).cfg.stream = false ∧ (after sXr rX).stageRoom 0 4 = true) :=
  ⟨⟨by decide, by decide, sK_fires, by decide, by decide, by decide⟩, ⟨sXs_awake.1, by decide⟩, sXr_awake.1, by decide⟩

theorem witness_AtomicWords : (1 : Nat) < 4096 ∧ rawUns false 0x40 = true ∧ rawUns true 0x40 = false ∧ (0x80000FFF : Word) ≠ 0 ∧
    (0x7FFFFFFF : Word).getLsbD 31 = false := by decide

/-- A CMB in an element at its first and at its last arrival. -/
def rC : Shell := { sh 1 false 0x0041 with aux := 2 }
def sC (n : Word) (t : Tok) : State := kept n 4 (pinned true rC [some t])
/-- A reduction line whose READY is set. -/
def ready (s : State) : State := { s with mem := Memory.writeN s.mem 0x1007C (leBytes 4 0x80000000) }
theorem witness_CombineAndReduce :
    (let s := pooled rC [some (dat 1)]
     (s.gather rC).isSome = true ∧ (firing s rC).pinned = false) ∧
    (((sC 0 (dat 5)).gather rC).isSome = true ∧ ((firing (sC 0 (dat 5)) rC).port rC 0).flag ≠ .eos ∧
      (cmbMerge .add 0 0 4 (dat 5)).2.1.toNat < rC.aux.toNat ∧ rC.aux.toNat ≤ (cmbMerge .add 0 1 4 (dat 5)).2.1.toNat) ∧
    (((sC 0 .eos).gather rC).isSome = true ∧ ((firing (sC 0 .eos) rC).port rC 0).flag = .eos ∧ ((after (sC 1 .eos) rC).rtOf (firing (sC 1 .eos) rC)).count ≠ 0) ∧
    (Fires sX rX (firing sX rX) (after sX rX) ∧ (firing sX rX).pinned = false ∧ ∀ k ∈ [0, 1, 2], ((firing sX rX).port rX k).isDormant = false) ∧
    ((after sXs rX).redCheck 0 (obj1 8) .die = some (.ok (0x10008, 0x10078)) ∧ (after sXs rX).inRound (firing sXs rX) = false) ∧
    ((after sXr rX).redCheck 0 (obj1 8) .die = some (.ok (0x10008, 0x10078)) ∧ (after sXr rX).inRound (firing sXr rX) = true ∧
      (after sXr rX).stageRoom 0 4 = true) ∧
    (let s := ready sX
     Fires s rX (firing s rX) (after s rX) ∧ (after s rX).translate 0 (obj1 124) 4 .read = .ok 0x1007C 0 ∧ bit 31 ((after s rX).readLe 0x1007C 4) = true ∧
      (after s rX).galleyLoad (firing s rX) gX 0 (obj1 8) 4 = some (.ok 0)) ∧
    (let s := ready sXs
     Fires s rX (firing s rX) (after s rX) ∧ (after s rX).translate 0 (obj1 8) 4 .read = .ok 0x10008 0) :=
  ⟨by decide, by decide, by decide, ⟨sX_awake.1, by decide⟩, by decide, by decide, ⟨fires_of (by decide), by decide⟩, fires_of (by decide), by decide⟩

/-- Sync records: a system context, a standing chase, an AG input. -/
def rO : Shell := sh 1 false 0x2000
theorem witness_SyncRecords :
    (FiresAwake sX rX (firing sX rX) (after sX rX) ∧ (firing sX rX).pinned = false ∧
      (∀ g, (after sX rX).galleyOf (firing sX rX) = some g → ∀ o ∈ ((after sX rX).tile (firing sX rX).tile).openOf (firing sX rX).ctx, g.seq ≤ o.seq) ∧
      ((after sX rX).ctxOf (firing sX rX)).sys = true) ∧
    (FiresAwake sXs rX (firing sXs rX) (after sXs rX) ∧ (firing sXs rX).pinned = true ∧ (after sXs rX).inRound (firing sXs rX) = false ∧
      isAg 0 rX.dsta = false ∧ isAg 0 rX.dstb = false ∧ (after sXs rX).forme? 1 = some (fm (after sXs rX)) ∧
      (fm (after sXs rX)).run.core.ends = []) ∧
    (∃ u, (after sXs rX).postEvent 1 0 1 7 8 = some u) ∧
    (FiresAwake sXr rX (firing sXr rX) (after sXr rX) ∧ (after sXr rX).inRound (firing sXr rX) = true ∧ (fm (after sXr rX)).cfg.stream = false) ∧
    (let s := pinned true rO [some (dat 1)]
     FiresAwake s rO (firing s rO) (after s rO) ∧ isAg 0 rO.dsta = true ∧ rO.dstb = noDest ∧ (fm (after s rO)).dest 0 0 rO.dsta = .ag 0 0 ∧
      (((fm (after s rO)).run.core.ag 0).input 0).length < 8) ∧
    (let s := { sX with ctxs := [{ placedCtx with sys := false }] }
     FiresAwake s rX (firing s rX) (after s rX) ∧ ((after s rX).ctxOf (firing s rX)).sys = false) ∧
    (let s := { pooled rT [some (dat 1)] with formes := sB.formes.map fun f => { f with status := .standing, run := {} } }
     FiresAwake s rT (firing s rT) (after s rT) ∧ s.forme? ((firing s rT).port rT 0).value.toNat = some (fm s) ∧ s.quiet (fm s) = true) := by
  refine ⟨⟨sX_awake, by decide, ?_, by decide⟩, ⟨sXs_awake, by decide⟩, ⟨_, rfl⟩, ⟨sXr_awake, by decide⟩, ⟨awake_of (by decide), by decide⟩,
    ⟨awake_of (by decide), by decide⟩, awake_of (by decide), by decide⟩
  have : ∀ o ∈ ((after sX rX).tile (firing sX rX).tile).openOf (firing sX rX).ctx, gX.seq ≤ o.seq := by decide
  intro g hg
  have e : (after sX rX).galleyOf (firing sX rX) = some gX := by decide
  rw [e] at hg
  cases hg
  exact this


/-! ## Barriers, islands, sampling, engines -/

/-- A pooled and a pinned record whose third port equals the word it waits on. -/
def sKeq : State := { pooled rX [some (dat 8), some (dat 0), some (dat 2)] with
  mem := sK.mem, parts := sK.parts, readyUnits := sK.readyUnits, ctxs := sK.ctxs }

theorem witness_BarriersAndWaits :
    (FiresAwake sX rX (firing sX rX) (after sX rX) ∧ (firing sX rX).pinned = false) ∧
    (FiresAwake sXs rX (firing sXs rX) (after sXs rX) ∧ (firing sXs rX).pinned = true ∧ (after sXs rX).inRound (firing sXs rX) = false ∧
      (after sXs rX).translate (firing sXs rX).part (pairAddr (firing sXs rX) rX 0) 8 .both = .ok 0x10008 0 ∧
      (after sXs rX).translate (firing sXs rX).part (pairAddr (firing sXs rX) rX 0) 4 .any = .ok 0x10008 0) ∧
    ((after sX rX).translate (firing sX rX).part (pairAddr (firing sX rX) rX 0) 8 .read = .ok 0x10008 0 ∧
      BitVec.ofNat 32 ((after sX rX).readLe 0x1000C 4) ≠ ((firing sX rX).port rX 2).value) ∧
    (∀ s, (s = sK ∨ s = sKeq) → FiresAwake s rX (firing s rX) (after s rX) ∧
      (let f := firing s rX
       (after s rX).translate f.part ((after s rX).kAddr f 0 (f.port rX 0).value.toNat 0) 4 .read = .ok 0x10008 0) ∧
      s.waiters = [] ∧ (after s rX).waiters = []) ∧
    BitVec.ofNat 32 ((after sK rX).readLe 0x10008 4) ≠ ((firing sK rX).port rX 1).value ∧
    BitVec.ofNat 32 ((after sKeq rX).readLe 0x10008 4) = ((firing sKeq rX).port rX 1).value := by
  refine ⟨⟨sX_awake, by decide⟩, ⟨sXs_awake, by decide⟩, by decide, ?_, by decide, by decide⟩
  rintro s (rfl | rfl) <;> exact ⟨awake_of (by decide), by decide⟩

/-- Tile 0's island with a task of context 1 and a packet of each side for the task 0. -/
def isl0 : Island := { i := 0, binds := [{ task := 0, pdest := 0, ctx := 1, tag := placedTag }], packets := [⟨0, 0, [0x38]⟩, ⟨1, 0, [0x40]⟩] }
def rMM : Shell := sh 3 false 0x0041
def sMM (k : Word) : State := { pooled rMM [some (dat 0), some (dat k)] with islands := [isl0] }
/-- DSTA the island of the forme's own bay. -/
def rIsl : Shell := sh 3 false 0x7000
def sIsl : State := pinned true rIsl [some (dat 3), some (dat 0x8001)]
/-- A scale token for block 0 at an element. -/
def sScale (s : State) : State :=
  { s with formes := s.formes.map fun f => { f with run := { f.run with core := { f.run.core with
      elems := f.run.core.elems.map fun e => { e with scales := [⟨0, 0, 128⟩] } } } } }

theorem witness_MatrixRecords :
    (∀ k : Word, k = 1 ∨ k = 8 → FiresAwake (sMM k) rMM (firing (sMM k) rMM) (after (sMM k) rMM)) ∧
    (∃ a, matrixForm (.mma .e4m3 0 0 rMM) (firing (sMM 1) rMM) rMM = some a ∧ 0 < a.k ∧ a.k ≤ 8192 ∧ a.sp24 = false ∧
      (isl0.binds.any fun b => b.ctx == (firing (sMM 1) rMM).ctx) = true ∧ (after (sMM 1) rMM).islandFree (firing (sMM 1) rMM).tile (firing (sMM 1) rMM).ctx = true ∧
      (after (sMM 1) rMM).island (firing (sMM 1) rMM).tile = isl0 ∧ oldest isl0.packets 0 a.task = some ⟨0, 0, [0x38]⟩ ∧
      oldest isl0.packets 1 a.task = some ⟨1, 0, [0x40]⟩ ∧ a.kinds = [0, 1] ∧ a.words none 0 = 1 ∧ a.words none 1 = 1) ∧
    (∃ a, matrixForm (.mmas .e4m3 true true false 0 0 rMM) (firing (sMM 8) rMM) rMM = some a ∧ a.sp24 = true ∧ a.k % 4 = 0 ∧
      a.kinds = [0, 1, 2, 3, 4] ∧ a.badMeta ⟨4, 0, [0x44444444]⟩ none = none) ∧
    (firing (sMM 1) rMM).pinned = false ∧ ((firing (sMM 1) rMM).port rMM 0).isActive = true ∧
    (after (sMM 1) rMM).tagOf (firing (sMM 1) rMM) = some placedTag ∧ (pushTag placedTag 16 0).isSome = true ∧
    (after (sMM 1) rMM).unitPart ((firing (sMM 1) rMM).die * 32 + (0 : BitVec 5).toNat) = (firing (sMM 1) rMM).part ∧
    (FiresAwake sIsl rIsl (firing sIsl rIsl) (after sIsl rIsl) ∧ (firing sIsl rIsl).pinned = true ∧
      (after sIsl rIsl).forme? (firing sIsl rIsl).h = some (fm (after sIsl rIsl)) ∧ (fm (after sIsl rIsl)).cfg.stream = true ∧
      (fm (after sIsl rIsl)).dest 0 0 rIsl.dsta = .island 0 ∧ rIsl.dstb = noDest ∧ rIsl.dsta ≠ noDest) ∧
    (let s := sScale sXs
     ∃ f t, s.gatherScaled rX = some (f, 128, t) ∧ f.verdict = .value ∧ ∀ k ∈ f.toks, k.2.lmask = 3) := by
  refine ⟨?_, ⟨⟨0, 1, 1, 1, .e4m3, false, false, false, false⟩, by decide⟩, ⟨⟨0, 8, 1, 1, .e4m3, true, true, true, false⟩, by decide⟩, by decide,
    by decide, by decide, by decide, by decide, ⟨awake_of (by decide), by decide⟩,
    (got (f0, 0, sXs) ((sScale sXs).gatherScaled rX)).1, (got (f0, 0, sXs) ((sScale sXs).gatherScaled rX)).2.2, by decide⟩
  rintro k (rfl | rfl) <;> exact awake_of (by decide)

/-- A sampler table at byte 0x100 of object 1: an RGBA8 texture of one texel and a latent grid of one channel with its network at
byte 0x200, both from byte 0x300 on. -/
def ssr0 : BitVec 256 := BitVec.ofNat 256 ((2 ^ 40 + 0x300) * 2 ^ 192)
def ssr1 : BitVec 256 := BitVec.ofNat 256 ((2 ^ 40 + 0x300) * 2 ^ 192 + 0x30 * 2 ^ 152 + (2 ^ 40 + 0x200) * 2 ^ 64)
def sampler (s : State) : State :=
  { s with
    readyUnits := s.readyUnits ++ [(18, 1)]
    ctxs := [{ placedCtx with smpb := BitVec.ofNat 64 (2 ^ 40 + 0x100) }]
    mem := Memory.writeN (Memory.writeN (Memory.writeN s.mem 0x10100 (leBytes 32 ssr0.toNat)) 0x10120 (leBytes 32 ssr1.toNat)) 0x10200
      (leBytes 8 (1 + 2 ^ 32 * (1 + 4 * 2 ^ 16))) }
def sTex : State := sampler (world (pooled rM [some (dat 8), some (dat 0)]))
def tap0 : Tap := ⟨256 * 256 * 256, 0, 0, 0⟩
theorem ssr0_blocks : (⟨ssr0⟩ : Ssr).blocks = 1 := by decide
theorem ssr1_latents : (⟨ssr1⟩ : Ssr).latents = 2 := by decide

/-- A texture of one block has its texel at its first byte. -/
theorem texel_at (q : Ssr) (h : q.blocks = 1) (s : State) (part size : Nat) (t : Tap) (b : List Byte)
    (g : s.fetchRange part (q.base.plus (0 : Nat)) size .read = some (.ok b)) : ∃ v, q.texel s part size t = some (.ok v) := by
  unfold Ssr.texel
  rw [h, Nat.mod_one, Nat.mul_zero]
  simp only [g]
  exact ⟨_, rfl⟩

/-- A channel of a grid whose bytes can all be read. -/
theorem latent_at (q : Ssr) (s : State) (part : Nat) (fmt : MFmt) (t : Tap) (hc : q.chans = 1) (h : q.latents = 2) (b c : List Byte)
    (g : s.bytesAt part (q.base.plus (0 : Nat)) 1 = some (.ok b)) (k : s.bytesAt part (q.base.plus (1 : Nat)) 1 = some (.ok c)) :
    ∃ v, q.latent s part fmt t = some (.ok v) := by
  have two : ∀ n, ∃ d, s.bytesAt part (q.base.plus (n % 2 : Nat)) 1 = some (.ok d) := by
    intro n
    rcases Nat.mod_two_eq_zero_or_one n with e | e <;> rw [e]
    · exact ⟨b, g⟩
    · exact ⟨c, k⟩
  unfold Ssr.latent
  rw [hc, h]
  obtain ⟨d, hd⟩ := two (Config.latentPlace q.raw t.level t.x t.y 0)
  obtain ⟨e, he⟩ := two (Config.latentScalePlace q.raw t.level t.x t.y 0)
  have r1 : List.range 1 = [0] := rfl
  rw [r1]
  simp only [collect, Nat.zero_div, hd, he]
  exact ⟨_, rfl⟩

theorem witness_Tex : FiresAwake sTex rM (firing sTex rM) (after sTex rM) ∧
    (let f := firing sTex rM
     let t := after sTex rM
     let q : Ssr := ⟨ssr0⟩
     let a := (f.port rM 0).value
     t.ssrAt f 0 = some (.ok q) ∧ texelBytes q.format = some 4 ∧ halfNan (half a 0) = false ∧ halfNan (half a 1) = false ∧
     q.taps (half a 0) (half a 1) (f32 (f.port rM 1).value) = some [tap0] ∧ ∃ vs, collect (fun p => q.texel t f.part 4 p) [tap0] = some (.ok vs)) := by
  refine ⟨awake_of (by decide), by decide +kernel, by decide, by decide, by decide, by decide, ?_⟩
  obtain ⟨v, hv⟩ := texel_at ⟨ssr0⟩ ssr0_blocks (after sTex rM) (firing sTex rM).part 4 tap0 [0, 0, 0, 0] (by decide +kernel)
  exact ⟨[v], by simp only [collect, hv]⟩

theorem witness_Texn : FiresAwake sTex rM (firing sTex rM) (after sTex rM) ∧
    (let f := firing sTex rM
     let t := after sTex rM
     let q : Ssr := ⟨ssr1⟩
     let a := (f.port rM 0).value
     t.ssrAt f 1 = some (.ok q) ∧ q.format = 0x30 ∧ halfNan (half a 0) = false ∧ halfNan (half a 1) = false ∧
     q.taps (half a 0) (half a 1) (f32 (f.port rM 1).value) = some [tap0] ∧ t.bytesAt f.part q.mlp 4 = some (.ok [1, 0, 0, 0]) ∧
     (∃ vs, collect (fun p => q.latent t f.part .e4m3 p) [tap0] = some (.ok vs)) ∧
     ∀ l st, l.length = q.chans → ∃ o, t.network f.part .e4m3 (leNat [(1 : Byte), 0, 0, 0] % 4) (q.mlp.plus (4 : Nat)) l st = some (.ok o)) := by
  refine ⟨awake_of (by decide), by decide +kernel, by decide, by decide, by decide, by decide, by decide +kernel, ?_, ?_⟩
  · obtain ⟨v, hv⟩ := latent_at ⟨ssr1⟩ (after sTex rM) (firing sTex rM).part .e4m3 tap0 (by decide) ssr1_latents [0] [0] (by decide +kernel) (by decide +kernel)
    exact ⟨[v], by simp only [collect, hv]⟩
  · intro l st hl
    have hl : l.length = 1 := hl
    have e : leNat [(1 : Byte), 0, 0, 0] % 4 = 0 + 1 := by decide
    rw [e]
    unfold State.network
    have h1 : (after sTex rM).bytesAt (firing sTex rM).part ((⟨ssr1⟩ : Ssr).mlp.plus (4 : Nat)) 4 = some (.ok [1, 0, 4, 0]) := by decide +kernel
    rw [h1]
    have h2 : (after sTex rM).bytesAt (firing sTex rM).part ((⟨ssr1⟩ : Ssr).mlp.plus (4 : Nat)) 28 = some (.ok ([1, 0, 4, 0] ++ List.replicate 24 0)) := by
      decide +kernel
    have n1 : leNat (List.take 2 [(1 : Byte), 0, 4, 0]) = 1 := by decide
    have n2 : leNat (List.drop 2 [(1 : Byte), 0, 4, 0]) = 4 := by decide
    have n3 : ({ ins := 1, outs := 4, at_ := 0 } : Layer).bytes = 28 := by decide
    simp only [n1, n2, n3, h2, hl]
    simp

/-- Three terms at a slot and the watermark between them, as the manual's example gives them (R214, Table 8-7). -/
def caKey (d q : Nat) : BitVec 40 := BitVec.ofNat 40 (d * 65536 + q)
theorem test_ca_example :
    let c : CaState := { bay := 0, thresh := 8 }
    let a := ((c.term 0 ⟨caKey 10 1, 0x3800, 0x3C00, 0, 0⟩).ca.term 0 ⟨caKey 20 2, 0x3800, 0, 0x3C00, 0⟩).ca
    let b := (a.watermark (caKey 30 0)).ca.slotAt 0
    let l := ((a.watermark (caKey 30 0)).ca.term 0 ⟨caKey 5 3, 0x3800, 0, 0, 0x3C00⟩).ca.slotAt 0
    (a.slotAt 0).buf.length = 2 ∧ (b.cr, b.cg, b.cb, b.t) = (0x3F000000, 0x3E800000, 0, 0x3E800000) ∧ b.kc = caKey 20 2 ∧
    (l.cr, l.cg, l.cb, l.t) = (0x3E800000, 0x3E000000, 0x3F000000, 0x3E000000) ∧ l.late = 1 := by decide

/-- A pinned record on object 1's byte 0 with a CADJ descriptor there, its log of one record at byte 128, OUT at byte 256. -/
def descr (s : State) : State :=
  { s with mem := Memory.writeN (Memory.writeN s.mem 0x10000 (leBytes 16 (2 ^ 40 + 128 + 2 ^ 64 * (2 ^ 40 + 256)))) 0x10080 [1] }
def sQ : State := descr (world (pinned true rX [some (dat 0), some hi1, some (dat 0)]))
/-- The forme of `sXs` with a CA tile at its one bay, at bay (5, 0) of its chase and bay (8, 0). -/
def caFormes : List Forme := [5, 8].map fun b => { fm sXs with handle := b, bx := b, cfg := { (fm sXs).cfg with roles := [{ bay := 0, role := 3 }] } }
/-- An address that is a multiple of 32, as a log record needs. -/
def sLog : State := world (pinned true rX [some (dat 32), some hi1, some (dat 5)])
def sCa : State := { sX with formes := caFormes }

theorem cadj_of {s : State} {p n : Nat} {x : Addr} (h : ((s.cadj p x).bind Except.toOption).map (fun e => e.2.2.1.length) = some n) :
    ∃ out q bs m st, s.cadj p x = some (.ok (out, q, bs, m, st)) ∧ bs.length = n := by
  cases g : s.cadj p x with
  | none => simp [g] at h
  | some e =>
    cases e with
    | error _ => simp [g, Except.toOption] at h
    | ok v => exact ⟨v.1, v.2.1, v.2.2.1, v.2.2.2.1, v.2.2.2.2, rfl, by simpa [g, Except.toOption] using h⟩

theorem witness_RenderRecords :
    (let f := firing sXs rX
     let t := after sXs rX
     FiresAwake sXs rX f t ∧ f.pinned = true ∧ t.forme? f.h = some (fm t) ∧ (0x7FE00 : BitVec 19).toNat % 4 = 0 ∧
      0x200 + 32 + 32 * (f.port rX 0).value.toNat + 28 ≤ (fm t).tileBytes ∧ 0x7FE00 + 12 ≤ (fm t).tileBytes) ∧
    (let f := firing sXs rX
     let t := after sXs rX
     (∃ x, t.caDo f.h 0 0 0 (tileBay 0 0 0 0) (fun c => c.term 0xFFF ⟨8, 0, 8, 0, 5⟩) = some (.ok x)) ∧
     (∃ x, t.caDo f.h 0 0 0 (tileBay 0 0 0 0) (fun c => c.watermark 8) = some (.ok x)) ∧
     (∃ x, t.caDo f.h 0 0 0 (tileBay 0 0 0 0) CaState.clear = some (.ok x)) ∧
     (∃ x, (after sLog rX).caLog (firing sLog rX).h 0 0 0 (tileBay 0 0 0 0) (BitVec.ofNat 64 (2 ^ 40 + 32)) = some (.ok x)) ∧
     (∃ x, t.caLog f.h 0 0 0 (tileBay 0 0 0 0) 0 = some (.ok x)) ∧
     ∃ x, t.caResolve f.h 0 0 0 (tileBay 0 0 0 0) (BitVec.ofNat 64 (2 ^ 40 + 8)) = some (.ok x)) ∧
    (FiresAwake sX rX (firing sX rX) (after sX rX) ∧ (firing sX rX).pinned = false ∧ (after sX rX).caOwner (firing sX rX) 5 = none ∧
      (after sX rX).caOwner (firing sX rX) 8 = none) ∧
    (let f := firing sCa rX
     FiresAwake sCa rX f (after sCa rX) ∧ f.pinned = false ∧ ((after sCa rX).caOwner f ((f.port rX 2).value.toNat % 256)).isSome = true ∧
      ((after sCa rX).caOwner f ((f.port rX 0).value.toNat % 256)).isSome = true) ∧
    (let f := firing sQ rX
     let t := after sQ rX
     FiresAwake sQ rX f t ∧ f.pinned = true ∧ t.inRound f = false ∧
      (∃ out p bs n st, t.cadj f.part (pairAddr f rX 0) = some (.ok (out, p, bs, n, st)) ∧ bs.length = 32) ∧
      ∃ bs, t.bytesAt f.part (pairAddr f rX 0) 32 = some (.ok bs)) := by
  refine ⟨⟨sXs_awake, by decide⟩, ⟨⟨_, rfl⟩, ⟨_, rfl⟩, ⟨_, rfl⟩, ⟨_, rfl⟩, ⟨_, rfl⟩, ⟨_, rfl⟩⟩, ⟨sX_awake, by decide⟩, ⟨awake_of (by decide), by decide⟩,
    awake_of (by decide), by decide, by decide, cadj_of (by decide +kernel), ⟨_, rfl⟩⟩


/-! ## System records, translation and faults -/

/-- The user context, and a handler instance. -/
def userOf (s : State) : State := { s with ctxs := [{ placedCtx with sys := false }] }
def sXu : State := userOf sX
def sXh : State := { sX with tiles := sX.tiles.map fun d => { d with ready := d.ready.map fun i => { i with hnd := true } } }

theorem witness_DeferredRecords :
    (FiresAwake sX rX (firing sX rX) (after sX rX) ∧ ((after sX rX).ctxOf (firing sX rX)).sys = true ∧ regWritable 0x4002 = true) ∧
    (FiresAwake sXu rX (firing sXu rX) (after sXu rX) ∧ ((after sXu rX).ctxOf (firing sXu rX)).sys = false ∧ (firing sXu rX).hnd = false ∧
      ((after sXu rX).galleyOf (firing sXu rX)).elim false Galley.hnd = false) ∧
    (FiresAwake sXh rX (firing sXh rX) (after sXh rX) ∧ (firing sXh rX).hnd = true) :=
  ⟨⟨sX_awake, by decide⟩, ⟨awake_of (by decide), by decide⟩, awake_of (by decide), by decide⟩

/-- A die with a copy that has ended and one that has failed. -/
def copied (st : Nat) (s : State) : State :=
  { s with dies := s.dies.map fun d => { d with copies := [{ id := 8, src := 0, dst := 0, len := 0, cls := 0, ctx := 1, part := 0, status := st }] } }
/-- A pooled record whose descriptor is object 1's byte 0, a queue of capacity 5. -/
def sQu (n : Word) : State :=
  let s := world (pooled rX [some (dat 0), some hi1, some (dat n)])
  { s with mem := Memory.writeN s.mem 0x10000 [5] }
theorem witness_ImmediateRecords :
    (∀ s, s = copied 1 sX ∨ s = copied 7 sX → FiresAwake s rX (firing s rX) (after s rX) ∧
      ∃ d c, (after s rX).die? (firing s rX).die = some d ∧ (d.copies.find? fun c => c.id == ((firing s rX).port rX 0).value.toNat) = some c ∧ c.status ≠ 0) ∧
    (FiresAwake sX rX (firing sX rX) (after sX rX) ∧ ∃ d, (after sX rX).die? (firing sX rX).die = some d ∧ d.copies = []) ∧
    (∀ n : Word, n = 5 ∨ n = 6 → FiresAwake (sQu n) rX (firing (sQu n) rX) (after (sQu n) rX) ∧
      ∃ q, (after (sQu n) rX).translate (firing (sQu n) rX).part (pairAddr (firing (sQu n) rX) rX 0) 64 .both = .ok 0x10000 0 ∧
        (after (sQu n) rX).part? (firing (sQu n) rX).part = some q ∧ bits 0 32 ((after (sQu n) rX).readLe 0x10000 64) = 5 ∧
        bits 160 32 ((after (sQu n) rX).readLe 0x10000 64) = 0 ∧ ((firing (sQu n) rX).port rX 2).value = n) ∧
    (FiresAwake sXu rX (firing sXu rX) (after sXu rX) ∧ ((after sXu rX).ctxOf (firing sXu rX)).sys = false ∧ regUser 0x11 = true ∧ regUser 3 = false) := by
  refine ⟨?_, ⟨sX_awake, got { i := 9 } ((after sX rX).die? 0), by decide⟩, ?_, awake_of (by decide), by decide⟩
  · rintro s (rfl | rfl)
    · exact ⟨awake_of (by decide), got { i := 9 } ((after (copied 1 sX) rX).die? 0), ⟨8, 0, 0, 0, 0, 1, 0, 1, false⟩, by decide⟩
    · exact ⟨awake_of (by decide), got { i := 9 } ((after (copied 7 sX) rX).die? 0), ⟨8, 0, 0, 0, 0, 1, 0, 7, false⟩, by decide⟩
  · rintro n (rfl | rfl)
    · exact ⟨awake_of (by decide), got { p := 99 } ((after (sQu 5) rX).part? 0), by decide +kernel⟩
    · exact ⟨awake_of (by decide), got { p := 99 } ((after (sQu 6) rX).part? 0), by decide +kernel⟩

/-- The world with object 1 of no permission. -/
def barred : State :=
  let s := world State.reset
  { s with mem := Memory.writeN s.mem (4096 + 32) (leBytes 32 (0x10000 * 2 ^ 216 + 2 ^ 215 + 1 * 2 ^ 192 + 0x3000 * 2 ^ 128)) }
theorem witness_TranslationChecks :
    (let s := world State.reset
     s.walkWaits 0 0 = false ∧ s.obj? 0 0 = none ∧ s.walkWaits 0 2 = false ∧ s.obj? 0 2 = none ∧
     (∃ o e x, s.walkWaits 0 1 = false ∧ s.obj? 0 1 = some o ∧ s.findExt 0 o (0x10000 / 4096) = none ∧ s.findExt 0 o (0xFFFC / 4096) = some (e, x) ∧
       s.waits 0 1 e x = false ∧ 0xFFFC + 4 ≤ o.len ∧ 0xFFFC % 4 = 0 ∧ o.len < 0xFFFC + 8 ∧ 0xFFFE % 4 ≠ 0 ∧ Need.holds .both o = true)) ∧
    (∃ o e x, barred.walkWaits 0 1 = false ∧ barred.obj? 0 1 = some o ∧ barred.findExt 0 o 0 = some (e, x) ∧ barred.waits 0 1 e x = false ∧
      o.len = 0x10000 ∧ Need.holds .read o = false ∧ Need.holds .write o = false ∧ Need.holds .exec o = false ∧ Need.holds .lend o = false) ∧
    Memory.wf (Memory.writeN [] 4 [0, 1]) = true := by
  refine ⟨⟨by decide +kernel, by decide +kernel, by decide +kernel, by decide +kernel, got ⟨0, false, false, false, false, false, 0, 0, 0, 0⟩ ((world State.reset).obj? 0 1), 0,
    Ext.ofNat extWord, by decide +kernel⟩, ⟨got ⟨0, false, false, false, false, false, 0, 0, 0, 0⟩ (barred.obj? 0 1), 0, Ext.ofNat extWord, by decide +kernel⟩, by decide⟩

/-- Context 1 with its fault queue at object 1's byte 256, of one record. -/
def fctx : Ctx := { placedCtx with fqb := BitVec.ofNat 64 (2 ^ 40 + 256), fhnd := BitVec.ofNat 64 (2 ^ 31 + 5) }
def faulty (x : Ctx) (s : State) : State :=
  { s with ctxs := [x], mem := Memory.writeN s.mem 0x10108 [1] }
def headOf : FaultHead := { ctx := 1, src := 1, srcid := 0, cls := clsBounds, prec := 1, reason := 0 }
theorem posted_of {s : State} {p : Nat} {q : VA} {r n : Nat}
    (h : (s.postRing p q r).elim none (fun o => match o with | .done _ t => some t | _ => none) = some n) :
    ∃ u, s.postRing p q r = some (.done u n) := by
  cases g : s.postRing p q r with
  | none => simp [g] at h
  | some o =>
    cases o with
    | done u t =>
      have : t = n := by simpa [g] using h
      exact ⟨u, by rw [this]⟩
    | full => simp [g] at h
    | bad c => simp [g] at h

theorem witness_FaultEntry :
    (sXr.forme? 1 = some (fm sXr) ∧ (fm sXr).cfg.stream = false) ∧ (sXs.forme? 1 = some (fm sXs) ∧ (fm sXs).cfg.stream = true) ∧
    (((sX.dropGalley 0 gX).tile 0).galleys.any fun x => tagCtx x.tag == tagCtx gX.tag && decide (gX.seq ≤ x.seq)) = true ∧
    (let s := faulty fctx sX
     s.ctx? headOf.ctx = some fctx ∧ (∃ u, s.postRing 0 fctx.fqb (faultRecord headOf 0) = some (.done u 0)) ∧ bit 31 fctx.fhnd.toNat = true ∧
       fctx.noHandler = false ∧ (pushTag (ctxTag fctx.id) 16 0).isSome = true) ∧
    (let x := { fctx with fhnd := 0 }
     let s := faulty x sX
     s.ctx? headOf.ctx = some x ∧ (∃ u, s.postRing 0 x.fqb (faultRecord headOf 0) = some (.done u 0)) ∧ bit 31 x.fhnd.toNat = false) :=
  ⟨by decide, by decide, by decide, ⟨by decide, posted_of (by decide +kernel), by decide⟩,
    ⟨by decide, posted_of (by decide +kernel), by decide⟩⟩

/-- Partition 0 with context 1 selected. -/
def selecting (s : State) : State := { s with parts := s.parts.map fun q => { q with ctxSel := 1 } }
def fctxW : Ctx := { fctx with work := [.operation], state := .faulted }
theorem witness_FaultReturn :
    (let s := selecting (faulty fctxW { sXs with mem := Memory.writeN sXs.mem 0x10104 [1] })
     s.selected 0 = some fctxW ∧ s.ctx? 1 = some fctxW ∧ s.pendingFaults fctxW ≠ 0 ∧ s.single 0 (Addr.ofVa fctxW.fqb) 64 .both = .ok [(0x10100, 64)] ∧
     (s.setCtx { fctxW with work := [] }).single 0 (Addr.ofVa fctxW.fqb) 64 .both = .ok [(0x10100, 64)]) ∧
    (let s := selecting (faulty fctx sXs)
     s.selected 0 = some fctx ∧ fctx.work = [] ∧ s.ctx? 1 = some fctx ∧ s.forme? 1 = some (fm s) ∧ (fm s).isLive = true ∧ (fm s).ctx = fctx.id ∧
     fctx.state ≠ .halted) ∧
    (let s := selecting (faulty { fctx with state := .halted } sXs)
     s.selected 0 = some { fctx with state := .halted }) ∧
    sXs.selected 0 = none ∧
    (let s := sXr.setForme (fm sXr).void
     s.forme? 1 = some (fm s) ∧ (fm s).status = .voided) := by
  refine ⟨⟨by decide, by decide, by decide +kernel, by decide +kernel, by decide +kernel⟩, by decide, by decide, by decide, by decide⟩

/-- The gradients of the same example, from the last record of its log to the first (R214, Table 8-8). -/
def logRec (alpha tb late : Nat) (col cp : Nat) : Nat := alpha * 2 ^ 176 + col * 2 ^ 128 + tb * 2 ^ 96 + late * 2 ^ 203 + cp
theorem test_cadj_example :
    let l := (adjWalk { gr := 0x3F800000, gg := 0, gb := 0 }
      [logRec 0x3800 0x3E800000 1 0x3C00 (0x3F000000 + 0x3E800000 * 2 ^ 32), logRec 0x3800 0x3F000000 0 (0x3C00 * 2 ^ 16) 0,
       logRec 0x3800 0x3F800000 0 (0x3C00 * 2 ^ 32) 0]).1
    l.map (bits 0 128) = [0xBF000000_00000000_00000000_3F000000, 0x00000000_00000000_00000000_3E000000,
      0x3F000000_00000000_00000000_3E800000] := by decide +kernel


/-! ## Fabric and tiles -/

def slotR (base : Nat) (pos : Nat) : Slot := { n := 0, opened := true, base := BitVec.ofNat 64 (2 ^ 40 + base), len := 256, pos := pos, consumer := .elem 0 0 1 }
def slotW : Slot := { n := 1, opened := true, write := true, base := BitVec.ofNat 64 (2 ^ 40), len := 256, pos := 252 }
def agTok (t : Tok) : AgTok := { x := 0, y := 0, rt := 0, tok := t }
def plane0 (rows : Nat) : PlaneState := { bay := 0, pid := 0, w := 32, h := 2, site := 0, rows := rows, row0 := 0, bw := 8, bh := 8, base := 0, count := 1, next := 0xFF }
/-- A core with a token for element (0, 0) whose queue has one place left, FIFO tiles at bays 0 and 1, an AG with a read and a write
stream and a running pass, a window at slot 2. -/
def core0 (pos : Nat) (w : Tok) (row : Nat) : Core :=
  { elems := [{ x := 0, y := 0, q1 := List.replicate 7 ⟨0, dat 0, 0, 0⟩ }]
    links := [⟨.elem 1 0, .elem 0 0 1, 0, .tok (dat 3), 0⟩, ⟨.elem 1 0, .tile 0 0, 0, .tok (dat 4), 0⟩]
    fifos := [{ bay := 0, cap := 1, outx := 2, outy := 0, outport := 0 }, { bay := 1, cap := 1, outx := 2, outy := 0, outport := 0, ring := [⟨0, dat 9, 0, 0⟩] }]
    wins := [{ bay := 0, w := 2, lsize := 0, valid := true, head := 128, tail := 0 }]
    planes := [plane0 2]
    ags := [{ bay := 0, in2 := [agTok w]
              slots := [slotR 0 pos, slotW, { slotR 0 0 with n := 2 },
                        { n := 3, pass := some { pid := 0, dx := 0, dy := 0, rt := 0, consumer := .elem 2 0 0, row := row, edges := {} } }] }] }
def sF (pos : Nat) (w : Tok) (row : Nat) : State :=
  { world sXs with formes := [{ fm sXs with run := { core := core0 pos w row } }] }
def sF0 : State := sF 252 (dat 7) 1
theorem live_sF (pos : Nat) (w : Tok) (row : Nat) :
    (sF pos w row).forme? 1 = some { fm sXs with run := { core := core0 pos w row } } ∧ (fm sXs).status = .live ∧ (fm sXs).mark = none :=
  ⟨rfl, by decide, by decide⟩

theorem witness_FabricEvents :
    (let c := core0 252 (dat 7) 1
     c.links[0]? = some ⟨.elem 1 0, .elem 0 0 1, 0, .tok (dat 3), 0⟩ ∧ dat 3 ≠ Tok.marker ∧ c.firstOn 0 ⟨.elem 1 0, .elem 0 0 1, 0, .tok (dat 3), 0⟩ = true ∧
       ((c.elem 0 0).queue 1).length = 7) ∧
    (let c := core0 252 (dat 7) 1
     ∃ q, c.fifo? 0 = some q ∧ c.nextFor 0 = some (0, 1, ⟨.elem 1 0, .tile 0 0, 0, .tok (dat 4), 0⟩, dat 4) ∧ q.ring.length + 1 = q.cap) ∧
    (let c := core0 252 (dat 7) 1
     ∃ q, c.fifo? 1 = some q ∧ q.ring = [⟨0, dat 9, 0, 0⟩] ∧ (fm sXs).sealed = false ∧ c.unblocked (.fifo 1) = true ∧ c.credit (.elem 2 0 0) = true) ∧
    (let c := core0 252 (dat 7) 1
     ∃ w, c.win? 0 2 = some w ∧ w.valid = true ∧ (c.slot 0 2).opened = true ∧ w.dirty = [] ∧ w.head < sF0.streamLimit 0 (c.slot 0 2) ∧
       w.head + 128 ≤ w.tail + w.size ∧ (c.slot 0 2).write = false ∧
       ((sF0.fetchRange 0 ((Addr.ofVa (c.slot 0 2).base).plus w.head) 128 .read).bind Except.toOption).isSome = true) ∧
    (let c := core0 252 (dat 7) 1
     let f : Forme := { fm sXs with run := { core := c } }
     let sl := c.slot 0 0
     sl.opened = true ∧ sl.write = false ∧ sl.eos = false ∧ c.unblocked (.ag 0 0) = true ∧ sl.pos + 4 = sF0.streamLimit 0 sl ∧
       sF0.streamBytes f 0 sl 4 = some (.ok [0, 0, 0, 0]) ∧ (let sl := (core0 256 (dat 7) 1).slot 0 0; sl.pos = sF0.streamLimit 0 sl)) ∧
    (∀ w : Tok, (w = .eos ∨ w = .null ∨ w = .dormant ∨ w = dat 7) → ((core0 252 w 1).ag 0).input 2 = [agTok w] ∧ w.flag ≠ .marker ∧
      ((core0 252 w 1).ag 0).writer false = some slotW ∧ slotW.eos = false) ∧
    (Tok.eos.isEos = true ∧ Tok.null.isEos = false ∧ Tok.null.isActive = false ∧ Tok.dormant.isActive = false ∧ (dat 7).isActive = true ∧ (dat 7).isEos = false) ∧
    (let c := core0 252 (dat 7) 1
     (fm sXs).cfg.stream = true ∧ (c.setAg ((c.ag 0).setInput 2 [])).win? 0 1 = none ∧ slotW.pos + 4 = sF0.streamLimit 0 slotW ∧
       ((sF0.elems 0 ((Addr.ofVa slotW.base).plus slotW.pos) (Size.bytes slotW.size) .write (elemCount 4 (Size.bytes slotW.size))).bind Except.toOption).isSome = true) ∧
    (∀ row, row = 1 ∨ row = 2 → ∃ q, ((core0 252 (dat 7) row).slot 0 3).pass = some q ∧ q.row = row ∧ (core0 252 (dat 7) row).unblocked (.ag 0 11) = true ∧
      (core0 252 (dat 7) row).plane? 0 q.pid = some (plane0 2)) := by
  refine ⟨by decide, ⟨{ bay := 0, cap := 1, outx := 2, outy := 0, outport := 0 }, by decide⟩,
    ⟨{ bay := 1, cap := 1, outx := 2, outy := 0, outport := 0, ring := [⟨0, dat 9, 0, 0⟩] }, by decide⟩,
    ⟨{ bay := 0, w := 2, lsize := 0, valid := true, head := 128, tail := 0 }, by decide +kernel⟩, by decide +kernel, ?_, by decide, by decide +kernel, ?_⟩
  · rintro w (rfl | rfl | rfl | rfl) <;> decide
  · rintro row (rfl | rfl)
    · exact ⟨{ pid := 0, dx := 0, dy := 0, rt := 0, consumer := .elem 2 0 0, row := 1, edges := {} }, by decide⟩
    · exact ⟨{ pid := 0, dx := 0, dy := 0, rt := 0, consumer := .elem 2 0 0, row := 2, edges := {} }, by decide⟩

/-- Tile 0 with the record ADD at node 1 in an open galley, and a token at the head of its links. -/
def tokAt (node : Nat) (tag : Tag) : PTok := { tag := tag, port := 0, node := BitVec.ofNat 14 node, tok := dat 3 }
def addWord : BitVec 96 := 0x0000_0300_0001_FFFF_0000_0000
def sT (k : PTok) : State :=
  let s := pooled rM []
  s.setTile { s.tile 0 with inbox := [k], ready := [], nodes := [(0, placedHeader), (1, addWord)] }
/-- The taken state in which the galley of tile 0 commits: with no record held, or a store of a word of object 1 at an offset. -/
def stAct (off : Int) : Act := { node := 1, lsid := 0, instr := .st .w32 0 0 rX, a := 0x11223344, obj := 1, off := off, size := 4 }
def sC0 (acts : List Act) : State :=
  let s := world (pooled rM [])
  s.setTile { s.tile 0 with ready := [], galleys := [{ hdr := 0, tag := placedTag, seq := 0, ng := 1, acts := acts }], nodes := [(0, placedHeader)] }
def gC (acts : List Act) : Galley := { hdr := 0, tag := placedTag, seq := 0, ng := 1, acts := acts }
def spilled : State :=
  let s := pooled rM []
  s.setTile { s.tile 0 with entries := [{ node := 1, tag := placedTag, p0 := some (dat 1), spilled := true }] }

theorem witness_TileEvents :
    (let k := tokAt 1 0
     (sT k).ctx? (tagCtx k.tag) = none ∧
       (((sT k).setTile { (sT k).tile 0 with inbox := [] }).stray ((sT k).unitPart 0) 1 0 k).isSome = true) ∧
    (let k := tokAt 2 placedTag
     ((sT k).tile 0).record? k.node.toNat = none) ∧
    (let k := tokAt 1 placedTag
     let d := (sT k).tile 0
     ∃ x i r n g, (sT k).ctx? (tagCtx k.tag) = some x ∧ d.record? k.node.toNat = some i ∧ d.header? k.node.toNat = some n ∧ i.shell? = some r ∧
       x.part = (sT k).unitPart 0 ∧ k.port.toNat ∈ expectedPorts r ∧ d.galley? n k.tag = some g ∧
       (((sT k).setTile { d with inbox := [] }).storeIn 0 g i r k).isSome = true) ∧
    ((spilled.tile 0).refill.isSome = true) ∧
    (∀ acts, acts = [] ∨ acts = [stAct 0xFFFC] → ((sC0 acts).tile 0).committing = some (gC acts) ∧
      ∃ ps, (sC0 acts).prepAll 0 1 (sortBy (fun (a b : Act) => decide (a.node < b.node)) acts) = some (.ok ps) ∧
        (((sC0 acts).commitNow 0 (gC acts) ps).bind Except.toOption).isSome = true) ∧
    ((sC0 [stAct 0x10000]).tile 0).committing = some (gC [stAct 0x10000]) ∧
    (∃ n e, (sC0 [stAct 0x10000]).prepAll 0 1 (sortBy (fun (a b : Act) => decide (a.node < b.node)) [stAct 0x10000]) = some (.error (n, e)) ∧
      ((sC0 [stAct 0x10000]).faultGalley 0 (gC [stAct 0x10000]) n e.cls 0 (.access e.va e.size e.kind)).isSome = true) ∧
    (let s := sC0 [stAct 0xFFFC]
     let g := gC [stAct 0xFFFC]
     s.translate 0 (stAct 0xFFFC).addr 4 .write = .ok 0x1FFFC 0 ∧ isStore (stAct 0xFFFC).instr = true ∧ g.holds = [] ∧
       (((((s.writeN 0x1FFFC (leBytes 4 (stAct 0xFFFC).a.toNat)).writeKregs g).closeGalley 0 g).foldStatus (tagCtx g.tag) g.sticky).sendOuts 0 g
         (g.outs ++ g.answers (stAct 0xFFFC) 0)).isSome = true) ∧
    (spilled.ctx? 1 = some placedCtx ∧ placedCtx.part = spilled.unitPart 0 ∧ (spilled.tile 0).savedPools = [] ∧
      (let s := spilled.setTile { spilled.tile 0 with galleys := [] }; (s.tile 0).openOf 1 = [])) := by
  refine ⟨by decide +kernel, by decide, ⟨placedCtx, .add .i32 false ⟨3, false, none, 0, 1, 0xFFFF⟩, ⟨3, false, none, 0, 1, 0xFFFF⟩, 0, { gC [] with ng := 0 }, by decide +kernel⟩,
    by decide, ?_, by decide, ?_, by decide +kernel, by decide⟩
  · rintro acts (rfl | rfl)
    · exact ⟨by decide, [], by decide +kernel⟩
    · exact ⟨by decide, [{ act := stAct 0xFFFC, pa := 0x1FFFC }], by decide +kernel⟩
  · exact ⟨1, ⟨clsTranslation, 2 ^ 40 + 0x10000, 4, 1⟩, by decide +kernel⟩


/-! ## Swaps, markers, launches -/

/-- The formes of a state, one of them changed. -/
def oneForme (s : State) (g : Forme → Forme) : State := { s with formes := s.formes.map g }
/-- A standing forme 2 on the chase of forme 1, its swap at a phase. -/
def swapping (s : State) (p : SwapPhase) : State :=
  { s with formes := s.formes ++ [{ fm s with handle := 2, status := .standing, swap := p, run := {} }] }
/-- A quiet live forme 1, and none. -/
def sQuiet : State := oneForme sXs fun f => { f with run := {} }
def sNone : State := { sXs with formes := [] }
def fm2 (s : State) : Forme := (s.forme? 2).getD (fm s)
/-- Forme 1 with its element's marker at the head of a link, one of its AG's, one of a FIFO tile's, one more to save. -/
def marking (l : LinkTok) : State :=
  oneForme sQuiet fun f => { f with mark := some { reply := none }, run := { core := { links := [l], fifos := [{ bay := 0, cap := 1, outx := 0, outy := 0, outport := 1 }] } } }
def mk (d : Dest) : LinkTok := { src := .elem 0 0, dst := d, rt := 0, wire := .tok .marker }
/-- Forme 1 in round mode with one ROUNDEND that has its token. -/
def sEnd : State :=
  let s := State.reset.placePinned 0xB600_0100_0001_FFFF_0000_0000 (sh 1 false 1)
  { s with formes := s.formes.map fun f => { f with cfg := { f.cfg with stream := false }, run := { core := { elems := [{ x := 0, y := 0 }], ends := [(0, 0, 0)] } } } }

theorem witness_SwapAndMarkerEvents :
    (let s := swapping sNone .waiting
     s.forme? 2 = some (fm2 s) ∧ s.liveOn (fm2 s) = none ∧ (fm2 s).swap = .waiting) ∧
    (let s := swapping sQuiet .waiting
     ∃ g, s.liveOn (fm2 s) = some g ∧ g.busy = false ∧ g.run.eosSeen = false) ∧
    (let s := swapping sXs .waiting
     ∃ g, s.liveOn (fm2 s) = some g ∧ g.busy = true ∧
       ((s.strayPay g).2.postPart (fm2 s).part { ctx := g.ctx, src := 0, srcid := g.handle, cls := clsStray, prec := 3 } (s.strayPay g).1).isSome = true) ∧
    (let s := swapping sQuiet .reported
     (fm2 s).swap = .reported ∧ (fm2 s).status = .standing ∧ s.liveOn (fm2 s) = some (fm s)) ∧
    (let s := swapping sNone .reported
     (fm2 s).swap = .reported ∧ s.liveOn (fm2 s) = none) ∧
    (let s := oneForme sQuiet fun f => { f with status := .entering }
     (fm s).status = .entering ∧ (fm s).mark = none) ∧
    (∀ d, (d = .elem 0 0 0 ∨ d = .ag 0 1 ∨ d = .tile 0 0) → ∃ g m, (fm (marking (mk d))).takeMarker 0 = some (mk d, g) ∧ g.mark = some m) ∧
    (let s := oneForme sQuiet fun f => { f with mark := some { reply := none, passed := [(0, 0)] } }
     ∃ m, (fm s).mark = some m ∧ (fm s).status = .live ∧ (fm s).unsaved = 0 ∧ (fm s).run.core.links = [] ∧ s.flushAll (fm s) = some s ∧ s.forme? 1 = some (fm s)) ∧
    (let s := oneForme sQuiet fun f => { f with mark := some { reply := none } }
     ∃ m, (fm s).mark = some m ∧ (fm s).status = .live ∧ (fm s).unsaved ≠ 0 ∧
       (s.postPart (fm s).part { ctx := (fm s).ctx, src := 0, srcid := 1, cls := clsQuiesce, prec := 3 } (min 65535 (fm s).unsaved * 2 ^ 48)).isSome = true) ∧
    ((fm sEnd).mayCommit = true ∧ (fm sEnd).run.staging = [] ∧ (fm sEnd).run.handed = [] ∧ (fm sEnd).run.core.roundDeposits = []) ∧
    (let s := { pooled rT [some (dat 1)] with quiesces := [⟨0, 1, placedTag, 1⟩] }
     let s := s.setTile { s.tile 0 with nodes := [(0, placedHeader), (1, 0xB700_0100_0001_FFFF_0000_0000)] }
     (∃ q ∈ s.quiesces, q.tile = 0 ∧ q.node = 1 ∧ q.tag = placedTag) ∧ (∃ r, (s.tile 0).record? 1 = some (.quiesce r)) ∧
       (s.gatherInst 0 1 placedTag).isSome = true) := by
  refine ⟨by decide, ⟨fm sQuiet, by decide +kernel⟩, ⟨fm sXs, by decide +kernel⟩, by decide, by decide, by decide, ?_, ⟨{ reply := none, passed := [(0, 0)] }, by decide⟩,
    ⟨{ reply := none }, by decide +kernel⟩, by decide, by decide, ⟨⟨1, false, none, 0, 1, 0xFFFF⟩, by decide⟩, by decide⟩
  rintro d (rfl | rfl | rfl) <;>
    exact ⟨{ fm (marking (mk (.elem 0 0 0))) with run := { core := { fifos := [{ bay := 0, cap := 1, outx := 0, outy := 0, outport := 1 }] } } }, { reply := none }, by decide⟩

/-- Partition 0 with a door. -/
def door1 (st : DoorState) (held : Nat) : Door :=
  { d := 0, image := BitVec.ofNat 64 (2 ^ 40), ctx := 1, nrec := 1, base := 0, tile := 0, state := st, held := List.replicate held (tokAt 0 placedTag) }
def dooring (e : Door) (s : State) : State := { s with readyBays := 1, parts := s.parts.map fun q => if q.p = 0 then q.setDoor e else q }
def part0 (s : State) : Part := (s.part? 0).getD { p := 99 }
/-- A token under context 1's tag. -/
def token : BitVec 128 := BitVec.ofNat 128 (2 ^ 116 + 2 ^ 32 * 3 + 7)
/-- A queue descriptor of hardware context 1, door 0, batch 1, at most one launch in flight, with one record to take. -/
def queueDesc : Nat := 1 * 2 ^ 500 + 2 ^ 495 + 1 * 2 ^ 465 + 1 * 2 ^ 457 + 1 * 2 ^ 192 + 8
def sLaunch : State :=
  let s := dooring (door1 .absent 0) (world { sXs with formes := [] })
  { s with parts := s.parts.map fun q => if q.p = 0 then { q with queues := [{ q := 0, va := BitVec.ofNat 64 (2 ^ 40 + 0x200) }] } else q
           mem := Memory.writeN s.mem 0x10200 (leBytes 64 queueDesc) }
/-- A live forme on the whole die and a swapped one of a context whose lock a waiter of higher priority waits for. -/
def sVictim : State :=
  let s := world sXs
  let whole : FormeCfg := { (fm sXs).cfg with w := 16, h := 16 }
  { s with
    formes := [{ fm sXs with cfg := whole, run := {} }, { fm sXs with handle := 2, ctx := 2, status := .swapped none, cfg := whole, run := {} }]
    ctxs := [placedCtx, { placedCtx with id := 2 }, { placedCtx with id := 3, prio := 5 }]
    waiters := [{ part := 0, va := BitVec.ofNat 64 (2 ^ 40 + 8), ctx := 3, tile := 0, node := 1, tag := placedTag }]
    mem := Memory.writeN s.mem 0x10008 [2, 0, 0, 0x80] }

theorem witness_LaunchEvents :
    (∀ s, s = State.reset → s.part? 0 = some (part0 s) ∧ parseToken 0xFFF000000000 = none) ∧
    (parseToken token.toNat = some (tokAt 0 placedTag |> fun k => { k with tok := dat 7 }) ∧
      (dooring (door1 .absent 0) State.reset).partReady 0 = true ∧ (∀ e, part0 (dooring (door1 .absent 0) State.reset) = e → e.door (0 / 256) = door1 .absent 0) ∧
      ∀ st, (st = .absent ∨ st = .loading ∨ st = .failed ∨ st = .resident) → (door1 st 0).takes { tokAt 0 placedTag with tok := dat 7 } = true) ∧
    ((door1 .loading 4095).held.length < 4096 ∧ 4096 ≤ (door1 .loading 4096).held.length ∧ (door1 .resident 0).forme = false) ∧
    ((2 ^ 156 : BitVec 256).getLsbD 156 = true) ∧
    (let s := dooring { door1 .loading 0 with forme := true, image := BitVec.ofNat 64 (2 ^ 40 * 7) } (world sXs)
     (part0 s |>.door 0).state = .loading ∧ (part0 s |>.door 0).forme = true ∧ (s.loadForme 0 (part0 s |>.door 0)).isSome = true) ∧
    (let s := dooring (door1 .loading 0) (world sXs)
     (part0 s |>.door 0).forme = false ∧ (s.loadOverlay 0 (part0 s |>.door 0)).isSome = true) ∧
    (sLaunch.lateReturns 0 = sLaunch ∧ ∃ v, sLaunch.selectQueue (part0 sLaunch) = some v ∧ (part0 sLaunch).p = 0 ∧ (pushTag (ctxTag v.hctx) 16 (v.launches % 65536)).isSome = true ∧
      (sLaunch.launch (part0 sLaunch) v).isSome = true) ∧
    (sVictim.forme? 1 = some (fm sVictim) ∧ (fm sVictim).part = 0 ∧ (fm sVictim).handle = 1 ∧ sVictim.markable 0 1 = some (fm sVictim)) ∧
    sVictim.victim (part0 sVictim) = some (fm sVictim) ∧
    (let s := { sVictim with formes := sVictim.formes.drop 1, readyBays := 0xFFFF }
     (leastBy (fun (a b : List Nat × State) => keyLt a.1 b.1) (s.waitingOut 0)).isSome = true) ∧
    (let s := oneForme sQuiet fun f => { f with status := .saved, mark := some { reply := none } }
     (fm s).status = .saved ∧ (fm s).leaving = true) := by
  refine ⟨?_, ⟨by decide, by decide +kernel, ?_, ?_⟩, by decide +kernel, by decide +kernel, by decide +kernel, by decide +kernel, ?_, by decide +kernel, by decide +kernel,
    by decide +kernel, by decide⟩
  · rintro s rfl; decide
  · rintro e rfl; decide
  · rintro st (rfl | rfl | rfl | rfl) <;> decide
  · exact ⟨by decide +kernel, { q := 0, va := BitVec.ofNat 64 (2 ^ 40 + 0x200), pieces := [(0x10200, 64)], desc := queueDesc, launches := 0 }, by decide +kernel⟩

theorem witness_JobCommit :
    (let j : Job := { j := 0, total := 2, nlevm1 := 3, valid := true }
     j.bestEffort = false ∧ j.done + 1 < j.total ∧ j.level < j.nlevm1 ∧
       decide (((j.sec * 10 ^ 9 + j.ns : Nat) : Int) - ((j.guardUs * 1000 : Nat) : Int) <
         10 + ((10 : Int) - j.start) * ((j.total : Int) - ((j.done + 1 : Nat) : Int)) / ((j.done + 1 : Nat) : Int)) = true) ∧
    (let j : Job := { j := 0, total := 1, nlevm1 := 3, valid := true }
     j.total ≤ j.done + 1) := by decide

/-- The example of R304: at 2,000 and 3,000 µs the estimate is past the guard, at 3,600 µs it is not. -/
theorem test_job_levels :
    let j : Job := { j := 0, ns := 12000000, guardUs := 500, nlevm1 := 2, valid := true, total := 8 }
    let a := (j.commit 2000000).1
    let b := (a.commit 3000000).1
    (a.done, a.level) = (1, 1) ∧ (b.done, b.level) = (2, 2) ∧ (({ b with level := 1 } : Job).commit 3600000).1.level = 1 := by decide +kernel


/-! ## Registers, the module, leases -/

/-- The world with partition 0 under an extent change, its object in T0 allowed or not. -/
def changed (allowed : Bool) (held : Bool) : State :=
  let s := world State.reset
  { s with parts := s.parts.map fun q => if q.p = 0 then { q with change := some ⟨0, 1, held⟩ } else q
           mem := if allowed then Memory.writeN s.mem (4096 + 32) (leBytes 32 (objWord + 2 ^ 207)) else s.mem }

theorem witness_RegisterEvents :
    (State.reset.part? 0 = some { p := 0 } ∧ regShort 3 = false ∧ (State.reset.regWrite { part := 0 } 0x107 5).isSome = true ∧ regShort 0x100 = false ∧
      (State.reset.regWrite { part := 0 } 0x100 5).isSome = true) ∧
    (let s := { State.reset with parts := [{ p := 0, barWrite := some (0x100, 7) }] }
     (((s.setPart { (part0 s) with barWrite := none }).regWrite { part := 0 } 0x100 (1#32 ++ (7 : Word))).isSome = true)) ∧
    ((part0 (changed true false)).change = some ⟨0, 1, false⟩ ∧ (part0 (changed true true)).change = some ⟨0, 1, true⟩) ∧
    (∀ v : BitVec 64, (v = 1 ∨ v = 0xFFFF_0000_000001) → ∃ o, (world State.reset).obj? 0 (bits 0 24 v.toNat) = some o ∧ o.ecnt = 1 ∧
      (part0 (world State.reset)).change = none ∧ (bits 40 16 v.toNat = 65535 ∨ bits 40 16 v.toNat < o.ecnt) ∧
      (world State.reset).reclaimingOver 0 (bits 0 24 v.toNat) ((world State.reset).changePages 0 o (bits 40 16 v.toNat)) = false) ∧
    (∃ o, (changed true true).rawObj 0 1 = some o ∧ (changed true true).changeOk 0 o 0 = true) ∧
    (∃ o, (changed false true).rawObj 0 1 = some o ∧ (changed false true).changeOk 0 o 0 = false) ∧
    ((world State.reset).walkEntry 0 0 (BitVec.ofNat 64 (2 ^ 40 + 0xFFFC))).isSome = true ∧
    (∃ d, State.reset.die? 0 = some d ∧ (1 : BitVec 64).getLsbD 2 = false ∧ (1 : BitVec 64).extractLsb' 0 2 ≠ 3 ∧ (1 : BitVec 64).extractLsb' 0 2 ≠ d.split ∧
      State.reset.ctxs = []) ∧
    (∃ c ∈ sX.ctxs, c.part / 4 = 0) ∧
    ((4 * Config.dramBytes - 64) / Config.dramBytes < 4 ∧ (world State.reset).homeReady 0 0 (0 / Config.dramBytes) = true) ∧
    ((part0 State.reset).barRead = none ∧ (part0 { State.reset with parts := [{ p := 0, barRead := some (0x100, 7) }] }).barRead = some (0x100, 7)) := by
  refine ⟨by decide, by decide, by decide, ?_, ?_, ?_, by decide +kernel, ⟨{ i := 0 }, by decide⟩, ⟨placedCtx, by decide⟩, by decide, by decide⟩
  · rintro v (rfl | rfl) <;> exact ⟨got ⟨0, false, false, false, false, false, 0, 0, 0, 0⟩ ((world State.reset).obj? 0 1), by decide +kernel⟩
  · exact ⟨got ⟨0, false, false, false, false, false, 0, 0, 0, 0⟩ ((changed true true).rawObj 0 1), by decide +kernel⟩
  · exact ⟨got ⟨0, false, false, false, false, false, 0, 0, 0, 0⟩ ((changed false true).rawObj 0 1), by decide +kernel⟩

/-- The frame release unit locked, its counter to be set, a release due at 2 s. -/
def rel0 : Release := { slot := 7, ctx := 1, buf := 0, size := 64, sec := 2, ns := 0, chan := 9 }
def sFru : State := { sX with fru := { state := .locked, tod := 3, todWritten := true, sec := 1, ns := 5, pend := [rel0] } }
def stalled : State :=
  { sXr with
    parts := (world sXr).parts, mem := (world sXr).mem, readyUnits := []
    formes := sXr.formes.map fun f => { f with cfg := { f.cfg with recs := [(0, 0, (encode (.bararr .die false (sh 3 false 0x0041))).getD 0)] } } }

theorem witness_ModuleEvents :
    (State.reset.fwst = .wait ∧ ({ State.reset with fwst := .rejected } : State).fwst = .rejected ∧ ({ State.reset with fwst := .check } : State).fwst = .check ∧
      ({ State.reset with fwst := .run } : State).fwst = .run) ∧
    (({ State.reset with fwst := .run } : State).readyBays.getLsbD 63 = false ∧ State.reset.unitCode 7 ≠ 2 ∧ (3 : BitVec 2) ≠ 2) ∧
    (sFru.fru.todWritten = true ∧ sFru.fru.state = .locked ∧ (-50 : Int).natAbs ≤ 50 ∧ State.reset.fru.todWritten = false ∧ (sFru.fruTo .holdover 0).isSome = true) ∧
    (sFru.fru.now ≤ 2000000000 ∧ sFru.fru.pend = [rel0] ∧ rel0.due = 2000000000 ∧
      (({ sFru with fru := { sFru.fru with sec := 2, ns := 0, pend := [], pulses := [(1, 2000000000)] } } : State).postEvent 1 4 7 2 64).isSome = true) ∧
    (let s := { State.reset with links := [{ n := 16, up := true, peer := 3 }] }
     ∃ l, s.linkAt 16 = some l ∧ l.up = true ∧ l.recent = [] ∧ (s.linkFails l).isSome = true) ∧
    (sXr.forme? 1 = some (fm sXr) ∧ (fm sXr).status = .live ∧ (fm sXr).cfg.stream = false ∧ (fm sXr).run.voids < 3 ∧
      (sXr.faultFormeBy 7 1 0 0 0 clsEcc 0 (sXr.eccPay 0 (BitVec.ofNat 64 (2 ^ 40)))).isSome = true) ∧
    (stalled.forme? 1 = some (fm stalled) ∧ (fm stalled).status = .live ∧ stalled.stalls 0 (BitVec.ofNat 64 (2 ^ 40 + 8)) = true ∧
      stalled.elemAccesses (fm stalled) 0 0 (BitVec.ofNat 64 (2 ^ 40 + 8)) = true ∧ (stalled.faultFormeBy 7 1 0 0 0 clsWatchdog 0 (.access (2 ^ 40 + 8) 4 0)).isSome = true) :=
  ⟨by decide, by decide, by decide +kernel, by decide +kernel, ⟨{ n := 16, up := true, peer := 3 }, by decide +kernel⟩, by decide +kernel, by decide +kernel⟩

/-- A lease that die 0 lends, of one granule. -/
def lent0 (st : LeaseState) (zeroed : Bool) : Lent :=
  { idx := 0, state := st, ctx := 1, part := 0, va := BitVec.ofNat 64 (2 ^ 40), page := 512, gran := 1, term := 9, rclass := 0, wt := false, rbw := 49, zeroed := zeroed, dirty := [3, 1] }
def lending (l : Lent) : State :=
  { sX with dies := sX.dies.map fun d => if d.i = 0 then { d with lent := [l] } else d, routes := [(5, BitVec.ofNat 64 (2 ^ 63 + 1))] }
/-- Object 1 of two granules: the first in T0, the second in T2 in a write-through lease of package 7, and what is borrowed on the first with the second as its fallback. -/
def twoObj : Nat := 0x400000 * 2 ^ 216 + 31 * 2 ^ 211 + 13 * 2 ^ 207 + 2 * 2 ^ 192 + 0x3000 * 2 ^ 128
def twoExts : Nat := 512 * 2 ^ 72 + 16 * 2 ^ 24 + 2 ^ 128 * (512 * 2 ^ 100 + 512 * 2 ^ 72 + 2 * 2 ^ 70 + 7 * 2 ^ 60 + 512 * 2 ^ 24)
def twoGranules (s : State) : State :=
  { s with mem := Memory.writeN (Memory.writeN s.mem (4096 + 32) (leBytes 32 twoObj)) 0x3000 (leBytes 32 twoExts) }
def borrow0 (st : LeaseState) (wt : Bool) : Borrow :=
  { lender := 5, lease := 3, state := st, ctx := 1, part := 0, target := BitVec.ofNat 64 (2 ^ 40), fallback := BitVec.ofNat 64 (2 ^ 40 + 0x200000)
    grant := ⟨1, wt, 49, 0⟩, reply := some ⟨0, 1, placedTag, false, 1, 0xFFFF⟩ }
def borrowing (b : Borrow) : State :=
  let s := twoGranules sX
  { s with dies := s.dies.map fun d => if d.i = 0 then { d with borrowed := [b, { b with lender := 7, lease := 9, state := .taken, grant := ⟨1, true, 49, 512⟩ }] } else d, readyUnits := [(0, 1), (4, 1), (8, 1)] }
/-- A running copy of 8 bytes inside object 1. -/
def copy0 : CopyJob := { id := 0, src := BitVec.ofNat 64 (2 ^ 40 + 0xFFF8), dst := BitVec.ofNat 64 (2 ^ 40), len := 8, cls := 0, ctx := 1, part := 0 }
def copying : State := { sX with dies := sX.dies.map (fun d => if d.i = 0 then { d with copies := [copy0] } else d) }

theorem witness_LeaseEvents :
    (∀ z, z = false ∨ z = true → (lending (lent0 .offered z)).lent? 0 0 = some (lent0 .offered z) ∧ (lent0 .offered z).heldTake = none) ∧
    (let l := lent0 .offered true
     let s := lending l
     let f : LeasePlace := ⟨3, 0, 0⟩
     ((s.die? 0).bind fun d => d.lent.find? fun x => x.idx == 0) = some l ∧ s.canCarry l.rbw 5 f = true ∧ s.shares l.rbw 5 f ≠ [] ∧
       ((((s.setLent 0 { l with state := .taken, borrower := 5, fallback := f, dirty := [], pushed := false, order := ((s.die? 0).map Die.nextOrder).getD 0 }).sendLease 0 5
        (.takeAck 5 (leaseId 0 l.idx) { gran := l.gran, wt := l.wt, rbw := l.rbw, page := l.page })).lentEvent 0 l 16).bind fun u => u.demandRun 0 256).isSome = true ∧
       l.term ≠ 0 ∧ (s.withdraw 0 l).isSome = true) ∧
    (∀ st, (st = .reclaiming ∨ st = .quarantined) → (lending (lent0 st false)).lent? 0 0 = some (lent0 st false) ∧ (lent0 st false).pushed = false ∧
      ((((lending (lent0 st false)).setLent 0 { lent0 st false with state := .closed }).returned 0 1).lentEvent 0 (lent0 st false) 17).isSome = true ∧
      (((lending (lent0 st false)).setLent 0 { lent0 st false with state := .closed }).lentEvent 0 (lent0 st false) 19).isSome = true) ∧
    ((((({ lending (lent0 .reclaiming false) with mem := Memory.clear (lending (lent0 .reclaiming false)).mem (spaceBase 0 0 + 512 * 4096) (1 * 2 ^ 21) } : State).setLent 0
        { lent0 .reclaiming false with state := .quarantined, pushed := false }).returned 0 1).lentEvent 0 (lent0 .reclaiming false) 18).isSome = true) ∧
    (∃ d, (lending (lent0 .offered true)).die? 0 = some d ∧
      (((lending (lent0 .offered true)).setDie { d with demand := 65535, qtime := 0 }).demandRun 0 256).isSome = true) ∧
    (∀ b, (b = borrow0 .taken true ∨ b = borrow0 .reclaiming true ∨ b = borrow0 .reclaiming false) →
      (borrowing b).borrow? 0 5 3 = some b ∧ b.reply.isSome = true ∧ (borrowing b).targetBusy b = false) ∧
    (let b := borrow0 .none false
     ((borrowing b).asking 0 5 3).head? = some b ∧ (borrowing b).refusedAsk 0 5 3 1 = some b ∧ (borrowing b).refusedAsk 0 5 3 2 = some b ∧
       (borrowing b).targetBusy b = false ∧ (borrowing b).fallbackOk b 1 = true ∧ (borrowing b).targetExt b 1 = some 0) ∧
    (let b := borrow0 .reclaiming true
     (((borrowing b).demote 0 b true).borrowEvent b 1).isSome = true ∧ (((borrowing b).demote 0 b true).borrowEvent b 2).isSome = true) ∧
    (let b := { borrow0 .reclaiming false with fallback := BitVec.ofNat 64 (2 ^ 40) }
     (((borrowing b).demote 0 b false).faultOp b.ctx 3 b.lease clsLease 1 b.lostPay false).isSome = true ∧
       (((borrowing b).demote 0 b true).faultOp b.ctx 3 b.lease clsLease 0 b.lostPay false).isSome = true) ∧
    (8 * Config.spaceSize - 1 + [(1 : Byte)].length ≤ 8 * Config.spaceSize) ∧
    (∃ d p q, copying.die? 0 = some d ∧ (d.copies.find? fun c => c.id == 0 && c.status == 0) = some copy0 ∧ copying.range 0 (Addr.ofVa copy0.src) 8 .read = .ok p ∧
      copying.range 0 (Addr.ofVa copy0.dst) 8 .write = .ok q ∧ copying.pathDown 0 0 (Addr.ofVa copy0.src) 8 = none ∧ copying.pathDown 0 0 (Addr.ofVa copy0.dst) 8 = none) ∧
    (let s := { State.reset with islands := [{ i := 0, inq := [(1, 0xA000_0001), (0, 0xA000_0001), (1, 7), (0, 8)] }] }
     let isl := s.island 0
     isl.inq[1]? = some (0, 0xA000_0001) ∧ ((isl.inq.take 1).all fun e => e.1 != 0) = true ∧ takeRt 0 2 isl.inq = ([0xA000_0001, 8], [(1, 0xA000_0001), (1, 7)]) ∧
       bits 29 3 (0xA000_0001 : Word).toNat = 5 ∧ bits 24 5 (0xA000_0001 : Word).toNat = 0 ∧ isl.binds = []) ∧
    (({ dest := 0, cls := 0, body := .copyData 0 [] } : Flit).dest = State.reset.fijId.toNat) := by
  refine ⟨?_, by decide +kernel, ?_, by decide +kernel, ⟨got { i := 9 } ((lending (lent0 .offered true)).die? 0), by decide +kernel⟩, ?_, by decide +kernel, by decide +kernel,
    by decide +kernel, by simp [Config.spaceSize], ⟨got { i := 9 } (copying.die? 0), [(0x1FFF8, 8)], [(0x10000, 8)], by decide +kernel⟩, by decide +kernel, by decide⟩
  · rintro z (rfl | rfl) <;> decide
  · rintro st (rfl | rfl) <;> decide +kernel
  · rintro b (rfl | rfl | rfl) <;> decide +kernel

/-- Canonical states that step. -/
theorem witness_StepKeepsMemoryCanonical :
    Memory.wf (world State.reset).mem = true ∧
    (let s := { world State.reset with agenda := [.event .ceclr] }
     Memory.wf s.mem = true ∧ s.agenda = [.event .ceclr]) := by decide +kernel
theorem witness_StepKeepsMemoryCanonical_next : ∃ t, step { world State.reset with agenda := [.event .ceclr] } = .next t := ⟨_, rfl⟩

theorem witness_StepKeepsTilesCanonical :
    (∀ f ∈ sXr.formes, f.tilesCanonical = true) ∧ sXr.formes.length = 1 ∧ ∃ t, step { sXr with agenda := [.event .ceclr] } = .next t :=
  ⟨by decide, by decide, ⟨_, rfl⟩⟩


/-! ## Single steps -/

/-- The data that a pooled firing has sent: lane masks and words, of its destination A. -/
def sent (o : Out) : List (BitVec 2 × Word) :=
  match o with
  | .next t => (t.tile 0).galleys.flatMap fun g => g.outs.map fun k => (k.tok.tok.lmask, k.tok.tok.value)
  | _ => []
def rOp : Shell := sh 7 false 0x0041
def on (a b c : Word) : State := pooled rOp [some (dat a), some (dat b), some (dat c)]

/-- Wrapping and clamping (R59). -/
theorem test_add_wraps : sent (exec (.add .i32 false rOp) (on 0xFFFFFFFF 2 0)) = [(3, 1)] := by decide
theorem test_add_sat_bytes : sent (exec (.add .i8x4 true rOp) (on 0x7F80_01FF 0x01FF_0101 0)) = [(3, 0x7F80_0200)] := by decide
theorem test_sub_halves : sent (exec (.sub .i16x2 false rOp) (on 0x0000_0005 0x0001_0006 0)) = [(3, 0xFFFF_FFFF)] := by decide
/-- Table 3-7. -/
theorem test_div_zero : sent (exec (.div .i32 true rOp) (on 7 0 0)) = [(3, 0xFFFFFFFF)] := by decide
theorem test_div_least : sent (exec (.div .i32 true rOp) (on 0x80000000 0xFFFFFFFF 0)) = [(3, 0x7FFFFFFF)] := by decide
theorem test_rem_sign : sent (exec (.rem .i32 rOp) (on 0xFFFFFFF9 2 0)) = [(3, 0xFFFFFFFF)] := by decide
theorem test_shl_width : sent (exec (.shl .i32 rOp) (on 1 32 0)) = [(3, 0)] := by decide
/-- A tie of FP32 goes to the even significand: 2^24 + 1 (R52, Table 3-12). -/
theorem test_fadd_tie : sent (exec (.fadd .rne rOp) (on 0x4B800000 0x3F800000 0)) = [(3, 0x4B800000)] := by decide
theorem test_fadd_up : sent (exec (.fadd .rup rOp) (on 0x4B800000 0x3F800000 0)) = [(3, 0x4B800001)] := by decide
/-- Opposite infinities give the canonical NaN (R50). -/
theorem test_fadd_nan : sent (exec (.fadd .rne rOp) (on 0x7F800000 0xFF800000 0)) = [(3, 0x7FC00000)] := by decide
/-- The manual's FP8 example (R122): 500.0 clamps and 1.65 rounds to 1.625; without .SAT the first is NaN. -/
theorem test_cvtf8_sat : sent (exec (.cvtf8 false true .rne true rOp) (on 0x43FA0000 0x3FD33333 0)) = [(1, 0x0000_3D7E)] := by decide
theorem test_cvtf8 : sent (exec (.cvtf8 false false .rne true rOp) (on 0x43FA0000 0x3FD33333 0)) = [(1, 0x0000_3D7F)] := by decide

/-- The two orders of summation (R67, R68, Table 3-12): BF16, C at +0, K = 16. -/
def orderProds : List (Nat × FVal × Bool) :=
  (List.range 16).map fun k => let v := Fmt.bf16.decode (if k = 0 then 0x4580 else 0x3F80)
    (k, FVal.mul v v)
theorem test_order_exact : dotGroups 1 16 0 orderProds = (0x4B800000, stNX) := by decide +kernel
theorem test_order_fast : dotGroups 16 1 0 orderProds = (0x4B800008, stNX) := by decide +kernel


/-! ## Clauses of their own -/

/-- Tile 0 of a state, changed. -/
def onTile (s : State) (g : DTile → DTile) : State := s.setTile (g (s.tile 0))
/-- The ready instances of tile 0, changed; its galley's instance, changed. -/
def readyAs (s : State) (g : Inst → Inst) : State := onTile s fun d => { d with ready := d.ready.map g }
def galleyAs (s : State) (g : Galley → Galley) : State := onTile s fun d => { d with galleys := d.galleys.map g }

theorem witness_GatherInstance_issues :
    (let s := readyAs sA fun i => { i with gathered := true }
     (s.gatherInst 0 1 placedTag).isSome = true ∧ ∃ o ∈ (s.tile 0).ready, o.parked = false ∧ o.gathered = true) ∧
    (let s := readyAs sA fun i => { i with parked := true }
     (s.gatherInst 0 1 placedTag).isSome = true ∧ ∀ o ∈ (s.tile 0).ready, o.parked = true) ∧
    (∀ o ∈ (sA.tile 0).ready, o.gathered = false ∧ o.parked = false) := by decide

/-- Pooled sets of MERGE with its predicate, of one head, of an EOS before and after the other port's. -/
def mPredP : State := pooled rP [some (dat 1), some (dat 2), none, some (dat 1)]
def mAnyP (t : Tok) (taken : BitVec 4) : State :=
  onTile (pooled rM [some t, none]) fun d => { d with entries := if taken = 0 then [] else [{ node := 1, tag := placedTag, state := true, flags := taken }] }
theorem witness_MergeForms_choice :
    ((mPredP.gather rP).isSome = true ∧ (firing mPredP rP).p3 = some (dat 1) ∧ ∀ e ∈ (firing mPredP rP).toks, e.2.flag ≠ .eos) ∧
    (mAny.forme? 1 = some (fm mAny) ∧ (mAny.gatherAny 1 0 0).isSome = true) ∧
    (∃ x, (mAnyP (dat 1) 0).anyInst 0 1 placedTag = some (0, x) ∧ (x.1.port rM 0).flag ≠ .eos) ∧
    (∃ x, (mAnyP .eos 0).anyInst 0 1 placedTag = some (0, x) ∧ (x.1.port rM 0).flag = .eos ∧ (x.2.kept x.1).2.getLsbD 1 = false) ∧
    (∃ x, (mAnyP .eos 2).anyInst 0 1 placedTag = some (0, x) ∧ (x.1.port rM 0).flag = .eos ∧ (x.2.kept x.1).2.getLsbD 1 = true) :=
  ⟨by decide, by decide, ⟨(got (0, f0, mAny) ((mAnyP (dat 1) 0).anyInst 0 1 placedTag)).2, by decide⟩,
    ⟨(got (0, f0, mAny) ((mAnyP .eos 0).anyInst 0 1 placedTag)).2, by decide⟩, ⟨(got (0, f0, mAny) ((mAnyP .eos 2).anyInst 0 1 placedTag)).2, by decide⟩⟩

theorem witness_Sources_seal : (∀ left ∈ [0, 1, 2], (fm (emitting left true)).sealed = false) ∧
    ∃ g m, (oneForme (emitting 2 true) fun f => { f with cfg := { f.cfg with stream := false } }).forme? 1 = some g ∧ g.sealed = true ∧
      expectedPorts rOnce = [] ∧ (g.run.core.elem 0 0).emit = some m :=
  ⟨by decide, fm (oneForme (emitting 2 true) fun f => { f with cfg := { f.cfg with stream := false } }), ⟨0, 2, 5, 1, true⟩, by decide⟩

theorem witness_TagFields_wf : tagWf tag16 = true ∧ tagWf placedTag = true ∧ fieldWidth tag8 7 ≠ 0 ∧ tagWf tag8 = true := by decide

theorem witness_UnrouteCleared :
    let r := sh 1 false 0xF000
    let s := pinned true r [some (dat 1)]
    (s.gather r).isSome = true ∧ (firing s r).verdict = .value ∧ ((after s r).route 1 0).valid = false := by decide

/-- The atomics and lock records of one operand form. -/
def atomicForms (acq rel : Bool) (raw : Word) : List Instr :=
  [.aadd acq .die rel raw rX, .amin acq .die rel raw rX, .amax acq .die rel raw rX, .aand acq .die rel raw rX, .aor acq .die rel raw rX,
   .axor acq .die rel raw rX, .axchg acq .die rel raw rX, .acas acq .die rel raw rX, .afadd acq .die rel raw rX, .lockacq acq .die raw rX,
   .lockrel .die rel raw rX]
/-- An earlier instance of the context on tile 0, of a galley at node 4 with a FENCE at node 5 that has not fired. -/
def fenced (s : State) : State :=
  onTile s fun d => { d with
    nodes := d.nodes ++ [(4, placedHeader), (5, 0xB000_0100_0001_FFFF_0000_0000)]
    galleys := { hdr := 4, tag := placedTag, seq := 0 } :: d.galleys.map fun g => { g with seq := 1 } }
theorem witness_Atomics_order :
    (∀ acq ∈ [false, true], ∀ rel ∈ [false, true], ∀ i ∈ atomicForms acq rel 0x80,
      ((after sK rX).seeStore (firing sK rX) rX.aux).outOfOrder (firing sK rX) i rX = false) ∧
    (let s := fenced sK
     Fires s rX (firing s rX) (after s rX) ∧ (firing s rX).pinned = false ∧ ∀ i ∈ atomicForms true true 0x80,
       ((after s rX).seeStore (firing s rX) rX.aux).outOfOrder (firing s rX) i rX = true) :=
  ⟨by decide, fires_of (by decide), by decide, by decide⟩

/-- The galley of `sX` with node 1 a FENCE that has not fired and the load at node 2, and the same load. -/
def ownFence : State :=
  onTile sX fun d => { d with nodes := [(0, BitVec.ofNat 96 (placedHeader.toNat + 2 ^ 81)), (1, 0xB000_0100_0041_FFFF_0000_0000),
                                        (2, 0x0000_0300_0041_FFFF_0000_0000)] }
def fence0 : Instr := .fence false .element false ⟨1, false, none, 0, 0x0041, 0xFFFF⟩
/-- What a younger load of the word has seen. -/
def seen1 : Seen := { time := 3, lsid := 2, obj := 1, off := 8, mem := [1, 2, 3, 4], stores := [(0, { actX with lsid := 2 })] }
theorem witness_LoadSeesMemory_order :
    (let d := (fenced sX).tile 0
     ∃ o ∈ d.openOf (tagCtx placedTag), o.seq < 1 ∧ 5 ∈ d.galleyNodes o.hdr ∧ d.record? 5 = some (.fence false .element false ⟨1, false, none, 0, 1, 0xFFFF⟩) ∧
       o.past.contains 5 = false) ∧
    (let d := ownFence.tile 0
     ∃ o ∈ d.openOf (tagCtx placedTag), o.seq = gX.seq ∧ 1 ∈ d.galleyNodes o.hdr ∧ d.record? 1 = some fence0 ∧ Instr.acquires fence0 = true ∧
       o.past.contains 1 = false ∧ d.comesBefore gX.hdr 1 2 = true) ∧
    ((sX.tile 0).mustFollow gX 1 = false ∧ (sX.tile 0).seenFor gX 1 (obj1 8) = none ∧ (sX1.tile 0).seenFor gX 1 (obj1 8) = none ∧
      (sX1.tile 0).mustFollow gX 1 = false) ∧
    (let d := (galleyAs sX fun g => { g with seen := [seen1] }).tile 0
     d.seenFor gX 1 (obj1 8) = some seen1 ∧ d.loadReady gX 1 (obj1 8) 4 = true ∧ d.mustFollow gX 1 = false ∧
       ∀ e ∈ seen1.stores, ¬(e.1 < gX.seq ∨ (e.1 = gX.seq ∧ e.2.lsid < 1))) := by decide

theorem witness_SyncRecords_forms :
    ((after sXr rX).stageRoom 0 32 = true ∧ (firing sXr rX).part = 0 ∧ (after sXr rX).forme? (firing sXr rX).h = some (fm (after sXr rX))) ∧
    ((after sXs rX).forme? (firing sXs rX).h = some (fm (after sXs rX)) ∧ (fm (after sXs rX)).cfg.stream = true) := by decide

/-- A barrier word whose last operation came in this cycle, and in an earlier one. -/
def cycled (k : Nat) : State :=
  let b : BarCycle := { addr := 0x10008, word := 0, arrivals := 1, clock := k }
  { sXs with bar := [b], mem := Memory.writeN sXs.mem 0x10008 (leBytes 8 b.after) }
theorem witness_BarriersAndWaits_cycle :
    ((after sXs rX).bar.find? fun b => b.addr == 0x10008) = none ∧
    ((FiresAwake (cycled 0) rX (firing (cycled 0) rX) (after (cycled 0) rX)) ∧ ∃ b, ((after (cycled 0) rX).bar.find? fun b => b.addr == 0x10008) = some b ∧ b.addr = 0x10008 ∧
      b.after = (after (cycled 0) rX).readLe 0x10008 8 ∧ b.clock = (after (cycled 0) rX).clock) ∧
    ((FiresAwake (cycled 9) rX (firing (cycled 9) rX) (after (cycled 9) rX)) ∧ ∃ b, ((after (cycled 9) rX).bar.find? fun b => b.addr == 0x10008) = some b ∧
      b.clock ≠ (after (cycled 9) rX).clock ∧ b.clock + 1 ≠ (after (cycled 9) rX).clock) ∧
    ((after sXr rX).inRound (firing sXr rX) = true ∧ (after sXr rX).stageRoom 0 4 = true ∧
      (after sXr rX).translate (firing sXr rX).part (pairAddr (firing sXr rX) rX 0) 8 .both = .ok 0x10008 0 ∧
      (after sXr rX).translate (firing sXr rX).part (pairAddr (firing sXr rX) rX 0) 4 .any = .ok 0x10008 0) ∧
    ((after sX rX).follows (firing sX rX) = false ∧ (after sK rX).follows (firing sK rX) = false ∧ (after sKeq rX).follows (firing sKeq rX) = false) :=
  ⟨by decide, ⟨awake_of (by decide), ((after (cycled 0) rX).bar).headD { addr := 9, word := 0 }, by decide⟩,
    ⟨awake_of (by decide), ((after (cycled 9) rX).bar).headD { addr := 9, word := 0 }, by decide⟩, by decide, by decide⟩

theorem witness_MatrixRecords_order : (sMM 1).mmaAhead false = false ∧ (sMM 8).mmaAhead false = false ∧
    (let s := pinned false rIsl [some (dat 3), some (dat 0x8001)]
     FiresAwake s rIsl (firing s rIsl) (after s rIsl) ∧ (fm (after s rIsl)).cfg.stream = false ∧ (after s rIsl).stageRoom (fm (after s rIsl)).part 4 = true ∧
       (fm (after s rIsl)).dest 0 0 rIsl.dsta = .island 0) := ⟨by decide, by decide, awake_of (by decide), by decide⟩

theorem witness_QueueNoLateReturns : ∀ n : Word, n = 5 ∨ n = 6 → ∃ q, (after (sQu n) rX).part? 0 = some q ∧
    ((after (sQu n) rX).lateReturns 0).part? 0 = some q := by
  rintro n (rfl | rfl)
  · exact ⟨got { p := 99 } ((after (sQu 5) rX).part? 0), by decide +kernel⟩
  · exact ⟨got { p := 99 } ((after (sQu 6) rX).part? 0), by decide +kernel⟩

theorem witness_FaultReturn_shown :
    ((selecting (faulty { fctx with state := .halted } sXs)).ctxShown { fctx with state := .halted }).state = .halted ∧
    ((selecting (faulty fctx sXs)).ctxShown fctx).state ≠ .halted := by decide

theorem witness_FabricEvents_unsealed : ({ fm sXs with run := { core := core0 252 (dat 7) 1 } } : Forme).sealed = false ∧
    ({ fm sXs with run := { core := core0 256 (dat 7) 1 } } : Forme).sealed = false := by decide


/-! ## Further clauses -/

theorem witness_GatherInstance_issued :
    (let s := readyAs sA fun i => { i with issue := some ⟨0, true, false⟩, parked := true }
     (s.gatherInst 0 1 placedTag).isSome = true ∧ ∀ o ∈ (s.tile 0).ready, o.issue.isSome = true) ∧
    (∀ o ∈ (sA.tile 0).ready, o.issue = none) := by decide

/-- Sets of three ports of an element, and of a dataflow tile. -/
def setOf (p : List (Option Tok)) : State := pinned true rX p
def setIn (p : List (Option Tok)) : State := world (pooled rX p)
theorem witness_FlagsOfComputing_rest :
    (passesFlags (.nop rX) = true ∧ passesFlags (.prule 0 rX) = true ∧ passesFlags (.steer true rX) = true ∧ passesFlags (.const 3 rX) = true ∧
      awakeOnly (.fence false .die true rX) = true ∧ awakeOnly (.snap rX) = true ∧ dataPorts (.st .w32 0 0 rX) = some ([0, 1], true) ∧
      dataPorts (.tld .w32 false 0 0 0 rX) = some ([0], false) ∧ dataPorts (.lockrel .die true 0 rX) = some ([0], true) ∧
      controlRecord (.sopen .w32 false true 0 rX) = true ∧ controlRecord (.pflip 0 rX) = true) ∧
    (∀ f ∈ [setOf, setIn],
      ((f [some .eos, some .eos, some .eos]).gather rX).isSome = true ∧ (firing (f [some .eos, some .eos, some .eos]) rX).verdict = .eos ∧
      (firing (f [some .null, some .dormant, some (dat 1)]) rX).verdict = .null ∧ (firing (f [some (dat 1), some (dat 1), some .eos]) rX).verdict = .mismatch 2 ∧
      (firing (f [some .dormant, some (dat 1), some (dat 1)]) rX).verdict = .value ∧
      ∃ e ∈ (firing (f [some .dormant, some (dat 1), some (dat 1)]) rX).toks, e.1 = 0 ∧ e.2.isDormant = true) ∧
    (rX.dstb = noDest ∧ destClass rO.dsta = 2) ∧
    (∃ send : Tok → State, ∀ k, ((after (setOf [some .eos, some .eos, some .eos]) rX).sendOrder (firing (setOf [some .eos, some .eos, some .eos]) rX) rX
      (.ordtok .die 0 rX) false k).bind (fun u => u.sendOrder (firing (setOf [some .eos, some .eos, some .eos]) rX) rX (.ordtok .die 0 rX) true k) = some (send k)) ∧
    (((setIn [some .null, some (dat 1), some (dat 1)]).gather rX).isSome = true ∧
      ((firing (setIn [some .null, some (dat 1), some (dat 1)]) rX).port rX 0).isActive = false) ∧
    (∀ t ∈ [Tok.null, Tok.eos, Tok.dormant], ∃ x, (sScale (pinned true rMM [some t, some t])).gatherScaled rMM = some x ∧
      (x.1.verdict = .null ↔ t = .null) ∧ (x.1.verdict = .eos ↔ t = .eos) ∧ (x.1.verdict = .value ↔ t = .dormant) ∧
      (t = .dormant → (x.1.port rMM 0).lmask.getLsbD 0 = false)) := by
  refine ⟨by decide, by decide, by decide, ⟨fun k => (((after (setOf [some .eos, some .eos, some .eos]) rX).sendOrder
    (firing (setOf [some .eos, some .eos, some .eos]) rX) rX (.ordtok .die 0 rX) false k).bind fun u =>
      u.sendOrder (firing (setOf [some .eos, some .eos, some .eos]) rX) rX (.ordtok .die 0 rX) true k).getD State.reset, fun k => rfl⟩, by decide, ?_⟩
  intro t h
  exact ⟨got (f0, 0, State.reset) ((sScale (pinned true rMM [some t, some t])).gatherScaled rMM), by revert t; decide⟩

theorem witness_MergeForms_ports :
    (mPred.forme? 1 = some (fm mPred) ∧ ∃ f t, mPred.gatherMerge 1 0 0 = some (f, t) ∧ ((fm mPred).run.core.elem 0 0).head? 3 f.rt = some ⟨0, dat 1, 0, 0⟩) ∧
    (mPredE.forme? 1 = some (fm mPredE) ∧ ∃ f t, mPredE.gatherMerge 1 0 0 = some (f, t) ∧ ((fm mPredE).run.core.elem 0 0).head? 3 f.rt = some ⟨0, .eos, 0, 0⟩) ∧
    (∀ s ∈ [world (mAnyP .eos 0), world (pooled rM [some (dat 1), some .null])], s.homeReady 0 0 0 = true) :=
  ⟨⟨by decide, (got (f0, mPred) (mPred.gatherMerge 1 0 0)).1, (got (f0, mPred) (mPred.gatherMerge 1 0 0)).2, by decide⟩,
    ⟨by decide, (got (f0, mPredE) (mPredE.gatherMerge 1 0 0)).1, (got (f0, mPredE) (mPredE.gatherMerge 1 0 0)).2, by decide⟩, by decide⟩

/-- EOSWAIT, WINDOW and MERGE in a tile whose spill area is ready. -/
theorem witness_Homes :
    (let s := world (pooled rM [some (dat 1), some .null])
     (s.gather rM).isSome = true ∧ ((firing s rM).port rM 0).flag ≠ .eos ∧ (after s rM).homeReady ((firing s rM).tile / 32) 0 ((firing s rM).tile / 32) = true) ∧
    (let s := world (pooled rM [some (dat 1), none])
     ∃ i g, (s.tile 0).ready = [i] ∧ i.node = 1 ∧ i.tag = placedTag ∧ (s.tile 0).header? 1 = some 0 ∧ (s.tile 0).galley? 0 placedTag = some g ∧
       i.p0 = some (dat 1) ∧ i.p1 = none ∧ (s.tile 0).marks.throttle = false ∧ ((s.tile 0).counter 1 placedTag).count.toNat < (1 : BitVec 8).toNat ∧
       s.homeReady 0 0 0 = true) ∧
    (let s := pinned false (sh 1 false 0xF000) [some (dat 1)]
     (s.gather (sh 1 false 0xF000)).isSome = true ∧ ((after s (sh 1 false 0xF000)).route 1 0).valid = false ∧ (fm (after s (sh 1 false 0xF000))).cfg.stream = false) :=
  ⟨by decide, ⟨((world (pooled rM [some (dat 1), none])).tile 0).ready.headD { node := 0, tag := 0 },
    (((world (pooled rM [some (dat 1), none])).tile 0).galley? 0 placedTag).getD { hdr := 9, tag := 0, seq := 0 }, by decide⟩, by decide⟩

/-- A younger load of the word read it before a write, and the instance has accepted a token since. -/
def overtook : State := galleyAs sX fun g => { g with heard := 9, seen := [seen1] }
theorem witness_Loads_again :
    ((after sX rX).overtaken (firing sX rX) gX 0 (obj1 8) 4 = none ∧ ∀ e ∈ [(0, obj1 0), (1, obj1 2)], (after sX rX).overtaken (firing sX rX) gX 0 e.2 2 = none) ∧
    (Fires overtook rX (firing overtook rX) (after overtook rX) ∧ ∃ g o, (after overtook rX).galleyOf (firing overtook rX) = some g ∧
      (after overtook rX).overtaken (firing overtook rX) g 1 (obj1 8) 4 = some o ∧ o.seq = g.seq) :=
  ⟨by decide, fires_of (by decide), got gX ((after overtook rX).galleyOf (firing overtook rX)),
    got gX ((after overtook rX).overtaken (firing overtook rX) (got gX ((after overtook rX).galleyOf (firing overtook rX))) 1 (obj1 8) 4), by decide⟩

/-- A round-mode forme, and one whose partition stages nothing. -/
def noStage (s : State) : State := { s with parts := s.parts.map fun q => { q with stgsz := 0 } }
theorem witness_TileAccess_room :
    ((fm (after sXr rX)).cfg.stream = false ∧ (after sXr rX).stageRoom 0 4 = true ∧ (after sXr rX).stageRoom 0 (2 * 2) = true) ∧
    (Fires (noStage sXr) rX (firing (noStage sXr) rX) (after (noStage sXr) rX) ∧ (after (noStage sXr) rX).stageRoom 0 4 = false ∧
      (fm (after (noStage sXr) rX)).cfg.stream = false) := ⟨by decide, fires_of (by decide), by decide⟩

theorem witness_AgControls_first :
    (let s := pinned true (sh 1 false rAg.dsta) [some .eos]
     let r := sh 1 false rAg.dsta
     (s.gather r).isSome = true ∧ ((fm (after s r)).rtState 0 0 0).index = 0 ∧ (fm (after s r)).dest 0 0 r.dsta = .ag 0 1 ∧
       (((fm (after s r)).run.core.ag 0).input 1).length < 8) ∧
    (let s := { pinned true rAg1 [some .eos] with formes := [{ fm (pinned true rAg1 [some .eos]) with run := { core := { elems :=
                  [{ x := 0, y := 0, q0 := [{ rt := 0, tok := .eos }], rts := [{ rt := 0, lfsr := 1, index := 4 }] }] } } }] }
     (s.gather rAg1).isSome = true ∧ ((fm (after s rAg1)).rtState 0 0 0).index ≠ 0) := by decide

theorem witness_SyncRecords_ends :
    (∀ t ∈ [Tok.eos, .null, .dormant, dat 1], let s := pinned false rT [some t]
      (s.gather rT).isSome = true ∧ (after s rT).forme? (firing s rT).h = some (fm (after s rT)) ∧ (fm (after s rT)).run.core.ends = []) ∧
    (let s := oneForme (pinned false rT [some (dat 1)]) fun f => { f with run := { f.run with core := { f.run.core with ends := [(0, 0, 3)] } } }
     (s.gather rT).isSome = true ∧ ∃ e ∈ (fm (after s rT)).run.core.ends, e.1 = (firing s rT).x ∧ e.2.1 = (firing s rT).y) ∧
    (((after sX rX).tile 0).mustAwait gX 1 = false) := by decide

theorem witness_MatrixRecords_waits :
    (let s := onTile (sMM 1) fun d => { d with
       nodes := d.nodes.map fun e => if e.1 = 1 then (1, (encode (.mma .e4m3 0 0 rMM)).getD 0) else e
       ready := { node := 1, tag := tag16, age := 0, issue := some ⟨0, false, false⟩, parked := true } :: d.ready.map fun i => { i with age := 5, issue := some ⟨4, false, false⟩ } }
     (s.gather rMM).isSome = true ∧ s.mmaAhead false = true ∧ s.mmaAhead true = true) ∧
    sX.mmaAhead true = false := by decide


/-- A record of the committing galley of `sX`, with the bytes that its checks read. -/
def prep (i : Instr) (a b c : Word) (n : Nat) : Prepared := { act := { node := 1, lsid := 0, instr := i, a := a, b := b, c := c, obj := 1, off := 0 }, bytes := leBytes 64 n }
/-- Die 0 of `sX`, changed. -/
def onDie (s : State) (g : Die → Die) : State := { s with dies := s.dies.map fun d => if d.i = 0 then g d else d }
def onPart (s : State) (g : Part → Part) : State := { s with parts := s.parts.map fun q => if q.p = 0 then g q else q }
def copyNo (k : Nat) : CopyJob := { copy0 with id := k }
def homeOne : QueueHome := { va := BitVec.ofNat 64 (2 ^ 40), part := 0, open_ := [(5, 1, false)] }
/-- A LOFFER descriptor of one granule of object 1 with a read and write bandwidth. -/
def offerDesc (rbw : Nat) : Nat := 2 ^ 40 + 1 * 2 ^ 64 + rbw * 2 ^ 144
def lentNo (k : Nat) : Lent := { lent0 .closed false with idx := k, state := .quarantined }
def withJob (lvl : Nat) (valid : Bool) : State := onPart sX fun q => q.setJob { j := 2, valid := valid, level := lvl, nlevm1 := 3 }

theorem witness_DeferredRecords_engines :
    (∃ d, (onDie sX fun d => { d with copies := (List.range 16).map copyNo }).die? 0 = some d ∧ ∀ k < 16, ∃ x ∈ d.copies, x.id = k) ∧
    (∃ d, (onDie sX fun d => { d with copies := [copyNo 0] }).die? 0 = some d ∧ (∀ x ∈ d.copies, x.id ≠ 1) ∧ ∀ j < 1, ∃ x ∈ d.copies, x.id = j) ∧
    (∃ q, (onPart sX fun q => { q with homes := [homeOne] }).part? 0 = some q ∧ (∃ o ∈ (q.home (BitVec.ofNat 64 (2 ^ 40))).open_, o.1 = 5 ∧ o.2.2 = false) ∧
      ∀ o ∈ (q.home (BitVec.ofNat 64 (2 ^ 40))).open_, ¬(o.1 = 6 ∧ o.2.2 = false)) ∧
    (let s := twoGranules sX
     let p := prep (.loffer rX) 0 0 0 (offerDesc 100)
     ∃ d o e y, s.die? 0 = some d ∧ s.oneExtent 0 (Addr.ofVa (BitVec.ofNat 64 (bits 0 64 (leNat p.bytes)))) (bits 64 32 (leNat p.bytes) * 2 ^ 21) = some (o, e, y) ∧
       o.pl = true ∧ y.tier = 0 ∧ y.loc % 4 = 0 ∧ 1 ≤ bits 64 32 (leNat p.bytes) ∧ (Addr.ofVa (BitVec.ofNat 64 (bits 0 64 (leNat p.bytes)))).off.toNat % 2 ^ 21 = 0 ∧
       bits 144 16 (leNat p.bytes) = 100 ∧ d.rbwSum + 100 ≤ 400 ∧ d.lease? 0 = none ∧ ((s.leaseOffer 0 1 0 (leNat p.bytes)).1.demandRun 0 256).isSome = true) ∧
    (bits 144 16 (leNat (prep (.loffer rX) 0 0 0 (offerDesc 99)).bytes) = 99 ∧ sX.oneExtent 0 (obj1 0) (2 ^ 21) = none) ∧
    (∃ d, (onDie (twoGranules sX) fun d => { d with lent := (List.range 256).map lentNo }).die? 0 = some d ∧ d.rbwSum + 100 ≤ 400 ∧
      ∀ k < 256, (d.lease? k).isSome = true) ∧
    (sX.reachable (bits 128 10 (2 ^ 40 + 5 * 2 ^ 128)) = false ∧
      ({ sX with fijId := 1, routes := [(5, BitVec.ofNat 64 (2 ^ 63 + 1))], links := [{ n := 16, up := true }] } : State).reachable (bits 128 10 (2 ^ 40 + 5 * 2 ^ 128)) = true) ∧
    (∃ d, (lending (lent0 .taken false)).die? (0 / 256) = some d ∧ d.lease? 0 = some (lent0 .taken false) ∧ (lent0 .taken false).state = .taken) ∧
    (∀ d l, sX.die? (1023 / 256) = some d → d.lease? (1023 % 256) = some l → l.state ≠ .taken) ∧
    (∀ lvl ∈ [0, 2], ∃ q j, (withJob lvl true).part? 0 = some q ∧ q.job? 2 = some j ∧ j.valid = true ∧ max j.level (j.request.getD 0) = lvl ∧ j.nlevm1 = 3) ∧
    (∃ q j, (withJob 0 false).part? 0 = some q ∧ q.job? 2 = some j ∧ j.valid = false) := by
  refine ⟨⟨got { i := 9 } ((onDie sX fun d => { d with copies := (List.range 16).map copyNo }).die? 0), by decide +kernel⟩,
    ⟨got { i := 9 } ((onDie sX fun d => { d with copies := [copyNo 0] }).die? 0), by decide⟩,
    ⟨got { p := 9 } ((onPart sX fun q => { q with homes := [homeOne] }).part? 0), by decide⟩,
    ⟨got { i := 9 } ((twoGranules sX).die? 0), (got (⟨0, false, false, false, false, false, 0, 0, 0, 0⟩, 0, ⟨0, 0, 0, 0, 0, false⟩) ((twoGranules sX).oneExtent 0 (obj1 0) (2 ^ 21))).1,
      (got (⟨0, false, false, false, false, false, 0, 0, 0, 0⟩, 0, ⟨0, 0, 0, 0, 0, false⟩) ((twoGranules sX).oneExtent 0 (obj1 0) (2 ^ 21))).2.1,
      (got (⟨0, false, false, false, false, false, 0, 0, 0, 0⟩, 0, ⟨0, 0, 0, 0, 0, false⟩) ((twoGranules sX).oneExtent 0 (obj1 0) (2 ^ 21))).2.2, by decide +kernel⟩,
    by decide +kernel, ⟨got { i := 9 } ((onDie (twoGranules sX) fun d => { d with lent := (List.range 256).map lentNo }).die? 0), by decide +kernel⟩, by decide +kernel,
    ⟨got { i := 9 } ((lending (lent0 .taken false)).die? 0), by decide⟩, ?_, ?_,
    ⟨got { p := 9 } ((withJob 0 false).part? 0), got { j := 9 } ((got { p := 9 } ((withJob 0 false).part? 0)).job? 2), by decide⟩⟩
  · intro d l h g
    have e : sX.die? (1023 / 256) = some { i := 3 } := by decide
    rw [e] at h; cases h
    have z : ({ i := 3 } : Die).lease? (1023 % 256) = none := by decide
    rw [z] at g; cases g
  · intro lvl h
    exact ⟨got { p := 9 } ((withJob lvl true).part? 0), got { j := 9 } ((got { p := 9 } ((withJob lvl true).part? 0)).job? 2), by revert lvl; decide⟩

/-- An overlay of one record that no queue or instance names, at node 16, and one at the galley's nodes. -/
def overlaid : State := onTile sX fun d => { d with overlays := [{ base := 16, len := 1 }, { base := 1, len := 1 }], nodes := d.nodes ++ [(16, addWord)] }
/-- A galley of a header and a NEXTG record, as the two records lie in memory. -/
def ovlBytes : List Byte := leBytes 12 placedHeader.toNat ++ leBytes 12 0x7C00_0100_FFFF_FFFF_0000_0000
/-- The image of the live forme of `sXs`. -/
def cfgX : FormeCfg := (fm sXs).cfg
theorem witness_DeferredRecords_formes :
    (bits 8 23 (0x100 : Word).toNat ≠ 0 ∧ bits 8 23 (0x80000000 : Word).toNat = 0) ∧
    ((({ prep (.fload rX) 0 0 0x80000000 0 with image := some .noPerm } : Prepared).image = some .noPerm) ∧
      ({ prep (.fload rX) 0 0 0x80000000 0 with image := some (.ok cfgX) } : Prepared).image = some (.ok cfgX)) ∧
    (({ sX with readyBays := 0xFFFF } : State).takeChase 0 1 cfgX 0x80000000).isSome = true ∧
    (sX.forme? 2 = none ∧ (swapping sQuiet .idle).forme? 2 = some (fm2 (swapping sQuiet .idle)) ∧ (fm2 (swapping sQuiet .idle)).part = 0 ∧
      (fm2 (swapping sQuiet .idle)).status = .standing ∧ (swapping sQuiet .idle).chaseBusy (fm2 (swapping sQuiet .idle)) = false ∧
      (swapping sQuiet .waiting).chaseBusy (fm2 (swapping sQuiet .waiting)) = true ∧ (swapping sQuiet .waiting).forme? 2 = some (fm2 (swapping sQuiet .waiting))) ∧
    (sX.markable 0 1 = none ∧ sQuiet.markable 0 1 = some (fm sQuiet)) ∧
    (checkOverlay (overlayWords ovlBytes) = none ∧ (∃ f, checkOverlay (overlayWords []) = some f ∧
      (sX.postIllegal false 0 1 0 f false).isSome = true) ∧ (sX.placeOverlay 0 (overlayWords ovlBytes) none).isSome = true ∧
      ((onTile sX fun d => { d with overlays := [{ base := 0, len := 16384 }] }).placeOverlay 0 (overlayWords ovlBytes) none) = none) ∧
    ((∀ o ∈ (overlaid.tile 0).overlays, o.base ≠ 17) ∧ ((overlaid.tile 0).overlays.find? fun o => o.base == 16) = some { base := 16, len := 1 } ∧
      overlaid.overlayNamed 0 { base := 16, len := 1 } = false ∧ ((overlaid.tile 0).overlays.find? fun o => o.base == 1) = some { base := 1, len := 1 } ∧
      overlaid.overlayNamed 0 { base := 1, len := 1 } = true) ∧
    (sX.snapImage 0 2 = none ∧ sQuiet.snapImage 0 1 = some (fm sQuiet).image) :=
  ⟨by decide, by decide, by decide +kernel, by decide, by decide, by decide +kernel, by decide, by decide, rfl⟩

theorem witness_DeferredRecords_system :
    (sX.ctx? 1 = some placedCtx ∧ placedCtx.dbg = false ∧ placedCtx.state ≠ .faulted ∧ ({ sX with ctxs := [{ placedCtx with dbg := true }] } : State).ctx? 1 = some { placedCtx with dbg := true }) ∧
    (∀ b, b = false ∨ b = true → ((sX.setCtx { placedCtx with trapHold := true, dbg := b }).postFault { ctx := 1, src := 1, srcid := 0, cls := clsTrap, prec := 5, loc := 1 }
      (7 * 2 ^ 176 + 8 * 2 ^ 144 + atBit 143 b) false (.trapped 0 placedTag)).isSome = true) ∧
    ((sX.setCtx { placedCtx with state := .halted }).postEvent 1 6 0 0 8).isSome = true ∧
    (∃ i : BitVec 16, regShort i.toNat = false ∧ ∃ j : BitVec 16, regShort j.toNat = true ∧
      (sX.regWrite { part := 0, ctx := some 1, tile := some 0 } i.toNat 5).isSome = true ∧ (sX.regWrite { part := 0, ctx := some 1, tile := some 0 } j.toNat 5).isSome = true) ∧
    (∃ q r, ({ s := sX } : Done).s.readNow 0 1 (prep (.lquery rX) 0 0 0 0) = some (.ok q) ∧ sX.performAct 0 gX q = some (.ok r)) :=
  ⟨by decide, by rintro b (rfl | rfl) <;> decide +kernel, by decide +kernel, ⟨0x100, by decide, 0x107, by decide, by decide +kernel, by decide +kernel⟩,
    prep (.lquery rX) 0 0 0 0, (sX, none, 0), by decide⟩


theorem witness_FaultReturn_killed :
    (let s := oneForme sXs fun f => { f with status := .killed }
     s.forme? 1 = some (fm s) ∧ (fm s).status = .killed ∧ s.meets (fm s).die (fm s).cfg (fm s).bx (fm s).oy = []) ∧
    (let s := oneForme sQuiet fun f => { f with status := .killed }
     let s := { s with formes := s.formes ++ [{ fm sQuiet with handle := 2 }] }
     s.forme? 1 = some (fm s) ∧ (fm s).status = .killed ∧ ∃ o ∈ s.meets (fm s).die (fm s).cfg (fm s).bx (fm s).oy, o.isLive = true) :=
  ⟨by decide, by decide, by decide, ⟨fm2 { sQuiet with formes := sQuiet.formes ++ [{ fm sQuiet with handle := 2 }] }, by decide⟩⟩

theorem witness_FabricEvents_waits :
    let c := core0 252 (dat 7) 1
    sF0.limitWaits 0 (c.slot 0 2) = false ∧ sF0.limitWaits 0 (c.slot 0 0) = false ∧ sF0.limitWaits 0 slotW = false := by decide

/-- The galley of `sT`, its record under a tag of another partition's context; and two open galleys to pre-empt. -/
def elsewhere : State := { sT (tokAt 1 placedTag) with ctxs := [{ placedCtx with part := 1 }] }
def twoOpen : State := onTile spilled fun d => { d with galleys := [{ hdr := 0, tag := placedTag, seq := 3 }, { hdr := 0, tag := placedTag, seq := 2 }] }
theorem witness_TileEvents_rest :
    (∃ x, elsewhere.ctx? (tagCtx (tokAt 1 placedTag).tag) = some x ∧ x.part ≠ elsewhere.unitPart 0 ∧
      ((elsewhere.setTile { elsewhere.tile 0 with inbox := [] }).stray (elsewhere.unitPart 0) 1 0 (tokAt 1 placedTag)).isSome = true) ∧
    (let k := tokAt 1 placedTag
     let s := sT k
     ∃ g i r d st, (s.tile 0).galley? 0 k.tag = some g ∧ (s.tile 0).record? 1 = some i ∧ i.shell? = some r ∧
       ((s.setGalley 0 { g with inputs := g.inputs ++ [k], last := s.clock, heard := s.clock }).tile 0).store
         ((s.setGalley 0 { g with inputs := g.inputs ++ [k], last := s.clock, heard := s.clock }).spillRoom 0) i r k = .done d st ∧
       (s.setGalley 0 { g with inputs := g.inputs ++ [k], last := s.clock, heard := s.clock }).spillWaits d = false) ∧
    ((world spilled).homeReady 0 0 0 = true ∧ ((world spilled).tile 0).refill.isSome = true) ∧
    (∃ g ∈ (twoOpen.tile 0).openOf 1, ∀ o ∈ (twoOpen.tile 0).openOf 1, o = g ∨ g.seq < o.seq) ∧
    (∀ g ∈ (twoOpen.tile 0).openOf 1, ((twoOpen.tile 0).redone.filter fun r => r == (g.hdr, g.tag)).length < 3) ∧
    (twoOpen.ctx? 1 = some placedCtx ∧ placedCtx.part = twoOpen.unitPart 0 ∧ ∀ p ∈ (twoOpen.tile 0).savedPools, p.ctx ≠ 1) := by
  refine ⟨⟨{ placedCtx with part := 1 }, by decide +kernel⟩, ?_, by decide, ⟨{ hdr := 0, tag := placedTag, seq := 2 }, by decide⟩, by decide, by decide⟩
  let k := tokAt 1 placedTag
  let s := sT k
  let g : Galley := { gC [] with ng := 0 }
  let u := s.setGalley 0 { g with inputs := g.inputs ++ [k], last := s.clock, heard := s.clock }
  refine ⟨g, .add .i32 false ⟨3, false, none, 0, 1, 0xFFFF⟩, ⟨3, false, none, 0, 1, 0xFFFF⟩,
    (match (u.tile 0).store (u.spillRoom 0) (.add .i32 false ⟨3, false, none, 0, 1, 0xFFFF⟩) ⟨3, false, none, 0, 1, 0xFFFF⟩ k with
     | .done d _ => d
     | _ => { i := 0 }), 0, by decide, by decide, by decide, ?_, by decide⟩
  decide

/-- `sEnd` with a store and a MIN on a bay word staged; the MIN's record names its own element's tile. -/
def word1 : VA := BitVec.ofNat 64 (2 ^ 40 + 8)
def stagedSt (va : VA) : Staged := { x := 0, y := 0, rt := 0, n := 0, work := .store va [1, 2, 3, 4] }
def stagedAt : Staged := { x := 0, y := 0, rt := 0, n := 1, work := .act (.amin true .element false 0 rX) 4 7 0 }
def sStaged (l : List Staged) : State := oneForme (world sEnd) fun f => { f with run := { f.run with staging := l } }
def okOf (d : State) : Round → State
  | .ok s => s
  | _ => d
def isOk : Round → Bool
  | .ok _ => true
  | _ => false
theorem ok_of {r : Round} (d : State) (h : isOk r = true) : r = .ok (okOf d r) := by
  cases r <;> simp [okOf, isOk] at *
theorem witness_SwapAndMarkerEvents_staged :
    (let s := sStaged [stagedSt word1, stagedAt]
     let f := fm s
     let sorted := sortBy (fun (a b : Staged) => keyLt a.key b.key) f.run.staging
     let r₁ := Round.each (fun s w => s.storeNow f.part w) s f.run.staging
     let r₂ := Round.each (fun s w => s.atomicNow 1 w) (okOf s r₁) sorted
     let r₃ := Round.each (fun s w => s.syncNow 1 w) (okOf s r₂) sorted
     let r₄ := Round.each (fun s w => s.restNow 1 w) (okOf s r₃) sorted
     let r₅ := Round.each (fun s d => s.depositNow f d) (okOf s r₄) f.run.core.roundDeposits
     f.mayCommit = true ∧ Round.each (fun s a => s.handedNow 1 a) s f.run.handed = .ok s ∧ s.forme? 1 = some f ∧
       ∃ u₁ u₂ u₃ u₄ u₅, r₁ = .ok u₁ ∧ r₂ = .ok u₂ ∧ r₃ = .ok u₃ ∧ r₄ = .ok u₄ ∧ r₅ = .ok u₅ ∧
         (okOf s r₁, okOf s r₂, okOf s r₃, okOf s r₄) = (u₁, u₂, u₃, u₄)) ∧
    (let s := sStaged [stagedSt (BitVec.ofNat 64 (2 ^ 41))]
     (fm s).mayCommit = true ∧ ∃ x y c va n k, Round.each (fun s w => s.storeNow (fm s).part w) s (fm s).run.staging = .void x y c va n k ∧
       (s.faultForme 1 x y 0 c 0 (.access va n k)).isSome = true) ∧
    (world sEnd).range 0 (Addr.ofVa word1) 4 .write = .ok [(0x10008, 4)] ∧
    (stagedAt.work = .act (.amin true .element false 0 rX) 4 7 0 ∧ Instr.atomicRaw (.amin true .element false 0 rX) = some 0) := by
  refine ⟨⟨by decide, rfl, by decide, ?_⟩, ⟨by decide, ?_⟩, by decide +kernel, by decide⟩
  · exact ⟨_, _, _, _, _, ok_of (sStaged [stagedSt word1, stagedAt]) (by decide +kernel), ok_of (sStaged [stagedSt word1, stagedAt]) (by decide +kernel),
      ok_of (sStaged [stagedSt word1, stagedAt]) (by decide +kernel), ok_of (sStaged [stagedSt word1, stagedAt]) (by decide +kernel),
      ok_of (sStaged [stagedSt word1, stagedAt]) (by decide +kernel), rfl⟩
  · exact ⟨0, 0, clsTranslation, 2 ^ 41, 4, 1, rfl, by decide +kernel⟩

/-- A door that loads a forme, over the image of a stream-mode chase of one bay without records at page 1 of object 1, and over nothing. -/
def formDoor (page : Nat) : Door := { door1 .loading 0 with forme := true, image := BitVec.ofNat 64 (2 ^ 40 + 4096 * page) }
def imaged (e : Door) : State :=
  let s := dooring e (world { sXs with formes := [] })
  { s with readyBays := 0xFFFF, mem := Memory.writeN (Memory.writeN s.mem 0x1103D [128, 0, 1]) 0x1168E [0xF0] }
def readOk : Read FormeCfg → Option FormeCfg
  | .ok g => some g
  | _ => none
theorem readOk_of {r : Read FormeCfg} {g : FormeCfg} (h : readOk r = some g) : r = .ok g := by
  cases r <;> simp_all [readOk]
def cfgImg : FormeCfg := { w := 1, h := 1, stream := true, fseed := 0 }
/-- A taken chase: the handle, the state, the forme. -/
def chaseOf (s : State) : Option (Nat × State × Forme) :=
  ((s.takeChase 0 1 cfgImg autoPlace).bind id).bind fun r => (r.2.forme? r.1).map fun f => (r.1, r.2, f)
/-- The same with a live forme on the whole die, of a context of priority `n`; that of the door has priority 3. -/
def crowded (n : Nat) : State :=
  { imaged (formDoor 1) with
    formes := [{ fm sXs with ctx := 2, run := {}, cfg := { cfgImg with w := 16, h := 16 } }]
    ctxs := [{ placedCtx with prio := 3 }, { placedCtx with id := 2, prio := n }] }
theorem witness_LaunchEvents_formeDoor :
    (let s := imaged (formDoor 1)
     let e := (part0 s).door 0
     e.state = .loading ∧ e.forme = true ∧ s.readImage 0 e.image = .ok cfgImg ∧
       ∃ h v f, s.takeChase 0 1 cfgImg autoPlace = some (some (h, v)) ∧ v.forme? h = some f ∧
         ((v.setForme { f with status := .entering, run := cfgImg.start, door := some e.d, since := v.clock }).doorDone 0 { e with base := h }).isSome = true) ∧
    ((crowded 2).takeChase 0 1 cfgImg autoPlace = none ∧ (crowded 3).takeChase 0 1 cfgImg autoPlace = some none ∧
      ∀ n, n = 2 ∨ n = 3 → (crowded n).readImage 0 ((part0 (crowded n)).door 0).image = .ok cfgImg) ∧
    (let s := imaged (formDoor 0)
     let e := (part0 s).door 0
     ∃ b, s.readImage 0 e.image = .bad b ∧ (s.postIllegal true 0 e.ctx.toNat e.d b).isSome = true) ∧
    (let s := imaged (formDoor (2 ^ 28))
     let e := (part0 s).door 0
     ∃ c va, s.readImage 0 e.image = .fault c va ∧ (s.doorFault 0 e c va).isSome = true) := by
  have c : (chaseOf (imaged (formDoor 1))).map (fun r => ((r.2.1.setForme { r.2.2 with status := .entering, run := cfgImg.start, door := some 0, since := r.2.1.clock }).doorDone 0
      { (part0 (imaged (formDoor 1))).door 0 with base := r.1 }).isSome) = some true := by decide +kernel
  refine ⟨⟨by decide, by decide, readOk_of (by decide +kernel), ?_⟩, ⟨by decide +kernel, by decide +kernel, ?_⟩, ⟨outside 2, by decide +kernel⟩,
    ⟨clsTranslation, 2 ^ 41, by decide +kernel⟩⟩
  · obtain ⟨r, e, d⟩ := Option.map_eq_some_iff.1 c
    simp only [chaseOf, Option.bind_eq_some_iff, Option.map_eq_some_iff] at e
    obtain ⟨q, ⟨o, a, b⟩, f, g, e⟩ := e
    cases e
    cases b
    exact ⟨q.1, q.2, f, a, g, d⟩
  · rintro n (rfl | rfl) <;> exact readOk_of (by decide +kernel)


/-- A door that loads an overlay of a galley at byte 0 of object 1, or of nothing readable as one. -/
def overlaying (s : State) (good : Bool) : State :=
  let s := dooring { door1 .loading 0 with nrec := 2 } s
  { s with mem := if good then Memory.writeN s.mem 0x10000 ovlBytes else s.mem }
/-- Tile 0 full, the others too few nodes. -/
def fullTiles (s : State) : State := { s with tiles := (List.range 32).map fun i => { i := i, overlays := [{ base := 0, len := 16384 }] } }
def noWords : List Byte := List.replicate 24 0
theorem witness_LaunchEvents_overlayDoor :
    (∀ g, g = false ∨ g = true → let s := overlaying (world sXs) g
      let e := (part0 s).door 0
      e.state = .loading ∧ e.forme = false ∧ e.nrec = 2 ∧ s.fetchRange 0 (Addr.ofVa e.image) (12 * e.nrec) .exec = some (.ok (if g then ovlBytes else noWords))) ∧
    checkOverlay (overlayWords ovlBytes) = none ∧
    (let s := overlaying (world sXs) false
     ∃ r, checkOverlay (overlayWords noWords) = some r ∧ (s.postIllegal true 0 1 0 r).isSome = true) ∧
    (let s := overlaying (world sXs) true
     ∃ t, s.roomiest 0 2 = some t ∧ ((s.placeOverlay t (overlayWords ovlBytes) (some 0)).bind fun r =>
       r.2.doorDone 0 { (part0 s).door 0 with base := r.1, tile := t % 32 }).isSome = true) ∧
    (∀ n, n = 0 ∨ n = 65535 → let s : State := { fullTiles (overlaying (world sXs) true) with readyBays := BitVec.ofNat _ n }
      s.roomiest 0 2 = none ∧ s.tileToCome 0 2 = false ∧ s.fetchRange 0 (Addr.ofVa ((part0 s).door 0).image) 24 .exec = some (.ok ovlBytes)) ∧
    (let s : State := { overlaying (world sXs) true with readyBays := 0 }
     s.roomiest 0 2 = none ∧ s.tileToCome 0 2 = true ∧ s.fetchRange 0 (Addr.ofVa ((part0 s).door 0).image) 24 .exec = some (.ok ovlBytes)) ∧
    ((door1 .loading 0).pending = none) := by
  refine ⟨?_, by decide, ⟨⟨0, 4, 0⟩, by decide +kernel⟩, ⟨0, by decide +kernel⟩, ?_, by decide +kernel, by decide⟩
  · rintro g (rfl | rfl) <;> decide +kernel
  · rintro n (rfl | rfl) <;> decide +kernel

theorem witness_LaunchEvents_restore :
    let f : Forme := { fm sXs with status := .swapped none, cfg := cfgImg }
    let s : State := { world sXs with formes := [f], readyBays := 0xFFFF }
    s.forme? 1 = some f ∧ f.isSwapped 0 = true ∧ s.doorAhead 0 (s.prio f.ctx) = false ∧ (s.originFor 0 f.cfg true).isSome = true := by decide +kernel

theorem witness_RegisterEvents_bar :
    State.reset.barShown = false ∧ State.reset.part? 0 = some { p := 0 } ∧ (world State.reset).barShown = true ∧
    ((world State.reset).part? 0).isSome = true ∧
    (((changed true false).obj? 0 1).any fun o => (changed true false).windowsLeft 0 1 ((changed true false).changePages 0 o 0)) = false ∧
    (∃ y, reportByte y = true) := by
  exact ⟨by decide, by decide, by decide, by decide, by decide +kernel, ⟨bringUp + 0x3F00000, by decide +kernel⟩⟩

/-- Package 16's link joins this one to package 5, whose route is on it; a write-back lease of it that is to be pushed. -/
def joined (up : Bool) (l : Lent) : State := { lending l with links := [{ n := 16, up := up }] }
theorem witness_ModuleEvents_rest :
    (({ State.reset with fwst := .check } : State).homeReady 0 0 0 = false ∧ ({ world State.reset with fwst := .check } : State).homeReady 0 0 0 = true) ∧
    ((world State.reset).trainsLater 7 = false ∧ State.reset.trainsLater 4 = false ∧ (world State.reset).unitCode 7 ≠ 2) ∧
    (let s := { State.reset with links := [{ n := 16, up := true, peer := 3 }] }
     let l : LinkState := { n := 16, up := true, peer := 3 }
     let v : State := { (s.setLink { l with up := false, retraining := false }).notice with readyUnits := assign (entryOfLink 16) 0 s.readyUnits }
     s.linkAt 16 = some l ∧ ((v.postParts v.allParts { ctx := 0, src := 7, srcid := (linkIndex 16).2, cls := clsLink, prec := 3 } (linkPay 16)).bind
       State.loseUnreachable).isSome = true) := ⟨by decide, by decide, by decide +kernel⟩

def lent5 (pushed : Bool) : Lent := { lent0 .reclaiming false with borrower := 5, pushed := pushed }
theorem witness_LeaseEvents_rest :
    (let l := lent5 false
     let s := joined false l
     s.lent? 0 0 = some l ∧ s.fallbackReached l = false ∧
       ((({ s with mem := Memory.clear s.mem (spaceBase 0 0 + l.page * 4096) (l.gran * 2 ^ 21) } : State).setLent 0
         { l with state := .quarantined, pushed := false }).returned 0 l.gran |>.lentEvent 0 l 18).isSome = true) ∧
    (let l := lent5 false
     let s := joined true l
     s.lent? 0 0 = some l ∧ s.fallbackReached l = true ∧ l.dirty ≠ [] ∧
       (((((sortBy (fun a b => decide (a < b)) l.dirty).foldl (fun v p => v.sendPush 0 l p) s).setLent 0
         { l with state := .quarantined, pushed := true }).returned 0 l.gran).lentEvent 0 l 18).isSome = true) ∧
    (let l := lent5 true
     let s := joined false l
     s.lent? 0 0 = some l ∧ s.reachable l.borrower = false ∧
       (((s.setLent 0 { l with state := .quarantined, pushed := true }).returned 0 l.gran).lentEvent 0 l 18).isSome = true) ∧
    ((copying.die? 0).bind fun d => d.served 0) = some copy0 := by
  decide +kernel

theorem witness_ImmediateRecords_follows : ∀ n : Word, n = 5 ∨ n = 6 → (after (sQu n) rX).follows (firing (sQu n) rX) = false := by
  rintro n (rfl | rfl) <;> decide

end Sys2Proof.Tests
end

/-! # The state after power-up reset (R8) -/

namespace Sys2Proof.Machine

/-- Partition `p` of the reset state has every register at its reset value. -/
theorem State.reset_part? {p : Nat} (hp : p < 16) : State.reset.part? p = some { p := p } := by
  have hfind : (List.range 16).find? (fun q => q == p) = some p := by
    rw [List.find?_range_eq_some]
    exact ⟨beq_self_eq_true p, List.mem_range.2 hp, fun j hj => by simpa using Nat.ne_of_lt hj⟩
  have hparts : State.reset.parts = (List.range 16).map fun q => { p := q } := rfl
  rw [State.part?, hparts, List.find?_map, Function.comp_def, hfind]
  rfl

/-- No die of the reset state is split. -/
theorem State.reset_split {d : Nat} (hd : d < 4) : State.reset.split d = 0 := by
  interval_cases d <;> rfl

/-- A tile of the reset state is one that nothing has touched. -/
@[simp] theorem State.reset_tile (t : Nat) : State.reset.tile t = { i := t } := rfl

@[simp] theorem State.reset_ctx? (c : Nat) : State.reset.ctx? c = none := rfl
@[simp] theorem State.reset_forme? (h : Nat) : State.reset.forme? h = none := rfl
@[simp] theorem State.reset_unitReady (e : Nat) : State.reset.unitReady e = false := rfl
@[simp] theorem State.reset_mem : State.reset.mem = [] := rfl
@[simp] theorem State.reset_formes : State.reset.formes = [] := rfl

@[simp] theorem Memory.read_nil (a : Nat) : Memory.read [] a = 0 := rfl

/-- Settles O1: the registers hold the reset values, and the lookups that range over an index give the default of what was never
touched. -/
theorem resetState : Obligations.ResetState := by
  unfold Obligations.ResetState
  refine ⟨rfl, State.reset_unitReady, rfl, rfl, rfl, rfl, fun d hd => State.reset_split hd, State.reset_ctx?, State.reset_forme?,
    fun t => ?tile, fun p hp => ?part⟩
  case tile => rw [State.reset_tile]; exact ⟨rfl, rfl, rfl⟩
  case part => exact ⟨{ p := p }, State.reset_part? hp, rfl, rfl, rfl, rfl⟩

/-- Settles O2: the reset memory is the empty list, and there is no forme whose tile memories could differ from that form. -/
theorem resetMemoryCanonical : Obligations.ResetMemoryCanonical := by
  unfold Obligations.ResetMemoryCanonical
  refine ⟨?wf, fun a => ?read, fun f hf => ?tiles⟩
  case wf => rw [State.reset_mem]; exact Memory.wf_nil
  case read => rw [State.reset_mem, Memory.read_nil]
  case tiles => rw [State.reset_formes] at hf; exact absurd hf List.not_mem_nil

end Sys2Proof.Machine

/-! # What a galley load reads (R153, R156, R268, R269) -/

namespace Sys2Proof.Machine

/-! ## Bytes of numbers and of memory -/

theorem Memory.readN_eq_map (m : Memory) (a n : Nat) : m.readN a n = (List.range n).map fun i => m.read (a + i) := by
  induction n generalizing a with
  | zero => rfl
  | succ n ih =>
    rw [Memory.readN, ih, List.range_succ_eq_map, List.map_cons, List.map_map]
    congr 1
    exact List.map_congr_left fun i _ => congrArg m.read (by omega)

theorem leBytes_eq_map (n a : Nat) : leBytes n a = (List.range n).map fun i => BitVec.ofNat 8 (a / 256 ^ i) := by
  induction n generalizing a with
  | zero => rfl
  | succ n ih =>
    rw [leBytes, ih, List.range_succ_eq_map, List.map_cons, List.map_map, Nat.pow_zero, Nat.div_one]
    congr 1
    exact List.map_congr_left fun i _ => by simp only [Function.comp_apply, Nat.div_div_eq_div_mul, Nat.pow_succ']

/-- The little-endian bytes of a number give back what fits in them (R5). -/
theorem leNat_leBytes (n a : Nat) : leNat (leBytes n a) = a % 256 ^ n := by
  induction n generalizing a with
  | zero => rw [Nat.pow_zero, Nat.mod_one]; rfl
  | succ n ih => rw [leBytes, leNat, ih, BitVec.toNat_ofNat, pow_succ' 256 n, Nat.mod_mul]

/-! ## Forwarding from older stores -/

@[simp] theorem forwardByte_nil (obj : Nat) (off : Int) (m : Byte) : forwardByte [] obj off m = m := rfl

/-- A byte that the only older store wrote is that byte of its value, whatever memory holds. -/
theorem forwardByte_of_covers {a : Act} {i : Nat} (hi : i < a.size) (m : Byte) :
    forwardByte [a] a.obj (a.off + i) m = BitVec.ofNat 8 (a.a.toNat / 256 ^ i) := by
  simp [forwardByte, hi]

/-- No store of a list is older than (galley, LSID). -/
theorem olderOf_eq_nil {l : List (Nat × Act)} {seq lsid : Nat} (h : ∀ e ∈ l, ¬(e.1 < seq ∨ (e.1 = seq ∧ e.2.lsid < lsid))) :
    olderOf l seq lsid = [] := by
  rw [olderOf, List.map_eq_nil_iff, List.filter_eq_nil_iff]
  intro e he
  simpa using h e he

/-! ## Words that a younger load has read -/

theorem foldl_pick_mem {α : Type} (lt : α → α → Bool) (l : List α) (a : α) :
    l.foldl (fun best b => if lt b best then b else best) a ∈ a :: l := by
  induction l generalizing a with
  | nil => exact List.mem_cons_self
  | cons b l ih =>
    rw [List.foldl_cons]
    split
    · exact List.mem_cons_of_mem a (ih b)
    · rcases List.mem_cons.1 (ih a) with h | h
      · rw [h]; exact List.mem_cons_self
      · exact List.mem_cons_of_mem a (List.mem_cons_of_mem b h)

theorem leastBy_mem {α : Type} {lt : α → α → Bool} {l : List α} {a : α} (h : leastBy lt l = some a) : a ∈ l := by
  cases l with
  | nil => exact absurd h (by simp [leastBy])
  | cons b l =>
    rw [leastBy, Option.some.injEq] at h
    rw [← h]
    exact foldl_pick_mem lt l b

/-- The word that an older load takes over was noted by an open galley of the context for a younger load of the same word (R268). -/
theorem DTile.seenFor_younger {d : DTile} {g : Galley} {lsid : Nat} {x : Addr} {v : Seen} (h : d.seenFor g lsid x = some v) :
    ∃ o ∈ d.openOf (tagCtx g.tag), v ∈ o.seen ∧ (g.seq < o.seq ∨ (o.seq = g.seq ∧ lsid < v.lsid)) ∧ v.obj = x.obj ∧
      v.off = x.off.toNat / 4 * 4 := by
  obtain ⟨o, ho, hv⟩ := List.mem_flatMap.1 (leastBy_mem h)
  obtain ⟨hmem, hkeep⟩ := List.mem_filter.1 hv
  simp only [Bool.and_eq_true, Bool.or_eq_true, decide_eq_true_eq, beq_iff_eq] at hkeep
  obtain ⟨⟨hyoung, hobj⟩, hoff⟩ := hkeep
  exact ⟨o, ho, hmem, hyoung, hobj, hoff⟩

/-- With no store older than the load, a word as it was seen gives its own bytes. -/
theorem Seen.read_of_no_older {v : Seen} {seq lsid : Nat} (x : Addr) (size : Nat)
    (h : ∀ e ∈ v.stores, ¬(e.1 < seq ∨ (e.1 = seq ∧ e.2.lsid < lsid))) :
    v.read seq lsid x size = leNat ((List.range size).map fun k => v.mem.getD (x.off.toNat % 4 + k) 0) := by
  simp only [Seen.read, olderOf_eq_nil h, forwardByte_nil]

/-! ## Waiting for records with .ACQ -/

/-- A record that acquires and has not fired has not been performed. -/
theorem DTile.unperformed_of_not_fired {d : DTile} {o : Galley} {n : Nat} {i : Instr} (hi : d.record? n = some i)
    (hacq : Instr.acquires i = true) (hpast : o.past.contains n = false) : d.unperformed o n = true := by
  simp only [DTile.unperformed, hi, hacq, hpast, Bool.not_false, Bool.true_or, Bool.and_self]

/-- An access has to wait for an unperformed acquire of an earlier galley, or one before it in its own (R153). -/
theorem DTile.mustFollow_of_unperformed {d : DTile} {g o : Galley} {n node : Nat} (ho : o ∈ d.openOf (tagCtx g.tag))
    (hn : n ∈ d.galleyNodes o.hdr) (hu : d.unperformed o n = true)
    (hbefore : o.seq < g.seq ∨ (o.seq = g.seq ∧ d.comesBefore g.hdr n node = true)) : d.mustFollow g node = true := by
  refine List.any_eq_true.2 ⟨o, ho, List.any_eq_true.2 ⟨n, hn, ?_⟩⟩
  simpa only [hu, Bool.true_and, Bool.or_eq_true, Bool.and_eq_true, decide_eq_true_eq, beq_iff_eq] using hbefore

/-! ## The cases of a galley load -/

section
variable {s : State} {f : Firing} {g : Galley} {lsid size p tier : Nat} {x : Addr}

theorem State.galleyLoad_not_ready (h : (s.tile f.tile).loadReady g lsid x size = false) : s.galleyLoad f g lsid x size = none := by
  simp only [State.galleyLoad, h, Bool.not_false, Bool.true_or, if_true]

theorem State.galleyLoad_must_follow (h : (s.tile f.tile).mustFollow g f.node = true) : s.galleyLoad f g lsid x size = none := by
  simp only [State.galleyLoad, h, Bool.or_true, if_true]

/-- A load that may issue takes over the word that a younger load has read (R268). -/
theorem State.galleyLoad_seen {v : Seen} (hready : (s.tile f.tile).loadReady g lsid x size = true)
    (hfollow : (s.tile f.tile).mustFollow g f.node = false) (hx : s.translate f.part x size .read = .ok p tier)
    (hseen : (s.tile f.tile).seenFor g lsid x = some v) :
    s.galleyLoad f g lsid x size = some (.ok (v.read g.seq lsid x size)) := by
  simp [State.galleyLoad, hready, hfollow, hx, hseen]

/-- A load that may issue and whose word no younger load has read forwards each byte from the older stores, else reads memory (R156). -/
theorem State.galleyLoad_forwards (hready : (s.tile f.tile).loadReady g lsid x size = true)
    (hfollow : (s.tile f.tile).mustFollow g f.node = false) (hx : s.translate f.part x size .read = .ok p tier)
    (hseen : (s.tile f.tile).seenFor g lsid x = none) :
    s.galleyLoad f g lsid x size = some (.ok (leNat ((List.range size).map fun (i : Nat) =>
      forwardByte ((s.tile f.tile).olderStores g lsid) x.obj (x.off + (i : Int)) (Memory.read s.mem (p + i))))) := by
  simp [State.galleyLoad, hready, hfollow, hx, hseen]

end

/-- Without an older store, the forwarded bytes are those of memory. -/
theorem leNat_forward_nil (s : State) (x : Addr) (p size : Nat) :
    leNat ((List.range size).map fun (i : Nat) => forwardByte [] x.obj (x.off + (i : Int)) (Memory.read s.mem (p + i))) =
      s.readLe p size := by
  simp only [forwardByte_nil, State.readLe, Memory.readN_eq_map]

/-- One older store of exactly the bytes loaded gives its value, whatever memory holds. -/
theorem leNat_forward_store {a : Act} {x : Addr} {size : Nat} (hobj : a.obj = x.obj) (hoff : a.off = x.off) (hsize : a.size = size)
    (m : Nat → Byte) :
    leNat ((List.range size).map fun (i : Nat) => forwardByte [a] x.obj (x.off + (i : Int)) (m i)) = a.a.toNat % 256 ^ size := by
  have hbytes : ((List.range size).map fun (i : Nat) => forwardByte [a] x.obj (x.off + (i : Int)) (m i)) = leBytes size a.a.toNat := by
    rw [leBytes_eq_map, ← hobj, ← hoff]
    exact List.map_congr_left fun i hi => forwardByte_of_covers (hsize ▸ List.mem_range.1 hi) (m i)
  rw [hbytes, leNat_leBytes]

/-- Settles O34: a load waits by `loadReady` and `mustFollow`; one that may issue takes over a younger load's word, else forwards from
the older stores, which leaves memory's bytes with none and the store's bytes with one. -/
theorem loadSeesMemory : Obligations.LoadSeesMemory := by
  unfold Obligations.LoadSeesMemory
  intro s f g lsid size p tier x _ hx d
  refine ⟨State.galleyLoad_not_ready, ?earlier, ?own, fun hready hfollow => ⟨fun hseen => ⟨?memory, ?store⟩, fun v hseen => ⟨?seen, ?younger⟩⟩⟩
  case earlier =>
    intro o n i ho hseq hn hi hacq hpast
    exact State.galleyLoad_must_follow
      (DTile.mustFollow_of_unperformed ho hn (DTile.unperformed_of_not_fired hi hacq hpast) (.inl hseq))
  case own =>
    intro o n i ho hseq hn hi hacq hpast hbefore
    exact State.galleyLoad_must_follow
      (DTile.mustFollow_of_unperformed ho hn (DTile.unperformed_of_not_fired hi hacq hpast) (.inr ⟨hseq, hbefore⟩))
  case memory =>
    intro hnone
    rw [State.galleyLoad_forwards hready hfollow hx hseen, hnone, leNat_forward_nil]
  case store =>
    intro a hone hobj hoff hsize
    rw [State.galleyLoad_forwards hready hfollow hx hseen, hone, leNat_forward_store hobj hoff hsize]
  case seen =>
    intro hnone
    rw [State.galleyLoad_seen hready hfollow hx hseen, Seen.read_of_no_older x size hnone]
  case younger => exact DTile.seenFor_younger hseen

end Sys2Proof.Machine

/-! # Tile memories of a saved run (R22, R159, R246, R325) -/

namespace Sys2Proof.Machine

/-- A run whose tile memory lists a zero byte: it reads as the empty memory does, and is not its canonical form (log 3). -/
def zeroListedRun : Run := { core := { tile := [(0, 0)] } }

/-- A forme that enters its chase from the saved state of a context image. Nothing of it runs yet. -/
def enteringSaved : Forme :=
  { handle := 1, part := 0, ctx := 1, die := 0, bx := 0, oy := 0, status := .entering
    cfg := { w := 1, h := 1, stream := true, fseed := 0, saved := some zeroListedRun } }

/-- The reset state with that forme, whose first live cycle is next. -/
def beforeFirstLive : State := { State.reset with agenda := [.event (.formeFirstLiveCycle 1)], formes := [enteringSaved] }

/-- Its run and its round start are empty. -/
theorem enteringSaved_tilesCanonical : enteringSaved.tilesCanonical = true := rfl

/-- The state after the first live cycle. -/
def afterFirstLive : State :=
  { beforeFirstLive with
    clock := 1, agenda := []
    formes := [{ enteringSaved with run := zeroListedRun, status := .live, since := 1 }] }

/-- The first live cycle takes the saved run of the image as it is (`FormeCfg.start`; R246, R325). -/
theorem step_beforeFirstLive : step beforeFirstLive = .next afterFirstLive := rfl

/-- Refutes O60: the statement asks the canonical form of the runs of the formes, and not of the saved run in a forme's image
(`FormeCfg.saved`), which the first live cycle of the forme makes its run. -/
theorem not_stepKeepsTilesCanonical : ¬ Obligations.StepKeepsTilesCanonical := by
  unfold Obligations.StepKeepsTilesCanonical
  intro keeps
  have hbefore : ∀ f ∈ beforeFirstLive.formes, f.tilesCanonical = true := by
    simpa [beforeFirstLive] using enteringSaved_tilesCanonical
  have hafter := keeps beforeFirstLive afterFirstLive hbefore step_beforeFirstLive
  simp [afterFirstLive, Forme.tilesCanonical, zeroListedRun, Memory.wf] at hafter

end Sys2Proof.Machine

/-! # The ready instance that a tile issues (R42, R46, R48) -/

namespace Sys2Proof.Machine

/-! ## Least elements, and elements put in -/

/-- The chosen element has the least measure, where the order respects it. -/
theorem foldl_pick_measure_le {α : Type} {lt : α → α → Bool} {m : α → Nat} (hlt : ∀ a b, lt a b = true → m a ≤ m b)
    (hge : ∀ a b, lt a b = false → m b ≤ m a) (l : List α) (a : α) :
    ∀ x ∈ a :: l, m (l.foldl (fun best b => if lt b best then b else best) a) ≤ m x := by
  induction l generalizing a with
  | nil => simp
  | cons b l ih =>
    intro x hx
    rw [List.foldl_cons]
    cases hba : lt b a with
    | true =>
      have hle := ih b
      rcases List.mem_cons.1 hx with rfl | hx
      · exact Nat.le_trans (hle b List.mem_cons_self) (hlt b x hba)
      · exact hle x hx
    | false =>
      have hle := ih a
      rcases List.mem_cons.1 hx with rfl | hx
      · exact hle x List.mem_cons_self
      · rcases List.mem_cons.1 hx with rfl | hx
        · exact Nat.le_trans (hle a List.mem_cons_self) (hge x a hba)
        · exact hle x (List.mem_cons_of_mem a hx)

theorem leastBy_measure_le {α : Type} {lt : α → α → Bool} {m : α → Nat} (hlt : ∀ a b, lt a b = true → m a ≤ m b)
    (hge : ∀ a b, lt a b = false → m b ≤ m a) {l : List α} {q : α} (h : leastBy lt l = some q) : ∀ x ∈ l, m q ≤ m x := by
  cases l with
  | nil => simp
  | cons a l =>
    rw [leastBy, Option.some.injEq] at h
    rw [← h]
    exact foldl_pick_measure_le hlt hge l a

/-- Where the element found under `p` has the key of the one put in, and this one satisfies `p`, it is the one found then. -/
theorem find?_putBy_of_find? {α : Type} {p key : α → Bool} {a b : α} {l : List α} (hb : l.find? p = some b) (hkey : key b = true)
    (ha : p a = true) : (putBy key a l).find? p = some a := by
  induction l with
  | nil => simp at hb
  | cons c l ih =>
    unfold putBy
    cases hc : key c with
    | true => simp [ha]
    | false =>
      have hpc : p c = false := by
        cases hpc : p c with
        | false => rfl
        | true =>
          rw [List.find?_cons_of_pos hpc, Option.some.injEq] at hb
          rw [hb, hkey] at hc
          cases hc
      rw [List.find?_cons_of_neg (by simp [hpc])] at hb
      simp [hpc, ih hb]

/-! ## Ready instances -/

@[simp] theorem State.tile_i (s : State) (t : Nat) : (s.tile t).i = t := by
  unfold State.tile
  cases h : s.tiles.find? fun a => a.i == t with
  | none => rfl
  | some d => exact beq_iff_eq.1 (List.find?_some (p := fun a : DTile => a.i == t) h)

/-- A tile that is put in is the one found under its number. -/
theorem State.tile_setTile_of_i {s : State} {d : DTile} {t : Nat} (h : d.i = t) : (s.setTile d).tile t = d.marks := by
  rw [← h, State.tile_setTile]

/-- An order of issue is by age first (R42). -/
theorem Inst.before_age {a b : Inst} (h : a.before b = true) : a.age ≤ b.age := by
  simp only [Inst.before, keyLt, Bool.or_eq_true, Bool.and_eq_true, decide_eq_true_eq, beq_iff_eq] at h
  omega

theorem Inst.age_of_not_before {a b : Inst} (h : a.before b = false) : b.age ≤ a.age := by
  simp only [Inst.before, keyLt, Bool.or_eq_false_iff, decide_eq_false_iff_not] at h
  omega

theorem leastBy_before_age {l : List Inst} {q : Inst} (h : leastBy Inst.before l = some q) : ∀ o ∈ l, q.age ≤ o.age :=
  leastBy_measure_le (m := Inst.age) (fun _ _ => Inst.before_age) (fun _ _ => Inst.age_of_not_before) h

/-- The instance that is tried next is a ready one of the node and tag. -/
theorem DTile.inst?_mem {d : DTile} {node : Nat} {tag : Tag} {q : Inst} (h : d.inst? node tag = some q) :
    q ∈ d.ready ∧ q.node = node ∧ q.tag = tag := by
  have hmine : q ∈ d.ready.filter fun i => i.node == node && i.tag == tag := by
    simp only [DTile.inst?, Option.or_eq_some_iff] at h
    rcases h with (h | ⟨-, h⟩) | ⟨-, h⟩
    · exact List.mem_of_mem_filter (leastBy_mem h)
    · exact List.mem_of_mem_filter (leastBy_mem h)
    · exact leastBy_mem h
  simpa only [List.mem_filter, Bool.and_eq_true, beq_iff_eq] using hmine

theorem removeInst_eq_erase (i : Inst) (l : List Inst) : removeInst i l = l.erase i := by
  induction l with
  | nil => rfl
  | cons j l ih => rw [removeInst, List.erase_cons, ih]

/-- An instance that may issue and does not wait is, while an issue is open, the oldest of it (R46). -/
theorem DTile.oldest_gathered_of_mayIssue {d : DTile} {q : Inst} (h : d.mayIssue q = true) (hp : q.parked = false)
    (hopen : ∃ o ∈ d.ready, o.gathered = true) :
    q.gathered = true ∧ ∀ o ∈ d.ready, o.gathered = true → q.age ≤ o.age := by
  obtain ⟨o, ho, hg⟩ := hopen
  have hleft : d.due = d.ready.filter Inst.gathered := by
    simp only [DTile.due]
    rw [if_neg]
    intro hempty
    exact List.not_mem_nil (List.isEmpty_iff.1 hempty ▸ List.mem_filter.2 ⟨ho, hg⟩)
  rw [DTile.mayIssue, hp, Bool.false_or, beq_iff_eq, hleft] at h
  exact ⟨(List.mem_filter.1 (leastBy_mem h)).2, fun x hx hxg => leastBy_before_age h x (List.mem_filter.2 ⟨hx, hxg⟩)⟩

/-- With no issue open it is the oldest of those that do not wait (R46). -/
theorem DTile.oldest_due_of_mayIssue {d : DTile} {q : Inst} (h : d.mayIssue q = true) (hp : q.parked = false)
    (hnone : ∀ o ∈ d.ready, o.gathered = false) : ∀ o ∈ d.ready, o.parked = false → q.age ≤ o.age := by
  have hall : d.due = d.ready.filter fun i => !i.parked := by
    simp only [DTile.due]
    rw [if_pos]
    exact List.isEmpty_iff.2 (List.filter_eq_nil_iff.2 fun o ho => by simp [hnone o ho])
  rw [DTile.mayIssue, hp, Bool.false_or, beq_iff_eq, hall] at h
  exact fun o ho hop => leastBy_before_age h o (List.mem_filter.2 ⟨ho, by simp [hop]⟩)

/-! ## Issuing an instance -/

/-- What has issued already is not counted again: it leaves the ready queue. -/
theorem State.issueInst_issued {s : State} {t : Nat} {q : Inst} (h : q.issue.isSome = true) :
    (s.issueInst t q).1 = { s.tile t with ready := removeInst q (s.tile t).ready } := by
  simp only [State.issueInst, h, if_true]

/-- Mark an instance that an issue of `s` gathers. -/
def State.gatherMark (s : State) (more : List Inst) (o : Inst) : Inst :=
  if more.contains o then { o with gathered := true, issue := some (s.issueNow o.tag) } else o

/-- An instance that has not issued opens an issue, which counts it with those that it gathers and marks these (R46, R48). -/
theorem State.issueInst_fresh {s : State} {t : Nat} {q : Inst} (h : q.issue = none) :
    let rest := removeInst q (s.tile t).ready
    let more := gathersFrom rest q
    (s.issueInst t q).1 = { s.tile t with
      issues := satAdd (2 ^ 28 - 1) (s.tile t).issues 1, instances := satAdd (2 ^ 31 - 1) (s.tile t).instances (1 + more.length)
      ready := rest.map (s.gatherMark more) } := by
  simp only [State.issueInst, h, Option.isSome_none, Bool.false_eq_true, if_false]
  rfl

/-- The tile that issues keeps its number, its galleys, its matching store and its node memory. -/
theorem State.issueInst_frame (s : State) (t : Nat) (q : Inst) :
    (s.issueInst t q).1.i = t ∧ (s.issueInst t q).1.galleys = (s.tile t).galleys ∧ (s.issueInst t q).1.entries = (s.tile t).entries ∧
      (s.issueInst t q).1.nodes = (s.tile t).nodes := by
  unfold State.issueInst
  dsimp only
  split <;> exact ⟨s.tile_i t, rfl, rfl, rfl⟩

theorem mem_insertBy {α : Type} {lt : α → α → Bool} {a x : α} {l : List α} (h : x ∈ insertBy lt a l) : x = a ∨ x ∈ l := by
  induction l with
  | nil => simpa [insertBy] using h
  | cons b l ih =>
    unfold insertBy at h
    split at h
    · exact List.mem_cons.1 h
    · rcases List.mem_cons.1 h with rfl | h
      · exact .inr List.mem_cons_self
      · exact (ih h).imp id (List.mem_cons_of_mem b)

/-- A sort adds nothing. -/
theorem mem_sortBy {α : Type} {lt : α → α → Bool} {x : α} {l : List α} (h : x ∈ sortBy lt l) : x ∈ l := by
  have hfold : ∀ acc, x ∈ l.foldl (fun acc a => insertBy lt a acc) acc → x ∈ acc ∨ x ∈ l := by
    clear h
    induction l with
    | nil => exact fun acc h => .inl h
    | cons a l ih =>
      intro acc h
      rcases ih (insertBy lt a acc) h with h | h
      · rcases mem_insertBy h with rfl | h
        · exact .inr List.mem_cons_self
        · exact .inl h
      · exact .inr (List.mem_cons_of_mem a h)
  exact (hfold [] h).resolve_left List.not_mem_nil

/-- An issue gathers instances of the node that have not issued, 7 at most (R46). -/
theorem mem_gathersFrom {rest : List Inst} {i o : Inst} (h : o ∈ gathersFrom rest i) : o.node = i.node ∧ o.issue = none := by
  have hkeep := (List.mem_filter.1 (mem_sortBy (List.mem_of_mem_take h))).2
  simpa only [Bool.and_eq_true, beq_iff_eq, Option.isNone_iff_eq_none] using hkeep

theorem length_gathersFrom_le (rest : List Inst) (i : Inst) : (gathersFrom rest i).length ≤ 7 := List.length_take_le ..

/-- An instance that issues leaves the ready queue; the others keep all but the marks of an issue (R46). -/
theorem State.issueInst_ready_unmarked (s : State) (t : Nat) (q : Inst) :
    (s.issueInst t q).1.ready.map (fun o => { o with gathered := false, issue := none }) =
      (removeInst q (s.tile t).ready).map (fun o => { o with gathered := false, issue := none }) := by
  cases hq : q.issue with
  | some x => rw [State.issueInst_issued (by rw [hq]; rfl)]
  | none =>
    rw [State.issueInst_fresh hq, List.map_map]
    refine List.map_congr_left fun o _ => ?_
    simp only [Function.comp_apply, State.gatherMark]
    split <;> rfl

/-- An instance of the open issue was ready before, or it is of the node that issues now, and has the mode settings of now (R25). -/
theorem State.mem_issueInst_gathered {s : State} {t : Nat} {q o : Inst} (ho : o ∈ (s.issueInst t q).1.ready) (hg : o.gathered = true) :
    o ∈ (s.tile t).ready ∨ (o.node = q.node ∧ o.issue = some (s.issueNow o.tag)) := by
  have hrest : ∀ x ∈ removeInst q (s.tile t).ready, x ∈ (s.tile t).ready := by
    rw [removeInst_eq_erase]
    exact fun x => List.mem_of_mem_erase
  cases hq : q.issue with
  | some x =>
    rw [State.issueInst_issued (by rw [hq]; rfl)] at ho
    exact .inl (hrest o ho)
  | none =>
    rw [State.issueInst_fresh hq] at ho
    obtain ⟨p, hp, rfl⟩ := List.mem_map.1 ho
    by_cases hmore : (gathersFrom (removeInst q (s.tile t).ready) q).contains p = true
    · rw [State.gatherMark, if_pos hmore]
      exact .inr ⟨(mem_gathersFrom (List.contains_iff_mem.1 hmore)).1, rfl⟩
    · rw [State.gatherMark, if_neg hmore]
      exact .inl (hrest p hp)

/-- A ready instance that has issued stays as it is, but for the one that fires. -/
theorem State.issueInst_keeps_issued {s : State} {t : Nat} {q o : Inst} (ho : o ∈ (s.tile t).ready) (hi : o.issue.isSome = true) :
    o = q ∨ o ∈ (s.issueInst t q).1.ready := by
  by_cases hoq : o = q
  · exact .inl hoq
  right
  have hrest : o ∈ removeInst q (s.tile t).ready := by
    rw [removeInst_eq_erase]
    exact (List.mem_erase_of_ne hoq).2 ho
  cases hq : q.issue with
  | some x =>
    rw [State.issueInst_issued (by rw [hq]; rfl)]
    exact hrest
  | none =>
    rw [State.issueInst_fresh hq]
    refine List.mem_map.2 ⟨o, hrest, ?_⟩
    rw [State.gatherMark, if_neg]
    intro hmore
    rw [(mem_gathersFrom (List.contains_iff_mem.1 hmore)).2] at hi
    cases hi

/-- An issue counts 1 in ISSUES and, in INSTANCES, the instance with those that it gathers, 8 at most (R46, R48). -/
theorem State.issueInst_counts {s : State} {t : Nat} {q : Inst} (h : q.issue = none) :
    (s.issueInst t q).1.issues = satAdd (2 ^ 28 - 1) (s.tile t).issues 1 ∧
      ∃ n, 1 ≤ n ∧ n ≤ 8 ∧ (s.issueInst t q).1.instances = satAdd (2 ^ 31 - 1) (s.tile t).instances n := by
  rw [State.issueInst_fresh h]
  have hlen := length_gathersFrom_le (removeInst q (s.tile t).ready) q
  exact ⟨rfl, _, Nat.le_add_right 1 _, by omega, rfl⟩

/-! ## The firing -/

/-- A set gives each port back the token of the instance. -/
theorem Inst.lookup_toks (q : Inst) :
    lookup 0 q.toks = q.p0 ∧ lookup 1 q.toks = q.p1 ∧ lookup 2 q.toks = q.p2 ∧ lookup 3 q.toks = q.p3 := by
  unfold Inst.toks
  cases q.p0 <;> cases q.p1 <;> cases q.p2 <;> cases q.p3 <;> simp [lookup]

/-- The firing of a ready instance of a tile, of the open galley instance `g` headed at `h`. -/
def State.firingOf (s : State) (t h : Nat) (g : Galley) (q : Inst) : Firing :=
  ({ pinned := false, tile := t, node := q.node, hdr := h, seq := g.seq, tag := q.tag, out := q.tag, hnd := q.hnd
     ctx := tagCtx q.tag, part := s.unitPart t, die := t / 32 } : Firing).withToks q.toks

/-- The galley instance once a record of it has fired. -/
def State.fired (s : State) (g : Galley) (q : Inst) : Galley := { g with issued := true, past := g.past ++ [q.node], last := s.clock }

/-- A ready instance fires where its node lies in a galley, whose instance is open, and it may issue (R46, R142). -/
theorem State.gatherThis_eq_some {s u : State} {t : Nat} {q : Inst} {f : Firing} (e : s.gatherThis t q = some (f, u)) :
    ∃ h g, (s.tile t).galley? h q.tag = some g ∧ (s.tile t).mayIssue q = true ∧ f = s.firingOf t h g q ∧
      u = s.setTile ((s.issueInst t q).1.setGalley (s.fired g q)) := by
  unfold State.gatherThis at e
  dsimp only at e
  split at e
  · rename_i h hh
    split at e
    · cases e
    · rename_i g hg
      split at e
      · cases e
      · rename_i hm
        cases e
        exact ⟨h, g, hg, by simpa using hm, rfl, rfl⟩
  · cases e

/-- An open galley instance that is put back with changes is the one found under its header and tag. -/
theorem DTile.galley?_setGalley {d : DTile} {h : Nat} {tag : Tag} {g g' : Galley} (hg : d.galley? h tag = some g)
    (hhdr : g'.hdr = g.hdr) (htag : g'.tag = g.tag) (hseq : g'.seq = g.seq) (hdrop : g'.dropped = g.dropped) :
    (d.setGalley g').galley? h tag = some g' := by
  have hp : (g.hdr == h && g.tag == tag && !g.dropped) = true :=
    List.find?_some (p := fun x : Galley => x.hdr == h && x.tag == tag && !x.dropped) hg
  refine find?_putBy_of_find? hg ?_ ?_
  · simp [hhdr, htag, hseq]
  · rw [hhdr, htag, hdrop]
    exact hp

/-- Settles O8: `inst?` picks the instance, `mayIssue` says that it is the oldest one due, and `issueInst` says what its issue counts, marks
and keeps. -/
theorem gatherInstance : Obligations.GatherInstance := by
  unfold Obligations.GatherInstance
  intro s i node tag f t e
  obtain ⟨q, hq, hthis⟩ := Option.bind_eq_some_iff.1 e
  obtain ⟨hready, rfl, rfl⟩ := DTile.inst?_mem hq
  obtain ⟨h, g, hg, hmay, rfl, rfl⟩ := State.gatherThis_eq_some hthis
  obtain ⟨hi, hgalleys, hentries, hnodes⟩ := s.issueInst_frame i q
  obtain ⟨hp0, hp1, hp2, hp3⟩ := q.lookup_toks
  have htile : (s.setTile ((s.issueInst i q).1.setGalley (s.fired g q))).tile i = ((s.issueInst i q).1.setGalley (s.fired g q)).marks :=
    State.tile_setTile_of_i hi
  have hgalley : (s.issueInst i q).1.galley? h q.tag = some g := by
    rw [DTile.galley?, hgalleys]
    exact hg
  rw [htile]
  refine ⟨q, hready, rfl, rfl, rfl, rfl, rfl, rfl, rfl, hp0, hp1, hp2, hp3, rfl, rfl, fun hp => DTile.oldest_gathered_of_mayIssue hmay hp,
    fun hp => DTile.oldest_due_of_mayIssue hmay hp, fun hissued => ?issued, fun hfresh => s.issueInst_counts hfresh,
    fun o => State.mem_issueInst_gathered, fun o => State.issueInst_keeps_issued, s.issueInst_ready_unmarked i q, hentries, hnodes,
    ⟨s.fired g q, ?galley, rfl⟩, fun j hj => s.tile_setTile_other _ j fun hji => hj (hji.trans hi), rfl, rfl⟩
  case issued =>
    show (s.issueInst i q).1.issues = _ ∧ (s.issueInst i q).1.instances = _
    rw [State.issueInst_issued hissued]
    exact ⟨rfl, rfl⟩
  case galley =>
    show (((s.setTile _).tile i).galley? h q.tag) = _
    rw [htile]
    exact DTile.galley?_setGalley hgalley rfl rfl rfl rfl

end Sys2Proof.Machine

/-! # Records of the island (R41, R67, R68, R195 to R203) -/

namespace Sys2Proof.Machine

/-! ## Operands of a set -/

/-- What every token of a set satisfies, and a literal, the operand on each data port satisfies. -/
theorem Firing.port_of_toks {P : Tok → Prop} {f : Firing} (htoks : ∀ e ∈ f.toks, P e.2) (hlit : ∀ v, P { value := v }) (r : Shell) (k : Nat) :
    P (f.port r k) := by
  have hmem : ∀ {j a}, (j, some a) ∈ [(0, f.p0), (1, f.p1), (2, f.p2), (3, f.p3)] → P a := fun {j a} hj =>
    htoks (j, a) (List.mem_filterMap.2 ⟨(j, some a), hj, rfl⟩)
  unfold Firing.port
  split
  · rename_i a ha
    split at ha
    · exact hmem (j := 0) (by simp [ha])
    · split at ha
      · exact hmem (j := 1) (by simp [ha])
      · exact hmem (j := 2) (by simp [ha])
  · split
    · split
      · exact hlit _
      · exact hlit 0
    · exact hlit 0

/-- The predicate of a set without a dormant token is not dormant. -/
theorem FiresAwake.pred {s : State} {r : Shell} {f : Firing} {t : State} (h : FiresAwake s r f t) : (f.p3.getD {}).isDormant = false := by
  cases hp : f.p3 with
  | none => rfl
  | some a => exact h.2 (3, a) (List.mem_filterMap.2 ⟨(3, some a), by simp [hp], rfl⟩)

/-- A 32-bit instruction on a set without a dormant token computes. -/
theorem whole_of_awake {s : State} {r : Shell} {f : Firing} {t : State} (h : FiresAwake s r f t) (c : Comp) :
    whole (t.opnds f r) c = some c := by
  simp only [whole, State.opnds, h.port, h.pred, Bool.or_self, Bool.false_eq_true, if_false]

/-- A tag record on a set that gives a value. -/
theorem fireTag_of_awake {s : State} {r : Shell} {f : Firing} {t : State} (h : FiresAwake s r f t) (act : Firing → State → Option State) :
    s.fireTag r act = settleFire s (act f t) :=
  fireTag_of_gather h.1.1 (fun k hk => by rw [h.1.2] at hk; cases hk) act

/-! ## MMA and MMAS (R197 to R199) -/

/-- MMA and MMAS run as one record with the arguments of their form. -/
theorem exec_of_matrixForm {i : Instr} {f : Firing} {r : Shell} {a : MmaArgs} (h : matrixForm i f r = some a) :
    ∃ args : Firing → MmaArgs, args f = a ∧ ∀ s, exec i s = s.fireMma r args := by
  cases i
  case mma fmt n1 m1 q =>
    by_cases hq : q = r
    · subst hq
      simp only [matrixForm, if_true, Option.some.injEq] at h
      exact ⟨_, h, fun s => rfl⟩
    · simp [matrixForm, hq] at h
  case mmas fmt spkt sp24 bmap n1 m1 q =>
    by_cases hq : q = r
    · subst hq
      simp only [matrixForm, if_true, Option.some.injEq] at h
      exact ⟨_, h, fun s => rfl⟩
    · simp [matrixForm, hq] at h
  all_goals simp [matrixForm] at h

theorem fireMma_of_awake {s : State} {r : Shell} {f : Firing} {t : State} (h : FiresAwake s r f t) (args : Firing → MmaArgs) :
    s.fireMma r args = .next (((if s.mmaAhead false then none else t.mma f r s.siteIssue (args f)).or
      (some (s.park.takeIsland f.tile f.ctx))).getD s.park) := by
  rw [State.fireMma, fireActive_of_awake h]
  rfl

/-- Behind an MMA of its context that has still to be performed it waits and holds the island (R198). -/
theorem fireMma_of_ahead {s : State} {r : Shell} {f : Firing} {t : State} (h : FiresAwake s r f t) (args : Firing → MmaArgs)
    (hahead : s.mmaAhead false = true) : s.fireMma r args = .next (s.park.takeIsland f.tile f.ctx) := by
  rw [fireMma_of_awake h, if_pos hahead]
  rfl

/-- In its turn it is performed where it can be. -/
theorem fireMma_of_performed {s u : State} {r : Shell} {f : Firing} {t : State} (h : FiresAwake s r f t) {args : Firing → MmaArgs}
    (hahead : s.mmaAhead false = false) (hmma : t.mma f r s.siteIssue (args f) = some u) : s.fireMma r args = .next u := by
  rw [fireMma_of_awake h, hahead, hmma]
  rfl

/-- The packet of a kind that a record consumes. -/
def MmaArgs.packet (a : MmaArgs) (l : List Packet) (k : Nat) : Option Packet := if a.kinds.contains k then oldest l k a.task else none

theorem MmaArgs.packet_of_mem {a : MmaArgs} {k : Nat} (h : k ∈ a.kinds) (l : List Packet) : a.packet l k = oldest l k a.task := by
  rw [MmaArgs.packet, if_pos (List.contains_iff_mem.2 h)]

theorem MmaArgs.zero_mem_kinds (a : MmaArgs) : 0 ∈ a.kinds := by simp [MmaArgs.kinds]
theorem MmaArgs.one_mem_kinds (a : MmaArgs) : 1 ∈ a.kinds := by simp [MmaArgs.kinds]

/-- The packets of an issue. -/
def MmaArgs.operands (a : MmaArgs) (l : List Packet) (pa pb : Packet) : MmaPackets :=
  { a := pa, b := pb, sa := a.packet l 2, sb := a.packet l 3, meta_ := a.packet l 4, bm := a.packet l 5 }

/-- With K in its range, a task bound, a free island, every packet of its length and META as SPPERM asks for it, the island multiplies
(R195 to R199). -/
theorem State.mma_performs {t : State} {f : Firing} (r : Shell) {q : Issue} {a : MmaArgs} {pa pb : Packet} (hpos : 0 < a.k) (hmax : a.k ≤ 8192)
    (hfour : a.sp24 = true → a.k % 4 = 0) (hbound : ((t.island f.tile).binds.any fun b => b.ctx == f.ctx) = true)
    (hfree : t.islandFree f.tile f.ctx = true) (hpa : oldest (t.island f.tile).packets 0 a.task = some pa)
    (hpb : oldest (t.island f.tile).packets 1 a.task = some pb)
    (hlen : ∀ k ∈ a.kinds, ∃ p, oldest (t.island f.tile).packets k a.task = some p ∧
      p.words.length = a.words (a.packet (t.island f.tile).packets 5) k)
    (hmeta : ∀ m, a.packet (t.island f.tile).packets 4 = some m →
      q.spperm = true ∨ a.badMeta m (a.packet (t.island f.tile).packets 5) = none) :
    t.mma f r q a = some ((t.setIsland ((((t.island f.tile).hold f.ctx f.hdr f.tag).consume f.hdr f.tag a.task a.kinds).multiply a
      (a.operands (t.island f.tile).packets pa pb) q.ordfast).finish).sendBoth f r (.data (BitVec.ofNat 32 a.k))) := by
  have hrange : ¬(a.k = 0 ∨ 8192 < a.k ∨ (a.sp24 = true ∧ a.k % 4 ≠ 0)) := by
    rintro (h | h | ⟨h, h'⟩)
    · omega
    · omega
    · exact h' (hfour h)
  have hall : (a.kinds.any fun k => (oldest (t.island f.tile).packets k a.task).isNone) = false := by
    refine List.any_eq_false.2 fun k hk => ?_
    obtain ⟨p, hp, -⟩ := hlen k hk
    simp [hp]
  have hright : (a.kinds.any fun k => match a.packet (t.island f.tile).packets k with
      | some p => p.words.length != a.words (a.packet (t.island f.tile).packets 5) k
      | none => true) = false := by
    refine List.any_eq_false.2 fun k hk => ?_
    obtain ⟨p, hp, hl⟩ := hlen k hk
    simp [MmaArgs.packet_of_mem hk, hp, hl]
  have hgood : (match a.packet (t.island f.tile).packets 4 with
      | some m => if q.spperm then none else a.badMeta m (a.packet (t.island f.tile).packets 5)
      | none => none) = none := by
    cases hm : a.packet (t.island f.tile).packets 4 with
    | none => rfl
    | some m =>
      rcases hmeta m hm with h | h
      · simp [h]
      · simp [h]
  have h0 : a.packet (t.island f.tile).packets 0 = some pa := by rw [MmaArgs.packet_of_mem a.zero_mem_kinds, hpa]
  have h1 : a.packet (t.island f.tile).packets 1 = some pb := by rw [MmaArgs.packet_of_mem a.one_mem_kinds, hpb]
  unfold MmaArgs.packet at h0 h1 hright hgood
  simp only [State.mma, if_neg hrange, hbound, hfree, hall, h0, h1, Bool.not_true, Bool.false_eq_true, if_false]
  refine (if_neg (ne_true_of_eq_false hright)).trans ?_
  split
  · rename_i hbad
    exact absurd (hgood.symm.trans hbad) (by simp)
  · rfl

/-! ## SCIN, SMUL and SFMA (R41, R201, R202) -/

/-- A galley that takes an island leaves its scale store as it is (R199). -/
@[simp] theorem Island.hold_scales (i : Island) (c h : Nat) (tag : Tag) : (i.hold c h tag).scales = i.scales := by
  unfold Island.hold
  split <;> rfl

/-! ## SPCHK (R203) -/

/-- The bits of a number built from bits in rising places. -/
theorem testBit_foldl_atBit (p : Nat → Bool) (n : Nat) :
    let m := (List.range n).foldl (fun m q => m + atBit q (p q)) 0
    m < 2 ^ n ∧ ∀ i, m.testBit i = (decide (i < n) && p i) := by
  induction n with
  | zero => simp
  | succ n ih =>
    obtain ⟨hlt, hbit⟩ := ih
    simp only [List.range_succ, List.foldl_append, List.foldl_cons, List.foldl_nil]
    generalize (List.range n).foldl (fun m q => m + atBit q (p q)) 0 = m at hlt hbit
    have hsum : m + atBit n (p n) = 2 ^ n * (p n).toNat + m := by rw [atBit, Nat.add_comm, Nat.mul_comm]
    rw [hsum]
    refine ⟨?lt, fun i => ?bit⟩
    case lt =>
      have hplace : 2 ^ n * (p n).toNat ≤ 2 ^ n * 1 := Nat.mul_le_mul_left (2 ^ n) (Bool.toNat_le (p n))
      rw [Nat.pow_succ]
      omega
    case bit =>
      rw [Nat.testBit_two_pow_mul_add _ hlt, hbit, Nat.testBit_bool_toNat]
      by_cases hi : i < n
      · simp [hi, Nat.lt_succ_of_lt hi]
      · by_cases hin : i = n
        · subst hin; simp
        · rw [if_neg hi, decide_eq_false (show ¬ i < n + 1 by omega), decide_eq_false (show ¬ i - n = 0 by omega)]
          rfl

/-- The bits of SPCHK: group `q` of four bits names one position twice (R203). -/
theorem spchk_getLsbD (w : Word) (q : Nat) :
    (spchk w).getLsbD q = (decide (q < 8) && (w.extractLsb' (4 * q) 2 == w.extractLsb' (4 * q + 2) 2)) := by
  have htwice : (bits (4 * q) 2 w.toNat == bits (4 * q + 2) 2 w.toNat) = (w.extractLsb' (4 * q) 2 == w.extractLsb' (4 * q + 2) 2) := by
    rw [Bool.eq_iff_iff, beq_iff_eq, beq_iff_eq, BitVec.toNat_eq]
    simp only [BitVec.extractLsb'_toNat, Nat.shiftRight_eq_div_pow, bits]
  rw [spchk, BitVec.getLsbD_ofNat, (testBit_foldl_atBit _ 8).2 q, htwice]
  by_cases hq : q < 8
  · simp [hq, Nat.lt_trans hq (by decide : 8 < 32)]
  · simp [hq]

section
variable {s t : State} {f : Firing} {r : Shell} {tag : Tag}

/-! ## The other records of the island -/

theorem execMzero_of_free (h : FiresAwake s r f t) (hfree : t.islandFree f.tile f.ctx = true) (n1 m1 : BitVec 7) :
    exec (.mzero n1 m1 r) s = .next ((t.setIsland (((t.island f.tile).hold f.ctx f.hdr f.tag).zero (m1.toNat + 1)
      (n1.toNat + 1)).finish).sendBoth f r (f.port r 0)) := by
  show execMzero n1 m1 r s = _
  rw [execMzero, fireActive_of_awake h, hfree]
  rfl

/-- MDRAIN is noted for the commit once no MMA that issued before it is to be performed (R200). -/
theorem execMdrain_of_not_ahead (h : FiresAwake s r f t) (hahead : s.mmaAhead true = false) (z : Bool) (o : OFmt) (n1 m1 : BitVec 7) :
    exec (.mdrain z o n1 m1 r) s = .next ((t.addAct f
      { node := f.node, lsid := 0, instr := .mdrain z o n1 m1 r, obj := (pairAddr f r 0).obj, off := (pairAddr f r 0).off
        size := (m1.toNat + 1) * (n1.toNat + 1) * OFmt.bytes o, hnd := f.hnd }).countOuts f r) := by
  show execMdrain z o n1 m1 r s = _
  rw [execMdrain, fireActive_of_awake h, hahead]
  rfl

/-- A pooled MTASK is noted for the commit (R196). -/
theorem execMtask_of_pooled (h : FiresAwake s r f t) (hact : (f.port r 0).isActive = true) (htag : t.tagOf f = some tag)
    (hpush : (pushTag tag 16 0).isSome = true) (hp : f.pinned = false) (n : BitVec 5) (pd : BitVec 16)
    (hpart : t.unitPart (f.die * 32 + n.toNat) = f.part) :
    exec (.mtask n pd r) s = .next ((t.addAct f { node := f.node, lsid := 0, instr := .mtask n pd r, a := (f.port r 0).value
                                                  obj := f.die * 32 + n.toNat }).sendBoth f r (f.port r 0)) := by
  show execMtask n pd r s = _
  rw [execMtask, fireTag_of_awake h]
  simp [hact, htag, Option.isSome_iff_ne_none.1 hpush, hp, hpart]

/-- A pinned one binds at once in a stream-mode forme, and is staged in a round-mode one (R196, R185). -/
theorem execMtask_of_pinned (h : FiresAwake s r f t) (hact : (f.port r 0).isActive = true) (htag : t.tagOf f = some tag)
    (hpush : (pushTag tag 16 0).isSome = true) (hp : f.pinned = true) {g : Forme} {u : Nat} (hg : t.forme? f.h = some g)
    (hd : g.dest f.x f.y r.dsta = .island u) (n : BitVec 5) (pd : BitVec 16) :
    (g.cfg.stream = true → exec (.mtask n pd r) s = .next ((t.setIsland ((t.island u).bind
      { task := (f.port r 0).value.toNat % 256, pdest := pd, ctx := f.ctx, tag := tag })).send f true r.dstb (f.port r 0))) ∧
    (g.cfg.stream = false → t.stageRoom g.part 4 = true → exec (.mtask n pd r) s = .next ((t.stage f
      (.act (.mtask n pd r) (f.port r 0).value (tag.extractLsb' 0 32) (tag.extractLsb' 32 32))).send f true r.dstb (f.port r 0))) := by
  have hrun : exec (.mtask n pd r) s = execMtask n pd r s := rfl
  rw [hrun, execMtask, fireTag_of_awake h]
  constructor
  · intro hstream
    simp [hact, htag, Option.isSome_iff_ne_none.1 hpush, hp, hg, hd, hstream]
  · intro hround hroom
    simp [hact, htag, Option.isSome_iff_ne_none.1 hpush, hp, hg, hd, hround, hroom]

/-- A pooled SCIN writes one scale of a free island (R201). -/
theorem execScin_of_pooled (h : FiresAwake s r f t) (hp : f.pinned = false) (hfree : t.islandFree f.tile f.ctx = true) :
    exec (.scin r) s = .next ((t.setIsland { (t.island f.tile).hold f.ctx f.hdr f.tag with
      scales := assign ((f.port r 1).value.toNat % 65536) ((f.port r 0).value.extractLsb' 0 8) (t.island f.tile).scales }).sendBoth f r
        (f.port r 0)) := by
  obtain ⟨hgather, hvalue, hidle⟩ := h.parts
  show execScin r s = _
  rw [execScin, hgather]
  simp [hvalue, hidle, hp, hfree]

/-- A pinned SCIN sends a scale token to each of its destinations (R41). -/
theorem execScin_of_pinned (h : FiresAwake s r f t) (hp : f.pinned = true) {g : Forme} (hg : t.forme? f.h = some g) :
    let put (u : State) (d : BitVec 16) : State := if d = noDest then u else u.sendLink f.h
      { src := .elem f.x f.y, dst := g.dest f.x f.y d, rt := f.rt
        wire := .scale ((f.port r 1).value.extractLsb' 0 16) ((f.port r 0).value.extractLsb' 0 8) }
    exec (.scin r) s = .next (put (put t r.dsta) r.dstb) := by
  obtain ⟨hgather, hvalue, hidle⟩ := h.parts
  show execScin r s = _
  rw [execScin, hgather]
  simp [hvalue, hidle, hp, hg]

theorem execMstat_of_own (h : FiresAwake s r f t) (sel : BitVec 3) (n : BitVec 5) (hpart : t.unitPart (f.die * 32 + n.toNat) = f.part) :
    exec (.mstat sel n r) s = .next (t.sendBoth f r
      (.data ((t.island (f.die * 32 + n.toNat)).stat (t.islandBusy (f.die * 32 + n.toNat)) sel.toNat))) := by
  show execMstat sel n r s = _
  rw [execMstat, fireActive_of_awake h]
  simp [hpart]

theorem execSpchk_of_awake (h : FiresAwake s r f t) : WordAnswer (.spchk r) r s f t (spchk (f.port r 0).value) := by
  show execSpchk r s = _
  rw [execSpchk, compute_of_fires h.1, whole_of_awake h]
  rfl

/-- SMUL and SFMA on a set whose tokens have all lanes step their block and send the product, to which SFMA adds C (R41, R202). -/
theorem scaledProduct_of_value {e : Nat} (hgather : s.gatherScaled r = some (f, e, t)) (hvalue : f.verdict = .value)
    (hlanes : ∀ k ∈ f.toks, k.2.lmask = 3) (fmt : MFmt) (withC : Bool) :
    let w := mfmtWidth fmt
    let x := mfmtVal fmt true ((f.port r 0).value.toNat % 2 ^ w)
    let y := mfmtVal fmt false ((f.port r 1).value.toNat % 2 ^ w)
    let c := Fmt.fp32.decode (f.port r 2).value.toNat
    let p := FVal.scaled (FVal.mul x y).1 e
    let q := Fmt.fp32.sum .rne 0 ([x, y] ++ if withC then [c] else []) (if withC then [p, c] else [p]) ((FVal.mul x y).2 || e == 255)
    s.scaledProduct r fmt withC =
      .next (((t.stepBlock f false).leave f q.flags 0).sendBoth f r (.data (BitVec.ofNat 32 q.bits))) := by
  have hport : ∀ k, (f.port r k).lmask = 3 := Firing.port_of_toks (P := fun k => k.lmask = 3) hlanes (fun _ => rfl) r
  simp [State.scaledProduct, hgather, hvalue, hport, Tok.isDormant]

end

/-- Settles O44, record by record: each clause is the lemma of its record above. -/
theorem matrixRecords : Obligations.MatrixRecords := by
  unfold Obligations.MatrixRecords
  intro r s f t
  refine ⟨fun h => ?_, fun e fmt hgather hvalue hlanes => ⟨?smul, ?sfma⟩⟩
  case smul => exact scaledProduct_of_value hgather hvalue hlanes fmt false
  case sfma => exact scaledProduct_of_value hgather hvalue hlanes fmt true
  refine ⟨?waits, ?performs, fun n1 m1 hfree => execMzero_of_free h hfree n1 m1,
    fun z o n1 m1 hahead => execMdrain_of_not_ahead h hahead z o n1 m1, ?mtask, fun hp hfree => execScin_of_pooled h hp hfree,
    fun g hp hg => execScin_of_pinned h hp hg, ⟨_, execSpchk_of_awake h, spchk_getLsbD _⟩, fun sel n hpart => execMstat_of_own h sel n hpart⟩
  case waits =>
    intro i a ha hahead
    obtain ⟨args, -, hexec⟩ := exec_of_matrixForm ha
    rw [hexec, fireMma_of_ahead h args hahead]
  case performs =>
    intro i a pa pb ha hpos hmax hfour hahead hbound hfree hpa hpb get hlen hmeta ops
    obtain ⟨args, rfl, hexec⟩ := exec_of_matrixForm ha
    rw [hexec]
    exact fireMma_of_performed h hahead (State.mma_performs r hpos hmax hfour hbound hfree hpa hpb hlen hmeta)
  case mtask =>
    intro n pd tag hact htag hpush
    exact ⟨fun hp hpart => execMtask_of_pooled h hact htag hpush hp n pd hpart,
      fun g u hp hg hd => execMtask_of_pinned h hact htag hpush hp hg hd n pd⟩

end Sys2Proof.Machine

/-! # Module events (R345, R348, R349, R357, R360, R375 to R381) -/

namespace Sys2Proof.Machine

/-! ## Keyed lists -/

/-- A value is read back under the key that it was set under. -/
@[simp] theorem lookup_assign {α : Type} (k : Nat) (a : α) (l : List (Nat × α)) : lookup k (assign k a l) = some a := by
  induction l with
  | nil => simp [assign, putBy, lookup]
  | cons e l ih =>
    obtain ⟨j, b⟩ := e
    unfold assign putBy
    by_cases hj : j = k
    · simp [hj, lookup]
    · simpa [hj, lookup, assign] using ih

/-! ## What posting a record leaves alone -/

/-- The links and the readiness map of units are as they were. -/
def State.SameLinks (s u : State) : Prop := u.links = s.links ∧ u.readyUnits = s.readyUnits

theorem State.SameLinks.refl (s : State) : s.SameLinks s := ⟨rfl, rfl⟩

theorem State.SameLinks.trans {s t u : State} (h : s.SameLinks t) (k : t.SameLinks u) : s.SameLinks u :=
  ⟨k.1.trans h.1, k.2.trans h.2⟩

theorem State.sameLinks_writePieces (l : List (Nat × Nat)) : ∀ (s : State) (b : List Byte), s.SameLinks (s.writePieces l b) := by
  induction l with
  | nil => exact fun s _ => .refl s
  | cons c l ih => exact fun s b => .trans ⟨rfl, rfl⟩ (ih (s.writeN c.1 (b.take c.2)) (b.drop c.2))

theorem State.sameLinks_postRing {s u : State} {p n rec : Nat} {q : VA} (e : s.postRing p q rec = some (.done u n)) : s.SameLinks u := by
  unfold State.postRing at e
  split at e
  · cases e
  · cases e
  · dsimp only at e
    split at e
    · cases e
    · cases e
    · split at e
      · cases e
      · cases e
        exact .trans (State.sameLinks_writePieces ..) (State.sameLinks_writePieces ..)

theorem State.sameLinks_countLost (s : State) (p : Nat) (q : VA) : s.SameLinks (s.countLost p q) := by
  unfold State.countLost
  split
  · exact State.sameLinks_writePieces ..
  · exact .refl s

theorem State.sameLinks_postHost {s u : State} {p rec : Nat} (e : s.postHost p rec = some u) : s.SameLinks u := by
  unfold State.postHost at e
  split at e
  · cases e; exact .refl s
  · split at e
    · cases e
    · rename_i hpost
      cases e
      exact .trans (State.sameLinks_postRing hpost) ⟨rfl, rfl⟩
    · cases e; exact State.sameLinks_countLost ..
    · cases e; exact ⟨rfl, rfl⟩

/-- What every step of a fold that may wait keeps, the fold keeps. -/
theorem State.sameLinks_foldOpt {α : Type} {g : State → α → Option State} (hg : ∀ s a u, g s a = some u → s.SameLinks u) (l : List α) :
    ∀ {s u : State}, foldOpt g s l = some u → s.SameLinks u := by
  induction l with
  | nil =>
    intro s u e
    cases e
    exact .refl s
  | cons a l ih =>
    intro s u e
    unfold foldOpt at e
    split at e
    · rename_i t ht
      exact (hg s a t ht).trans (ih e)
    · cases e

/-- Posting a fault of the module to the host queues leaves the links and the readiness map alone (R342, R345). -/
theorem State.sameLinks_postParts {s u : State} {ps : List Nat} {f : FaultHead} {pay : Nat} (e : s.postParts ps f pay = some u) :
    s.SameLinks u :=
  State.sameLinks_foldOpt (fun _ _ _ => State.sameLinks_postHost) ps e

/-! ## Firmware (R377, R378) -/

section
variable {s : State}

theorem execFwgo_of_idle (h : s.fwst = .wait ∨ s.fwst = .rejected) : exec .fwgo s = .next { s with fwst := .check } := by
  show Host.Outcome.next s.fwGo = _
  rcases h with h | h
  · simp [State.fwGo, h]
  · simp [State.fwGo, h]

theorem execFwgo_of_busy (h : s.fwst = .check ∨ s.fwst = .run) : exec .fwgo s = .next s := by
  show Host.Outcome.next s.fwGo = _
  rcases h with h | h
  · simp [State.fwGo, h]
  · simp [State.fwGo, h]

theorem execFwCheckDone_of_not_ready (h : s.homeReady 0 0 0 = false) : exec .fwCheckDone s = .next s := by
  show settle s s.fwCheck = _
  simp [State.fwCheck, h]

/-- The check ends in RUN only with a length in its range and the CRC that the host wrote, else in REJECTED. -/
theorem execFwCheckDone_of_ready (hst : s.fwst = .check) (hready : s.homeReady 0 0 0 = true) :
    ∃ u, exec .fwCheckDone s = .next u ∧ (u.fwst = .run ∨ u.fwst = .rejected) ∧
      (u.fwst = .run → s.readLe (bringUp + 4) 4 ≤ 48 * 2 ^ 20 ∧
        crc32 (s.readN (bringUp + 4096) (s.readLe (bringUp + 4) 4)) = s.readLe bringUp 4) := by
  have hrun : exec .fwCheckDone s = settle s s.fwCheck := rfl
  rw [hrun]
  by_cases hgood : s.readLe (bringUp + 4) 4 ≤ 48 * 2 ^ 20 ∧
      crc32 (s.readN (bringUp + 4096) (s.readLe (bringUp + 4) 4)) = s.readLe bringUp 4
  · refine ⟨{ ((s.failedBays 4).2.fenceBays ((s.failedBays 4).1 ++ s.fenceList)).firmware with fwst := .run }, ?_, .inl rfl, fun _ => hgood⟩
    simp only [State.fwCheck, hst, hready, if_pos hgood]
    rfl
  · refine ⟨{ s with fwst := .rejected }, ?_, .inr rfl, fun h => ?_⟩
    · simp only [State.fwCheck, hst, hready, if_neg hgood]
      rfl
    · cases h

/-! ## Readiness (R375, R376) -/

theorem execFunctionReady_group {d row : Nat} (hd : d < 4) (hrow : row < 16) :
    exec (.functionReady (.group d row) 1) s = .next (s.rowReady d row) := by
  show settle s (s.ready (.group d row) 1) = _
  simp [State.ready, hd, hrow]

/-- A row that comes up once firmware runs is marked, and the loads that wait for it are tried. -/
theorem State.rowReady_new {d row : Nat} (hst : s.fwst = .run) (hnew : s.readyBays.getLsbD (16 * d + row) = false) :
    s.rowReady d row = ({ s with readyBays := s.readyBays ||| (1 <<< (16 * d + row)), msix := s.msix ++ [16] } : State).retryLoads := by
  simp only [State.rowReady, hst, hnew]
  rfl

theorem State.rowReady_old {d row : Nat} (h : s.fwst ≠ .run ∨ s.readyBays.getLsbD (16 * d + row) = true) : s.rowReady d row = s := by
  unfold State.rowReady
  refine if_pos ?_
  simpa using h

/-- A unit of entries 0 to 7 has no fields that firmware sets. -/
theorem linkOfEntry_of_lt {e : Nat} (h : e < 8) : linkOfEntry e = none := by
  unfold linkOfEntry
  rw [if_neg (by omega), if_neg (by omega), if_neg (by omega)]

theorem execFunctionReady_unit {e : Nat} {c : BitVec 2} (he : e < 8) (hcode : s.unitCode e ≠ 2) (hc : c ≠ 2) (hlater : s.trainsLater e = false) :
    exec (.functionReady (.unit e) c) s =
      .next { s with readyUnits := assign e c s.readyUnits, msix := if s.unitCode e = c.toNat then s.msix else s.msix ++ [16] } := by
  show settle s (s.ready (.unit e) c) = _
  have hset : s.setUnit e c =
      { s with readyUnits := assign e c s.readyUnits, msix := if s.unitCode e = c.toNat then s.msix else s.msix ++ [16] } := by
    unfold State.setUnit
    split <;> rfl
  have hfield : firmwareEntry e = false := by rw [firmwareEntry, linkOfEntry_of_lt he]; rfl
  have hskip : ¬(39 ≤ e ∨ e = 22 ∨ s.unitCode e = 2 ∨ (firmwareEntry e = true ∧ (s.fwst != .run) = true) ∨ (s.trainsLater e = true ∧ c ≠ 2)) := by
    rintro (h | h | h | ⟨h, -⟩ | ⟨h, -⟩)
    · omega
    · omega
    · exact hcode h
    · exact Bool.false_ne_true (hfield.symm.trans h)
    · exact Bool.false_ne_true (hlater.symm.trans h)
  simp only [State.ready, if_neg hskip, linkOfEntry_of_lt he, hc, false_and, if_false, hset]
  rfl

/-! ## The frame release unit (R348, R349) -/

theorem execPpsEdge_of_locked {o : Int} (htod : s.fru.todWritten = true) (hst : s.fru.state = .locked) (ho : o.natAbs ≤ 50) :
    exec (.ppsEdge o) s =
      .next { s with fru := { s.fru with sec := s.fru.tod.toNat, ns := 0, todWritten := false, offset := BitVec.ofInt 32 o } } := by
  show settle s (s.pps o) = _
  simp [State.pps, htod, hst, offsetSize, Nat.not_lt.2 ho]

theorem execPpsEdge_of_no_tod (htod : s.fru.todWritten = false) (o : Int) : exec (.ppsEdge o) s = .next s := by
  show settle s (s.pps o) = _
  simp [State.pps, htod]

theorem execFruPpsTimeout_of_locked {u : State} (hst : s.fru.state = .locked) (hu : s.fruTo .holdover 0 = some u) :
    exec .fruPpsTimeout s = .next u := by
  show settle s (if s.fru.state == .locked then s.fruTo .holdover 0 else some s) = _
  simp [hst, hu]

/-- The only release that is pending fires when due and leaves its slot. -/
theorem execFruReleaseFire_of_due {u : State} {now : Nat} {q : Release} (hnow : s.fru.now ≤ now) (hpend : s.fru.pend = [q]) (hdue : q.due ≤ now)
    (hu : ({ s with fru := { s.fru with sec := now / 10 ^ 9, ns := now % 10 ^ 9, pend := []
                                        pulses := s.fru.pulses ++ [(q.chan.toNat % 8, q.due)] } } : State).postEvent q.ctx 4 q.slot 2 q.size
      = some u) : exec (.fruReleaseFire now) s = .next u := by
  show settle s (s.fruFire now) = _
  have hout : sortBy (fun (a b : Release) => keyLt [a.due, a.slot] [b.due, b.slot]) ([q].filter fun r => decide (r.due ≤ now)) = [q] := by
    simp [hdue, sortBy, insertBy]
  have hkept : ([q].filter fun r => decide (now < r.due)) = [] := by simp [hdue]
  simp only [State.fruFire, if_neg (Nat.not_lt.2 hnow), hpend, hout, hkept, List.map_cons, List.map_nil, foldOpt, hu]
  rfl

/-! ## Links (R345) -/

variable {n : Nat} {l : LinkState}

theorem State.linkAt_n (h : s.linkAt n = some l) : l.n = n := beq_iff_eq.1 (List.find?_some (p := fun a : LinkState => a.n == n) h)

@[simp] theorem State.linkAt_setLink (s : State) (l : LinkState) : (s.setLink l).linkAt l.n = some l :=
  find?_putBy_same (fun x : LinkState => x.n) s.links l

theorem execLinkRetrain_of_first (h : s.linkAt n = some l) (hup : l.up = true) (hrecent : l.recent = []) :
    exec (.linkRetrain n) s = .next (s.setLink { l with retraining := true, retrains := satAdd 65535 l.retrains 1, recent := [s.clock] }) := by
  show settle s (s.linkRetrains n) = _
  simp [State.linkRetrains, h, hup, hrecent]

theorem execLinkRetrainDone_of_link (h : s.linkAt n = some l) : exec (.linkRetrainDone n) s = .next (s.setLink { l with retraining := false }) := by
  show execLinkRetrainDone n s = _
  rw [execLinkRetrainDone, h]

/-- The state in which a link has gone down and nothing is posted yet. -/
def State.linkDropped (s : State) (n : Nat) (l : LinkState) : State :=
  { (s.setLink { l with up := false, retraining := false }).notice with readyUnits := assign (entryOfLink n) 0 s.readyUnits }

theorem State.linkDropped_linkAt (h : s.linkAt n = some l) : (s.linkDropped n l).linkAt n = some { l with up := false, retraining := false } := by
  obtain rfl := State.linkAt_n h
  exact s.linkAt_setLink { l with up := false, retraining := false }

theorem State.linkDropped_unitCode (s : State) (l : LinkState) (hn : entryOfLink n ≠ 22) : (s.linkDropped n l).unitCode (entryOfLink n) = 0 := by
  simp [State.linkDropped, State.unitCode, hn]

theorem execLinkDown_of_up {u w : State} (h : s.linkAt n = some l) (hup : l.up = true)
    (hw : (s.linkDropped n l).postParts (s.linkDropped n l).allParts
      { ctx := 0, src := 7, srcid := (linkIndex n).2, cls := clsLink, prec := 3 } (linkPay n) = some w)
    (hu : w.loseUnreachable = some u) : exec (.linkDown n) s = .next u := by
  show execLinkDown n s = _
  have hfails : s.linkFails l = ((s.linkDropped l.n l).postParts (s.linkDropped l.n l).allParts
      { ctx := 0, src := 7, srcid := (linkIndex l.n).2, cls := clsLink, prec := 3 } (linkPay l.n)).bind State.loseUnreachable := rfl
  rw [execLinkDown, h]
  simp only [hup, if_true, hfails, State.linkAt_n h, hw, Option.bind_some, hu]
  rfl

/-! ## Memory errors and the watchdog (R357, R360, R381) -/

variable {u : State} {h x y k kind : Nat} {f : Forme} {va : VA}

/-- An error with an intact source is counted, and the round runs again. -/
theorem execEccUncorrectable_of_intact (hf : s.forme? h = some f) (hlive : f.status = .live) (hround : f.cfg.stream = false)
    (hvoids : f.run.voids < 3) : exec (.eccUncorrectable (.round h x y true va)) s =
      .next (({ s with cecnt := satAdd 16777215 s.cecnt 1 } : State).setForme f.rerun) := by
  show settle s (s.eccRound h x y true va) = _
  simp [State.eccRound, hf, hlive, hround, hvoids, State.countError]

theorem execEccUncorrectable_of_lost (hf : s.forme? h = some f) (hlive : f.status = .live)
    (hu : s.faultFormeBy 7 h x y 0 clsEcc 0 (s.eccPay f.part va) = some u) :
    exec (.eccUncorrectable (.round h x y false va)) s = .next u := by
  show settle s (s.eccRound h x y false va) = _
  simp [State.eccRound, hf, hlive, hu]

/-- A stalled access of an element that outlasts the interval is a watchdog fault of its forme. -/
theorem execWatchdogExpiry_of_access (hf : s.forme? h = some f) (hlive : f.status = .live) (hstall : s.stalls f.part va = true)
    (hacc : s.elemAccesses f x y va = true) (hu : s.faultFormeBy 7 h x y 0 clsWatchdog 0 (.access va.toNat k kind) = some u) :
    exec (.watchdogExpiry (.access h x y va k kind)) s = .next u := by
  show settle s (s.watchdog (.access h x y va k kind)) = _
  simp [State.watchdog, hf, hlive, hstall, hacc, hu]

end

/-- Settles O57, event by event: each clause is the equation of its event above, or holds by its definition. -/
theorem moduleEvents : Obligations.ModuleEvents := by
  unfold Obligations.ModuleEvents
  refine ⟨fun s => ⟨fun m => rfl, fun d => rfl, fun d n => rfl, execFwgo_of_idle, execFwgo_of_busy, fun _ => execFwCheckDone_of_not_ready,
      execFwCheckDone_of_ready, rfl, ⟨_, rfl, rfl, rfl, rfl, rfl, rfl, rfl, rfl, rfl, rfl, rfl, rfl⟩, ?group,
      fun e c he hcode hc hlater => execFunctionReady_unit he hcode hc hlater, fun o htod hst ho => execPpsEdge_of_locked htod hst ho,
      execPpsEdge_of_no_tod, fun u => execFruPpsTimeout_of_locked, rfl, fun now u q => execFruReleaseFire_of_due, ?link, rfl, fun a => rfl⟩,
    fun s h x y f va hf hlive hround => ⟨execEccUncorrectable_of_intact hf hlive hround, fun u => execEccUncorrectable_of_lost hf hlive⟩,
    fun s u h x y n kind f va => execWatchdogExpiry_of_access⟩
  case group =>
    intro d row hd hrow
    rw [execFunctionReady_group hd hrow]
    exact ⟨fun hst hnew => by rw [State.rowReady_new hst hnew], fun hold => by rw [State.rowReady_old hold]⟩
  case link =>
    intro n l hl
    refine ⟨execLinkRetrain_of_first hl, execLinkRetrainDone_of_link hl, ?_⟩
    intro w u hup v hw hu
    obtain ⟨hlinks, hunits⟩ := State.sameLinks_postParts hw
    exact ⟨execLinkDown_of_up hl hup hw hu, State.linkDropped_linkAt hl, State.linkDropped_unitCode s l, hlinks, hunits⟩

end Sys2Proof.Machine

namespace Sys2Proof.Machine

/-! # What a step runs (R39, R46, R69, R70, R81) -/

theorem step_of_agenda {s : State} {a : Action} {rest : List Action} (h : s.agenda = a :: rest) :
    step s = State.perform { s with clock := s.clock + 1, agenda := rest } a := by rw [step, h]

theorem step_of_auto {s : State} {a : Action} (h : s.agenda = []) (ha : s.autoAction = some a) :
    step s = State.perform { s with clock := s.clock + 1 } a := by rw [step, h, ha]

/-- The word at a position does not depend on the clock, the agenda or the site. -/
theorem State.siteWord_congr {s u : State} (hf : u.formes = s.formes) (ht : u.tiles = s.tiles) (p : Site) : u.siteWord p = s.siteWord p := by
  cases p with
  | none => rfl
  | elem h x y => simp only [State.siteWord, State.forme?, hf]
  | inst t node tag => simp only [State.siteWord, State.tile, ht]

theorem State.perform_fire {s : State} {p : Site} {pl : Placement} {w : BitVec 96} {i : Instr} (hw : s.siteWord p = some (pl, w))
    (hi : decode pl w = .ok i) : s.perform (.fire p) = exec i { s with site := p } := by
  simp only [State.perform, State.issue, hw, hi]

/-- Settles O3: the step performs the item, and the word stands at its position whatever the clock and the agenda. -/
theorem stepRunsDecoded : Obligations.StepRunsDecoded := by
  unfold Obligations.StepRunsDecoded
  refine ⟨fun s p rest pl w i ha hw hi => ?_, fun s i rest ha => step_of_agenda ha, fun s p pl w i ha hauto hw hi => ?_,
    fun s i ha hauto => step_of_auto ha hauto⟩
  · exact (step_of_agenda ha).trans (State.perform_fire ((State.siteWord_congr rfl rfl p).trans hw) hi)
  · exact (step_of_auto ha hauto).trans (State.perform_fire ((State.siteWord_congr rfl rfl p).trans hw) hi)

end Sys2Proof.Machine

namespace Sys2Proof.Machine

/-! # What the flags of a set make of a firing (R33, R34) -/

@[simp] theorem Tok.isEos_eq_true (t : Tok) : t.isEos = true ↔ t.flag = .eos := beq_iff_eq
@[simp] theorem Tok.isEos_eq_false (t : Tok) : t.isEos = false ↔ t.flag ≠ .eos := beq_eq_false_iff_ne
@[simp] theorem Tok.isNull_eq_true (t : Tok) : t.isNull = true ↔ t.flag = .null := beq_iff_eq
@[simp] theorem Tok.isNull_eq_false (t : Tok) : t.isNull = false ↔ t.flag ≠ .null := beq_eq_false_iff_ne

/-- The tokens of a firing stand in the order of their ports. -/
theorem Firing.toks_sorted (f : Firing) : f.toks.Pairwise fun a b => a.1 < b.1 := by
  refine List.Pairwise.filterMap (R := fun a b : Nat × Option Tok => a.1 < b.1) _ (fun a b hab c hc d hd => ?_) (by simp)
  obtain ⟨u, -, rfl⟩ := Option.map_eq_some_iff.1 hc
  obtain ⟨v, -, rfl⟩ := Option.map_eq_some_iff.1 hd
  exact hab

/-- The four outcomes of a set, by its first EOS token. -/
theorem verdict_of_first_eos {l : List (Nat × Tok)} {e : Nat × Tok} (h : l.find? (fun e => e.2.isEos) = some e) :
    verdict l = if l.all fun e => e.2.isEos then .eos else .mismatch e.1 := by
  simp only [verdict, h]

theorem verdict_of_no_eos {l : List (Nat × Tok)} (h : l.find? (fun e => e.2.isEos) = none) :
    verdict l = if l.any fun e => e.2.isNull then .null else .value := by
  simp only [verdict, h]

theorem verdict_eq_eos_iff (l : List (Nat × Tok)) : verdict l = .eos ↔ (∃ e ∈ l, e.2.flag = .eos) ∧ ∀ e ∈ l, e.2.flag = .eos := by
  cases h : l.find? fun e => e.2.isEos with
  | none =>
    have hno : ∀ e ∈ l, e.2.flag ≠ .eos := by simpa using h
    rw [verdict_of_no_eos h]
    refine ⟨fun hv => (by split at hv <;> cases hv), fun ⟨⟨e, he, hf⟩, _⟩ => absurd hf (hno e he)⟩
  | some e =>
    have he : e.2.flag = .eos := by simpa using List.find?_some h
    have hmem : ∃ e ∈ l, e.2.flag = .eos := ⟨e, List.mem_of_find?_eq_some h, he⟩
    rw [verdict_of_first_eos h]
    simp [hmem]

theorem verdict_eq_null_iff (l : List (Nat × Tok)) :
    verdict l = .null ↔ (∀ e ∈ l, e.2.flag ≠ .eos) ∧ ∃ e ∈ l, e.2.flag = .null := by
  cases h : l.find? fun e => e.2.isEos with
  | none =>
    have hno : ∀ e ∈ l, e.2.flag ≠ .eos := by simpa using h
    rw [verdict_of_no_eos h]
    exact ⟨fun hv => ⟨hno, by simpa using hv⟩, fun ⟨_, hv⟩ => by simpa using hv⟩
  | some e =>
    have he : e.2.flag = .eos := by simpa using List.find?_some h
    rw [verdict_of_first_eos h]
    exact ⟨fun hv => (by split at hv <;> cases hv), fun hv => absurd he (hv.1 e (List.mem_of_find?_eq_some h))⟩

theorem verdict_eq_value_iff (l : List (Nat × Tok)) : verdict l = .value ↔ ∀ e ∈ l, e.2.flag ≠ .eos ∧ e.2.flag ≠ .null := by
  cases h : l.find? fun e => e.2.isEos with
  | none =>
    have hno : ∀ e ∈ l, e.2.flag ≠ .eos := by simpa using h
    rw [verdict_of_no_eos h]
    simp +contextual [hno]
  | some e =>
    have he : e.2.flag = .eos := by simpa using List.find?_some h
    rw [verdict_of_first_eos h]
    exact ⟨fun hv => (by split at hv <;> cases hv), fun hv => absurd he (hv e (List.mem_of_find?_eq_some h)).1⟩

/-- A count mismatch names the first EOS token, and another token is no EOS. -/
theorem verdict_mismatch {l : List (Nat × Tok)} {k : Nat} (h : verdict l = .mismatch k) :
    ∃ e, l.find? (fun e => e.2.isEos) = some e ∧ e.1 = k ∧ ∃ e ∈ l, e.2.flag ≠ .eos := by
  cases hf : l.find? fun e => e.2.isEos with
  | none =>
    rw [verdict_of_no_eos hf] at h
    split at h <;> cases h
  | some e =>
    rw [verdict_of_first_eos hf] at h
    split at h
    case isTrue => cases h
    case isFalse hall => cases h; exact ⟨e, rfl, rfl, by simpa using hall⟩

/-- In a list in order of ports, the first element found has the least port of all that could be found. -/
theorem find?_port_le {α : Type} {l : List (Nat × α)} (hl : l.Pairwise fun a b => a.1 < b.1) {p : Nat × α → Bool} {a b : Nat × α}
    (h : l.find? p = some a) (hb : b ∈ l) (hp : p b = true) : a.1 ≤ b.1 := by
  obtain ⟨-, as, bs, rfl, has⟩ := List.find?_eq_some_iff_append.1 h
  rcases List.mem_append.1 hb with hb | hb
  · exact absurd hp (by simpa using has b hb)
  · rcases List.mem_cons.1 hb with rfl | hb
    · exact le_refl _
    · exact ((List.pairwise_cons.1 (List.pairwise_append.1 hl).2.1).1 b hb).le

/-- Settles O9: the verdict looks for the first EOS, then whether all are EOS, then for a NULL. -/
theorem verdictOfFlags : Obligations.VerdictOfFlags := by
  unfold Obligations.VerdictOfFlags
  intro f
  refine ⟨verdict_eq_eos_iff f.toks, fun k hk => ?_, verdict_eq_null_iff f.toks, verdict_eq_value_iff f.toks⟩
  obtain ⟨e, he, rfl, hne⟩ := verdict_mismatch hk
  exact ⟨⟨e, List.mem_of_find?_eq_some he, rfl, by simpa using List.find?_some he⟩, hne,
    fun b hb hf => find?_port_le f.toks_sorted he hb (by simpa using hf)⟩

end Sys2Proof.Machine

namespace Sys2Proof.Machine

/-! # Computing records: the shape that they share, and dormant firings (R32, R93, R95, R97) -/

/-- A record of groups 0x0 to 0x5 sends a function of its operands. -/
theorem exec_of_group_le_five {i : Instr} {r : Shell} {g : Nat} (hs : i.shell? = some r) (hg : groupOf i = some g) (hle : g ≤ 5) :
    ∃ c : Opnds → Option Comp, ∀ s, exec i s = s.compute r c := by
  cases i with
  | add | sub | mul | mulh | mulhu | mad | div | divu | rem | remu | min | max | minu | maxu | abs | neg | andW | orW | xorW | andn | lut3
  | maj | shl | shr | sar | fshl | fshr | popc | clz | brev | bfx | bfi | icmp | icmpv | fcmp | fcmpv | sel | fclass | pand | por | pxor
  | pnot | pconst | ptest | fadd | fsub | fmul | ffma | fmin | fmax | fabs | fneg | fdiv | fsqrt | frcpe | frsqe | fexp2 | flog2 | fsin
  | frnd | hadd | hsub | hmul | hfma | hmin | hmax | habs | hneg | hdot2 | hcmp | hsel | hmask | cvtif | cvtfi | cvtff | packh | unpkh
  | cvtf8 | cvt8f | twenc | twdec | scq | scdq =>
    cases hs
    refine ⟨?_, fun s => ?exec⟩
    case exec => unfold exec; rfl
  | _ => cases hg <;> simp at hle

/-- A 32-bit computation with a dormant operand computes nothing. -/
theorem whole_of_not_open {o : Opnds} (h : ¬ LanesOpen .i32 o) (c : Comp) : whole o c = none := by
  unfold whole
  rw [if_pos]
  by_contra hd
  simp only [Bool.or_eq_true, not_or, Bool.not_eq_true] at hd
  obtain ⟨⟨⟨ha, hb⟩, hc⟩, hp⟩ := hd
  exact h ⟨ha, hb, hc, hp⟩

theorem whole_of_open {o : Opnds} (h : LanesOpen .i32 o) (c : Comp) : whole o c = some c := by
  obtain ⟨ha, hb, hc, hp⟩ := h
  simp [whole, ha, hb, hc, hp]

/-- Packed lanes without an active half compute nothing. -/
theorem lanes_of_none {o : Opnds} (h : o.lm = 0) (v : Word) : lanes o v = none := if_pos h
theorem halves_of_none {o : Opnds} (h : o.lm = 0) (m : Rnd) (g : Nat → Nat → FRes) : halves o m g = none := if_pos h

theorem laneComp_of_none {lt : LaneType} (hlt : lt ≠ .i32) (g : Nat → Nat → Nat → Nat → Nat) {o : Opnds} (h : o.lm = 0) :
    laneComp lt g o = none := by
  cases lt with
  | i32 => exact absurd rfl hlt
  | i16x2 | i8x4 => exact lanes_of_none h _

/-- A record on whole words or predicates computes nothing when an operand is dormant. -/
theorem exec_of_wholeWord {i : Instr} {r : Shell} (hs : i.shell? = some r) (hw : wholeWord i = true) :
    ∃ c : Opnds → Option Comp, (∀ s, exec i s = s.compute r c) ∧ ∀ o, ¬ LanesOpen .i32 o → c o = none := by
  cases i with
  | add lt | sub lt | mul lt | mulh lt | mulhu lt | mad lt | div lt | divu lt | rem lt | remu lt | min lt | max lt | minu lt | maxu lt
  | abs lt | neg lt | shl lt | shr lt | sar lt | fshl lt | fshr lt | popc lt | clz lt | brev lt | bfx lt | bfi lt =>
    cases hs
    obtain rfl : lt = .i32 := beq_iff_eq.1 hw
    refine ⟨?_, fun s => ?exec, fun o h => ?none⟩
    case exec => unfold exec; rfl
    case none => exact whole_of_not_open h _
  | icmpv cond x2 r =>
    cases hs
    obtain rfl : x2 = false := by simpa [wholeWord] using hw
    refine ⟨?_, fun s => ?exec, fun o h => ?none⟩
    case exec => unfold exec; rfl
    case none => exact whole_of_not_open h _
  | andW | orW | xorW | andn | lut3 | maj | icmp | fcmp | fcmpv | sel | fclass | pand | por | pxor | pnot | pconst | ptest | fadd | fsub
  | fmul | ffma | fmin | fmax | fabs | fneg | fdiv | fsqrt | frcpe | frsqe | fexp2 | flog2 | fsin | frnd | scq | scdq | spchk =>
    cases hs
    refine ⟨?_, fun s => ?exec, fun o h => ?none⟩
    case exec => unfold exec; rfl
    case none => exact whole_of_not_open h _
  | _ => cases hw

/-- A record on packed lanes computes nothing when no half is active in every operand. -/
theorem exec_of_packedLanes {i : Instr} {r : Shell} (hs : i.shell? = some r) (hp : packedLanes i = true) (hmask : ∀ bf r, i ≠ .hmask bf r) :
    ∃ c : Opnds → Option Comp, (∀ s, exec i s = s.compute r c) ∧ ∀ o : Opnds, o.lm = 0 → c o = none := by
  cases i with
  | add lt | sub lt | mul lt | mulh lt | mulhu lt | mad lt | div lt | divu lt | rem lt | remu lt | min lt | max lt | minu lt | maxu lt
  | abs lt | neg lt | shl lt | shr lt | sar lt | fshl lt | fshr lt | popc lt | clz lt | brev lt | bfx lt | bfi lt =>
    cases hs
    have hlt : lt ≠ .i32 := bne_iff_ne.1 hp
    refine ⟨?_, fun s => ?exec, fun o h => ?none⟩
    case exec => unfold exec; rfl
    case none => exact laneComp_of_none hlt _ h
  | icmpv cond x2 r =>
    cases hs
    obtain rfl : x2 = true := hp
    refine ⟨?_, fun s => ?exec, fun o h => ?none⟩
    case exec => unfold exec; rfl
    case none => exact lanes_of_none h _
  | hadd | hsub | hmul | hfma | hmin | hmax | habs | hneg | hcmp | hsel | cvtff =>
    cases hs
    refine ⟨?_, fun s => ?exec, fun o h => ?none⟩
    case exec => unfold exec; rfl
    case none => exact halves_of_none h ..
  | hmask bf r => exact absurd rfl (hmask bf r)
  | cvtif half | cvtfi half =>
    cases hs
    obtain rfl : half = true := hp
    refine ⟨?_, fun s => ?exec, fun o h => ?none⟩
    case exec => unfold exec; rfl
    case none => exact (if_pos rfl).trans (halves_of_none h ..)
  | _ => cases hp

/-- A computing record that computes nothing sends dormant to both destinations. -/
theorem compute_of_none {s : State} {r : Shell} {f : Firing} {t : State} (h : Fires s r f t) {c : Opnds → Option Comp}
    (hc : c (t.opnds f r) = none) : s.compute r c = .next (t.sendBoth f r .dormant) := by
  rw [compute_of_fires h, hc]; rfl

/-- A computing record that computes a word. -/
theorem compute_of_some {s : State} {r : Shell} {f : Firing} {t : State} (h : Fires s r f t) {c : Opnds → Option Comp} {v : Comp}
    (hc : c (t.opnds f r) = some v) : s.compute r c = .next (t.emitComp f r (some v)) := by
  rw [compute_of_fires h, hc]

/-- Settles O14: a dormant firing computes nothing, by the kind of its operands. -/
theorem dormantFirings : Obligations.DormantFirings := by
  unfold Obligations.DormantFirings
  intro i r s f t hs h
  constructor
  · intro hw ho
    obtain ⟨c, hexec, hnone⟩ := exec_of_wholeWord hs hw
    rw [hexec, compute_of_none h (hnone _ ho)]
  · intro hp hmask ho
    obtain ⟨c, hexec, hnone⟩ := exec_of_packedLanes hs hp hmask
    rw [hexec, compute_of_none h (hnone _ ho)]

end Sys2Proof.Machine

namespace Sys2Proof.Machine

/-! # Integer lanes (R32, R59, R98, R99) -/

/-! ## Numbers put together from places -/

/-- A number put together from `n` places of `w` bits is below 2 to the `w * n`, and has each place where it was put. -/
theorem foldl_places (w : Nat) (v : Nat → Nat) (n : Nat) :
    let m := ((List.range n).map fun l => v l % 2 ^ w * 2 ^ (w * l)).foldl (· + ·) 0
    m < 2 ^ (w * n) ∧ ∀ l < n, m / 2 ^ (w * l) % 2 ^ w = v l % 2 ^ w := by
  induction n with
  | zero => simp
  | succ n ih =>
    obtain ⟨hlt, hdigit⟩ := ih
    simp only [List.range_succ, List.map_append, List.foldl_append, List.map_cons, List.map_nil, List.foldl_cons, List.foldl_nil]
    generalize ((List.range n).map fun l => v l % 2 ^ w * 2 ^ (w * l)).foldl (· + ·) 0 = m at hlt hdigit
    have hd : v n % 2 ^ w < 2 ^ w := Nat.mod_lt _ (Nat.two_pow_pos w)
    refine ⟨?lt, fun l hl => ?digit⟩
    case lt =>
      calc m + v n % 2 ^ w * 2 ^ (w * n) < (v n % 2 ^ w + 1) * 2 ^ (w * n) := by rw [Nat.add_mul]; omega
        _ ≤ 2 ^ w * 2 ^ (w * n) := Nat.mul_le_mul_right _ hd
        _ = 2 ^ (w * (n + 1)) := by rw [← Nat.pow_add, Nat.mul_add, Nat.mul_one, Nat.add_comm]
    case digit =>
      rcases Nat.lt_succ_iff_lt_or_eq.1 hl with hl | rfl
      · have hsplit : 2 ^ (w * n) = 2 ^ w * 2 ^ (w * (n - l - 1)) * 2 ^ (w * l) := by
          obtain ⟨j, rfl⟩ : ∃ j, n = l + j + 1 := ⟨n - l - 1, by omega⟩
          rw [show l + j + 1 - l - 1 = j by omega, ← Nat.pow_add, ← Nat.pow_add]
          congr 1; ring
        rw [hsplit, ← Nat.mul_assoc, Nat.add_mul_div_right _ _ (Nat.two_pow_pos _), Nat.mul_left_comm, Nat.add_mul_mod_self_left, hdigit l hl]
      · rw [Nat.add_mul_div_right _ _ (Nat.two_pow_pos _), Nat.div_eq_of_lt hlt, Nat.zero_add, Nat.mod_mod]

/-! ## Lanes of a word -/

/-- Lane `l` of a word as a number is what the model reads there. -/
theorem toNat_laneAt (w l : Nat) (x : Word) : (laneAt w x l).toNat = lane w l x := by
  simp only [laneAt, lane, BitVec.extractLsb'_toNat, Nat.shiftRight_eq_div_pow]

theorem laneWidth_mul (lt : LaneType) : laneWidth lt * (32 / laneWidth lt) = 32 := by cases lt <;> rfl
theorem laneWidth_pos (lt : LaneType) : 0 < laneWidth lt := by cases lt <;> decide

/-- The lanes of a word that is put together lane by lane. -/
theorem laneAt_onLanes (lt : LaneType) (a b c : Word) (g : Nat → Nat → Nat → Nat → Nat) {l : Nat} (hl : l < 32 / laneWidth lt) :
    let w := laneWidth lt
    laneAt w (onLanes lt a b c g) l = BitVec.ofNat w (g w (lane w l a) (lane w l b) (lane w l c)) := by
  intro w
  obtain ⟨hlt, hdigit⟩ := foldl_places w (fun l => g w (lane w l a) (lane w l b) (lane w l c)) (32 / w)
  rw [show w * (32 / w) = 32 from laneWidth_mul lt] at hlt
  apply BitVec.eq_of_toNat_eq
  rw [toNat_laneAt, lane, onLanes, BitVec.toNat_ofNat, BitVec.toNat_ofNat, Nat.mod_eq_of_lt hlt]
  exact hdigit l hl

/-- The bits of the active halves. -/
theorem getLsbD_laneMask (lm : BitVec 2) {k : Nat} (hk : k < 32) : (laneMask lm).getLsbD k = lm.getLsbD (k / 16) := by
  revert lm k
  decide

/-- The lanes of a word that is cut to the active halves. -/
theorem laneAt_and_laneMask {lt : LaneType} (hlt : lt ≠ .i32) {l : Nat} (hl : l < 32 / laneWidth lt) (x : Word) (lm : BitVec 2) :
    laneAt (laneWidth lt) (x &&& laneMask lm) l = if lm.getLsbD (laneWidth lt * l / 16) then laneAt (laneWidth lt) x l else 0 := by
  ext k hk
  have hdiv : (laneWidth lt * l + k) / 16 = laneWidth lt * l / 16 ∧ laneWidth lt * l + k < 32 := by
    cases lt with
    | i32 => exact absurd rfl hlt
    | i16x2 | i8x4 => simp only [laneWidth] at *; omega
  rw [laneAt, BitVec.getElem_extractLsb', BitVec.getLsbD_and, getLsbD_laneMask lm hdiv.2, hdiv.1]
  cases lm.getLsbD (laneWidth lt * l / 16) with
  | true => rw [Bool.and_true, if_pos rfl, laneAt, BitVec.getElem_extractLsb']
  | false => rw [Bool.and_false, if_neg Bool.false_ne_true, BitVec.ofNat_eq_ofNat, BitVec.getElem_zero]

/-! ## Lane by lane -/

/-- A computation lane by lane on operands that leave something to compute. -/
theorem laneComp_of_open {lt : LaneType} {o : Opnds} (h : LanesOpen lt o) (g : Nat → Nat → Nat → Nat → Nat) :
    ∃ v, laneComp lt g o = some { v := v, lm := if lt = .i32 then 3 else o.lm } ∧ ∀ l, l < 32 / laneWidth lt →
      laneAt (laneWidth lt) v l = if LaneOn lt o l then laneAt (laneWidth lt) (onLanes lt o.a.value o.b.value o.c.value g) l else 0 := by
  cases lt with
  | i32 => exact ⟨_, whole_of_open h _, fun _ _ => rfl⟩
  | i16x2 | i8x4 => exact ⟨_, if_neg h, fun l hl => laneAt_and_laneMask (by decide) hl _ _⟩

/-- A record that computes lane by lane answers lane by lane: `k` says on the lanes what `g` says on their numbers. -/
theorem laneAnswer_of_laneComp {i : Instr} {lt : LaneType} {r : Shell} {s : State} {f : Firing} {t : State} (h : Fires s r f t)
    (ho : LanesOpen lt (t.opnds f r)) {g : Nat → Nat → Nat → Nat → Nat} (hi : exec i s = s.compute r (laneComp lt g))
    {k : (w : Nat) → BitVec w → BitVec w → BitVec w → BitVec w}
    (hk : ∀ w (x y z : BitVec w), 0 < w → BitVec.ofNat w (g w x.toNat y.toNat z.toNat) = k w x y z) : LaneAnswer i lt r s f t k := by
  obtain ⟨v, hv, hlanes⟩ := laneComp_of_open ho g
  refine ⟨v, hi.trans (compute_of_some h hv), fun l hl => ?_⟩
  rw [hlanes l hl, laneAt_onLanes _ _ _ _ _ hl, ← hk _ _ _ _ (laneWidth_pos lt), toNat_laneAt, toNat_laneAt, toNat_laneAt]
  rfl

/-! ## Signed lanes -/

/-- The two's complement reading of a lane. -/
theorem signedLane_toNat {w : Nat} (hw : 0 < w) (x : BitVec w) : signedLane w x.toNat = x.toInt := by
  have hpow : 2 * 2 ^ (w - 1) = 2 ^ w := mul_pow_sub_one hw.ne' 2
  rw [signedLane, Nat.mod_eq_of_lt x.isLt, BitVec.toInt_eq_toNat_cond]
  by_cases h : x.toNat < 2 ^ (w - 1)
  · rw [if_pos h, if_pos (by omega)]
  · rw [if_neg h, if_neg (by omega)]; push_cast; rfl

/-- A wrapped result as a lane (R99). -/
theorem ofNat_wrapLane (w : Nat) (v : Int) : BitVec.ofNat w (wrapLane w v) = BitVec.ofInt w v := by
  have hpos : (0 : Int) ≤ v % 2 ^ w := Int.emod_nonneg _ (by positivity)
  rw [← BitVec.ofInt_natCast, wrapLane, Int.toNat_of_nonneg hpos]
  apply BitVec.eq_of_toInt_eq
  rw [BitVec.toInt_ofInt, BitVec.toInt_ofInt]
  exact_mod_cast Int.emod_bmod v (2 ^ w)

/-- A result clamped to the range of a lane (R59). -/
theorem clampLane_eq (w : Nat) (v : Int) : clampLane w v = max (-2 ^ (w - 1)) (min (2 ^ (w - 1) - 1) v) := by
  have hpos : (0 : Int) < 2 ^ (w - 1) := by positivity
  unfold clampLane
  split
  · omega
  · split <;> omega

/-- A signed computation on the numbers of lanes is that computation on the lanes. -/
theorem ofNat_exactLane {w : Nat} (hw : 0 < w) (sat : Bool) (g : Int → Int → Int → Int) (x y z : BitVec w) :
    BitVec.ofNat w (exactLane sat g w x.toNat y.toNat z.toNat) = fitLane sat w (g x.toInt y.toInt z.toInt) := by
  rw [exactLane, ofNat_wrapLane, signedLane_toNat hw, signedLane_toNat hw, signedLane_toNat hw, fitLane, clampLane_eq]

/-- A result that is the signed value of a lane is that lane. -/
theorem fitLane_toInt {w : Nat} (x : BitVec w) : fitLane false w x.toInt = x := BitVec.ofInt_toInt

theorem fitLane_ite {w : Nat} (c : Prop) [Decidable c] (x y : BitVec w) :
    fitLane false w (if c then x.toInt else y.toInt) = if c then x else y := by
  split <;> exact fitLane_toInt _

/-- A signed record answers lane by lane with its exact value, wrapped or clamped. -/
theorem laneAnswer_of_intComp {i : Instr} {lt : LaneType} {r : Shell} {s : State} {f : Firing} {t : State} (h : Fires s r f t)
    (ho : LanesOpen lt (t.opnds f r)) {sat : Bool} {g : Int → Int → Int → Int} (hi : exec i s = s.compute r (intComp lt sat g))
    {k : (w : Nat) → BitVec w → BitVec w → BitVec w → BitVec w}
    (hk : ∀ w (x y z : BitVec w), fitLane sat w (g x.toInt y.toInt z.toInt) = k w x y z) : LaneAnswer i lt r s f t k :=
  laneAnswer_of_laneComp h ho hi fun w x y z hw => (ofNat_exactLane hw sat g x y z).trans (hk w x y z)

/-! ## The integer records -/

section
variable (lt : LaneType) (sat : Bool) (r : Shell) (s : State)

theorem exec_add : exec (.add lt sat r) s = s.compute r (intComp lt sat fun x y _ => x + y) := rfl
theorem exec_sub : exec (.sub lt sat r) s = s.compute r (intComp lt sat fun x y _ => x - y) := rfl
theorem exec_mul : exec (.mul lt sat r) s = s.compute r (intComp lt sat fun x y _ => x * y) := rfl
theorem exec_mad : exec (.mad lt sat r) s = s.compute r (intComp lt sat fun x y z => x * y + z) := rfl
theorem exec_mulh : exec (.mulh lt r) s =
    s.compute r (laneComp lt fun w x y _ => wrapLane w (signedLane w x * signedLane w y / 2 ^ w)) := rfl
theorem exec_min : exec (.min lt r) s = s.compute r (intComp lt false fun x y _ => if y < x then y else x) := rfl
theorem exec_max : exec (.max lt r) s = s.compute r (intComp lt false fun x y _ => if x < y then y else x) := rfl
theorem exec_abs : exec (.abs lt sat r) s = s.compute r (intComp lt sat fun x _ _ => if x < 0 then -x else x) := rfl
theorem exec_neg : exec (.neg lt sat r) s = s.compute r (intComp lt sat fun x _ _ => -x) := rfl
theorem exec_mulhu : exec (.mulhu lt r) s = s.compute r (laneComp lt fun w x y _ => x * y / 2 ^ w) := rfl
theorem exec_minu : exec (.minu lt r) s = s.compute r (laneComp lt fun _ x y _ => if y < x then y else x) := rfl
theorem exec_maxu : exec (.maxu lt r) s = s.compute r (laneComp lt fun _ x y _ => if x < y then y else x) := rfl

end

/-- Settles O15: each record computes on the numbers of the lanes what its clause says of the lanes. -/
theorem integerArithmetic : Obligations.IntegerArithmetic := by
  unfold Obligations.IntegerArithmetic
  intro lt sat r s f t h ho
  refine ⟨laneAnswer_of_intComp h ho (exec_add ..) fun _ _ _ _ => rfl, laneAnswer_of_intComp h ho (exec_sub ..) fun _ _ _ _ => rfl,
    laneAnswer_of_intComp h ho (exec_mul ..) fun _ _ _ _ => rfl, laneAnswer_of_intComp h ho (exec_mad ..) fun _ _ _ _ => rfl,
    laneAnswer_of_laneComp h ho (exec_mulh ..) fun w x y _ hw => ?mulh, laneAnswer_of_intComp h ho (exec_min ..) fun w x y _ => ?min,
    laneAnswer_of_intComp h ho (exec_max ..) fun w x y _ => ?max, laneAnswer_of_intComp h ho (exec_abs ..) fun _ _ _ _ => rfl,
    laneAnswer_of_intComp h ho (exec_neg ..) fun _ _ _ _ => rfl, laneAnswer_of_laneComp h ho (exec_mulhu ..) fun _ _ _ _ _ => rfl,
    laneAnswer_of_laneComp h ho (exec_minu ..) fun w x y _ _ => ?minu, laneAnswer_of_laneComp h ho (exec_maxu ..) fun w x y _ _ => ?maxu⟩
  case mulh => rw [ofNat_wrapLane, signedLane_toNat hw, signedLane_toNat hw]
  case min => simp only [BitVec.slt_iff_toInt_lt]; exact fitLane_ite ..
  case max => simp only [BitVec.slt_iff_toInt_lt]; exact fitLane_ite ..
  case minu => simp only [BitVec.ult_iff_lt, BitVec.lt_def]; split <;> simp
  case maxu => simp only [BitVec.ult_iff_lt, BitVec.lt_def]; split <;> simp

end Sys2Proof.Machine

namespace Sys2Proof.Machine

/-! # Words, FP32 results and packed halves (R32, R55, R57, R100, R103 to R105, R112 to R118, R121) -/

section
variable {i : Instr} {r : Shell} {s : State} {f : Firing} {t : State} {c : Opnds → Option Comp}

/-! ## The shapes of an answer -/

theorem wordAnswer_of_compute (h : Fires s r f t) (hi : exec i s = s.compute r c) {v : Word} (hc : c (t.opnds f r) = some { v := v }) :
    WordAnswer i r s f t v := hi.trans (compute_of_some h hc)

/-- A record on whole words, on operands none of which is dormant. -/
theorem wordAnswer_of_whole (h : Fires s r f t) (ho : Whole (t.opnds f r)) (hi : exec i s = s.compute r c) {v : Word}
    (hc : c (t.opnds f r) = whole (t.opnds f r) { v := v }) : WordAnswer i r s f t v :=
  wordAnswer_of_compute h hi (hc.trans (whole_of_open ho _))

/-- The computed value of a rounded 32-bit result. -/
def floatComp (m : Rnd) (v : FRes) : Comp := { v := BitVec.ofNat 32 v.bits, st := v.flags, steps := if m = .sr then 1 else 0 }

theorem floatAnswer_of_compute (h : Fires s r f t) (hi : exec i s = s.compute r c) {m : Rnd} {g : Nat → FRes}
    (hc : c (t.opnds f r) = some (floatComp m (g (roundingNo t f 0)))) : FloatAnswer i m r s f t g := hi.trans (compute_of_some h hc)

theorem floatAnswer_of_whole (h : Fires s r f t) (ho : Whole (t.opnds f r)) (hi : exec i s = s.compute r c) {m : Rnd} {g : Nat → FRes}
    (hc : c (t.opnds f r) = whole (t.opnds f r) (floatComp m (g (roundingNo t f 0)))) : FloatAnswer i m r s f t g :=
  floatAnswer_of_compute h hi (hc.trans (whole_of_open ho _))

theorem fpComp_eq (m : Rnd) (o : Opnds) (g : Nat → FRes) : fpComp m o g = whole o (floatComp m (g (o.rs 0))) := rfl

/-- Two halves as one word. -/
theorem ofNat_halves (x y : Nat) : BitVec.ofNat 32 (x % 65536 + y % 65536 * 65536) = BitVec.ofNat 16 y ++ BitVec.ofNat 16 x := by
  apply BitVec.eq_of_toNat_eq
  rw [BitVec.toNat_append, BitVec.toNat_ofNat, BitVec.toNat_ofNat, BitVec.toNat_ofNat, ← Nat.shiftLeft_add_eq_or_of_lt (by omega),
    Nat.shiftLeft_eq]
  omega

/-- A packed record with an active half answers half by half. -/
theorem halfAnswer_of_halves (h : Fires s r f t) (hlm : (t.opnds f r).lm ≠ 0) (hi : exec i s = s.compute r c) {m : Rnd}
    {k g : Nat → Nat → FRes} (hc : c (t.opnds f r) = halves (t.opnds f r) m k) (hk : ∀ l n, k l n = g l n) : HalfAnswer i m r s f t g := by
  obtain rfl : k = g := funext fun l => funext (hk l)
  refine hi.trans (compute_of_some h (hc.trans ?_))
  rw [halves, if_neg hlm]
  simp only [ofNat_halves]
  rfl

/-- Half `l` of a token's word as a number is what the model reads there. -/
theorem half_eq_toNat_halfAt (k : Tok) (l : Nat) : half k.value l = (halfAt k l).toNat := by
  rw [half, halfAt, BitVec.extractLsb'_toNat, Nat.shiftRight_eq_div_pow, Nat.pow_mul]

theorem halfVal_eq (bf : Bool) (k : Tok) (l : Nat) : halfVal bf k l = halfOf bf k l := by rw [halfVal, half_eq_toNat_halfAt, halfOf]

/-- The sticky bit of two operands, one of which may signal. -/
theorem snanFlags_pair (a b : FVal) : snanFlags [a, b] = if a.isSnan || b.isSnan then stNV else 0 := by
  simp [snanFlags, nvIf]

/-! ## Logic on whole words (R100) -/

theorem exec_andW (r : Shell) (s : State) : exec (.andW r) s = s.compute r (wordComp fun a b _ => a &&& b) := rfl
theorem exec_orW (r : Shell) (s : State) : exec (.orW r) s = s.compute r (wordComp fun a b _ => a ||| b) := rfl
theorem exec_xorW (r : Shell) (s : State) : exec (.xorW r) s = s.compute r (wordComp fun a b _ => a ^^^ b) := rfl
theorem exec_andn (r : Shell) (s : State) : exec (.andn r) s = s.compute r (wordComp fun a b _ => a &&& ~~~b) := rfl
theorem exec_maj (r : Shell) (s : State) :
    exec (.maj r) s = s.compute r (wordComp fun a b c => (a &&& b) ||| (a &&& c) ||| (b &&& c)) := rfl
theorem exec_lut3 (tt : BitVec 8) (r : Shell) (s : State) : exec (.lut3 tt r) s = s.compute r (wordComp (lut3 tt)) := rfl

/-- The bits of LUT3. -/
theorem lut3_getLsbD (tt : BitVec 8) (a b c : Word) {k : Nat} (hk : k < 32) :
    (lut3 tt a b c).getLsbD k = tt.getLsbD (4 * (a.getLsbD k).toNat + 2 * (b.getLsbD k).toNat + (c.getLsbD k).toNat) := by
  have hbits := (testBit_foldl_atBit (fun i => tt.getLsbD ((a.getLsbD i).toNat * 4 + (b.getLsbD i).toNat * 2 + (c.getLsbD i).toNat)) 32).2 k
  rw [decide_eq_true hk, Bool.true_and] at hbits
  rw [lut3, BitVec.getLsbD_ofNat, List.foldl_map, decide_eq_true hk, Bool.true_and, Nat.mul_comm 4, Nat.mul_comm 2]
  exact hbits

/-- Settles O18: each record computes its clause on the whole words, LUT3 bit by bit. -/
theorem logicWords : Obligations.LogicWords := by
  unfold Obligations.LogicWords
  intro tt r s f t h ho
  exact ⟨wordAnswer_of_whole h ho (exec_andW ..) rfl, wordAnswer_of_whole h ho (exec_orW ..) rfl, wordAnswer_of_whole h ho (exec_xorW ..) rfl,
    wordAnswer_of_whole h ho (exec_andn ..) rfl, wordAnswer_of_whole h ho (exec_maj ..) rfl, _,
    wordAnswer_of_whole h ho (exec_lut3 ..) rfl, fun k hk => lut3_getLsbD _ _ _ _ hk⟩

/-! ## Compares (R83, R103 to R105) -/

theorem exec_icmpv (k : ICond) (x2 : Bool) (r : Shell) (s : State) : exec (.icmpv k x2 r) s = s.compute r
    (laneComp (if x2 then .i16x2 else .i32) fun w x y _ => if ICond.onLanes k w x y then 2 ^ w - 1 else 0) := rfl
theorem exec_icmp (k : ICond) (r : Shell) (s : State) :
    exec (.icmp k r) s = s.compute r (predComp fun o => ICond.onLanes k 32 o.a.value.toNat o.b.value.toNat) := rfl
theorem exec_fcmp (k : FCond) (r : Shell) (s : State) : exec (.fcmp k r) s = s.compute r fun o =>
    whole o { v := if (fcmp k o.a.value o.b.value).1 then 1 else 0, st := (fcmp k o.a.value o.b.value).2 } := rfl
theorem exec_fcmpv (k : FCond) (r : Shell) (s : State) : exec (.fcmpv k r) s = s.compute r fun o =>
    whole o { v := if (fcmp k o.a.value o.b.value).1 then 0xFFFFFFFF else 0, st := (fcmp k o.a.value o.b.value).2 } := rfl
theorem exec_fclass (r : Shell) (s : State) :
    exec (.fclass r) s = s.compute r (wordComp fun a _ _ => BitVec.ofNat 32 (fclass a.toNat)) := rfl
theorem exec_sel (r : Shell) (s : State) :
    exec (.sel r) s = s.compute r fun o => whole o { v := if o.p.p then o.a.value else o.b.value } := rfl

/-- An integer condition on the numbers of lanes is that condition on the lanes. -/
theorem onLanes_toNat (k : ICond) {w : Nat} (hw : 0 < w) (x y : BitVec w) : ICond.onLanes k w x.toNat y.toNat = condHolds k x y := by
  cases k with
  | eq | ne => simp [ICond.onLanes, condHolds, BitVec.toNat_eq, bne, Bool.beq_eq_decide_eq]
  | lt | le | gt | ge => simp only [ICond.onLanes, condHolds, signedLane_toNat hw, BitVec.slt, BitVec.sle]
  | ltu | leu | gtu | geu => rfl

theorem ofNat_onLanes (k : ICond) {w : Nat} (hw : 0 < w) (x y : BitVec w) :
    BitVec.ofNat w (if ICond.onLanes k w x.toNat y.toNat then 2 ^ w - 1 else 0) = if condHolds k x y then BitVec.allOnes w else 0 := by
  rw [onLanes_toNat k hw]
  split
  · exact BitVec.eq_of_toNat_eq (by simp)
  · rfl

/-- An FP32 compare: a word for true, and the sticky bit of a signalling operand. -/
theorem fcmp_comp (k : FCond) (x y one : Word) :
    ({ v := if (fcmp k x y).1 then one else 0, st := (fcmp k x y).2 } : Comp) = floatComp .rne
      ⟨if FCond.holds k (Fmt.fp32.decode x.toNat) (Fmt.fp32.decode y.toNat) then one.toNat else 0,
        if (Fmt.fp32.decode x.toNat).isSnan || (Fmt.fp32.decode y.toNat).isSnan then stNV else 0⟩ := by
  simp only [fcmp, floatComp, snanFlags_pair]
  split <;> simp

/-- Settles O23: each compare computes its condition on the operands. -/
theorem compares : Obligations.Compares := by
  unfold Obligations.Compares
  intro k d r s f t h
  refine ⟨fun ho => laneAnswer_of_laneComp h ho (exec_icmpv k false r s) fun _ x y _ hw => ofNat_onLanes k hw x y,
    fun ho => laneAnswer_of_laneComp h ho (exec_icmpv k true r s) fun _ x y _ hw => ofNat_onLanes k hw x y, fun ho => ⟨?icmp, ?fcmp, ?fcmpv, ?fclass, ?sel⟩⟩
  case icmp =>
    refine wordAnswer_of_whole h ho (exec_icmp ..) ?_
    rw [← onLanes_toNat k (by decide)]
    rfl
  case fcmp => exact floatAnswer_of_whole h ho (exec_fcmp ..) (congrArg (whole _) (fcmp_comp d _ _ 1))
  case fcmpv => exact floatAnswer_of_whole h ho (exec_fcmpv ..) (congrArg (whole _) (fcmp_comp d _ _ 0xFFFFFFFF))
  case fclass => exact wordAnswer_of_whole h ho (exec_fclass ..) rfl
  case sel => exact wordAnswer_of_whole h ho (exec_sel ..) rfl

/-! ## Conversions (R63, R116 to R118, R121) -/

theorem exec_cvtif_word (uns : Bool) (m : Rnd) (r : Shell) (s : State) : exec (.cvtif false uns m r) s = s.compute r fun o =>
    fpComp m o fun k => fromInt .fp32 m k (intLane uns 32 o.a.value.toNat) := rfl
theorem exec_cvtif_half (uns : Bool) (m : Rnd) (r : Shell) (s : State) : exec (.cvtif true uns m r) s = s.compute r fun o =>
    halves o m fun l k => fromInt .fp16 m k (intLane uns 16 (half o.a.value l)) := rfl
theorem exec_cvtfi_word (uns : Bool) (m : Rnd) (r : Shell) (s : State) : exec (.cvtfi false uns m r) s = s.compute r fun o =>
    fpComp m o fun k => cvtfi .fp32 uns 32 m k o.a.value.toNat := rfl
theorem exec_cvtfi_half (uns : Bool) (m : Rnd) (r : Shell) (s : State) : exec (.cvtfi true uns m r) s = s.compute r fun o =>
    halves o m fun l k => cvtfi .fp16 uns 16 m k (half o.a.value l) := rfl
theorem exec_cvtff (to16 : Bool) (m : Rnd) (r : Shell) (s : State) : exec (.cvtff to16 m r) s = s.compute r fun o => halves o m fun l k =>
    if to16 then convert .bf16 .fp16 m false k (half o.a.value l) else convert .fp16 .bf16 m false k (half o.a.value l) := rfl
theorem exec_unpkh (hi bf : Bool) (r : Shell) (s : State) : exec (.unpkh hi bf r) s = s.compute r (unpkh hi bf) := rfl
theorem exec_scq (q : ScqFmt) (r : Shell) (s : State) : exec (.scq q r) s = s.compute r fun o =>
    fpExact o { bits := (scq q o.a.value.toNat).1, flags := (scq q o.a.value.toNat).2 } := rfl
theorem exec_scdq (quot : Bool) (m : Rnd) (r : Shell) (s : State) : exec (.scdq quot m r) s = s.compute r fun o =>
    fpComp m o fun k => scdq quot m k o.a.value.toNat (o.b.value.toNat % 256) := rfl

/-- An integer lane read as signed or unsigned. -/
theorem intLane_toNat (uns : Bool) {w : Nat} (hw : 0 < w) (x : BitVec w) : intLane uns w x.toNat = if uns then (x.toNat : Int) else x.toInt := by
  rw [intLane, Nat.mod_eq_of_lt x.isLt, signedLane_toNat hw]

/-- A conversion to an integer, clamped to its range (R117). -/
theorem cvtfi_eq (src : Fmt) (uns : Bool) (w : Nat) (m : Rnd) (k x : Nat) : cvtfi src uns w m k x =
    let z := toInt src m k (if uns then 0 else -2 ^ (w - 1)) (if uns then 2 ^ w - 1 else 2 ^ (w - 1) - 1) x
    ⟨(BitVec.ofInt w z.1).toNat, z.2⟩ := by
  cases uns <;> simp [cvtfi, intRange, wrapLane, BitVec.toNat_ofInt]

/-- UNPKH of an active half, and of an inactive one. -/
theorem unpkh_of_active {hi : Bool} {o : Opnds} (h : o.a.lmask.getLsbD hi.toNat = true) (bf : Bool) :
    unpkh hi bf o = some (floatComp .rne (convert (.half bf) .fp32 .rne false 0 (halfAt o.a hi.toNat).toNat)) := by
  rw [unpkh, if_pos h, half_eq_toNat_halfAt]
  rfl

theorem unpkh_of_inactive {hi : Bool} {o : Opnds} (h : o.a.lmask.getLsbD hi.toNat = false) (bf : Bool) : unpkh hi bf o = none := by
  rw [unpkh, if_neg (by simp [h])]

/-- Settles O24: each conversion converts its operand, or each active half of it. -/
theorem conversions : Obligations.Conversions := by
  unfold Obligations.Conversions
  intro uns quot hi bf to16 m q r s f t h
  refine ⟨fun ho => ⟨?cvtif, ?cvtfi, ?scq, ?scdq⟩, fun hlm => ⟨?cvtif2, ?cvtfi2, ?cvtff⟩, fun ha => ?unpkh, fun ha => ?dormant⟩
  case cvtif =>
    refine floatAnswer_of_whole h ho (exec_cvtif_word ..) ?_
    rw [fpComp_eq, intLane_toNat uns (by decide)]
    rfl
  case cvtfi =>
    refine floatAnswer_of_whole h ho (exec_cvtfi_word ..) ?_
    rw [fpComp_eq, cvtfi_eq]
    rfl
  case scq => exact floatAnswer_of_whole h ho (exec_scq ..) rfl
  case scdq => exact floatAnswer_of_whole h ho (exec_scdq ..) rfl
  case cvtif2 =>
    refine halfAnswer_of_halves h hlm (exec_cvtif_half ..) rfl fun l k => ?_
    rw [half_eq_toNat_halfAt, intLane_toNat uns (by decide)]
    rfl
  case cvtfi2 =>
    refine halfAnswer_of_halves h hlm (exec_cvtfi_half ..) rfl fun l k => ?_
    rw [half_eq_toNat_halfAt, cvtfi_eq]
    rfl
  case cvtff =>
    refine halfAnswer_of_halves h hlm (exec_cvtff ..) rfl fun l k => ?_
    rw [half_eq_toNat_halfAt]
    rfl
  case unpkh => exact floatAnswer_of_compute h (exec_unpkh ..) (unpkh_of_active ha bf)
  case dormant => exact (exec_unpkh ..).trans (compute_of_none h (unpkh_of_inactive ha bf))

/-! ## Packed halves (R112 to R115) -/

theorem exec_hadd (bf : Bool) (m : Rnd) (r : Shell) (s : State) : exec (.hadd bf m r) s = s.compute r fun o => halves o m fun l k =>
    (Fmt.half bf).add m k (halfVal bf o.a l) (halfVal bf o.b l) := rfl
theorem exec_hsub (bf : Bool) (m : Rnd) (r : Shell) (s : State) : exec (.hsub bf m r) s = s.compute r fun o => halves o m fun l k =>
    (Fmt.half bf).sub m k (halfVal bf o.a l) (halfVal bf o.b l) := rfl
theorem exec_hmul (bf : Bool) (m : Rnd) (r : Shell) (s : State) : exec (.hmul bf m r) s = s.compute r fun o => halves o m fun l k =>
    (Fmt.half bf).mul m k (halfVal bf o.a l) (halfVal bf o.b l) := rfl
theorem exec_hfma (bf : Bool) (m : Rnd) (r : Shell) (s : State) : exec (.hfma bf m r) s = s.compute r fun o => halves o m fun l k =>
    (Fmt.half bf).fma m k (halfVal bf o.a l) (halfVal bf o.b l) (halfVal bf o.c l) := rfl
theorem exec_hmin (bf : Bool) (r : Shell) (s : State) : exec (.hmin bf r) s = s.compute r fun o => halves o .rne fun l _ =>
    (Fmt.half bf).minmax false (half o.a.value l) (half o.b.value l) := rfl
theorem exec_hmax (bf : Bool) (r : Shell) (s : State) : exec (.hmax bf r) s = s.compute r fun o => halves o .rne fun l _ =>
    (Fmt.half bf).minmax true (half o.a.value l) (half o.b.value l) := rfl
theorem exec_habs (bf : Bool) (r : Shell) (s : State) : exec (.habs bf r) s = s.compute r fun o => halves o .rne fun l _ =>
    (Fmt.half bf).signOp false (half o.a.value l) := rfl
theorem exec_hneg (bf : Bool) (r : Shell) (s : State) : exec (.hneg bf r) s = s.compute r fun o => halves o .rne fun l _ =>
    (Fmt.half bf).signOp true (half o.a.value l) := rfl
theorem exec_hcmp (bf : Bool) (k : FCond) (r : Shell) (s : State) : exec (.hcmp bf k r) s = s.compute r fun o => halves o .rne fun l _ =>
    { bits := if FCond.holds k (halfVal bf o.a l) (halfVal bf o.b l) then 0xFFFF else 0
      flags := snanFlags [halfVal bf o.a l, halfVal bf o.b l] } := rfl
theorem exec_hsel (bf : Bool) (r : Shell) (s : State) : exec (.hsel bf r) s = s.compute r fun o => halves o .rne fun l _ =>
    { bits := if half o.c.value l ≠ 0 then half o.a.value l else half o.b.value l, flags := 0 } := rfl
theorem exec_hdot2 (bf : Bool) (m : Rnd) (r : Shell) (s : State) : exec (.hdot2 bf m r) s = s.compute r (hdot2 bf m) := rfl
theorem exec_hmask (bf : Bool) (r : Shell) (s : State) : exec (.hmask bf r) s = s.compute r fun o =>
    if hmaskLm o = 0 then none else some { v := o.a.value &&& laneMask (hmaskLm o), lm := hmaskLm o } := rfl

/-- The lanes of a mask. -/
theorem filter_lanes_eq_nil (lm : BitVec 2) : [0, 1].filter (fun l => lm.getLsbD l) = [] ↔ lm = 0 := by
  revert lm
  decide

/-- HDOT2 with something to add. -/
theorem hdot2_of_active {o : Opnds} (hc : o.c.isDormant = false) (hlm : o.a.lmask &&& o.b.lmask ≠ 0) (bf : Bool) (m : Rnd) :
    let ls := [0, 1].filter fun l => (o.a.lmask &&& o.b.lmask).getLsbD l
    let prods := ls.map fun l => FVal.mul (halfVal bf o.a l) (halfVal bf o.b l)
    let ops := ls.flatMap fun l => [halfVal bf o.a l, halfVal bf o.b l]
    hdot2 bf m o = some (floatComp m (Fmt.fp32.sum m (o.rs 0) (o.fc :: ops) (o.fc :: prods.map (·.1)) (prods.any (·.2)))) := by
  simp only [hdot2, hc, hlm, Bool.false_or, decide_false, Bool.false_eq_true, if_false]
  rfl

theorem hdot2_of_inactive {o : Opnds} (h : o.c.isDormant = true ∨ o.a.lmask &&& o.b.lmask = 0) (bf : Bool) (m : Rnd) : hdot2 bf m o = none := by
  rw [hdot2]
  rcases h with h | h <;> simp [h]

/-- The lanes that HMASK leaves, one by one. -/
theorem hmaskLm_eq (o : Opnds) :
    let keep (l : Nat) : Bool := o.a.lmask.getLsbD l && o.b.lmask.getLsbD l && halfAt o.b l != 0
    hmaskLm o = BitVec.ofBool (keep 1) ++ BitVec.ofBool (keep 0) := by
  have hne (l : Nat) : (half o.b.value l ≠ 0) ↔ (halfAt o.b l != 0) = true := by
    rw [half_eq_toNat_halfAt, bne_iff_ne, ne_eq, ne_eq, ← BitVec.toNat_inj, BitVec.ofNat_eq_ofNat, BitVec.toNat_zero]
  simp only [hmaskLm, hne]
  generalize o.a.lmask = a, o.b.lmask = b, (halfAt o.b 0 != 0) = x, (halfAt o.b 1 != 0) = y
  revert a b x y
  decide

/-- Two lanes put together are none exactly when neither is there. -/
theorem ofBool_append_eq_zero (x y : Bool) : BitVec.ofBool y ++ BitVec.ofBool x = (0 : BitVec 2) ↔ (x || y) = false := by
  revert x y
  decide

theorem getLsbD_ofBool_append (keep : Nat → Bool) {l : Nat} (hl : l < 2) :
    (BitVec.ofBool (keep 1) ++ BitVec.ofBool (keep 0)).getLsbD l = keep l := by
  have hboth : ∀ x y : Bool, (BitVec.ofBool y ++ BitVec.ofBool x).getLsbD 0 = x ∧ (BitVec.ofBool y ++ BitVec.ofBool x).getLsbD 1 = y := by
    decide
  rcases (by omega : l = 0 ∨ l = 1) with rfl | rfl
  · exact (hboth _ _).1
  · exact (hboth _ _).2

/-- Settles O22: each record computes on the halves what its clause says of them. -/
theorem packedHalf : Obligations.PackedHalf := by
  unfold Obligations.PackedHalf
  constructor
  · intro bf m k r s f t h hlm x u
    have hx (p : Tok) (l : Nat) : halfVal bf p l = halfOf bf p l := halfVal_eq bf p l
    have hu (p : Tok) (l : Nat) : half p.value l = (halfAt p l).toNat := half_eq_toNat_halfAt p l
    refine ⟨halfAnswer_of_halves h hlm (exec_hadd ..) rfl fun l n => ?_, halfAnswer_of_halves h hlm (exec_hsub ..) rfl fun l n => ?_,
      halfAnswer_of_halves h hlm (exec_hmul ..) rfl fun l n => ?_, halfAnswer_of_halves h hlm (exec_hfma ..) rfl fun l n => ?_,
      halfAnswer_of_halves h hlm (exec_hmin ..) rfl fun l n => ?_, halfAnswer_of_halves h hlm (exec_hmax ..) rfl fun l n => ?_,
      halfAnswer_of_halves h hlm (exec_habs ..) rfl fun l n => ?_, halfAnswer_of_halves h hlm (exec_hneg ..) rfl fun l n => ?_,
      halfAnswer_of_halves h hlm (exec_hcmp ..) rfl fun l n => ?_, halfAnswer_of_halves h hlm (exec_hsel ..) rfl fun l n => ?_⟩
    all_goals simp only [hx, hu, snanFlags_pair]; rfl
  · intro bf m r s f t h on ls k prods ops keep
    have hls : ls = [0, 1].filter fun l => ((t.opnds f r).a.lmask &&& (t.opnds f r).b.lmask).getLsbD l := by
      simp only [BitVec.getLsbD_and]; rfl
    have hnil : ls = [] ↔ (t.opnds f r).a.lmask &&& (t.opnds f r).b.lmask = 0 := by rw [hls, filter_lanes_eq_nil]
    have hkeep : hmaskLm (t.opnds f r) = BitVec.ofBool (keep 1) ++ BitVec.ofBool (keep 0) := hmaskLm_eq _
    refine ⟨fun hc hne => ?dot, fun hd => ?dotDormant, fun hk => ?mask, fun hk => ?maskDormant⟩
    case dot =>
      refine floatAnswer_of_compute h (exec_hdot2 ..) ((hdot2_of_active hc (mt hnil.2 hne) bf m).trans ?_)
      simp only [halfVal_eq, ← hls]
      rfl
    case dotDormant => exact (exec_hdot2 ..).trans (compute_of_none h (hdot2_of_inactive (hd.imp_right hnil.1) bf m))
    case mask =>
      have hne : hmaskLm (t.opnds f r) ≠ 0 := by
        rw [hkeep, ne_eq, ofBool_append_eq_zero, hk]; decide
      refine ⟨_, (exec_hmask ..).trans ((compute_of_some h (if_neg hne)).trans (by rw [hkeep])), fun l hl => ?_⟩
      have hlane := laneAt_and_laneMask (lt := .i16x2) (by decide) hl (f.port r 0).value (BitVec.ofBool (keep 1) ++ BitVec.ofBool (keep 0))
      rw [show laneWidth .i16x2 * l / 16 = l by simp [laneWidth], getLsbD_ofBool_append keep hl] at hlane
      exact hlane
    case maskDormant =>
      exact (exec_hmask ..).trans (compute_of_none h (if_pos (by rw [hkeep, ofBool_append_eq_zero, hk])))

end
end Sys2Proof.Machine

namespace Sys2Proof.Machine

/-! # Conversions that pack or widen bytes and halves (R55, R118 to R122) -/

/-! ## Places filled in order -/

/-- LFSR steps before place `n`: one for each active place before it under SR (log 81). -/
def srBefore (m : Rnd) (act : Nat → Bool) (n : Nat) : Nat := if m = .sr then activeBefore act n else 0

theorem activeBefore_succ (act : Nat → Bool) (n : Nat) : activeBefore act (n + 1) = activeBefore act n + (act n).toNat := by
  rw [activeBefore, List.range_succ, List.filter_append, List.length_append, activeBefore]
  cases hn : act n <;> simp [hn]

theorem srBefore_succ (m : Rnd) (act : Nat → Bool) (n : Nat) :
    srBefore m act (n + 1) = if act n then srBefore m act n + rndSteps m 1 else srBefore m act n := by
  simp only [srBefore, rndSteps, activeBefore_succ]
  split <;> cases act n <;> rfl

/-- What place `l` is given: its conversion with its rounding number, or zero. -/
def placed (o : Opnds) (m : Rnd) (act : Nat → Bool) (g : Nat → Nat → FRes) (l : Nat) : Nat :=
  if act l then (g l (o.rs (srBefore m act l))).bits else 0

/-- The accumulator that `places` folds with, by one place. -/
def placesStep (o : Opnds) (m : Rnd) (w : Nat) (g : Nat → Nat → FRes) (acc : Nat × Nat × Nat × Sticky) (on : Bool) : Nat × Nat × Nat × Sticky :=
  let (i, steps, v, st) := acc
  if on then
    let x := g i (o.rs steps)
    (i + 1, steps + rndSteps m 1, v + x.bits % 2 ^ w * 2 ^ (w * i), st ||| x.flags)
  else (i + 1, steps, v, st)

theorem places_eq (o : Opnds) (m : Rnd) (w : Nat) (lm : BitVec 2) (act : List Bool) (g : Nat → Nat → FRes) :
    places o m w lm act g =
      let z := act.foldl (placesStep o m w g) (0, 0, 0, 0)
      { v := BitVec.ofNat 32 z.2.2.1, lm := lm, st := z.2.2.2, steps := z.2.1 } := rfl

/-- After `n` places: their number, their LFSR steps, and the number put together from them. -/
theorem foldl_placesStep (o : Opnds) (m : Rnd) (w : Nat) (g : Nat → Nat → FRes) (act : Nat → Bool) (n : Nat) :
    ∃ st, ((List.range n).map act).foldl (placesStep o m w g) (0, 0, 0, 0) = (n, srBefore m act n,
      ((List.range n).map fun l => placed o m act g l % 2 ^ w * 2 ^ (w * l)).foldl (· + ·) 0, st) := by
  induction n with
  | zero => exact ⟨0, by simp [srBefore, activeBefore]⟩
  | succ n ih =>
    obtain ⟨st, ih⟩ := ih
    simp only [List.range_succ, List.map_append, List.foldl_append, ih, List.map_cons, List.map_nil, List.foldl_cons, List.foldl_nil]
    cases hn : act n with
    | false => exact ⟨st, by simp [placesStep, srBefore_succ, hn, placed]⟩
    | true => exact ⟨_, by simp only [placesStep, srBefore_succ, hn, placed, if_true]; rfl⟩

/-- The places of a result: a number of places that fit a word, each holding its conversion or zero, the places beyond them zero. -/
theorem places_spec (o : Opnds) (m : Rnd) {w n : Nat} (hn : w * n ≤ 32) (lm : BitVec 2) (act : Nat → Bool) (g : Nat → Nat → FRes) :
    ∃ v st, places o m w lm ((List.range n).map act) g = ⟨v, lm, st, srBefore m act n⟩ ∧
      ∀ l, v.extractLsb' (w * l) w = if l < n ∧ act l = true then BitVec.ofNat w (g l (o.rs (srBefore m act l))).bits else 0 := by
  obtain ⟨st, hfold⟩ := foldl_placesStep o m w g act n
  obtain ⟨hlt, hdigit⟩ := foldl_places w (placed o m act g) n
  generalize ((List.range n).map fun l => placed o m act g l % 2 ^ w * 2 ^ (w * l)).foldl (· + ·) 0 = z at hfold hlt hdigit
  refine ⟨BitVec.ofNat 32 z, st, by rw [places_eq, hfold], fun l => BitVec.eq_of_toNat_eq ?_⟩
  have hz : z < 2 ^ 32 := Nat.lt_of_lt_of_le hlt (Nat.pow_le_pow_right (by decide) hn)
  rw [BitVec.extractLsb'_toNat, BitVec.toNat_ofNat, Nat.mod_eq_of_lt hz, Nat.shiftRight_eq_div_pow]
  by_cases hl : l < n
  · rw [hdigit l hl, placed]
    cases act l <;> simp [hl]
  · have hbeyond : z < 2 ^ (w * l) := Nat.lt_of_lt_of_le hlt (Nat.pow_le_pow_right (by decide) (Nat.mul_le_mul_left w (Nat.le_of_not_lt hl)))
    rw [Nat.div_eq_of_lt hbeyond, if_neg (fun hc => hl hc.1)]
    simp

/-! ## The records -/

theorem exec_packh (bf : Bool) (m : Rnd) (r : Shell) (s : State) : exec (.packh bf m r) s = s.compute r (packh bf m) := rfl
theorem exec_cvtf8 (e5 sat : Bool) (m : Rnd) (from32 : Bool) (r : Shell) (s : State) :
    exec (.cvtf8 e5 sat m from32 r) s = s.compute r (cvtf8 e5 sat m from32) := rfl
theorem exec_twenc (bf : Bool) (r : Shell) (s : State) : exec (.twenc bf r) s = s.compute r (twenc bf) := rfl
theorem exec_cvt8f (e5 hi : Bool) (r : Shell) (s : State) :
    exec (.cvt8f e5 hi r) s = s.compute r (widen hi fun b => convert (.fp8 e5) .fp16 .rne false 0 b) := rfl
theorem exec_twdec (bf hi : Bool) (r : Shell) (s : State) : exec (.twdec bf hi r) s = s.compute r (widen hi (twdecByte bf)) := rfl

section
variable {o : Opnds}

/-- Both operands dormant. -/
theorem both_dormant (h : (!o.a.isDormant || !o.b.isDormant) = false) : (o.a.isDormant && o.b.isDormant) = true := by
  simpa [Bool.or_eq_false_iff] using h

theorem not_both_dormant (h : (!o.a.isDormant || !o.b.isDormant) = true) : ¬ (o.a.isDormant && o.b.isDormant) = true := by
  simpa [Bool.or_eq_true, ← Bool.not_and] using h

/-- The lane mask of a result with half 0 from port 0 and half 1 from port 1. -/
theorem pairLm_eq (o : Opnds) : pairLm o = BitVec.ofBool (!o.b.isDormant) ++ BitVec.ofBool (!o.a.isDormant) := by
  rw [pairLm]
  generalize o.a.isDormant = x, o.b.isDormant = y
  revert x y
  decide

theorem laneOf_eq (o : Opnds) (i : Nat) : laneOf o i = (halfAt (if i < 2 then o.a else o.b) (i % 2)).toNat := half_eq_toNat_halfAt ..

theorem packh_of_active (h : (!o.a.isDormant || !o.b.isDormant) = true) (bf : Bool) (m : Rnd) (act : Nat → Bool)
    (h0 : act 0 = !o.a.isDormant) (h1 : act 1 = !o.b.isDormant) :
    packh bf m o = some (places o m 16 (BitVec.ofBool (act 1) ++ BitVec.ofBool (act 0)) ((List.range 2).map act) fun i k =>
      convert .fp32 (.half bf) m false k (if i = 0 then o.a else o.b).value.toNat) := by
  have hlm : ∀ x y : Bool, ((if x then 1 else 0) ||| (if y then 2 else 0) : BitVec 2) = BitVec.ofBool y ++ BitVec.ofBool x := by decide
  rw [packh, if_neg (not_both_dormant h)]
  simp only [hlm, ← h0, ← h1]
  rfl

theorem cvtf8_word_of_active (h : (!o.a.isDormant || !o.b.isDormant) = true) (e5 sat : Bool) (m : Rnd) (act : Nat → Bool)
    (h0 : act 0 = !o.a.isDormant) (h1 : act 1 = !o.b.isDormant) :
    cvtf8 e5 sat m true o = some (places o m 8 1 ((List.range 2).map act) fun i k =>
      convert .fp32 (.fp8 e5) m sat k (if i = 0 then o.a else o.b).value.toNat) := by
  rw [cvtf8, if_neg (not_both_dormant h), if_pos rfl, ← h0, ← h1]
  rfl

theorem cvtf8_half_of_active (h : (!o.a.isDormant || !o.b.isDormant) = true) (e5 sat : Bool) (m : Rnd) :
    cvtf8 e5 sat m false o = some (places o m 8 (BitVec.ofBool (!o.b.isDormant) ++ BitVec.ofBool (!o.a.isDormant))
      ((List.range 4).map (laneActive o)) fun i k => convert .fp16 (.fp8 e5) m sat k (laneOf o i)) := by
  rw [cvtf8, if_neg (not_both_dormant h), if_neg Bool.false_ne_true, pairLm_eq]

theorem twenc_of_active (h : (!o.a.isDormant || !o.b.isDormant) = true) (bf : Bool) :
    twenc bf o = some (places o .rne 8 (BitVec.ofBool (!o.b.isDormant) ++ BitVec.ofBool (!o.a.isDormant))
      ((List.range 4).map (laneActive o)) fun i _ =>
        { bits := (tw8Encode ((Fmt.half bf).decode (laneOf o i))).1, flags := (tw8Encode ((Fmt.half bf).decode (laneOf o i))).2 }) := by
  rw [twenc, if_neg (not_both_dormant h), pairLm_eq]

/-- The two bytes of an active half, widened. -/
theorem widen_of_active {hi : Bool} (h : o.a.lmask.getLsbD hi.toNat = true) (g : Nat → FRes) :
    let byte (l : Nat) : Nat := ((halfAt o.a hi.toNat).extractLsb' (8 * l) 8).toNat
    widen hi g o = some { v := BitVec.ofNat 16 (g (byte 1)).bits ++ BitVec.ofNat 16 (g (byte 0)).bits
                          st := (g (byte 0)).flags ||| (g (byte 1)).flags } := by
  have hlt := (halfAt o.a hi.toNat).isLt
  have h0 : ((halfAt o.a hi.toNat).extractLsb' (8 * 0) 8).toNat = (halfAt o.a hi.toNat).toNat % 256 := by
    rw [BitVec.extractLsb'_toNat]; rfl
  have h1 : ((halfAt o.a hi.toNat).extractLsb' (8 * 1) 8).toNat = (halfAt o.a hi.toNat).toNat / 256 := by
    rw [BitVec.extractLsb'_toNat, Nat.shiftRight_eq_div_pow]; omega
  rw [widen, if_pos h]
  simp only [ofNat_halves, half_eq_toNat_halfAt, h0, h1]

theorem widen_of_inactive {hi : Bool} (h : o.a.lmask.getLsbD hi.toNat = false) (g : Nat → FRes) : widen hi g o = none :=
  if_neg (by simp [h])

end

/-- Settles O25: each packing record fills its places in order, each widening one widens the two bytes of its half. -/
theorem packedConversions : Obligations.PackedConversions := by
  unfold Obligations.PackedConversions
  intro bf e5 sat hi m r s f t h op lit half on k lm byte tw c8
  refine ⟨fun hl => ⟨?packh, ?word, ?bytes, ?twenc⟩, fun hl => ?dormant, fun ha => ⟨?cvt8f, ?twdec⟩, fun ha => ?inactive⟩
  case packh =>
    obtain ⟨v, st, hv, hplace⟩ := places_spec (t.opnds f r) m (w := 16) (n := 2) (by decide) lm lit fun i k =>
      convert .fp32 (.half bf) m false k (if i = 0 then f.port r 0 else f.port r 1).value.toNat
    refine ⟨v, st, _, (exec_packh ..).trans (compute_of_some h ((packh_of_active hl bf m lit rfl rfl).trans (congrArg some hv))),
      fun l hl => ?_⟩
    rw [hplace l]
    rcases (by omega : l = 0 ∨ l = 1) with rfl | rfl <;> simp only [hl, true_and] <;> rfl
  case word =>
    obtain ⟨v, st, hv, hplace⟩ := places_spec (t.opnds f r) m (w := 8) (n := 2) (by decide) 1 lit fun i k =>
      convert .fp32 (.fp8 e5) m sat k (if i = 0 then f.port r 0 else f.port r 1).value.toNat
    refine ⟨v, st, _, (exec_cvtf8 ..).trans (compute_of_some h ((cvtf8_word_of_active hl e5 sat m lit rfl rfl).trans (congrArg some hv))),
      fun l _ => ?_⟩
    rw [hplace l]
    by_cases hl : l < 2
    · rcases (by omega : l = 0 ∨ l = 1) with rfl | rfl <;> simp only [hl, true_and] <;> rfl
    · simp [hl]
  case bytes =>
    obtain ⟨v, st, hv, hplace⟩ := places_spec (t.opnds f r) m (w := 8) (n := 4) (by decide) lm (laneActive (t.opnds f r)) fun i k =>
      convert .fp16 (.fp8 e5) m sat k (laneOf (t.opnds f r) i)
    refine ⟨v, st, _, (exec_cvtf8 ..).trans (compute_of_some h ((cvtf8_half_of_active hl e5 sat m).trans (congrArg some hv))), fun l hl => ?_⟩
    rw [hplace l]
    rcases (by omega : l = 0 ∨ l = 1 ∨ l = 2 ∨ l = 3) with rfl | rfl | rfl | rfl <;> simp only [hl, true_and, laneOf_eq] <;> rfl
  case twenc =>
    obtain ⟨v, st, hv, hplace⟩ := places_spec (t.opnds f r) .rne (w := 8) (n := 4) (by decide) lm (laneActive (t.opnds f r)) fun i _ =>
      { bits := (tw8Encode ((Fmt.half bf).decode (laneOf (t.opnds f r) i))).1
        flags := (tw8Encode ((Fmt.half bf).decode (laneOf (t.opnds f r) i))).2 }
    refine ⟨v, st, (exec_twenc ..).trans (compute_of_some h ((twenc_of_active hl bf).trans (congrArg some hv))), fun l hl => ?_⟩
    rw [hplace l]
    rcases (by omega : l = 0 ∨ l = 1 ∨ l = 2 ∨ l = 3) with rfl | rfl | rfl | rfl <;> simp only [hl, true_and, laneOf_eq] <;> rfl
  case dormant =>
    have hd := both_dormant (o := t.opnds f r) hl
    exact ⟨(exec_packh ..).trans (compute_of_none h (if_pos hd)), (exec_cvtf8 ..).trans (compute_of_none h (if_pos hd)),
      (exec_cvtf8 ..).trans (compute_of_none h (if_pos hd)), (exec_twenc ..).trans (compute_of_none h (if_pos hd))⟩
  case cvt8f => exact (exec_cvt8f ..).trans (compute_of_some h (widen_of_active ha _))
  case twdec => exact (exec_twdec ..).trans (compute_of_some h (widen_of_active ha _))
  case inactive =>
    exact ⟨(exec_cvt8f ..).trans (compute_of_none h (widen_of_inactive ha _)), (exec_twdec ..).trans (compute_of_none h (widen_of_inactive ha _))⟩

end Sys2Proof.Machine

namespace Sys2Proof.Machine

/-! # Flow records (R124, R126, R127) -/

theorem exec_copy (r : Shell) (s : State) : exec (.copy r) s = s.fire r fun f t => some (t.sendBoth f r (f.port r 0)) := rfl
theorem exec_join (r : Shell) (s : State) : exec (.join r) s = s.fire r fun f t => some (t.sendBoth f r (f.port r 0)) := rfl
theorem exec_sink (r : Shell) (s : State) : exec (.sink r) s = s.fire r fun _ t => some t := rfl
theorem exec_nullout (r : Shell) (s : State) : exec (.nullout r) s = s.fire r fun f t => some (t.sendBoth f r .null) := rfl
theorem exec_steer (nul : Bool) (r : Shell) (s : State) : exec (.steer nul r) s = s.fire r fun f t =>
    if f.pred then some (if nul then t.sendTwo f r (f.port r 0) .null else t.send f false r.dsta (f.port r 0))
    else some (if nul then t.sendTwo f r .null (f.port r 0) else t.send f true r.dstb (f.port r 0)) := rfl
theorem exec_gate (nul : Bool) (r : Shell) (s : State) : exec (.gate nul r) s = s.fire r fun f t =>
    some (if f.pred then t.sendBoth f r (f.port r 0) else if nul then t.sendBoth f r .null else t) := rfl

/-- Settles O26: each flow record on a set that gives a value. -/
theorem flowPass : Obligations.FlowPass := by
  unfold Obligations.FlowPass
  intro nul r s f t h k p
  have hp : f.pred = p := rfl
  refine ⟨(exec_copy ..).trans (fire_of_fires h _), (exec_join ..).trans (fire_of_fires h _), (exec_sink ..).trans (fire_of_fires h _),
    (exec_nullout ..).trans (fire_of_fires h _), ?steer, ?gate⟩
  case steer =>
    rw [exec_steer, fire_of_fires h, hp]
    cases p <;> rfl
  case gate =>
    rw [exec_gate, fire_of_fires h, hp]
    rfl

/-! # Sets without a value (R32 to R34, R124, R127, R151, R192, R384) -/

/-! ## The shapes of a firing, by its flags -/

section
variable {i : Instr} {r : Shell} {s : State} {f : Firing} {t : State}

theorem fire_of_mismatch {k : Nat} (g : s.gather r = some (f, t)) (v : f.verdict = .mismatch k) (value : Firing → State → Option State) :
    s.fire r value = .next ((t.countFault f k).getD s.park) := by
  simp only [State.fire, g, v, settleFire]

/-- A record of the common shape sends its flag to both destinations. -/
theorem answersFlags_of_fire {value : Firing → State → Option State} (g : s.gather r = some (f, t)) (hi : exec i s = s.fire r value) :
    AnswersFlags i s f t (t.sendBoth f r) :=
  ⟨fun v => hi.trans (fire_of_null g v _), fun v => hi.trans (fire_of_eos g v _), fun _ v => hi.trans (fire_of_mismatch g v _)⟩

/-- A set with a dormant token, as the meanings ask for it. -/
theorem any_isDormant {l : List (Nat × Tok)} (h : ∃ e ∈ l, e.2.isDormant = true) : (l.any fun e => e.2.isDormant) = true :=
  List.any_eq_true.2 h

theorem fireActive_of_idle (h : Fires s r f t) (hidle : ∃ e ∈ f.toks, e.2.isDormant = true) (value : Firing → State → Option State) :
    s.fireActive r value = .next (t.sendBoth f r .dormant) := by
  rw [State.fireActive, fire_of_fires h, if_pos (any_isDormant hidle), settleFire_some]

/-- A memory record sends its flag after its note. -/
theorem answersFlags_of_fireData {ps : List Nat} {note : Firing → State → State} {value : Firing → State → Option State}
    (g : s.gather r = some (f, t)) (hi : exec i s = s.fireData r ps note value) : AnswersFlags i s f t ((note f t).sendBoth f r) :=
  ⟨fun v => by simp only [hi, State.fireData, g, v, settleFire_some], fun v => by simp only [hi, State.fireData, g, v, settleFire_some],
    fun k v => by simp only [hi, State.fireData, g, v, settleFire]; rfl⟩

theorem fireData_of_idle (h : Fires s r f t) {ps : List Nat} (hidle : ∃ k ∈ ps, (f.port r k).isDormant = true) (note : Firing → State → State)
    (value : Firing → State → Option State) : s.fireData r ps note value = .next ((note f t).sendBoth f r .dormant) := by
  have hany : (ps.any fun k => (f.port r k).isDormant) = true := List.any_eq_true.2 hidle
  simp only [State.fireData, h.1, h.2, hany, if_true, settleFire_some]

/-- The flag of a control record goes to a consumer that is no AG (R384). -/
theorem State.sendConsumer_eq (t : State) (f : Firing) (r : Shell) (k : Tok) :
    t.sendConsumer f r k = if r.dstb ≠ noDest ∧ destClass r.dstb = 2 then t else t.send f true r.dstb k := by
  simp only [State.sendConsumer, Bool.and_eq_true, bne_iff_ne, beq_iff_eq]

theorem answersFlags_of_fireControl {act : Firing → State → Option State} (g : s.gather r = some (f, t)) (hi : exec i s = s.fireControl r act) :
    AnswersFlags i s f t (t.sendConsumer f r) :=
  ⟨fun v => by simp only [hi, State.fireControl, g, v, settleFire_some], fun v => by simp only [hi, State.fireControl, g, v, settleFire_some],
    fun k v => by simp only [hi, State.fireControl, g, v, settleFire]; rfl⟩

theorem fireControl_of_idle (h : Fires s r f t) (hidle : ∃ e ∈ f.toks, e.2.isDormant = true) (act : Firing → State → Option State) :
    s.fireControl r act = .next (t.sendConsumer f r .dormant) := by
  simp only [State.fireControl, h.1, h.2, any_isDormant hidle, if_true, settleFire_some]

/-- A record that acts on an active token passes on one that is not. -/
theorem fireTrigger_of_inactive (g : s.gather r = some (f, t)) (m : ∀ k, f.verdict ≠ .mismatch k) (ha : (f.port r 0).isActive = false)
    (act : Firing → State → Word → Option State) : s.fireTrigger r act = .next (t.sendBoth f r (f.port r 0)) := by
  rw [State.fireTrigger, fireTag_of_gather g m]
  simp only [ha, Bool.false_eq_true, if_false, settleFire_some]

/-! ## The shape of each record -/

/-- A record that acts only on a set without a dormant token. -/
theorem exec_of_awakeOnly (hs : i.shell? = some r) (ha : awakeOnly i = true) (s : State) : ∃ value, exec i s = s.fireActive r value := by
  cases i with
  | const v q =>
    cases hs
    have hin : ¬ r.inmask = 0 := bne_iff_ne.1 ha
    exact ⟨_, (if_neg hin : execConst v r s = _)⟩
  | fence | barwait | waitw | quiesce | event | yield | bararr | bardrop | wakew | mma | mmas | mdrain | mzero | mstat | tex | texn | march
  | cadd | cwmk | cres | cclr | clog | cadj | frel | copye | qcommit | loffer | ltake | degrade | fload | fswap | ovld | ovfree | copyw | qresv
  | qtake | lquery | lreclaim | nop | sysrd | syswr | eret | perf | trap | brk | halt | marker | snap =>
    cases hs
    refine ⟨?_, ?exec⟩
    case exec => unfold exec; rfl
  | _ => cases ha

/-- A computing or plain record has the common shape, and its value never waits. -/
theorem exec_of_plainRecord (hs : i.shell? = some r) (hp : plainRecord i = true) (s : State) : ∃ value, exec i s = s.fire r value := by
  unfold plainRecord at hp
  rw [Bool.or_eq_true] at hp
  rcases hp with hg | hp
  · split at hg
    · rename_i g hg'
      obtain ⟨c, hc⟩ := exec_of_group_le_five hs hg' (of_decide_eq_true hg)
      exact ⟨_, hc s⟩
    · cases hg
  · cases i with
    | copy | steer | gate | sink | join | nullout =>
      cases hs
      refine ⟨?_, ?exec⟩
      case exec => unfold exec; rfl
    | _ => cases hp

/-- Every record that passes flags has the common shape. -/
theorem exec_of_passesFlags (hs : i.shell? = some r) (hp : passesFlags i = true) (s : State) : ∃ value, exec i s = s.fire r value := by
  unfold passesFlags at hp
  rw [Bool.or_eq_true, Bool.or_eq_true] at hp
  rcases hp with (hp | ha) | hp
  · exact exec_of_plainRecord hs hp s
  · obtain ⟨value, hvalue⟩ := exec_of_awakeOnly hs ha s
    exact ⟨_, hvalue⟩
  · cases i with
    | prule =>
      cases hs
      refine ⟨?_, ?exec⟩
      case exec => unfold exec; rfl
    | _ => cases hp

/-- Every memory record with data ports has the shape of R151 on them, and notes a store where it counts as one. -/
theorem exec_of_dataPorts {ps : List Nat} {store : Bool} (hs : i.shell? = some r) (hd : dataPorts i = some (ps, store)) (s : State) :
    ∃ note value, exec i s = s.fireData r ps note value ∧ ∀ f t, note f t = if store && !f.pinned then t.seeStore f r.aux else t := by
  have hnote : ∀ (f : Firing) (t : State), noteStore r f t = if true && !f.pinned then t.seeStore f r.aux else t := fun f t => by
    rw [noteStore]
    cases f.pinned <;> rfl
  cases i with
  | ld | kld | gather | pref | tld | ldi | redwait | tst =>
    cases hs
    cases hd
    refine ⟨noNote, ?_, ?exec, fun _ _ => rfl⟩
    case exec => unfold exec; rfl
  | st | scatter | sti | red =>
    cases hs
    cases hd
    refine ⟨noteStore r, ?_, ?exec, hnote⟩
    case exec => unfold exec; rfl
  | aadd | amin | amax | aand | aor | axor | axchg | afadd | acas | lockacq | lockrel =>
    cases hs
    cases hd
    refine ⟨noteStore r, ?_, ?exec, hnote⟩
    case exec =>
      dsimp only [exec, execAadd, execAmin, execAmax, execAand, execAor, execAxor, execAxchg, execAfadd, execAcas, execLockacq, execLockrel]
      unfold State.fireAtomic
      rfl
  | _ => cases hd

theorem exec_of_controlRecord (hs : i.shell? = some r) (hc : controlRecord i = true) (s : State) : ∃ act, exec i s = s.fireControl r act := by
  cases i with
  | sopen | sclose | sseek | handover | pshift | pbound | pact | phalo | pflip =>
    cases hs
    refine ⟨?_, ?exec⟩
    case exec => unfold exec; rfl
  | _ => cases hc

/-- CTXNEW and CTXFREE act on an active trigger alone. -/
theorem exec_of_trigger (hi : i = .ctxnew r ∨ i = .ctxfree r) (s : State) : ∃ act, exec i s = s.fireTrigger r act := by
  rcases hi with rfl | rfl
  all_goals
    refine ⟨?_, ?exec⟩
    case exec => unfold exec; rfl

/-! ## ORDTOK, SCIN, MTASK, SMUL and SFMA -/

/-- ORDTOK sends one token for its set, to both destinations. -/
theorem ordtok_of_flags {scope : Scope} {slot : BitVec 3} {send : Tok → State} (g : s.gather r = some (f, t))
    (hsend : ∀ k, (t.sendOrder f r (.ordtok scope slot r) false k).bind (fun u => u.sendOrder f r (.ordtok scope slot r) true k) = some (send k)) :
    AnswersFlags (.ordtok scope slot r) s f t send ∧
      (f.verdict = .value → (∃ e ∈ f.toks, e.2.isDormant = true) → exec (.ordtok scope slot r) s = .next (send .dormant)) := by
  have hexec : exec (.ordtok scope slot r) s = execOrdtok scope slot r s := rfl
  refine ⟨⟨fun v => ?_, fun v => ?_, fun k v => ?_⟩, fun v hidle => ?_⟩
  · simp only [hexec, execOrdtok, g, v, hsend, settleFire_some]
  · simp only [hexec, execOrdtok, g, v, hsend, settleFire_some]
  · simp only [hexec, execOrdtok, g, v, settleFire]; rfl
  · simp only [hexec, execOrdtok, g, v, any_isDormant hidle, if_true, hsend, settleFire_some]

/-- A flagged set of an SCIN: a pinned one is taken and sends nothing (log 67). -/
theorem scin_of_flags (g : s.gather r = some (f, t)) :
    let send (k : Tok) : State := if f.pinned then t else t.sendBoth f r k
    AnswersFlags (.scin r) s f t send ∧ (f.verdict = .value → (∃ e ∈ f.toks, e.2.isDormant = true) → exec (.scin r) s = .next (send .dormant)) := by
  have hexec : exec (.scin r) s = execScin r s := rfl
  refine ⟨⟨fun v => ?_, fun v => ?_, fun k v => ?_⟩, fun v hidle => ?_⟩
  · simp only [hexec, execScin, g, v, settleFire_some]
  · simp only [hexec, execScin, g, v, settleFire_some]
  · simp only [hexec, execScin, g, v, settleFire]; rfl
  · simp only [hexec, execScin, g, v, any_isDormant hidle, if_true, settleFire_some]

theorem mtask_of_inactive (g : s.gather r = some (f, t)) (m : ∀ k, f.verdict ≠ .mismatch k) (ha : (f.port r 0).isActive = false)
    (isl : BitVec 5) (pdest : BitVec 16) : exec (.mtask isl pdest r) s =
      .next (if f.pinned then t.send f true r.dstb (f.port r 0) else t.sendBoth f r (f.port r 0)) := by
  show execMtask isl pdest r s = _
  rw [execMtask, fireTag_of_gather g m]
  simp only [ha, Bool.not_false, if_true, settleFire_some]

/-- SMUL and SFMA step their block before they send a flag (log 107). -/
theorem scaledProduct_of_flags {e : Nat} (g : s.gatherScaled r = some (f, e, t)) (fmt : MFmt) (withC : Bool) :
    (f.verdict = .null → s.scaledProduct r fmt withC = .next ((t.stepBlock f false).sendBoth f r .null)) ∧
      (f.verdict = .eos → s.scaledProduct r fmt withC = .next ((t.stepBlock f true).sendBoth f r .eos)) ∧
      (f.verdict = .value → ((f.port r 0).lmask.getLsbD 0 = false ∨ (f.port r 1).lmask.getLsbD 0 = false) →
        s.scaledProduct r fmt withC = .next ((t.stepBlock f false).sendBoth f r .dormant)) := by
  refine ⟨fun v => ?_, fun v => ?_, fun v hidle => ?_⟩
  · simp only [State.scaledProduct, g, v, settleFire_some]
  · simp only [State.scaledProduct, g, v, settleFire_some]
  · have hoff : (!(f.port r 0).lmask.getLsbD 0 || !(f.port r 1).lmask.getLsbD 0 || (withC && (f.port r 2).isDormant)) = true := by
      rcases hidle with h | h <;> rw [h] <;> simp
    simp only [State.scaledProduct, g, v, hoff, if_true, settleFire_some]

end

/-- Settles O13: by the shape of each record, and of the few that have one of their own. -/
theorem flagsOfComputing : Obligations.FlagsOfComputing := by
  unfold Obligations.FlagsOfComputing
  intro i r s f t grp hs
  refine ⟨fun g => ⟨?passes, ?awake, ?data, ?control, ?ordtok, ?trigger, ?scin⟩, ?scaled⟩
  case passes =>
    intro h
    have hp : passesFlags i = true := by
      rcases h with ⟨hg, hle⟩ | hp
      · simp [passesFlags, plainRecord, hg, hle]
      · exact hp
    obtain ⟨value, hi⟩ := exec_of_passesFlags hs hp s
    exact answersFlags_of_fire g hi
  case awake =>
    intro ha v hidle
    obtain ⟨value, hi⟩ := exec_of_awakeOnly hs ha s
    exact hi.trans (fireActive_of_idle ⟨g, v⟩ hidle value)
  case data =>
    intro ps store hd
    obtain ⟨note, value, hi, hnote⟩ := exec_of_dataPorts hs hd s
    rw [← hnote f t]
    exact ⟨answersFlags_of_fireData g hi, fun v hidle => hi.trans (fireData_of_idle ⟨g, v⟩ hidle note value)⟩
  case control =>
    intro hc
    obtain ⟨act, hi⟩ := exec_of_controlRecord hs hc s
    simp only [← State.sendConsumer_eq]
    exact ⟨answersFlags_of_fireControl g hi, fun v hidle => hi.trans (fireControl_of_idle ⟨g, v⟩ hidle act)⟩
  case ordtok =>
    rintro scope slot send rfl hsend
    exact ordtok_of_flags g hsend
  case trigger =>
    intro m ha
    refine ⟨fun h => ?_, ?_⟩
    · obtain ⟨act, hi⟩ := exec_of_trigger h s
      exact hi.trans (fireTrigger_of_inactive g m ha act)
    · rintro isl pdest rfl
      exact mtask_of_inactive g m ha isl pdest
  case scin =>
    rintro rfl
    exact scin_of_flags g
  case scaled =>
    rintro e fmt g (rfl | rfl)
    · exact scaledProduct_of_flags g fmt false
    · exact scaledProduct_of_flags g fmt true

end Sys2Proof.Machine

namespace Sys2Proof.Machine

/-! # The set that an element fires (R35, R38, R39) -/

/-! ## Elements put in and found, and least keys -/

theorem find?_putBy_self {α : Type} {p : α → Bool} {a : α} (hp : p a = true) (l : List α) : (putBy p a l).find? p = some a := by
  induction l with
  | nil => simp [putBy, hp]
  | cons b l ih =>
    unfold putBy
    cases hb : p b <;> simp [hb, hp, ih]

/-- Where no element under the key that is put in can be found, the same one is found as before. -/
theorem find?_putBy_disjoint {α : Type} {p q : α → Bool} {a : α} (ha : q a = false) (hd : ∀ b, p b = true → q b = false) (l : List α) :
    (putBy p a l).find? q = l.find? q := by
  induction l with
  | nil => simp [putBy, ha]
  | cons b l ih =>
    unfold putBy
    cases hb : p b with
    | true => simp [ha, hd b hb]
    | false =>
      rw [if_neg Bool.false_ne_true, List.find?_cons, List.find?_cons, ih]

/-- The order of keys is the lexicographic one. -/
theorem keyLt_iff (a b : List Nat) : keyLt a b = true ↔ a < b := by
  induction a generalizing b with
  | nil => cases b <;> simp [keyLt]
  | cons x a ih =>
    cases b with
    | nil => simp [keyLt]
    | cons y b => simp [keyLt, List.cons_lt_cons_iff, ih]

theorem foldl_pick_key_le {α β : Type} [LinearOrder β] {lt : α → α → Bool} {key : α → β} (hlt : ∀ a b, lt a b = true ↔ key a < key b)
    (l : List α) (a : α) : ∀ x ∈ a :: l, key (l.foldl (fun best b => if lt b best then b else best) a) ≤ key x := by
  induction l generalizing a with
  | nil => simp
  | cons b l ih =>
    intro x hx
    rw [List.foldl_cons]
    have hmin : key (if lt b a then b else a) ≤ key a ∧ key (if lt b a then b else a) ≤ key b := by
      by_cases hba : lt b a = true
      · rw [if_pos hba]; exact ⟨((hlt b a).1 hba).le, le_refl _⟩
      · rw [if_neg hba]; exact ⟨le_refl _, not_lt.1 (mt (hlt b a).2 hba)⟩
    have hle := ih (if lt b a then b else a)
    rcases List.mem_cons.1 hx with rfl | hx
    · exact (hle _ List.mem_cons_self).trans hmin.1
    · rcases List.mem_cons.1 hx with rfl | hx
      · exact (hle _ List.mem_cons_self).trans hmin.2
      · exact hle x (List.mem_cons_of_mem _ hx)

/-- The element chosen has the least key, in any linear order that the choice goes by. -/
theorem leastBy_key_le {α β : Type} [LinearOrder β] {lt : α → α → Bool} {key : α → β} (hlt : ∀ a b, lt a b = true ↔ key a < key b)
    {l : List α} {q : α} (h : leastBy lt l = some q) : ∀ x ∈ l, key q ≤ key x := by
  cases l with
  | nil => simp
  | cons a l =>
    rw [leastBy, Option.some.injEq] at h
    rw [← h]
    exact foldl_pick_key_le hlt l a

/-- Every route tag is looked at. -/
theorem mem_allRts (rt : BitVec 4) : rt ∈ allRts := by
  revert rt
  decide

/-! ## Queues of an element -/

@[simp] theorem Core.elem_x (c : Core) (x y : Nat) : (c.elem x y).x = x := by
  unfold Core.elem
  cases h : c.elems.find? fun e => e.x == x && e.y == y with
  | none => rfl
  | some e =>
    have hxy := List.find?_some h
    simp only [Bool.and_eq_true, beq_iff_eq] at hxy
    exact hxy.1

@[simp] theorem Core.elem_y (c : Core) (x y : Nat) : (c.elem x y).y = y := by
  unfold Core.elem
  cases h : c.elems.find? fun e => e.x == x && e.y == y with
  | none => rfl
  | some e =>
    have hxy := List.find?_some h
    simp only [Bool.and_eq_true, beq_iff_eq] at hxy
    exact hxy.2

theorem Core.elem_setElem {c : Core} {e : ElemState} {x y : Nat} (hx : e.x = x) (hy : e.y = y) : (c.setElem e).elem x y = e := by
  subst hx hy
  rw [Core.elem, Core.setElem, find?_putBy_self (by simp)]
  rfl

theorem Core.elem_setElem_other {c : Core} {e : ElemState} {x y : Nat} (h : (x, y) ≠ (e.x, e.y)) : (c.setElem e).elem x y = c.elem x y := by
  rw [Core.elem, Core.setElem, find?_putBy_disjoint]
  · rfl
  · rw [← Bool.not_eq_true, Bool.and_eq_true, beq_iff_eq, beq_iff_eq]
    rintro ⟨rfl, rfl⟩
    exact h rfl
  · intro b hb
    rw [Bool.and_eq_true, beq_iff_eq, beq_iff_eq] at hb
    rw [← Bool.not_eq_true, Bool.and_eq_true, beq_iff_eq, beq_iff_eq, hb.1, hb.2]
    rintro ⟨rfl, rfl⟩
    exact h rfl

@[simp] theorem ElemState.take_x (e : ElemState) (rt : BitVec 4) (k : Nat) : (e.take rt k).x = e.x := by
  unfold ElemState.take ElemState.setQueue
  split <;> rfl

@[simp] theorem ElemState.take_y (e : ElemState) (rt : BitVec 4) (k : Nat) : (e.take rt k).y = e.y := by
  unfold ElemState.take ElemState.setQueue
  split <;> rfl

/-- Taking a token from a port leaves the other ports. -/
theorem ElemState.queue_take (e : ElemState) (rt : BitVec 4) {j k : Nat} (hj : j < 4) (hk : k < 4) :
    (e.take rt k).queue j = if j = k then removeRt rt (e.queue j) else e.queue j := by
  have hj4 : j = 0 ∨ j = 1 ∨ j = 2 ∨ j = 3 := by omega
  have hk4 : k = 0 ∨ k = 1 ∨ k = 2 ∨ k = 3 := by omega
  rcases hj4 with rfl | rfl | rfl | rfl <;> rcases hk4 with rfl | rfl | rfl | rfl <;> rfl

@[simp] theorem ElemState.foldl_take_x (ports : List Nat) (rt : BitVec 4) (e : ElemState) : (ports.foldl (fun e k => e.take rt k) e).x = e.x := by
  induction ports generalizing e with
  | nil => rfl
  | cons k ports ih => rw [List.foldl_cons, ih, ElemState.take_x]

@[simp] theorem ElemState.foldl_take_y (ports : List Nat) (rt : BitVec 4) (e : ElemState) : (ports.foldl (fun e k => e.take rt k) e).y = e.y := by
  induction ports generalizing e with
  | nil => rfl
  | cons k ports ih => rw [List.foldl_cons, ih, ElemState.take_y]

/-- Taking the oldest token of a route tag from each of some ports. -/
theorem ElemState.queue_foldl_take {ports : List Nat} (hnd : ports.Nodup) (h4 : ∀ k ∈ ports, k < 4) (rt : BitVec 4) (e : ElemState) {j : Nat}
    (hj : j < 4) : (ports.foldl (fun e k => e.take rt k) e).queue j = if j ∈ ports then removeRt rt (e.queue j) else e.queue j := by
  induction ports generalizing e with
  | nil => simp
  | cons k ports ih =>
    obtain ⟨hk, hnd⟩ := List.nodup_cons.1 hnd
    rw [List.foldl_cons, ih hnd (fun i hi => h4 i (List.mem_cons_of_mem k hi)), ElemState.queue_take e rt hj (h4 k List.mem_cons_self)]
    by_cases hjk : j = k
    · subst hjk; simp [hk]
    · simp [hjk]

/-! ## Ports of a record, and tokens by port -/

theorem expectedPorts_lt (r : Shell) : ∀ k ∈ expectedPorts r, k < 4 := by
  intro k hk
  rcases List.mem_append.1 hk with hk | hk
  · exact Nat.lt_succ_of_lt (List.mem_range.1 (List.mem_of_mem_filter hk))
  · split at hk
    · rw [List.mem_singleton.1 hk]; decide
    · cases hk

theorem expectedPorts_nodup (r : Shell) : (expectedPorts r).Nodup := by
  refine List.nodup_append.2 ⟨List.nodup_range.filter _, by split <;> simp, fun a ha b hb => ?_⟩
  have h3 : a < 3 := List.mem_range.1 (List.mem_of_mem_filter ha)
  split at hb
  · rw [List.mem_singleton.1 hb]; omega
  · cases hb

/-- What stands under a port in a list made port by port. -/
theorem lookup_filterMap_ports {α : Type} (g : Nat → Option α) (ports : List Nat) (k : Nat) :
    lookup k (ports.filterMap fun j => (g j).map fun a => (j, a)) = if k ∈ ports then g k else none := by
  induction ports with
  | nil => rfl
  | cons j ports ih =>
    by_cases hjk : j = k
    · subst hjk
      cases hg : g j with
      | none => simp [hg, ih]
      | some a => simp [hg, lookup]
    · cases hg : g j with
      | none => simp [hg, ih, Ne.symm hjk]
      | some a => simp [hg, lookup, hjk, ih, Ne.symm hjk]

/-- The tokens of a firing are found under their ports. -/
theorem Firing.lookup_toks (f : Firing) (k : Nat) :
    lookup k f.toks = if k = 0 then f.p0 else if k = 1 then f.p1 else if k = 2 then f.p2 else if k = 3 then f.p3 else none := by
  have htoks : f.toks = [0, 1, 2, 3].filterMap fun j =>
      (if j = 0 then f.p0 else if j = 1 then f.p1 else if j = 2 then f.p2 else if j = 3 then f.p3 else none).map fun a => (j, a) := rfl
  rw [htoks, lookup_filterMap_ports]
  split
  · rfl
  · rename_i hk
    simp only [List.mem_cons, List.not_mem_nil, or_false, not_or] at hk
    obtain ⟨h0, h1, h2, h3⟩ := hk
    rw [if_neg h0, if_neg h1, if_neg h2, if_neg h3]

theorem Firing.lookup_toks_withToks (f : Firing) (l : List (Nat × Tok)) {k : Nat} (hk : k < 4) : lookup k (f.withToks l).toks = lookup k l := by
  have hk4 : k = 0 ∨ k = 1 ∨ k = 2 ∨ k = 3 := by omega
  rw [Firing.lookup_toks]
  rcases hk4 with rfl | rfl | rfl | rfl <;> rfl

theorem Firing.lookup_toks_of_le {k : Nat} (hk : 4 ≤ k) (f : Firing) : lookup k f.toks = none := by
  rw [Firing.lookup_toks, if_neg (by omega), if_neg (by omega), if_neg (by omega), if_neg (by omega)]

/-! ## The firing of an element -/

/-- The forme once an element has fired a set of a route tag. -/
def Forme.taken (g : Forme) (x y : Nat) (ports : List Nat) (rt : BitVec 4) : Forme :=
  (g.noteEos ((ports.filterMap fun k => ((g.run.core.elem x y).head? k rt).map fun t => (k, t.tok)).any fun t => t.2.isEos)).withCore
    (g.run.core.setElem (ports.foldl (fun e k => e.take rt k) (g.run.core.elem x y)))

theorem State.takeAt_state (s : State) (g : Forme) (x y : Nat) (ports : List Nat) (rt : BitVec 4) :
    (s.takeAt g x y ports rt).2 = s.setForme (g.taken x y ports rt) := rfl

section
variable {s : State} {g : Forme} {x y : Nat} {ports : List Nat} {rt : BitVec 4}

/-- The tokens of the firing are the oldest of the route tag on its ports. -/
theorem State.takeAt_lookup (hports : ∀ k ∈ ports, k < 4) (k : Nat) :
    lookup k (s.takeAt g x y ports rt).1.toks = if k ∈ ports then ((g.run.core.elem x y).head? k rt).map QTok.tok else none := by
  by_cases hk : k < 4
  · rw [State.takeAt, Firing.lookup_toks_withToks _ _ hk]
    simpa only [Option.map_map, Function.comp_def] using lookup_filterMap_ports (fun k => ((g.run.core.elem x y).head? k rt).map QTok.tok) ports k
  · rw [Firing.lookup_toks_of_le (Nat.le_of_not_lt hk), if_neg (fun h => hk (hports k h))]

theorem Forme.taken_queue (hnd : ports.Nodup) (hports : ∀ k ∈ ports, k < 4) {k : Nat} (hk : k < 4) :
    ((g.taken x y ports rt).run.core.elem x y).queue k =
      if k ∈ ports then removeRt rt ((g.run.core.elem x y).queue k) else (g.run.core.elem x y).queue k := by
  show ((g.run.core.setElem _).elem x y).queue k = _
  rw [Core.elem_setElem (by simp) (by simp), ElemState.queue_foldl_take hnd hports rt _ hk]

theorem Forme.taken_elem_other {x' y' : Nat} (h : (x', y') ≠ (x, y)) : (g.taken x y ports rt).run.core.elem x' y' = g.run.core.elem x' y' :=
  Core.elem_setElem_other (by simpa using h)

/-- A complete set has a token of the route tag on each of its ports. -/
theorem ElemState.head?_of_setKey {e : ElemState} {a : List Nat} (h : e.setKey ports rt = some a) : ∀ k ∈ ports, ∃ q, e.head? k rt = some q := by
  unfold ElemState.setKey at h
  split at h
  · rename_i hall
    exact fun k hk => Option.isSome_iff_exists.1 (List.all_eq_true.1 hall k hk)
  · cases h

/-- The route tag that fires has a complete set of the least key (R39). -/
theorem ElemState.pick_eq_some {e : ElemState} (h : e.pick ports = some rt) :
    ∃ a, e.setKey ports rt = some a ∧ ∀ rt' b, e.setKey ports rt' = some b → keyLt b a = false := by
  obtain ⟨c, hc, rfl⟩ := Option.map_eq_some_iff.1 h
  obtain ⟨rt, -, hrt⟩ := List.mem_filterMap.1 (leastBy_mem hc)
  obtain ⟨a, ha, rfl⟩ := Option.map_eq_some_iff.1 hrt
  refine ⟨a, ha, fun rt' b hb => ?_⟩
  have hle := leastBy_key_le (key := fun c : List Nat × BitVec 4 => c.1) (fun a b => keyLt_iff a.1 b.1) hc (b, rt')
    (List.mem_filterMap.2 ⟨rt', mem_allRts rt', by rw [hb]; rfl⟩)
  rw [← Bool.not_eq_true, keyLt_iff]
  exact not_lt.2 hle

/-- An element fires where its forme lets it and a set is complete. -/
theorem State.gatherElem_eq_some {h : Nat} {f : Firing} {t : State} (e : s.gatherElem h x y ports = some (f, t)) :
    ∃ g rt, s.forme? h = some g ∧ g.mayFire x y = true ∧ (g.run.core.elem x y).pick ports = some rt ∧ (f, t) = s.takeAt g x y ports rt := by
  unfold State.gatherElem at e
  split at e
  · cases e
  · rename_i g hg
    split at e
    · cases e
    · rename_i hmay
      rw [Bool.or_eq_true, not_or, Bool.not_eq_true', Bool.not_eq_false] at hmay
      obtain ⟨rt, hrt, htake⟩ := Option.map_eq_some_iff.1 e
      exact ⟨g, rt, hg, hmay.2, hrt, htake.symm⟩

end

/-- Settles O7: the element picks a route tag, takes the set, and its forme is put back with the tokens gone. -/
theorem gatherElement : Obligations.GatherElement := by
  unfold Obligations.GatherElement
  intro s h x y r f t e
  obtain ⟨g, rt, hg, -, hpick, htake⟩ := State.gatherElem_eq_some e
  have hf : f = (s.takeAt g x y (expectedPorts r) rt).1 := congrArg Prod.fst htake
  have ht : t = (s.takeAt g x y (expectedPorts r) rt).2 := congrArg Prod.snd htake
  subst hf ht
  obtain ⟨a, ha, hleast⟩ := ElemState.pick_eq_some hpick
  have hports := expectedPorts_lt r
  refine ⟨g, hg, rfl, rfl, rfl, rfl, rfl, rfl, fun k hk => ?tokens, fun k hk => ?others, ⟨a, ha, hleast⟩, g.taken x y (expectedPorts r) rt,
    s.takeAt_state .., rfl, rfl, fun k hk => Forme.taken_queue (expectedPorts_nodup r) hports hk, fun _ _ => Forme.taken_elem_other,
    rfl, rfl, rfl, rfl, rfl⟩
  case tokens =>
    obtain ⟨q, hq⟩ := ElemState.head?_of_setKey ha k hk
    exact ⟨q, hq, by rw [State.takeAt_lookup hports, if_pos hk]; exact congrArg (Option.map QTok.tok) hq⟩
  case others => rw [State.takeAt_lookup hports, if_neg hk]

end Sys2Proof.Machine

namespace Sys2Proof.Machine

/-! # Pushing and popping tag fields (R36, R132) -/

/-! ## Widths that stand side by side -/

/-- No width follows an absent field. -/
def noGaps (ws : List Nat) : Bool := (ws.drop (ws.takeWhile fun w => w != 0).length).all fun w => w == 0

theorem noGaps_cons {w : Nat} (hw : w ≠ 0) (ws : List Nat) : noGaps (w :: ws) = noGaps ws := by simp [noGaps, hw]

theorem noGaps_zero_cons (ws : List Nat) : noGaps (0 :: ws) = ws.all fun w => w == 0 := by simp [noGaps]

/-- An absent last field does not count. -/
theorem noGaps_append_zero (ws : List Nat) : noGaps (ws ++ [0]) = noGaps ws := by
  induction ws with
  | nil => rfl
  | cons w ws ih =>
    by_cases hw : w = 0
    · subst hw; simp [noGaps_zero_cons]
    · rw [List.cons_append, noGaps_cons hw, noGaps_cons hw, ih]

/-- Without a gap the fields in use have the width of all. -/
theorem sum_takeWhile_of_noGaps {ws : List Nat} (h : noGaps ws = true) : (ws.takeWhile fun w => w != 0).sum = ws.sum := by
  induction ws with
  | nil => rfl
  | cons w ws ih =>
    by_cases hw : w = 0
    · subst hw
      rw [noGaps_zero_cons, List.all_eq_true] at h
      have hzero : ∀ w ∈ ws, w = 0 := fun w hw => beq_iff_eq.1 (h w hw)
      simp [List.sum_eq_zero hzero]
    · rw [noGaps_cons hw] at h
      rw [List.takeWhile_cons_of_pos (by simpa using hw), List.sum_cons, List.sum_cons, ih h]

/-! ## The parts of a tag -/

theorem bits_bits {a w lo m : Nat} (h : a + w ≤ m) (n : Nat) : bits a w (bits lo m n) = bits (lo + a) w n := by
  unfold bits
  refine Nat.eq_of_testBit_eq fun i => ?_
  rw [Nat.testBit_mod_two_pow, Nat.testBit_mod_two_pow, Nat.testBit_div_two_pow, Nat.testBit_div_two_pow, Nat.testBit_mod_two_pow,
    Nat.testBit_div_two_pow]
  by_cases hi : i < w
  · rw [decide_eq_true hi, decide_eq_true (by omega : i + a < m)]
    simp only [Bool.true_and]
    rw [show i + a + lo = i + (lo + a) by omega]
  · rw [decide_eq_false hi, Bool.false_and, Bool.false_and]

theorem bits_lt (lo w n : Nat) : bits lo w n < 2 ^ w := Nat.mod_lt _ (Nat.two_pow_pos w)

/-- A field's width stands in the shape of the tag. -/
theorem fieldWidth_eq_shape (t : Tag) {i : Nat} (hi : i < 8) : fieldWidth t i = codeWidth (bits (2 * i) 2 (bits 36 16 t.toNat)) := by
  rw [bits_bits (by omega)]; rfl

theorem tagWidths_eq (t : Tag) : tagWidths t = (List.range 8).map (fieldWidth t) := rfl

theorem fieldLow_eq_sum (t : Tag) (i : Nat) : fieldLow t i = ((List.range i).map (fieldWidth t)).sum := by
  induction i with
  | zero => rfl
  | succ i ih => rw [fieldLow, ih, List.range_succ, List.map_append, List.sum_append]; simp

theorem sum_tagWidths (t : Tag) : (tagWidths t).sum = fieldLow t 8 := by rw [fieldLow_eq_sum, tagWidths_eq]

theorem foldl_tagWidths (t : Tag) : (tagWidths t).foldl (· + ·) 0 = fieldLow t 8 := by
  rw [← sum_tagWidths, List.sum_eq_foldl]

/-- A tag is well formed when no field follows an absent one, the widths fit 36 bits and the bits beyond them are zero (R36). -/
theorem tagWf_iff (t : Tag) : tagWf t = true ↔ noGaps (tagWidths t) = true ∧ fieldLow t 8 ≤ 36 ∧ bits 0 36 t.toNat < 2 ^ fieldLow t 8 := by
  have hwf : tagWf t = (noGaps (tagWidths t) && decide (((tagWidths t).takeWhile fun w => w != 0).foldl (· + ·) 0 ≤ 36) &&
      decide (bits 0 36 t.toNat < 2 ^ ((tagWidths t).takeWhile fun w => w != 0).foldl (· + ·) 0)) := rfl
  rw [hwf, Bool.and_eq_true, Bool.and_eq_true, decide_eq_true_eq, decide_eq_true_eq, and_assoc, ← List.sum_eq_foldl]
  refine and_congr_right fun h => ?_
  rw [sum_takeWhile_of_noGaps h, sum_tagWidths]

/-! ## A tag with one field more -/

/-- The code of a width. -/
def widthCode (w : Nat) : Nat := if w = 4 then 1 else if w = 8 then 2 else 3

/-- The tag with a field of width `w` and value `v` in front of its others. -/
def withField (t : Tag) (w v : Nat) : Tag :=
  BitVec.ofNat 64 (t.toNat / 2 ^ 52 * 2 ^ 52 + (bits 36 16 t.toNat * 4 + widthCode w) % 2 ^ 16 * 2 ^ 36 + (bits 0 36 t.toNat * 2 ^ w + v % 2 ^ w) % 2 ^ 36)

theorem widthCode_pos (w : Nat) : 0 < widthCode w ∧ widthCode w < 4 := by
  unfold widthCode
  split
  · decide
  · split <;> decide

theorem codeWidth_widthCode {w : Nat} (hw : w = 4 ∨ w = 8 ∨ w = 16) : codeWidth (widthCode w) = w := by
  rcases hw with rfl | rfl | rfl <;> rfl

theorem codeWidth_eq_zero_iff {c : Nat} : codeWidth c = 0 ↔ c = 0 := by
  match c with
  | 0 => exact iff_of_true rfl rfl
  | 1 | 2 => decide
  | n + 3 => exact iff_of_false (show ¬ 16 = 0 by decide) (Nat.succ_ne_zero _)

/-- The eighth field is absent when the top pair of the shape is zero. -/
theorem fieldWidth_seven_eq_zero_iff (t : Tag) : fieldWidth t 7 = 0 ↔ bits 36 16 t.toNat < 2 ^ 14 := by
  have h16 := bits_lt 36 16 t.toNat
  rw [fieldWidth_eq_shape t (by decide), codeWidth_eq_zero_iff, bits]
  omega

theorem top_pair_eq_zero_iff (t : Tag) : bits 14 2 (bits 36 16 t.toNat) = 0 ↔ fieldWidth t 7 = 0 := by
  rw [fieldWidth_eq_shape t (by decide), codeWidth_eq_zero_iff]

theorem pushTag_eq (t : Tag) (w v : Nat) :
    pushTag t w v = if fieldWidth t 7 ≠ 0 ∨ 36 < fieldLow t 8 + w then none else checkTag (withField t w v) := by
  have hpush : pushTag t w v = if bits 14 2 (bits 36 16 t.toNat) ≠ 0 ∨ 36 < (tagWidths t).foldl (· + ·) 0 + w then none
    else checkTag (withField t w v) := rfl
  simp only [hpush, foldl_tagWidths, ne_eq, top_pair_eq_zero_iff]

section
variable {t : Tag} {w v : Nat}

/-- The three parts of a tag make it up. -/
theorem toNat_ofParts {c s b : Nat} (hc : c < 2 ^ 12) (hs : s < 2 ^ 16) (hb : b < 2 ^ 36) :
    (BitVec.ofNat 64 (c * 2 ^ 52 + s * 2 ^ 36 + b)).toNat = c * 2 ^ 52 + s * 2 ^ 36 + b := by
  rw [BitVec.toNat_ofNat]
  omega

theorem withField_toNat (t : Tag) (w v : Nat) : (withField t w v).toNat =
    t.toNat / 2 ^ 52 * 2 ^ 52 + (bits 36 16 t.toNat * 4 + widthCode w) % 2 ^ 16 * 2 ^ 36 + (bits 0 36 t.toNat * 2 ^ w + v % 2 ^ w) % 2 ^ 36 := by
  have ht := t.isLt
  exact toNat_ofParts (by omega) (Nat.mod_lt _ (by decide)) (Nat.mod_lt _ (by decide))

theorem tagCtx_withField (t : Tag) (w v : Nat) : tagCtx (withField t w v) = tagCtx t := by
  have hb := Nat.mod_lt (bits 0 36 t.toNat * 2 ^ w + v % 2 ^ w) (show 0 < 2 ^ 36 by decide)
  have hs := Nat.mod_lt (bits 36 16 t.toNat * 4 + widthCode w) (show 0 < 2 ^ 16 by decide)
  rw [tagCtx, tagCtx, withField_toNat]
  omega

/-- With the eighth field absent, nothing is lost from the shape. -/
theorem shape_withField (h7 : fieldWidth t 7 = 0) : bits 36 16 (withField t w v).toNat = bits 36 16 t.toNat * 4 + widthCode w := by
  have hs := (fieldWidth_seven_eq_zero_iff t).1 h7
  have hc := (widthCode_pos w).2
  have hb := Nat.mod_lt (bits 0 36 t.toNat * 2 ^ w + v % 2 ^ w) (show 0 < 2 ^ 36 by decide)
  rw [withField_toNat, bits.eq_1 36 16 (_ + _)]
  omega

/-- With room for the widths, nothing is lost from the fields. -/
theorem fields_withField (hsum : fieldLow t 8 + w ≤ 36) (hlow : bits 0 36 t.toNat < 2 ^ fieldLow t 8) :
    bits 0 36 (withField t w v).toNat = bits 0 36 t.toNat * 2 ^ w + v % 2 ^ w ∧ bits 0 36 t.toNat * 2 ^ w + v % 2 ^ w < 2 ^ (fieldLow t 8 + w) := by
  have hlt : bits 0 36 t.toNat * 2 ^ w + v % 2 ^ w < 2 ^ (fieldLow t 8 + w) := by
    have hv := Nat.mod_lt v (Nat.two_pow_pos w)
    calc bits 0 36 t.toNat * 2 ^ w + v % 2 ^ w < bits 0 36 t.toNat * 2 ^ w + 2 ^ w := by omega
      _ = (bits 0 36 t.toNat + 1) * 2 ^ w := by rw [Nat.add_mul, Nat.one_mul]
      _ ≤ 2 ^ fieldLow t 8 * 2 ^ w := Nat.mul_le_mul_right _ hlow
      _ = 2 ^ (fieldLow t 8 + w) := (Nat.pow_add ..).symm
  have h36 := lt_of_lt_of_le hlt (Nat.pow_le_pow_right (by decide) hsum)
  refine ⟨?_, hlt⟩
  rw [withField_toNat, Nat.mod_eq_of_lt h36, bits.eq_1 0 36 (_ + _)]
  omega

theorem bits_zero_two {s c : Nat} (hc : c < 4) : bits 0 2 (s * 4 + c) = c := by
  unfold bits
  omega

theorem fieldWidth_withField_zero (hw : w = 4 ∨ w = 8 ∨ w = 16) (h7 : fieldWidth t 7 = 0) : fieldWidth (withField t w v) 0 = w := by
  calc fieldWidth (withField t w v) 0 = codeWidth (bits 0 2 (bits 36 16 (withField t w v).toNat)) := fieldWidth_eq_shape _ (Nat.zero_lt_succ 7)
    _ = codeWidth (widthCode w) := by rw [shape_withField h7, bits_zero_two (widthCode_pos w).2]
    _ = w := codeWidth_widthCode hw

/-- The older fields stand one place further out. -/
theorem fieldWidth_withField_succ (h7 : fieldWidth t 7 = 0) {i : Nat} (hi : i < 7) : fieldWidth (withField t w v) (i + 1) = fieldWidth t i := by
  have hc := (widthCode_pos w).2
  rw [fieldWidth_eq_shape _ (by omega), fieldWidth_eq_shape t (by omega), shape_withField h7]
  have hshift : (bits 36 16 t.toNat * 4 + widthCode w) / 2 ^ (2 * (i + 1)) = bits 36 16 t.toNat / 2 ^ (2 * i) := by
    rw [show 2 * (i + 1) = 2 + 2 * i by omega, Nat.pow_add, ← Nat.div_div_eq_div_mul]
    congr 1
    omega
  rw [bits.eq_1 (2 * (i + 1)), bits.eq_1 (2 * i), hshift]

theorem tagWidths_withField (hw : w = 4 ∨ w = 8 ∨ w = 16) (h7 : fieldWidth t 7 = 0) :
    tagWidths (withField t w v) = w :: (List.range 7).map (fieldWidth t) := by
  have hold : ∀ i ∈ List.range 7, (fieldWidth (withField t w v) ∘ Nat.succ) i = fieldWidth t i := by
    intro i hi
    rw [Function.comp_apply, Nat.succ_eq_add_one, fieldWidth_withField_succ h7 (List.mem_range.1 hi)]
  rw [tagWidths_eq, List.range_succ_eq_map, List.map_cons, List.map_map, List.map_congr_left hold, fieldWidth_withField_zero hw h7]

theorem tagWidths_of_absent (h7 : fieldWidth t 7 = 0) : tagWidths t = (List.range 7).map (fieldWidth t) ++ [0] := by
  rw [tagWidths_eq, List.range_succ, List.map_append, List.map_singleton, h7]

theorem noGaps_withField (hw : w = 4 ∨ w = 8 ∨ w = 16) (h7 : fieldWidth t 7 = 0) :
    noGaps (tagWidths (withField t w v)) = noGaps (tagWidths t) := by
  rw [tagWidths_withField hw h7, tagWidths_of_absent h7, noGaps_append_zero, noGaps_cons (by omega)]

theorem fieldLow_withField (hw : w = 4 ∨ w = 8 ∨ w = 16) (h7 : fieldWidth t 7 = 0) : fieldLow (withField t w v) 8 = fieldLow t 8 + w := by
  rw [← sum_tagWidths, ← sum_tagWidths, tagWidths_withField hw h7, tagWidths_of_absent h7, List.sum_append, List.sum_cons]
  simp [Nat.add_comm]

/-- A field that finds room keeps a tag well formed, and makes no malformed one well formed. -/
theorem tagWf_withField (hw : w = 4 ∨ w = 8 ∨ w = 16) (h7 : fieldWidth t 7 = 0) (hsum : fieldLow t 8 + w ≤ 36)
    (hlow : bits 0 36 t.toNat < 2 ^ fieldLow t 8) : tagWf (withField t w v) = tagWf t := by
  obtain ⟨hfields, hlt⟩ := fields_withField (v := v) hsum hlow
  rw [Bool.eq_iff_iff, tagWf_iff, tagWf_iff, noGaps_withField hw h7, fieldLow_withField hw h7, hfields]
  exact and_congr_right fun _ => ⟨fun _ => ⟨by omega, hlow⟩, fun _ => ⟨hsum, hlt⟩⟩

/-- Popping gives back what a field was put in front of. -/
theorem popTag_withField (hw : w = 4 ∨ w = 8 ∨ w = 16) (h7 : fieldWidth t 7 = 0) (hsum : fieldLow t 8 + w ≤ 36)
    (hlow : bits 0 36 t.toNat < 2 ^ fieldLow t 8) : popTag (withField t w v) = checkTag t := by
  obtain ⟨hfields, -⟩ := fields_withField (v := v) hsum hlow
  have hc := (widthCode_pos w).2
  have hctx := tagCtx_withField t w v
  have hv := Nat.mod_lt v (Nat.two_pow_pos w)
  have hback : (bits 0 36 t.toNat * 2 ^ w + v % 2 ^ w) / 2 ^ w = bits 0 36 t.toNat := by
    rw [Nat.add_comm, Nat.add_mul_div_right _ _ (Nat.two_pow_pos w), Nat.div_eq_of_lt hv, Nat.zero_add]
  have hn : t.toNat / 2 ^ 52 * 2 ^ 52 + bits 36 16 t.toNat * 2 ^ 36 + bits 0 36 t.toNat = t.toNat := by
    rw [bits, bits]
    omega
  rw [popTag, fieldWidth_withField_zero hw h7, if_neg (by omega)]
  dsimp only
  rw [shape_withField h7, hfields, hback, ← tagCtx.eq_1, hctx, tagCtx.eq_1,
    show (bits 36 16 t.toNat * 4 + widthCode w) / 4 = bits 36 16 t.toNat by omega, hn, BitVec.ofNat_toNat, BitVec.setWidth_eq]

theorem fieldVal_withField (hw : w = 4 ∨ w = 8 ∨ w = 16) (h7 : fieldWidth t 7 = 0) (hsum : fieldLow t 8 + w ≤ 36)
    (hlow : bits 0 36 t.toNat < 2 ^ fieldLow t 8) : fieldVal (withField t w v) 0 = v % 2 ^ w := by
  obtain ⟨hfields, -⟩ := fields_withField (v := v) hsum hlow
  rw [fieldVal, fieldWidth_withField_zero hw h7, fieldLow, ← Nat.zero_add 0, ← bits_bits (m := 36) (by omega), hfields, bits,
    Nat.pow_zero, Nat.div_one, Nat.mul_add_mod_self_right, Nat.mod_mod]

end

/-- Settles O30: a successful push had room for its field, so it put the field in front and lost nothing. -/
theorem tagFields : Obligations.TagFields := by
  unfold Obligations.TagFields
  refine ⟨fun t u w v hw hv ht hu => ?push, fun t w v hw hwf => ?room, by decide, by decide, by decide⟩
  case push =>
    have hlow : bits 0 36 t.toNat < 2 ^ fieldLow t 8 := by rwa [bits, Nat.pow_zero, Nat.div_one]
    rw [pushTag_eq] at hu
    split at hu
    · cases hu
    · rename_i hroom
      rw [not_or, not_not, not_lt] at hroom
      obtain ⟨h7, hsum⟩ := hroom
      unfold checkTag at hu
      split at hu
      · rename_i hwf
        obtain rfl := Option.some.inj hu
        have htwf : tagWf t = true := tagWf_withField hw h7 hsum hlow ▸ hwf
        refine ⟨fieldWidth_withField_zero hw h7, ?_, ?_, tagCtx_withField t w v, hwf⟩
        · rw [fieldVal_withField hw h7 hsum hlow, Nat.mod_eq_of_lt hv]
        · rw [popTag_withField hw h7 hsum hlow, checkTag, if_pos htwf]
      · cases hu
  case room =>
    obtain ⟨-, -, hlow⟩ := (tagWf_iff t).1 hwf
    rw [pushTag_eq]
    split
    · rename_i hfull; exact iff_of_true rfl hfull
    · rename_i hroom
      have hroom' := hroom
      rw [not_or, not_not, not_lt] at hroom'
      rw [checkTag, if_pos (tagWf_withField hw hroom'.1 hroom'.2 hlow ▸ hwf)]
      exact iff_of_false nofun hroom

end Sys2Proof.Machine

namespace Sys2Proof.Machine

/-! # Counters and flags kept at a firing's place (R44, R128, R130, R138) -/

theorem State.handle_of_forme? {s : State} {h : Nat} {g : Forme} (hg : s.forme? h = some g) : g.handle = h := by
  unfold State.forme? at hg
  exact beq_iff_eq.1 (List.find?_some (p := fun a : Forme => a.handle == h) hg)

section
variable {s : State} {f : Firing}

theorem State.spillWaits_of_ready {d : DTile} (h : s.homeReady (d.i / 32) 0 (d.i / 32) = true) : s.spillWaits d = false := by
  rw [State.spillWaits, h, Bool.not_true, Bool.and_false]

/-- Where the spill area can be written, a firing keeps its count and goes on or takes the fault of R44. -/
theorem State.keepThen_of_ready (h : f.pinned = true ∨ s.homeReady (f.tile / 32) 0 (f.tile / 32) = true) (port : Nat) (count : Word)
    (flags : BitVec 4) (go : State → State) :
    s.keepThen f port count flags go = if s.canKeep f then some (go (s.keep f count flags)) else s.spillFault f port := by
  have hgo : (!f.pinned && s.spillWaits ((s.keep f count flags).tile f.tile)) = false := by
    cases hp : f.pinned with
    | true => rfl
    | false =>
      rw [hp] at h
      exact State.spillWaits_of_ready (by rw [State.tile_i]; exact h.resolve_left Bool.false_ne_true)
  unfold State.keepThen
  dsimp only
  rw [hgo, if_neg Bool.false_ne_true]
  cases s.canKeep f <;> rfl

theorem settleFire_ite {c : Prop} [Decidable c] (s t : State) (o : Option State) :
    settleFire s (if c then some t else o) = .next (if c then t else o.getD s.park) := by
  split <;> rfl

/-- The firing of a step that keeps a count and ends there. -/
theorem settleFire_keepThen {t : State} (h : f.pinned = true ∨ t.homeReady (f.tile / 32) 0 (f.tile / 32) = true) (port : Nat) (count : Word)
    (flags : BitVec 4) : settleFire s (t.keepThen f port count flags id) =
      .next (if t.canKeep f then t.keep f count flags else (t.spillFault f port).getD s.park) := by
  rw [State.keepThen_of_ready h, settleFire_ite]
  rfl

end

end Sys2Proof.Machine

namespace Sys2Proof.Machine

/-! # MERGE (R34, R39, R44, R128) -/

/-! ## The tokens that an element's firing takes -/

section
variable {s : State} {g : Forme} {x y : Nat} {rt : BitVec 4}

theorem Forme.taken_handle (g : Forme) (x y : Nat) (ports : List Nat) (rt : BitVec 4) : (g.taken x y ports rt).handle = g.handle := rfl

theorem State.takeAt_toks (s : State) (g : Forme) (x y : Nat) (ports : List Nat) (rt : BitVec 4) : ∃ f : Firing,
    (s.takeAt g x y ports rt).1 = f.withToks (ports.filterMap fun k => ((g.run.core.elem x y).head? k rt).map fun t => (k, t.tok)) :=
  ⟨_, rfl⟩

/-- A token of one port of 0 and 1. -/
theorem State.takeAt_toks_one {k : Nat} (hk : k < 2) {q : QTok} (hq : (g.run.core.elem x y).head? k rt = some q) :
    (s.takeAt g x y [k] rt).1.toks = [(k, q.tok)] := by
  obtain ⟨f, hf⟩ := s.takeAt_toks g x y [k] rt
  rw [hf]
  have hk2 : k = 0 ∨ k = 1 := by omega
  rcases hk2 with rfl | rfl <;> simp [hq] <;> rfl

/-- A token of one port of 0 and 1, and a predicate. -/
theorem State.takeAt_toks_two {k : Nat} (hk : k < 2) {p q : QTok} (hq : (g.run.core.elem x y).head? k rt = some q)
    (hp : (g.run.core.elem x y).head? 3 rt = some p) : (s.takeAt g x y [k, 3] rt).1.toks = [(k, q.tok), (3, p.tok)] := by
  obtain ⟨f, hf⟩ := s.takeAt_toks g x y [k, 3] rt
  rw [hf]
  have hk2 : k = 0 ∨ k = 1 := by omega
  rcases hk2 with rfl | rfl <;> simp [hq, hp] <;> rfl

/-- Both data tokens and a predicate. -/
theorem State.takeAt_toks_three {a b p : QTok} (ha : (g.run.core.elem x y).head? 0 rt = some a) (hb : (g.run.core.elem x y).head? 1 rt = some b)
    (hp : (g.run.core.elem x y).head? 3 rt = some p) : (s.takeAt g x y [0, 1, 3] rt).1.toks = [(0, a.tok), (1, b.tok), (3, p.tok)] := by
  obtain ⟨f, hf⟩ := s.takeAt_toks g x y [0, 1, 3] rt
  rw [hf]
  simp [ha, hb, hp]
  rfl

end

/-! ## The sets of MERGE -/

/-- The first entries of two keys are in the order of the keys. -/
theorem head_le_of_not_lt {a b : Nat} {l m : List Nat} (h : ¬ b :: m < a :: l) : a ≤ b :=
  not_lt.1 fun hlt => h (List.cons_lt_cons_iff.2 (.inl hlt))

/-- The data port that a predicate selects: port 0 for 1, port 1 for 0. -/
def selectedPort (p : Tok) : Nat := if p.isActive && p.value.getLsbD 0 then 0 else 1

theorem selectedPort_lt (p : Tok) : selectedPort p < 2 := by
  unfold selectedPort
  split <;> decide

theorem predPorts_of_eos {p : Tok} (h : p.flag = .eos) : predPorts p = [0, 1, 3] := if_pos ((Tok.isEos_eq_true p).2 h)

theorem predPorts_of_not_eos {p : Tok} (h : p.flag ≠ .eos) : predPorts p = [selectedPort p, 3] := by
  rw [predPorts, (Tok.isEos_eq_false p).2 h, if_neg Bool.false_ne_true, Tok.p, selectedPort]
  split <;> rfl

section
variable {s : State} {h x y : Nat} {f : Firing} {t : State}

/-- MERGE.PRED fires a route tag whose predicate has its partners. -/
theorem State.gatherMerge_eq_some (e : s.gatherMerge h x y = some (f, t)) : ∃ g rt p a, s.forme? h = some g ∧
    (g.run.core.elem x y).head? 3 rt = some p ∧ (g.run.core.elem x y).setKey (predPorts p.tok) rt = some a ∧
    s.takeAt g x y (predPorts p.tok) rt = (f, t) := by
  unfold State.gatherMerge at e
  split at e
  · cases e
  · rename_i g hg
    split at e
    · cases e
    · obtain ⟨c, hc, htake⟩ := Option.map_eq_some_iff.1 e
      obtain ⟨rt, -, hrt⟩ := List.mem_filterMap.1 (leastBy_mem hc)
      cases hp : (g.run.core.elem x y).head? 3 rt with
      | none => rw [hp] at hrt; cases hrt
      | some p =>
        rw [hp] at hrt
        obtain ⟨a, ha, rfl⟩ := Option.map_eq_some_iff.1 hrt
        exact ⟨g, rt, p, a, hg, hp, ha, htake⟩

/-- MERGE.ANY takes the oldest head of the ports without an EOS on record. -/
theorem State.gatherAny_eq_some {k : Nat} (e : s.gatherAny h x y = some (k, f, t)) : ∃ g rt q, s.forme? h = some g ∧ k < 2 ∧
    (g.rtState x y rt).flags.getLsbD k = false ∧ (g.run.core.elem x y).head? k rt = some q ∧ s.takeAt g x y [k] rt = (f, t) ∧
    ∀ rt l o, l < 2 → (g.rtState x y rt).flags.getLsbD l = false → (g.run.core.elem x y).head? l rt = some o → q.age ≤ o.age := by
  unfold State.gatherAny at e
  split at e
  · cases e
  · rename_i g hg
    split at e
    · cases e
    · obtain ⟨c, hc, htake⟩ := Option.map_eq_some_iff.1 e
      obtain ⟨rt, -, hrt⟩ := List.mem_flatMap.1 (leastBy_mem hc)
      obtain ⟨l, hl, hlc⟩ := List.mem_filterMap.1 hrt
      split at hlc
      · cases hlc
      · rename_i hfree
        obtain ⟨q, hq, rfl⟩ := Option.map_eq_some_iff.1 hlc
        obtain rfl : l = k := congrArg Prod.fst htake
        replace htake : s.takeAt g x y [l] rt = (f, t) := congrArg Prod.snd htake
        have hl2 : l < 2 := by simpa [Nat.lt_succ_iff, Nat.le_one_iff_eq_zero_or_eq_one] using hl
        refine ⟨g, rt, q, hg, hl2, Bool.eq_false_iff.2 hfree, hq, htake, fun rt' l' o hl' hfree' ho => ?_⟩
        have hmem : ([o.age, l', rt'.toNat], rt', l') ∈ allRts.flatMap fun rt => [0, 1].filterMap fun k =>
            if (g.rtState x y rt).flags.getLsbD k then none else ((g.run.core.elem x y).head? k rt).map fun t => ([t.age, k, rt.toNat], rt, k) := by
          refine List.mem_flatMap.2 ⟨rt', mem_allRts rt', List.mem_filterMap.2 ⟨l', ?_, ?_⟩⟩
          · simpa [Nat.lt_succ_iff, Nat.le_one_iff_eq_zero_or_eq_one] using hl'
          · rw [hfree', if_neg Bool.false_ne_true, ho]
            rfl
        have hle := leastBy_key_le (key := fun c : List Nat × BitVec 4 × Nat => c.1) (fun a b => keyLt_iff a.1 b.1) hc _ hmem
        exact head_le_of_not_lt (not_lt.2 hle)

/-- In a dataflow tile MERGE.ANY takes the oldest of the ready instances whose port has no EOS on record. -/
theorem State.anyInst_eq_some {n node k : Nat} {tag : Tag} (e : s.anyInst n node tag = some (k, f, t)) :
    ∃ q ∈ (s.tile n).ready, q.node = node ∧ q.tag = tag ∧ ((s.tile n).counter node tag).flags.getLsbD q.mergePort = false ∧ k = q.mergePort ∧
      s.gatherThis n q = some (f, t) ∧ ∀ o ∈ (s.tile n).ready, o.node = node → o.tag = tag →
        ((s.tile n).counter node tag).flags.getLsbD o.mergePort = false → q.age ≤ o.age := by
  obtain ⟨q, hq, hthis⟩ := Option.bind_eq_some_iff.1 e
  obtain ⟨⟨f', t'⟩, hgather, hk⟩ := Option.map_eq_some_iff.1 hthis
  obtain ⟨rfl, rfl, rfl⟩ : q.mergePort = k ∧ f' = f ∧ t' = t := by simpa using hk
  obtain ⟨hready, hfree⟩ := List.mem_filter.1 (leastBy_mem hq)
  simp only [Bool.and_eq_true, beq_iff_eq, Bool.not_eq_true'] at hfree
  obtain ⟨⟨hnode, htag⟩, hfree⟩ := hfree
  refine ⟨q, hready, hnode, htag, hfree, rfl, hgather, fun o ho hon hot hof => ?_⟩
  have hle := leastBy_key_le (key := fun i : Inst => [i.age, i.mergePort]) (fun a b => keyLt_iff _ _) hq o
    (List.mem_filter.2 ⟨ho, by simp [hon, hot, hof]⟩)
  exact head_le_of_not_lt (not_lt.2 hle)

end

theorem State.firingOf_ports (s : State) (n h : Nat) (g : Galley) (q : Inst) : (s.firingOf n h g q).p0 = q.p0 ∧ (s.firingOf n h g q).p1 = q.p1 :=
  ⟨q.lookup_toks.1, q.lookup_toks.2.1⟩

/-! ## What MERGE sends -/

theorem exec_merge_pick (r : Shell) (s : State) : exec (.merge .pick r) s = settleFire s (match s.gather r with
    | none => none
    | some (f, t) => match f.verdict with
      | .mismatch k => t.countFault f k
      | .eos => some (t.sendBoth f r .eos)
      | _ =>
        let a := f.port r 0
        let b := f.port r 1
        if a.isNull then some (t.sendBoth f r b) else if b.isNull then some (t.sendBoth f r a) else t.countFault f 1) := rfl

section
variable {r : Shell} {s : State} {f : Firing} {t : State}

/-- MERGE.PICK on a set without EOS. -/
theorem exec_merge_pick_of_no_eos (hg : s.gather r = some (f, t)) (hno : ∀ e ∈ f.toks, e.2.flag ≠ .eos) :
    exec (.merge .pick r) s = settleFire s (if (f.port r 0).isNull then some (t.sendBoth f r (f.port r 1))
      else if (f.port r 1).isNull then some (t.sendBoth f r (f.port r 0)) else t.countFault f 1) := by
  rw [exec_merge_pick, hg]
  have hv : f.verdict = .null ∨ f.verdict = .value := by
    have hfirst : f.toks.find? (fun e => e.2.isEos) = none := by simpa using hno
    rw [Firing.verdict, verdict_of_no_eos hfirst]
    split <;> simp
  rcases hv with hv | hv <;> simp only [hv]

theorem exec_merge_pred (hset : (∃ h x y, s.site = .elem h x y ∧ s.gatherMerge h x y = some (f, t)) ∨
    (∃ n node tag, s.site = .inst n node tag ∧ s.gather r = some (f, t))) : exec (.merge .pred r) s = settleFire s (t.mergePred f r) := by
  show execMerge .pred r s = _
  rcases hset with ⟨h, x, y, hsite, hg⟩ | ⟨n, node, tag, hsite, hg⟩ <;> simp only [execMerge, hsite, hg]

theorem exec_merge_any {k : Nat} (hset : (∃ h x y, s.site = .elem h x y ∧ s.gatherAny h x y = some (k, f, t)) ∨
    (∃ n node tag, s.site = .inst n node tag ∧ s.anyInst n node tag = some (k, f, t))) :
    exec (.merge .any r) s = settleFire s (t.mergeAny f r k (f.port r k)) := by
  show execMerge .any r s = _
  rcases hset with ⟨h, x, y, hsite, hg⟩ | ⟨n, node, tag, hsite, hg⟩ <;> simp only [execMerge, hsite, hg]

/-- MERGE.PRED on three EOS tokens. -/
theorem State.mergePred_of_eos {p : Tok} (hp : f.p3 = some p) (hall : ∀ e ∈ f.toks, e.2.flag = .eos) :
    t.mergePred f r = some (t.sendBoth f r .eos) := by
  have hmem : (3, p) ∈ f.toks := by simp [Firing.toks, hp]
  have heos : p.isEos = true := (Tok.isEos_eq_true p).2 (hall _ hmem)
  have hevery : (f.toks.all fun e => e.2.isEos) = true := by simpa using hall
  rw [State.mergePred, hp]
  simp only [Option.getD_some, heos, hevery, if_true]

/-- MERGE.PRED where neither the predicate nor the selected token is EOS. -/
theorem State.mergePred_of_not_eos {p : Tok} (hp : f.p3 = some p) (hpe : p.flag ≠ .eos) (hke : (f.port r (selectedPort p)).flag ≠ .eos) :
    t.mergePred f r = some (t.sendBoth f r
      (if p.flag = .null ∨ (f.port r (selectedPort p)).flag = .null then .null else f.port r (selectedPort p))) := by
  have hk : (if p.isActive && p.p then 0 else 1) = selectedPort p := rfl
  rw [State.mergePred, hp]
  simp only [Option.getD_some, hk, (Tok.isEos_eq_false p).2 hpe, (Tok.isEos_eq_false _).2 hke, Bool.false_eq_true, if_false, Bool.or_eq_true,
    Tok.isNull_eq_true]
  split <;> rfl

/-- The EOS of the other port is on record. -/
theorem other_recorded (k : Nat) (flags : BitVec 4) :
    (flags &&& (if k = 0 then 2 else 1 : BitVec 4) != 0) = flags.getLsbD (if k = 0 then 1 else 0) := by
  have h2 : ∀ b : BitVec 4, (b &&& 2 != 0) = b.getLsbD 1 := by decide
  have h1 : ∀ b : BitVec 4, (b &&& 1 != 0) = b.getLsbD 0 := by decide
  split
  · exact h2 flags
  · exact h1 flags

theorem State.mergeAny_eq (t : State) (f : Firing) (r : Shell) (k : Nat) (d : Tok) : t.mergeAny f r k d =
    if d.isEos then
      if (t.kept f).2.getLsbD (if k = 0 then 1 else 0) then some ((t.keep f (t.kept f).1 ((t.kept f).2 &&& ~~~3)).sendBoth f r .eos)
      else t.keepThen f k (t.kept f).1 ((t.kept f).2 ||| (if k = 0 then 1 else 2)) id
    else some (t.sendBoth f r d) := by
  rw [State.mergeAny]
  dsimp only
  rw [other_recorded]

end

/-- Settles O27: the sets of the three forms, and what each sends. -/
theorem mergeForms : Obligations.MergeForms := by
  unfold Obligations.MergeForms
  intro r s
  refine ⟨fun f t hg hno => ?pick, fun f t p hset hp => ?pred, fun h x y g f t hg hm => ?predSet, fun h x y k g f t hg ha => ?anySet,
    fun n node k tag f t ha => ?anyInst, fun k f t hset => ?any⟩
  case pick =>
    have hexec := exec_merge_pick_of_no_eos hg hno
    refine ⟨fun h0 => ?_, fun h0 h1 => ?_, fun h0 h1 => ?_⟩
    · rw [hexec, if_pos ((Tok.isNull_eq_true _).2 h0), settleFire_some]
    · rw [hexec, if_neg (mt (Tok.isNull_eq_true _).1 h0), if_pos ((Tok.isNull_eq_true _).2 h1), settleFire_some]
    · rw [hexec, if_neg (mt (Tok.isNull_eq_true _).1 h0), if_neg (mt (Tok.isNull_eq_true _).1 h1)]
      rfl
  case pred =>
    have hexec := exec_merge_pred hset
    refine ⟨fun hall => ?_, fun hpe hke => ?_⟩
    · rw [hexec, State.mergePred_of_eos hp hall, settleFire_some]
    · rw [hexec, State.mergePred_of_not_eos hp hpe hke, settleFire_some]
      rfl
  case predSet =>
    obtain ⟨g', rt, p, a, hg', hp, ha, htake⟩ := State.gatherMerge_eq_some hm
    obtain rfl := Option.some.inj (hg.symm.trans hg')
    have hf : f = (s.takeAt g x y (predPorts p.tok) rt).1 := congrArg Prod.fst htake.symm
    have ht : t = s.setForme (g.taken x y (predPorts p.tok) rt) := congrArg Prod.snd htake.symm
    have hrt : f.rt = rt := hf ▸ rfl
    have hheads := ElemState.head?_of_setKey ha
    rw [hrt]
    refine ⟨p, hp, fun hpe => ?_, fun hpe => ?_⟩
    · rw [predPorts_of_not_eos hpe] at hf ht hheads
      have hk := selectedPort_lt p.tok
      obtain ⟨q, hq⟩ := hheads _ List.mem_cons_self
      refine ⟨q, hq, hf ▸ State.takeAt_toks_two hk hq hp, fun g' hgt => ?_⟩
      rw [ht, ← State.handle_of_forme? hg, ← g.taken_handle x y [selectedPort p.tok, 3] rt, State.forme_setForme] at hgt
      obtain rfl := Option.some.inj hgt
      show ((g.taken x y [selectedPort p.tok, 3] rt).run.core.elem x y).queue (1 - selectedPort p.tok) = _
      rw [Forme.taken_queue (by simp; omega) (by simp; omega) (by omega), if_neg (by simp; omega)]
      rfl
    · rw [predPorts_of_eos hpe] at hf hheads
      obtain ⟨a, ha⟩ := hheads 0 (by decide)
      obtain ⟨b, hb⟩ := hheads 1 (by decide)
      rw [hf, State.takeAt_toks_three ha hb hp]
      rfl
  case anySet =>
    obtain ⟨g', rt, q, hg', hk, hfree, hq, htake, hleast⟩ := State.gatherAny_eq_some ha
    obtain rfl := Option.some.inj (hg.symm.trans hg')
    have hf : f = (s.takeAt g x y [k] rt).1 := congrArg Prod.fst htake.symm
    have hrt : f.rt = rt := hf ▸ rfl
    rw [hrt]
    exact ⟨hk, hfree, q, hq, hf ▸ State.takeAt_toks_one hk hq, hleast⟩
  case anyInst =>
    obtain ⟨q, hq, hnode, htag, hfree, rfl, hthis, hleast⟩ := State.anyInst_eq_some ha
    obtain ⟨h, g, -, -, rfl, -⟩ := State.gatherThis_eq_some hthis
    obtain ⟨h0, h1⟩ := s.firingOf_ports n h g q
    exact ⟨hfree, q, hq, hnode, htag, rfl, h0, h1, hleast⟩
  case any =>
    have hexec := exec_merge_any (r := r) hset
    rw [State.mergeAny_eq] at hexec
    refine ⟨fun he => ?_, fun he hother hready => ?_, fun he hother => ?_⟩
    · rw [hexec, if_neg (mt (Tok.isEos_eq_true _).1 he), settleFire_some]
    · rw [hexec, if_pos ((Tok.isEos_eq_true _).2 he), if_neg (Bool.eq_false_iff.1 hother), settleFire_keepThen hready]
    · rw [hexec, if_pos ((Tok.isEos_eq_true _).2 he), if_pos hother, settleFire_some]

end Sys2Proof.Machine

namespace Sys2Proof.Machine

/-! # Sources and ends of streams (R44, R126, R129, R130, R145, R185) -/

/-! ## Streams -/

/-- The firing of the next token of a stream. -/
def Forme.emitFiring (g : Forme) (h x y : Nat) (m : Emit) : Firing :=
  { pinned := true, h := h, x := x, y := y, rt := m.rt, ctx := g.ctx, part := g.part, die := g.die }

section
variable {r : Shell} {s : State} {h x y : Nat} {g : Forme} {m : Emit}

theorem State.emitting_of_emit (hsite : s.site = .elem h x y) (hg : s.forme? h = some g) (hm : (g.run.core.elem x y).emit = some m) :
    s.emitting = some (h, x, y) := by
  simp only [State.emitting, hsite, hg, hm, Option.isSome_some, if_true]

theorem State.emitting_of_idle (hsite : s.site = .elem h x y) (hg : s.forme? h = some g) (hm : (g.run.core.elem x y).emit = none) :
    s.emitting = none := by
  simp only [State.emitting, hsite, hg, hm, Option.isSome_none, Bool.false_eq_true, if_false]

/-- The next token of a stream whose element may send it. -/
theorem State.emitNext_of_free (hg : s.forme? h = some g) (hm : (g.run.core.elem x y).emit = some m) (hlive : g.status = .live)
    (hmark : g.mark = none) (hfree : g.run.core.unblocked (.elem x y) = true) (hseal : g.sealed = true → expectedPorts r ≠ []) :
    s.emitNext h x y r = some (if m.left = 0 then
        (if m.eos then (s.setElem h { g.run.core.elem x y with emit := none }).sendBoth (g.emitFiring h x y m) r .eos
          else s.setElem h { g.run.core.elem x y with emit := none })
      else (s.setElem h { g.run.core.elem x y with
        emit := if m.left - 1 = 0 && !m.eos then none else some { m with left := m.left - 1, next := m.next + m.step } }).sendBoth
          (g.emitFiring h x y m) r (.data m.next)) := by
  have hsealed : (g.sealed && (expectedPorts r).isEmpty) = false := by
    rw [Bool.and_eq_false_imp]
    exact fun hs => by simpa using hseal hs
  simp only [State.emitNext, hg, hm, hlive, hmark, Mark.hasSaved, hfree, hsealed, bne_self_eq_false, Bool.not_true, Bool.or_false,
    Bool.false_eq_true, if_false]
  split <;> rfl

/-- A source of a sealed round sends nothing. -/
theorem State.emitNext_of_sealed (hg : s.forme? h = some g) (hm : (g.run.core.elem x y).emit = some m) (hseal : g.sealed = true)
    (hports : expectedPorts r = []) : s.emitNext h x y r = none := by
  simp only [State.emitNext, hg, hm, hseal, hports, List.isEmpty_nil, Bool.and_true, Bool.or_true, if_true]

theorem State.park_of_elem (hsite : s.site = .elem h x y) : s.park = s := by
  simp only [State.park, hsite]

end

/-- Tokens 0 to `n` − 1 of a galley's stream. -/
def State.sendRun (s : State) (f : Firing) (r : Shell) (n : Nat) (v step : Word) : State :=
  (List.range n).foldl (fun u i => u.sendBoth { f with again := if i = 0 then none else some (.data v) } r (.data (v + BitVec.ofNat 32 i * step))) s

section
variable {r : Shell} {s : State} {f : Firing} {t : State}

theorem State.startStream_of_pooled (hp : f.pinned = false) (n : Nat) (v step : Word) (eos : Bool) :
    t.startStream f r n v step eos = some (if eos then
      (t.sendRun f r n v step).sendBoth { f with again := if n = 0 then none else some (.data v) } r .eos else t.sendRun f r n v step) := by
  rw [State.startStream, if_neg (Bool.eq_false_iff.1 hp)]
  rfl

theorem State.startStream_of_pinned (hp : f.pinned = true) {g : Forme} (hg : t.forme? f.h = some g) (n : Nat) (v step : Word) (eos : Bool) :
    t.startStream f r n v step eos = some (if n = 0 && !eos then t else
      let q := t.setElem f.h { g.run.core.elem f.x f.y with emit := some ⟨f.rt, n, v, step, eos⟩ }
      (q.emitNext f.h f.x f.y r).getD q) := by
  rw [State.startStream, hp, if_pos rfl, hg]
  dsimp only
  split <;> rfl

/-! ## Firings of the sources -/

theorem exec_const_of_port (hin : r.inmask ≠ 0) (v : BitVec 32) (s : State) :
    exec (.const v r) s = s.fireActive r fun f t => some (t.sendBoth f r (.data v)) := if_neg hin

theorem exec_const_of_no_port (hin : r.inmask = 0) (v : BitVec 32) (s : State) :
    exec (.const v r) s = settleFire s (s.fireOnce fun f t => some (t.sendBoth f r (.data v))) := if_pos hin

theorem exec_repeatN_of_port (hidle : s.emitting = none) (hin : r.inmask ≠ 0) (eos : Bool) (raw : BitVec 32) :
    exec (.repeatN eos raw r) s = s.fireActive r fun f t => t.startStream f r (f.port r 1).value.toNat (f.port r 0).value 0 eos := by
  show execRepeatN eos raw r s = _
  simp only [execRepeatN, hidle, if_neg hin]

theorem exec_repeatN_of_no_port (hidle : s.emitting = none) (hin : r.inmask = 0) (eos : Bool) (raw : BitVec 32) :
    exec (.repeatN eos raw r) s = settleFire s (s.fireOnce fun f t =>
      t.startStream f r (raw.toNat / 2 ^ 16) (BitVec.ofNat 32 (raw.toNat % 2 ^ 16)) 0 eos) := by
  have hhigh : bits 16 16 raw.toNat = raw.toNat / 2 ^ 16 := Nat.mod_eq_of_lt (by omega)
  have hlow : bits 0 16 raw.toNat = raw.toNat % 2 ^ 16 := by rw [bits, Nat.pow_zero, Nat.div_one]
  show execRepeatN eos raw r s = _
  simp only [execRepeatN, hidle, if_pos hin, hhigh, hlow]

theorem exec_seq_of_idle (hidle : s.emitting = none) (eos : Bool) :
    exec (.seq eos r) s = s.fireActive r fun f t => t.startStream f r (f.port r 1).value.toNat (f.port r 0).value (f.port r 2).value eos := by
  show execSeq eos r s = _
  simp only [execSeq, hidle]

theorem exec_of_emitting {h x y : Nat} (hemit : s.emitting = some (h, x, y)) (eos : Bool) (raw : BitVec 32) :
    exec (.repeatN eos raw r) s = settleFire s (s.emitNext h x y r) ∧ exec (.seq eos r) s = settleFire s (s.emitNext h x y r) := by
  refine ⟨?_, ?_⟩
  · show execRepeatN eos raw r s = _
    simp only [execRepeatN, hemit]
  · show execSeq eos r s = _
    simp only [execSeq, hemit]

/-- A source without ports in a live forme that has not fired. -/
theorem State.fireOnce_of_unfired {h x y : Nat} {g : Forme} (hsite : s.site = .elem h x y) (hg : s.forme? h = some g) (hlive : g.status = .live)
    (hmark : g.mark = none) (hfired : (g.run.core.elem x y).fired = false) (go : Firing → State → Option State) :
    s.fireOnce go = go { pinned := true, h := h, x := x, y := y, ctx := g.ctx, part := g.part, die := g.die }
      (s.setElem h { g.run.core.elem x y with fired := true }) := by
  simp only [State.fireOnce, hsite, hg, hlive, hmark, hfired, Mark.hasSaved, bne_self_eq_false, Bool.or_false, Bool.false_eq_true, if_false]

/-! ## Ends of streams -/

theorem exec_eosout_of_no_pred (hg : s.gather r = some (f, t)) (hp : r.pin = false) : exec (.eosout r) s = .next (t.sendBoth f r .eos) := by
  show execEosout r s = _
  simp only [execEosout, hg, hp, Bool.not_false, if_true, settleFire_some]

theorem exec_eosout_of_pred (hf : Fires s r f t) (hp : r.pin = true) : exec (.eosout r) s =
    .next (if f.pred then (t.sendBoth f r (f.port r 0)).sendBoth f r .eos else t.sendBoth f r (f.port r 0)) := by
  obtain ⟨hg, hv⟩ := hf
  show execEosout r s = _
  simp only [execEosout, hg, hp, hv, Bool.not_true, Bool.false_eq_true, if_false, settleFire_some]

theorem exec_eoswait (hg : s.gather r = some (f, t)) (fwd : Bool) : exec (.eoswait fwd r) s = settleFire s (if (f.port r 0).isEos then
      some ((t.keep f 0 (t.kept f).2).sendTwo f r (.data (t.kept f).1) (if fwd then .eos else .data (t.kept f).1))
    else t.keepThen f 0 ((t.kept f).1 + 1) (t.kept f).2 id) := by
  show execEoswait fwd r s = _
  simp only [execEoswait, hg]

end

/-- Settles O28: sources start and continue their streams, and the ends of streams send what they have counted. -/
theorem sources : Obligations.Sources := by
  unfold Obligations.Sources
  refine ⟨fun v raw eos r s f t h hp hidle hin => ⟨?constPooled, ?repeatPooled, ?seqPooled⟩, fun v r s f t h _ hin => ?constPinned,
    fun eos raw r s f t g h hp hidle hg hin => ⟨?repeatPinned, ?seqPinned⟩,
    fun v raw eos r s h x y g g' hsite hg hlive hmark hfired hemit hin => ⟨?constOnce, fun hg' => ?repeatOnce⟩,
    fun raw eos r s h x y g m hsite hg hlive hmark hfree hm hseal => ?next,
    fun raw eos r s h x y g m hsite hg hseal hports hm => ?sealed,
    fun r s f t hg hp => exec_eosout_of_no_pred hg hp, fun r s f t hf hp => exec_eosout_of_pred hf hp,
    fun fwd r s f t hg => ⟨fun he hready => ?count, fun he => ?ended⟩⟩
  case constPooled => rw [exec_const_of_port hin, fireActive_of_awake h, settleFire_some]
  case repeatPooled =>
    rw [exec_repeatN_of_port hidle hin, fireActive_of_awake h, State.startStream_of_pooled hp]
    rfl
  case seqPooled =>
    rw [exec_seq_of_idle hidle, fireActive_of_awake h, State.startStream_of_pooled hp]
    rfl
  case constPinned => rw [exec_const_of_port hin, fireActive_of_awake h, settleFire_some]
  case repeatPinned =>
    rw [exec_repeatN_of_port hidle hin, fireActive_of_awake h, State.startStream_of_pinned hp hg]
    rfl
  case seqPinned =>
    rw [exec_seq_of_idle hidle, fireActive_of_awake h, State.startStream_of_pinned hp hg]
    rfl
  case constOnce =>
    rw [exec_const_of_no_port hin, State.fireOnce_of_unfired hsite hg hlive hmark hfired]
    rfl
  case repeatOnce =>
    rw [exec_repeatN_of_no_port (State.emitting_of_idle hsite hg hemit) hin, State.fireOnce_of_unfired hsite hg hlive hmark hfired,
      State.startStream_of_pinned rfl hg']
    rfl
  case next =>
    have hleft : m.left ≠ 0 → (m.left - 1 = 0 ↔ m.left = 1) := by omega
    have hsend : settleFire s (s.emitNext h x y r) = _ := congrArg (settleFire s) (State.emitNext_of_free hg hm hlive hmark hfree hseal)
    obtain ⟨hrep, hseq⟩ := exec_of_emitting (r := r) (State.emitting_of_emit hsite hg hm) eos raw
    rw [hrep, hseq, hsend, settleFire_some, and_self]
    by_cases h0 : m.left = 0
    · rw [if_pos h0]
      simp only [if_pos h0]
      rfl
    · rw [if_neg h0]
      simp only [if_neg h0, hleft h0]
      rfl
  case sealed =>
    obtain ⟨hrep, -⟩ := exec_of_emitting (r := r) (State.emitting_of_emit hsite hg hm) eos raw
    rw [hrep, State.emitNext_of_sealed hg hm hseal hports, settleFire_none, State.park_of_elem hsite]
  case count => rw [exec_eoswait hg, if_neg (mt (Tok.isEos_eq_true _).1 he), settleFire_keepThen hready]
  case ended => rw [exec_eoswait hg, if_pos ((Tok.isEos_eq_true _).2 he), settleFire_some]

end Sys2Proof.Machine

namespace Sys2Proof.Machine

/-! # Tag records (R36, R131 to R133, R137) -/

/-- A tag overflow at a firing, or the wait for it. -/
def State.tagFaulted (s t : State) (f : Firing) : Out := .next ((t.tagFault f).getD s.park)

/-- The state once a result has been sent under a new tag: from the entry that holds it, or from the instance. -/
def State.sentUnder (t : State) (f : Firing) (r : Shell) (rt : BitVec 4) (u : Tag) (x : Tok) : State :=
  if f.pinned then (t.setRoute f.h rt ⟨true, u⟩).sendBoth { f with rt := rt } r x else t.sendBoth { f with out := u } r x

section
variable {r : Shell} {s : State} {f : Firing} {t : State} {u : Tag} {rt : BitVec 4}

theorem State.sendBoth_retag (t : State) (f : Firing) (r : Shell) (rt : BitVec 4) (u : Tag) (x : Tok) :
    (t.retag f rt u).2.sendBoth (t.retag f rt u).1 r x = t.sentUnder f r rt u x := by
  unfold State.retag State.sentUnder
  cases f.pinned <;> rfl

/-- A tag record of one result. -/
theorem tagStep_of_gather (g : s.gather r = some (f, t)) (m : ∀ k, f.verdict ≠ .mismatch k) (step : Tag → Option Tag) :
    s.tagStep r rt step = match (t.tagOf f).bind step with
      | none => s.tagFaulted t f
      | some u => .next (t.sentUnder f r rt u (f.port r 0)) := by
  rw [State.tagStep, fireTag_of_gather g m]
  cases (t.tagOf f).bind step with
  | none => rfl
  | some u =>
    dsimp only
    rw [settleFire_some, State.sendBoth_retag]

theorem tagStep_of_tag (g : s.gather r = some (f, t)) (m : ∀ k, f.verdict ≠ .mismatch k) (ht : t.tagOf f = some u) (step : Tag → Option Tag) :
    s.tagStep r rt step = match step u with
      | none => s.tagFaulted t f
      | some u => .next (t.sentUnder f r rt u (f.port r 0)) := by
  rw [tagStep_of_gather g m, ht]
  rfl

theorem exec_loopin (wc : WidthCode) (start : BitVec 16) (rt : BitVec 4) (r : Shell) (s : State) :
    exec (.loopin wc start rt r) s = s.tagStep r rt fun t => pushTag t (WidthCode.width wc) start.toNat := rfl
theorem exec_nexti (rt : BitVec 4) (r : Shell) (s : State) : exec (.nexti rt r) s = s.tagStep r rt nextTag := rfl
theorem exec_loopout (rt : BitVec 4) (r : Shell) (s : State) : exec (.loopout rt r) s = s.tagStep r rt popTag := rfl

/-! ## Fields that are there -/

theorem nextTag_eq (u : Tag) :
    nextTag u = if fieldWidth u 0 = 0 then none else some (setField u 0 ((fieldVal u 0 + 1) % 2 ^ fieldWidth u 0)) := rfl

theorem popTag_of_absent (h : fieldWidth u 0 = 0) : popTag u = none := if_pos h

theorem retTag_of_some {v : Tag} (hw : fieldWidth u 0 = 16) (hv : popTag u = some v) : retTag u = some (fieldVal u 0, v) := by
  rw [retTag, if_pos hw, hv]
  rfl

theorem retTag_of_none (h : fieldWidth u 0 ≠ 16 ∨ popTag u = none) : retTag u = none := by
  unfold retTag
  split
  · rename_i hw
    rw [h.resolve_left (not_not.2 hw)]
    rfl
  · rfl

theorem setFieldTag_eq (u : Tag) (i v : Nat) : setFieldTag u i v =
    if fieldWidth u i = 0 ∨ 2 ^ fieldWidth u i ≤ v ∨ tagWf (setField u i v) = false then none else some (setField u i v) := by
  rw [setFieldTag, checkTag]
  cases hwf : tagWf (setField u i v) with
  | true => simp
  | false => simp

/-- The tag with another context. -/
def withCtx (u : Tag) (c : Nat) : Tag := BitVec.ofNat 64 (c * 2 ^ 52 + u.toNat % 2 ^ 52)

theorem ofNat_setBits_ctx {c : Nat} (hc : c < 4096) (u : Tag) : BitVec.ofNat 64 (setBits 52 12 u.toNat c) = withCtx u c := by
  have hu := u.isLt
  have hset : setBits 52 12 u.toNat c = c * 2 ^ 52 + u.toNat % 2 ^ 52 := by
    unfold setBits
    omega
  rw [hset]
  rfl

/-! ## CALL, RET, GETTAG and SETTAG -/

/-- A token that leaves the galley for the node and port of a destination. -/
def State.left (t : State) (f : Firing) (k : Tok) (v : Tag) (d : BitVec 16) : State :=
  match t.galleyOf f with
  | none => t
  | some g => t.setGalley f.tile { g with
      out := (g.out + 1) % 256
      outs := g.outs ++ [⟨f.node, false, { tag := v, port := d.extractLsb' 14 2, node := d.extractLsb' 0 14, hnd := g.hnd || f.hnd, tok := k
                                           src := .inst f.hdr f.tag }⟩] }

/-- A set that has been gathered is no repetition of an earlier token. -/
theorem State.gather_again (g : s.gather r = some (f, t)) : f.again = none := by
  unfold State.gather at g
  split at g
  · cases g
  · obtain ⟨_, _, -, -, -, htake⟩ := State.gatherElem_eq_some g
    exact congrArg (fun e : Firing × State => e.1.again) htake
  · obtain ⟨q, -, hq⟩ := Option.bind_eq_some_iff.1 g
    obtain ⟨_, _, -, -, rfl, -⟩ := State.gatherThis_eq_some hq
    rfl

/-- The token of a result, by the parts of its destination. -/
theorem Firing.token_eq (f : Firing) (hnd : Bool) (d : BitVec 16) (k : Tok) : f.token hnd d k =
    { tag := f.out, port := d.extractLsb' 14 2, node := d.extractLsb' 0 14, hnd := hnd || f.hnd, tok := k, src := .inst f.hdr f.tag
      again := f.again } := by
  have hd := d.isLt
  have hport : BitVec.ofNat 2 (destPort d) = d.extractLsb' 14 2 := by
    refine BitVec.eq_of_toNat_eq ?_
    rw [BitVec.toNat_ofNat, BitVec.extractLsb'_toNat, Nat.shiftRight_eq_div_pow, destPort]
  have hnode : BitVec.ofNat 14 (d.toNat % 2 ^ 14) = d.extractLsb' 0 14 := by
    refine BitVec.eq_of_toNat_eq ?_
    rw [BitVec.toNat_ofNat, BitVec.extractLsb'_toNat, Nat.shiftRight_zero, Nat.mod_mod]
  rw [Firing.token, hport, hnode]

theorem State.output_eq_left (ha : f.again = none) (t : State) (v : Tag) (d : BitVec 16) (k : Tok) : t.output { f with out := v } false d k = t.left f k v d := by
  have hg : t.galleyOf { f with out := v } = t.galleyOf f := rfl
  rw [State.output, State.left, hg]
  cases t.galleyOf f with
  | none => rfl
  | some g => simp only [Firing.token_eq, ha]

/-- A pinned firing has no tag only where its entry is cleared; a pooled one always has one. -/
theorem State.pinned_of_no_tag (h : t.tagOf f = none) : f.pinned = true := by
  unfold State.tagOf at h
  split at h
  · assumption
  · cases h

theorem exec_call_of_pinned (g : s.gather r = some (f, t)) (m : ∀ k, f.verdict ≠ .mismatch k) (hp : f.pinned = true) (c : BitVec 16) :
    exec (.call c rt r) s = match (t.tagOf f).bind fun u => pushTag u 16 c.toNat with
      | none => s.tagFaulted t f
      | some u => .next (t.sentUnder f r rt u (f.port r 0)) := by
  show execCall c rt r s = _
  rw [execCall, fireTag_of_gather g m]
  dsimp only
  rw [if_pos hp]
  cases (t.tagOf f).bind fun u => pushTag u 16 c.toNat with
  | none => rfl
  | some u =>
    dsimp only
    rw [settleFire_some, State.sendBoth_retag]

theorem exec_call_of_pooled (g : s.gather r = some (f, t)) (m : ∀ k, f.verdict ≠ .mismatch k) (hp : f.pinned = false) (c : BitVec 16) :
    exec (.call c rt r) s = if (f.port r 1).isActive then match pushTag f.tag 16 r.dsta.toNat with
        | none => s.tagFaulted t f
        | some u => .next (t.left f (f.port r 0) u ((f.port r 1).value.extractLsb' 0 16))
      else match t.galleyOf f with
        | none => .next t
        | some g => .next (t.setGalley f.tile { g with out := (g.out + 1) % 256 }) := by
  show execCall c rt r s = _
  rw [execCall, fireTag_of_gather g m]
  dsimp only
  rw [if_neg (Bool.eq_false_iff.1 hp)]
  split
  · cases pushTag f.tag 16 r.dsta.toNat with
    | none => rfl
    | some u =>
      dsimp only
      rw [settleFire_some, State.output_eq_left (State.gather_again g)]
  · cases t.galleyOf f <;> rfl

theorem exec_ret (g : s.gather r = some (f, t)) (m : ∀ k, f.verdict ≠ .mismatch k) : exec (.ret rt r) s =
    match (t.tagOf f).bind retTag with
      | none => s.tagFaulted t f
      | some (d, u) => .next (if f.pinned then (t.setRoute f.h rt ⟨true, u⟩).sendTwo { f with rt := rt } r (f.port r 0)
            (if (f.port r 0).isEos then .eos else .data (BitVec.ofNat 32 d))
          else t.left f (f.port r 0) u (BitVec.ofNat 16 d)) := by
  show execRet rt r s = _
  rw [execRet, fireTag_of_gather g m]
  cases (t.tagOf f).bind retTag with
  | none => rfl
  | some e =>
    obtain ⟨d, u⟩ := e
    dsimp only
    unfold State.retag
    by_cases hp : f.pinned = true
    · rw [if_pos hp, if_pos hp, if_pos hp, settleFire_some]
    · rw [if_neg hp, if_neg hp, if_neg hp, settleFire_some, State.output_eq_left (State.gather_again g)]

theorem exec_gettag (g : s.gather r = some (f, t)) (m : ∀ k, f.verdict ≠ .mismatch k) (sel : GetSel) : exec (.gettag sel r) s =
    .next (t.sendBoth f r (if (f.port r 0).isActive then { f.port r 0 with value := getTag sel ((t.tagOf f).getD 0) } else f.port r 0)) := by
  show execGettag sel r s = _
  rw [execGettag, fireTag_of_gather g m]
  rfl

theorem exec_settag_of_no_tag (g : s.gather r = some (f, t)) (m : ∀ k, f.verdict ≠ .mismatch k) (ht : t.tagOf f = none) (sel : SetSel) :
    exec (.settag sel rt r) s = s.tagFaulted t f := by
  show execSettag sel rt r s = _
  rw [execSettag, fireTag_of_gather g m]
  simp only [ht]
  rfl

theorem exec_settag_of_inactive (g : s.gather r = some (f, t)) (m : ∀ k, f.verdict ≠ .mismatch k) (ht : t.tagOf f = some u)
    (hb : (f.port r 1).isActive = false) (he : (f.port r 0).flag ≠ .eos) (sel : SetSel) : exec (.settag sel rt r) s =
      .next (t.sentUnder f r rt u (if (f.port r 0).flag = .null ∨ (f.port r 1).flag = .null then .null else .dormant)) := by
  show execSettag sel rt r s = _
  rw [execSettag, fireTag_of_gather g m]
  simp only [ht, hb, Bool.not_false, if_true, (Tok.isEos_eq_false _).2 he, Bool.false_eq_true, if_false, Bool.or_eq_true, Tok.isNull_eq_true,
    settleFire_some, State.sendBoth_retag]

theorem exec_settag_field (g : s.gather r = some (f, t)) (m : ∀ k, f.verdict ≠ .mismatch k) (ht : t.tagOf f = some u)
    (hb : (f.port r 1).isActive = true) (i : BitVec 3) : exec (.settag (.field i) rt r) s =
      match setFieldTag u i.toNat (f.port r 1).value.toNat with
        | none => s.tagFaulted t f
        | some v => .next (t.sentUnder f r rt v (f.port r 0)) := by
  show execSettag (.field i) rt r s = _
  rw [execSettag, fireTag_of_gather g m]
  simp only [ht, hb, Bool.not_true, Bool.false_eq_true, if_false]
  cases setFieldTag u i.toNat (f.port r 1).value.toNat with
  | none => rfl
  | some v =>
    dsimp only
    rw [settleFire_some, State.sendBoth_retag]

theorem exec_settag_ctx (g : s.gather r = some (f, t)) (m : ∀ k, f.verdict ≠ .mismatch k) (ht : t.tagOf f = some u)
    (hb : (f.port r 1).isActive = true) {c : Nat} (hc : (f.port r 1).value.toNat % 2 ^ 12 = c) : exec (.settag .ctx rt r) s =
      if t.mayTag f c then if tagWf (withCtx u c) then .next (t.sendBoth { f with out := withCtx u c } r (f.port r 0)) else s.tagFaulted t f
      else .next ((t.privFault f).getD s.park) := by
  have hlt : c < 4096 := by omega
  show execSettag .ctx rt r s = _
  rw [execSettag, fireTag_of_gather g m]
  simp only [ht, hb, hc, Bool.not_true, Bool.false_eq_true, if_false]
  rw [ofNat_setBits_ctx hlt, checkTag]
  cases t.mayTag f c with
  | false => simp only [Bool.not_false, if_true, Bool.false_eq_true, if_false, settleFire]
  | true =>
    cases tagWf (withCtx u c) with
    | false => simp only [Bool.not_true, Bool.false_eq_true, if_true, if_false, settleFire, State.tagFaulted]
    | true => simp only [Bool.not_true, Bool.false_eq_true, if_true, if_false, settleFire_some]

end

/-- Settles O29: each tag record by the tag of its firing. -/
theorem tagSteps : Obligations.TagSteps := by
  unfold Obligations.TagSteps
  intro r s f t g m
  refine ⟨fun u rt ht => ⟨fun wc start => ?loopin, ?nexti, fun v hv => ?loopout, fun h => ?noPop, fun c hp => ?call,
      fun v hw hv => ⟨fun hp => ?retPooled, fun hp => ?retPinned⟩, fun h => ?noRet, fun sel hb he => ?inactive,
      fun hb => ⟨fun i => ?field, fun hmay => ?ctx, fun hmay => ?noCtx⟩⟩,
    fun c rt hp => ⟨fun hb => ?callPooled, fun gl hb hgl => ?counted⟩, fun sel => exec_gettag g m sel,
    fun ht wc start c sel rt => ⟨?_, ?_, ?_, ?_, ?_, exec_settag_of_no_tag g m ht sel⟩⟩
  case loopin =>
    rw [exec_loopin, tagStep_of_tag g m ht]
    cases pushTag u (WidthCode.width wc) start.toNat <;> rfl
  case nexti =>
    rw [exec_nexti, tagStep_of_tag g m ht, nextTag_eq]
    by_cases h0 : fieldWidth u 0 = 0
    · simp only [if_pos h0]; rfl
    · simp only [if_neg h0]; rfl
  case loopout =>
    rw [exec_loopout, tagStep_of_tag g m ht, hv]
    rfl
  case noPop =>
    rw [exec_loopout, tagStep_of_tag g m ht, h.elim popTag_of_absent id]
    rfl
  case call =>
    rw [exec_call_of_pinned g m hp, ht, Option.bind_some]
    cases pushTag u 16 c.toNat <;> rfl
  case retPooled =>
    rw [exec_ret g m, ht, Option.bind_some, retTag_of_some hw hv]
    dsimp only
    rw [if_neg (Bool.eq_false_iff.1 hp), State.left]
    cases t.galleyOf f <;> rfl
  case retPinned =>
    rw [exec_ret g m, ht, Option.bind_some, retTag_of_some hw hv]
    dsimp only
    simp only [if_pos hp, Tok.isEos_eq_true]
  case noRet =>
    rw [exec_ret g m, ht, Option.bind_some, retTag_of_none h]
    rfl
  case inactive =>
    rw [exec_settag_of_inactive g m ht hb he]
    rfl
  case field =>
    rw [exec_settag_field g m ht hb, setFieldTag_eq]
    by_cases hbad : fieldWidth u i.toNat = 0 ∨ 2 ^ fieldWidth u i.toNat ≤ (f.port r 1).value.toNat ∨
        tagWf (setField u i.toNat (f.port r 1).value.toNat) = false
    · simp only [if_pos hbad]; rfl
    · simp only [if_neg hbad]; rfl
  case ctx =>
    rw [exec_settag_ctx g m ht hb rfl, if_pos hmay]
    rfl
  case noCtx => rw [exec_settag_ctx g m ht hb rfl, if_neg (Bool.eq_false_iff.1 hmay)]
  case callPooled =>
    rw [exec_call_of_pooled g m hp, if_pos hb]
    cases pushTag f.tag 16 r.dsta.toNat with
    | none => rfl
    | some v =>
      dsimp only
      rw [State.left]
      cases t.galleyOf f <;> rfl
  case counted =>
    rw [exec_call_of_pooled g m hp, if_neg (Bool.eq_false_iff.1 hb), hgl]
  · rw [exec_loopin, tagStep_of_gather g m, ht]; rfl
  · rw [exec_nexti, tagStep_of_gather g m, ht]; rfl
  · rw [exec_loopout, tagStep_of_gather g m, ht]; rfl
  · rw [exec_call_of_pinned g m (State.pinned_of_no_tag ht), ht]; rfl
  · rw [exec_ret g m, ht]; rfl

end Sys2Proof.Machine

namespace Sys2Proof.Machine

/-! # CMB, RED and REDWAIT (R43, R176, R178, R179) -/

section
variable {r : Shell} {s : State} {f : Firing} {t : State}

/-! ## CMB -/

theorem exec_cmb_of_pooled (g : s.gather r = some (f, t)) (hp : f.pinned = false) (cop : CombineOp) :
    exec (.cmb cop r) s = .next (t.sendBoth f r (f.port r 0)) := by
  show execCmb cop r s = _
  simp only [execCmb, g, hp, Bool.not_false, if_true, settleFire_some]

theorem exec_cmb_of_eos (g : s.gather r = some (f, t)) (hp : f.pinned = true) (he : (f.port r 0).flag = .eos) (cop : CombineOp) :
    exec (.cmb cop r) s = settleFire s (if (t.rtOf f).count = 0 then some (t.sendBoth f r .eos) else t.countFault f 0) := by
  show execCmb cop r s = _
  simp only [execCmb, g, hp, (Tok.isEos_eq_true _).2 he, Bool.not_true, Bool.false_eq_true, if_false, if_true]

/-- The state after an arrival at a CMB: the merged value, or the start of the next one. -/
def State.arrived (t : State) (f : Firing) (q : RtState) (v n : Word) (fl : BitVec 4) (st : Sticky) : State :=
  (t.setRt f.h f.x f.y { q with value := v, count := n, flags := fl }).leave f st 0

theorem exec_cmb_of_arrival (g : s.gather r = some (f, t)) (hp : f.pinned = true) (he : (f.port r 0).flag ≠ .eos) (cop : CombineOp)
    {m : Word × Word × BitVec 4 × Sticky} (hm : cmbMerge cop (t.rtOf f).value (t.rtOf f).count ((t.rtOf f).flags &&& 12) (f.port r 0) = m) :
    exec (.cmb cop r) s = .next (if m.2.1.toNat < r.aux.toNat then t.arrived f (t.rtOf f) m.1 m.2.1 (((t.rtOf f).flags &&& 3) ||| m.2.2.1) m.2.2.2
      else (t.arrived f (t.rtOf f) 0 0 ((t.rtOf f).flags &&& 3) m.2.2.2).sendBoth f r (cmbResult m.1 m.2.2.1)) := by
  obtain ⟨v, n, fl, st⟩ := m
  show execCmb cop r s = _
  simp only [execCmb, g, hp, hm, (Tok.isEos_eq_false _).2 he, Bool.not_true, Bool.false_eq_true, if_false]
  split <;> rfl

/-! ## RED -/

/-- The address on ports 0 and 1. -/
theorem pairAddr_zero (f : Firing) (r : Shell) : pairAddr f r 0 = Addr.ofVa ((f.port r 1).value ++ (f.port r 0).value) := by
  rw [pairAddr, Addr.plus, Int.add_zero, Addr.ofWords]

theorem noteStore_of_pooled (hp : f.pinned = false) (t : State) : noteStore r f t = t.seeStore f r.aux := if_neg (Bool.eq_false_iff.1 hp)
theorem noteStore_of_pinned (hp : f.pinned = true) (t : State) : noteStore r f t = t := if_pos hp

section
variable (h : Fires s r f t) (hdata : ∀ k ∈ [0, 1, 2], (f.port r k).isDormant = false)
include h hdata

theorem exec_red_of_pooled (hp : f.pinned = false) (c : Scope) (rel : Bool) (cop : CombineOp) {x : Addr} (hx : pairAddr f r 0 = x) :
    exec (.red c rel cop r) s = .next ((t.seeStore f r.aux).addAct f
      { node := f.node, lsid := r.aux.toNat, instr := .red c rel cop r, a := (f.port r 2).value, obj := x.obj, off := x.off, size := 4, hnd := f.hnd }) := by
  show execRed c rel cop r s = _
  rw [execRed, fireData_of_fires h _ _ _ hdata]
  simp only [noteStore_of_pooled hp, hp, hx, Bool.not_false, if_true, settleFire_some]

theorem exec_red_of_stream (hp : f.pinned = true) {c : Scope} (rel : Bool) (cop : CombineOp) {x : Addr} (hx : pairAddr f r 0 = x) {pa ca : Nat}
    (hcheck : t.redCheck f.part x c = some (.ok (pa, ca))) (hround : t.inRound f = false) :
    exec (.red c rel cop r) s = .next ((t.redAt pa ca cop (f.port r 2).value).1.leave f (t.redAt pa ca cop (f.port r 2).value).2 0) := by
  show execRed c rel cop r s = _
  rw [execRed, fireData_of_fires h _ _ _ hdata]
  simp only [noteStore_of_pinned hp, hp, hx, hcheck, hround, Bool.not_true, Bool.false_eq_true, if_false, settleFire_some]

theorem exec_red_of_round (hp : f.pinned = true) {c : Scope} (rel : Bool) (cop : CombineOp) {x : Addr} (hx : pairAddr f r 0 = x) {pa ca : Nat}
    (hcheck : t.redCheck f.part x c = some (.ok (pa, ca))) (hround : t.inRound f = true) (hroom : t.stageRoom f.part 4 = true) :
    exec (.red c rel cop r) s = .next ((t.touch f x 4 2).stage f (.act (.red c rel cop r) (f.port r 0).value (f.port r 1).value (f.port r 2).value)) := by
  show execRed c rel cop r s = _
  rw [execRed, fireData_of_fires h _ _ _ hdata]
  simp only [noteStore_of_pinned hp, hp, hx, hcheck, hround, hroom, Bool.not_true, Bool.false_eq_true, if_false, if_true, settleFire_some]

end

/-! ## REDWAIT -/

/-- A pinned REDWAIT on a complete line. -/
theorem exec_redwait_of_pinned (h : Fires s r f t) (hdata : ∀ k ∈ [0, 1], (f.port r k).isDormant = false) (hp : f.pinned = true) (acq : Bool)
    (c : Scope) {x : Addr} (hx : pairAddr f r 0 = x) {ra tier pa t1 : Nat}
    (hready : t.translate f.part { x with off := x.off - x.off % 128 + 124 } 4 .read = .ok ra tier) (hbit : bit 31 (t.readLe ra 4) = true)
    (hword : t.translate f.part x 4 .read = .ok pa t1) :
    exec (.redwait acq c r) s = .next ((t.touch f x 4).sendBoth f r (.data (BitVec.ofNat 32 (t.readLe pa 4)))) := by
  show execRedwait acq c r s = _
  rw [execRedwait, fireData_of_fires h _ _ _ hdata]
  simp only [noNote, hx, hp, hready, hbit, hword, if_true, settleFire_some]

/-- A pooled REDWAIT on a complete line, where no younger load has read the word. -/
theorem exec_redwait_of_pooled (h : Fires s r f t) (hdata : ∀ k ∈ [0, 1], (f.port r k).isDormant = false) (hp : f.pinned = false) (acq : Bool)
    (c : Scope) {x : Addr} (hx : pairAddr f r 0 = x) {ra tier v : Nat} {g : Galley}
    (hready : t.translate f.part { x with off := x.off - x.off % 128 + 124 } 4 .read = .ok ra tier) (hbit : bit 31 (t.readLe ra 4) = true)
    (hg : t.galleyOf f = some g) (hover : t.overtaken f g r.aux.toNat x 4 = none) (hload : t.galleyLoad f g r.aux.toNat x 4 = some (.ok v)) :
    exec (.redwait acq c r) s = .next ((t.noteLoad f r.aux.toNat x 4).sendBoth f r (.data (BitVec.ofNat 32 v))) := by
  show execRedwait acq c r s = _
  rw [execRedwait, fireData_of_fires h _ _ _ hdata]
  simp only [noNote, hx, hp, hready, hbit, hg, State.runOvertaken, hover, hload, Bool.false_eq_true, if_false, if_true, settleFire_some]

end

/-- Settles O41: CMB by its arrival, RED and REDWAIT by what their checks give. -/
theorem combineAndReduce : Obligations.CombineAndReduce := by
  unfold Obligations.CombineAndReduce
  refine ⟨fun cop r s f t g => ⟨fun hp => exec_cmb_of_pooled g hp cop, fun hp he => ?cmbEos, fun hp he => ⟨fun hn => ?cmbMore, fun hn => ?cmbLast⟩⟩,
    fun c rel cop r s f t h h0 h1 h2 => ⟨fun hp => ?redPooled, fun pa ca hp hcheck => ⟨fun hround => ?redNow, fun hround hroom => ?redStaged⟩⟩,
    fun acq c r s f t ra tier h h0 h1 => fun hready hbit => ⟨fun pa t1 hp hword => ?waitPinned, fun g v hp hg hover hload => ?waitPooled⟩⟩
  case cmbEos => rw [exec_cmb_of_eos g hp he, settleFire_ite]
  case cmbMore => rw [exec_cmb_of_arrival g hp he cop rfl, if_pos hn]; rfl
  case cmbLast => rw [exec_cmb_of_arrival g hp he cop rfl, if_neg (not_lt.2 hn)]; rfl
  case redPooled => exact exec_red_of_pooled h (by simp [h0, h1, h2]) hp c rel cop (pairAddr_zero f r)
  case redNow => exact exec_red_of_stream h (by simp [h0, h1, h2]) hp rel cop (pairAddr_zero f r) hcheck hround
  case redStaged => exact exec_red_of_round h (by simp [h0, h1, h2]) hp rel cop (pairAddr_zero f r) hcheck hround hroom
  case waitPinned => exact exec_redwait_of_pinned h (by simp [h0, h1]) hp acq c (pairAddr_zero f r) hready hbit hword
  case waitPooled => exact exec_redwait_of_pooled h (by simp [h0, h1]) hp acq c (pairAddr_zero f r) hready hbit hg hover hload

end Sys2Proof.Machine

namespace Sys2Proof.Machine

/-! # A pooled WINDOW beside a dropped galley (R44, R138)

Two galleys of one header, tag and sequence number, of which the first has been dropped: an issue writes the open one over the dropped one, so
what it owes the matching store counts twice. The occupancy reaches HWM, and the tile that did not throttle before the issue does so after it. -/

/-- A counter that the open galley found and that has been freed since. -/
def owedCounter : MEntry := { node := 2, tag := placedTag, state := true }

/-- A WINDOW token, a dropped galley and an open one of its tag, with one entry owed and HWM at two. -/
def twiceOwedTile : DTile :=
  { i := 0, nodes := [(0, placedHeader), (1, 0)], ready := [{ node := 1, tag := placedTag, p0 := some (.data 1) }]
    galleys := [{ hdr := 0, tag := placedTag, seq := 0, dropped := true }, { hdr := 0, tag := placedTag, seq := 0, base := [owedCounter] }]
    hwm := 2, lwm := 1 }

/-- The state with that tile, the memory of its die ready. -/
def twiceOwedState : State :=
  { (State.reset.setCtx placedCtx).setTile twiceOwedTile with site := .inst 0 1 placedTag, readyUnits := [(0, 1), (4, 1)] }

/-- A WINDOW record that sends nowhere. -/
def windowShell : Shell := ⟨3, false, none, 0, noDest, noDest⟩

/-- The ready instances of tile 0 after a step. -/
def readyAfter : Out → List Inst
  | .next s => (s.tile 0).ready
  | _ => []

/-- The token waits: the instance is still there, tried in vain. -/
theorem readyAfter_window_twiceOwed : readyAfter (exec (.window 1 windowShell) twiceOwedState) ≠ [] := by decide

/-! ## An admission leaves no instance -/

theorem DTile.addEntries_keeps {room : Nat} {l : List MEntry} {d d' : DTile} (h : DTile.addEntries room l d = some d') :
    d'.ready = d.ready ∧ d'.i = d.i := by
  induction l generalizing d with
  | nil => cases h; exact ⟨rfl, rfl⟩
  | cons e l ih =>
    rw [DTile.addEntries] at h
    split at h
    · have hrest := ih h
      exact hrest
    · cases h

theorem DTile.setCounter_keeps (d : DTile) (room : Nat) (e : MEntry) : (d.setCounter room e).ready = d.ready ∧ (d.setCounter room e).i = d.i := by
  unfold DTile.setCounter
  dsimp only
  split
  · exact ⟨rfl, rfl⟩
  · cases h : DTile.addEntries room [e] { d with entries := d.entries.filter fun x => !(x.node == e.node && x.tag == e.tag && x.state) } with
    | none => exact ⟨rfl, rfl⟩
    | some d' =>
      have hadd := DTile.addEntries_keeps h
      exact hadd

theorem State.drawWords_tiles (n : Nat) (s : State) : (State.drawWords n s).2.tiles = s.tiles := by
  induction n generalizing s with
  | zero => rfl
  | succ n ih => exact (ih s.draw.2).trans s.draw_tiles

theorem State.storeSpilled_tiles (t : Nat) (s : State) (e : MEntry) : (State.storeSpilled t s e).tiles = s.tiles :=
  (State.writeN_tiles ..).trans (State.drawWords_tiles 8 s)

theorem State.foldl_storeSpilled_tiles (t : Nat) (l : List MEntry) (s : State) : (l.foldl (State.storeSpilled t) s).tiles = s.tiles := by
  induction l generalizing s with
  | nil => rfl
  | cons e l ih => exact (ih _).trans (State.storeSpilled_tiles t s e)

/-- A tile that is kept is the one that was put in. -/
theorem State.tile_keepTile (s : State) (d : DTile) : (s.keepTile d).tile d.i = d.marks := by
  rw [State.tile, State.keepTile, State.foldl_storeSpilled_tiles]
  exact s.tile_setTile d

/-- Counting at a node leaves the ready instances of its tile. -/
theorem State.keep_ready {s : State} {f : Firing} (hp : f.pinned = false) (count : Word) (flags : BitVec 4) (hne : count ≠ 0) :
    ((s.keep f count flags).tile f.tile).ready = (s.tile f.tile).ready := by
  have hkeep : s.keep f count flags = s.holdCounter f count flags := by
    refine if_neg fun h => ?_
    rw [Bool.and_eq_true, Bool.and_eq_true, decide_eq_true_eq] at h
    exact hne h.1.2
  rw [hkeep, State.holdCounter, if_neg (Bool.eq_false_iff.1 hp)]
  dsimp only
  generalize hd : (s.tile f.tile).setCounter _ _ = d
  have hi : d.i = f.tile := by rw [← hd, (DTile.setCounter_keeps ..).2, State.tile_i]
  have htile := s.tile_keepTile d
  rw [hi] at htile
  rw [htile]
  show d.ready = _
  rw [← hd, (DTile.setCounter_keeps ..).1]

theorem State.sendBoth_nowhere (s : State) (f : Firing) (k : Tok) : s.sendBoth f windowShell k = s := rfl

/-- Refutes O31: the token of `twiceOwedState` is not admitted, although its tile does not throttle and the count is below K. -/
theorem not_windowAndRoute : ¬ Obligations.WindowAndRoute := by
  unfold Obligations.WindowAndRoute
  rintro ⟨-, hpooled, -, -⟩
  obtain ⟨hadmit, -⟩ := hpooled 1 windowShell twiceOwedState 0 1 placedTag { node := 1, tag := placedTag, p0 := some (.data 1) } 0
    { hdr := 0, tag := placedTag, seq := 0, base := [owedCounter] } (.data 1) rfl rfl rfl rfl (by decide) (by decide) (by decide) (by decide)
  obtain ⟨f, t, hexec, hp, htile, -, -, -, hready, -⟩ := hadmit rfl rfl (by decide) (by decide)
  have hfits : (twiceOwedState.tile 0).counterFits (twiceOwedState.spillRoom 0) 1 placedTag = true := by decide
  rw [if_pos hfits, State.sendBoth_nowhere] at hexec
  refine readyAfter_window_twiceOwed ?_
  rw [hexec]
  have hkeep := State.keep_ready (s := t) hp (((twiceOwedState.tile 0).counter 1 placedTag).count + 1)
    ((twiceOwedState.tile 0).counter 1 placedTag).flags (by decide)
  rw [htile] at hkeep
  exact hkeep.trans hready

end Sys2Proof.Machine

namespace Sys2Proof.Machine

/-! # What a firing of a plain record leaves alone (R32, R33, R57, R93) -/

/-! ## The frame of a firing -/

/-- Of a forme, all that the firing of its element (x, y) leaves: everything but that element, the links and the notes of the round. -/
structure SameBeyondElem (x y : Nat) (g g' : Forme) : Prop where
  cfg : g'.cfg = g.cfg
  status : g'.status = g.status
  held : g'.held = g.held
  round : g'.run.round = g.run.round
  staging : g'.run.staging = g.run.staging
  start : g'.run.start = g.run.start
  elem : ∀ x' y', (x', y') ≠ (x, y) → g'.run.core.elem x' y' = g.run.core.elem x' y'
  fifos : g'.run.core.fifos = g.run.core.fifos
  tile : g'.run.core.tile = g.run.core.tile
  back : g'.run.core.back = g.run.core.back
  cas : g'.run.core.cas = g.run.core.cas
  wins : g'.run.core.wins = g.run.core.wins
  planes : g'.run.core.planes = g.run.core.planes
  ags : g'.run.core.ags = g.run.core.ags
  route : g'.run.core.route = g.run.core.route

/-- Of the machine, all that a firing leaves beyond its own element or its own dataflow tile. -/
structure FiringFrame (f : Firing) (s t : State) : Prop where
  beyond : SameBeyondCores s t
  islands : t.islands = s.islands
  agenda : t.agenda = s.agenda
  site : t.site = s.site
  picks : t.picks = s.picks
  tiles : f.pinned = true → t.tiles = s.tiles
  otherForme : f.pinned = true → ∀ k, k ≠ f.h → t.forme? k = s.forme? k
  ownForme : f.pinned = true → ∀ g, s.forme? f.h = some g → ∃ g', t.forme? f.h = some g' ∧ SameBeyondElem f.x f.y g g'
  formes : f.pinned = false → t.formes = s.formes
  otherTile : f.pinned = false → ∀ j, j ≠ f.tile → t.tile j = s.tile j

theorem SameBeyondElem.refl (x y : Nat) (g : Forme) : SameBeyondElem x y g g :=
  ⟨rfl, rfl, rfl, rfl, rfl, rfl, fun _ _ _ => rfl, rfl, rfl, rfl, rfl, rfl, rfl, rfl, rfl⟩

theorem SameBeyondElem.trans {x y : Nat} {a b c : Forme} (h : SameBeyondElem x y a b) (k : SameBeyondElem x y b c) : SameBeyondElem x y a c :=
  ⟨k.cfg.trans h.cfg, k.status.trans h.status, k.held.trans h.held, k.round.trans h.round, k.staging.trans h.staging, k.start.trans h.start,
    fun x' y' hne => (k.elem x' y' hne).trans (h.elem x' y' hne), k.fifos.trans h.fifos, k.tile.trans h.tile, k.back.trans h.back,
    k.cas.trans h.cas, k.wins.trans h.wins, k.planes.trans h.planes, k.ags.trans h.ags, k.route.trans h.route⟩

theorem SameBeyondCores.refl (s : State) : SameBeyondCores s s := by simp [SameBeyondCores]

theorem SameBeyondCores.trans {a b c : State} (h : SameBeyondCores a b) (k : SameBeyondCores b c) : SameBeyondCores a c := by
  unfold SameBeyondCores at *
  simp only [h, k, and_self]

section
variable {f : Firing} {s t u : State}

theorem FiringFrame.refl (f : Firing) (s : State) : FiringFrame f s s :=
  ⟨SameBeyondCores.refl s, rfl, rfl, rfl, rfl, fun _ => rfl, fun _ _ _ => rfl, fun _ g hg => ⟨g, hg, SameBeyondElem.refl ..⟩, fun _ => rfl,
    fun _ _ _ => rfl⟩

theorem FiringFrame.trans (h : FiringFrame f s t) (k : FiringFrame f t u) : FiringFrame f s u where
  beyond := h.beyond.trans k.beyond
  islands := k.islands.trans h.islands
  agenda := k.agenda.trans h.agenda
  site := k.site.trans h.site
  picks := k.picks.trans h.picks
  tiles hp := (k.tiles hp).trans (h.tiles hp)
  otherForme hp n hn := (k.otherForme hp n hn).trans (h.otherForme hp n hn)
  ownForme hp g hg := by
    obtain ⟨g', hg', hsame⟩ := h.ownForme hp g hg
    obtain ⟨g'', hg'', hsame'⟩ := k.ownForme hp g' hg'
    exact ⟨g'', hg'', hsame.trans hsame'⟩
  formes hp := (k.formes hp).trans (h.formes hp)
  otherTile hp j hj := (k.otherTile hp j hj).trans (h.otherTile hp j hj)

/-- A firing may replace its own forme by one that is the same beyond its element. -/
theorem FiringFrame.of_setForme (hp : f.pinned = true) {g g' : Forme} (hg : s.forme? f.h = some g) (hh : g'.handle = g.handle)
    (hsame : SameBeyondElem f.x f.y g g') : FiringFrame f s (s.setForme g') where
  beyond := by simp [SameBeyondCores]
  islands := rfl
  agenda := rfl
  site := rfl
  picks := rfl
  tiles _ := rfl
  otherForme _ k hk := s.forme_setForme_other g' k (by rwa [hh, State.handle_of_forme? hg])
  ownForme _ g1 hg1 := by
    obtain rfl := Option.some.inj (hg.symm.trans hg1)
    refine ⟨g', ?_, hsame⟩
    rw [← State.handle_of_forme? hg, ← hh, State.forme_setForme]
  formes hf := absurd hp (Bool.eq_false_iff.1 hf)
  otherTile hf := absurd hp (Bool.eq_false_iff.1 hf)

/-- A pooled firing may replace its own tile. -/
theorem FiringFrame.of_setTile (hp : f.pinned = false) {d : DTile} (hd : d.i = f.tile) : FiringFrame f s (s.setTile d) where
  beyond := by simp [SameBeyondCores]
  islands := rfl
  agenda := rfl
  site := rfl
  picks := rfl
  tiles hf := absurd hf (Bool.eq_false_iff.1 hp)
  otherForme hf := absurd hf (Bool.eq_false_iff.1 hp)
  ownForme hf := absurd hf (Bool.eq_false_iff.1 hp)
  formes _ := rfl
  otherTile _ j hj := s.tile_setTile_other d j (by rwa [hd])

/-! ## The steps of a plain firing -/

theorem FiringFrame.setGalley (hp : f.pinned = false) (s : State) (g : Galley) : FiringFrame f s (s.setGalley f.tile g) :=
  FiringFrame.of_setTile hp (s.tile_i f.tile)

/-- A firing may change its own element. -/
theorem FiringFrame.setElem (hp : f.pinned = true) (s : State) {e : ElemState} (hx : e.x = f.x) (hy : e.y = f.y) :
    FiringFrame f s (s.setElem f.h e) := by
  unfold State.setElem
  cases hg : s.forme? f.h with
  | none => exact FiringFrame.refl f s
  | some g =>
    refine FiringFrame.of_setForme hp hg rfl ⟨rfl, rfl, rfl, rfl, rfl, rfl, fun x' y' hne => ?_, rfl, rfl, rfl, rfl, rfl, rfl, rfl, rfl⟩
    exact Core.elem_setElem_other (by rwa [hx, hy])

theorem FiringFrame.leave (f : Firing) (s : State) (st : Sticky) (steps : Nat) : FiringFrame f s (s.leave f st steps) := by
  unfold State.leave
  cases hp : f.pinned with
  | true =>
    rw [if_pos rfl]
    cases hg : s.forme? f.h with
    | none => exact FiringFrame.refl f s
    | some g => exact FiringFrame.setElem hp s (by dsimp only; split <;> exact Core.elem_x ..) (by dsimp only; split <;> exact Core.elem_y ..)
  | false =>
    rw [if_neg Bool.false_ne_true]
    cases s.galleyOf f with
    | none => exact FiringFrame.refl f s
    | some g => exact FiringFrame.setGalley hp s _

/-- Putting a token on the links changes nothing else of a core. -/
theorem SameBeyondElem.putLink (x y : Nat) (g : Forme) (l : LinkTok) :
    SameBeyondElem x y g { g with run := { g.run with core := g.run.core.putLink l } } := by
  unfold Core.putLink
  split <;> exact ⟨rfl, rfl, rfl, rfl, rfl, rfl, fun _ _ _ => rfl, rfl, rfl, rfl, rfl, rfl, rfl, rfl, rfl⟩

theorem FiringFrame.sendLink (hp : f.pinned = true) (s : State) (l : LinkTok) : FiringFrame f s (s.sendLink f.h l) := by
  unfold State.sendLink
  cases hg : s.forme? f.h with
  | none => exact FiringFrame.refl f s
  | some g => exact FiringFrame.of_setForme hp hg rfl (SameBeyondElem.putLink ..)

theorem FiringFrame.send (f : Firing) (s : State) (second : Bool) (d : BitVec 16) (k : Tok) : FiringFrame f s (s.send f second d k) := by
  unfold State.send
  split
  · exact FiringFrame.refl f s
  · cases hp : f.pinned with
    | true =>
      rw [if_pos rfl]
      cases s.forme? f.h with
      | none => exact FiringFrame.refl f s
      | some g => exact FiringFrame.sendLink hp s _
    | false =>
      rw [if_neg Bool.false_ne_true]
      cases hg : s.galleyOf f with
      | none => exact FiringFrame.refl f s
      | some g =>
        dsimp only
        split
        · exact FiringFrame.of_setTile hp (s.tile_i f.tile)
        · rw [State.output, hg]
          exact FiringFrame.setGalley hp s _

theorem FiringFrame.sendTwo (f : Firing) (s : State) (r : Shell) (a b : Tok) : FiringFrame f s (s.sendTwo f r a b) :=
  (FiringFrame.send f s false r.dsta a).trans (FiringFrame.send f _ true r.dstb b)

theorem FiringFrame.sendBoth (f : Firing) (s : State) (r : Shell) (k : Tok) : FiringFrame f s (s.sendBoth f r k) :=
  FiringFrame.sendTwo f s r k k

theorem FiringFrame.emitComp (f : Firing) (s : State) (r : Shell) (c : Option Comp) : FiringFrame f s (s.emitComp f r c) := by
  cases c with
  | none => exact FiringFrame.sendBoth f s r .dormant
  | some c => exact (FiringFrame.leave f s c.st c.steps).trans (FiringFrame.sendBoth f _ r _)

/-! ## The set of a firing -/

theorem FiringFrame.gatherElem {h x y : Nat} {ports : List Nat} (e : s.gatherElem h x y ports = some (f, t)) :
    FiringFrame f s t ∧ f.pinned = true ∧ f.h = h ∧ f.x = x ∧ f.y = y := by
  obtain ⟨g, rt, hg, -, -, htake⟩ := State.gatherElem_eq_some e
  have hf : f = (s.takeAt g x y ports rt).1 := congrArg Prod.fst htake
  have ht : t = s.setForme (g.taken x y ports rt) := congrArg Prod.snd htake
  have hh := State.handle_of_forme? hg
  have hfh : f.h = h := hf ▸ hh
  have hp : f.pinned = true := hf ▸ rfl
  have hx : f.x = x := hf ▸ rfl
  have hy : f.y = y := hf ▸ rfl
  rw [ht]
  refine ⟨FiringFrame.of_setForme (g := g) hp (by rw [hfh, hg]) rfl ?_, hp, hfh, hx, hy⟩
  rw [hx, hy]
  exact ⟨rfl, rfl, rfl, rfl, rfl, rfl, fun x' y' hne => Forme.taken_elem_other hne, rfl, rfl, rfl, rfl, rfl, rfl, rfl, rfl⟩

theorem FiringFrame.gatherInst {n node : Nat} {tag : Tag} (e : s.gatherInst n node tag = some (f, t)) :
    FiringFrame f s t ∧ f.pinned = false ∧ f.tile = n := by
  obtain ⟨q, -, hthis⟩ := Option.bind_eq_some_iff.1 e
  obtain ⟨h, g, -, -, rfl, rfl⟩ := State.gatherThis_eq_some hthis
  exact ⟨FiringFrame.of_setTile rfl (s.issueInst_frame n q).1, rfl, rfl⟩

end

/-- A firing gathered at an element. -/
theorem State.gather_of_elem {s : State} {h x y : Nat} (hs : s.site = .elem h x y) (r : Shell) :
    s.gather r = s.gatherElem h x y (expectedPorts r) := by rw [State.gather, hs]

theorem State.gather_of_inst {s : State} {n node : Nat} {tag : Tag} (hs : s.site = .inst n node tag) (r : Shell) :
    s.gather r = s.gatherInst n node tag := by rw [State.gather, hs]

theorem FiringFrame.gather {s : State} {r : Shell} {f : Firing} {t : State} (e : s.gather r = some (f, t)) : FiringFrame f s t := by
  cases hs : s.site with
  | none => rw [State.gather, hs] at e; cases e
  | elem h x y => exact (FiringFrame.gatherElem (State.gather_of_elem hs r ▸ e)).1
  | inst n node tag => exact (FiringFrame.gatherInst (State.gather_of_inst hs r ▸ e)).1

/-! ## Plain records -/

/-- A plain record never waits with a set that gives a value, and stays in the frame. -/
theorem exec_of_plainRecord_frame {i : Instr} {r : Shell} (hs : i.shell? = some r) (hp : plainRecord i = true) (s : State) :
    ∃ value, exec i s = s.fire r value ∧ ∀ f t, ∃ u, value f t = some u ∧ FiringFrame f t u := by
  unfold plainRecord at hp
  rw [Bool.or_eq_true] at hp
  rcases hp with hg | hp
  · split at hg
    · rename_i g hg'
      obtain ⟨c, hc⟩ := exec_of_group_le_five hs hg' (of_decide_eq_true hg)
      exact ⟨_, hc s, fun f t => ⟨_, rfl, FiringFrame.emitComp f t r _⟩⟩
    · cases hg
  · cases i with
    | copy q => cases hs; exact ⟨_, exec_copy r s, fun f t => ⟨_, rfl, FiringFrame.sendBoth f t r _⟩⟩
    | join q => cases hs; exact ⟨_, exec_join r s, fun f t => ⟨_, rfl, FiringFrame.sendBoth f t r _⟩⟩
    | nullout q => cases hs; exact ⟨_, exec_nullout r s, fun f t => ⟨_, rfl, FiringFrame.sendBoth f t r _⟩⟩
    | sink q => cases hs; exact ⟨_, exec_sink r s, fun f t => ⟨t, rfl, FiringFrame.refl f t⟩⟩
    | steer nul q =>
      cases hs
      refine ⟨_, exec_steer nul r s, fun f t => ?_⟩
      cases f.pred <;> cases nul
      · exact ⟨_, rfl, FiringFrame.send f t true r.dstb _⟩
      · exact ⟨_, rfl, FiringFrame.sendTwo f t r _ _⟩
      · exact ⟨_, rfl, FiringFrame.send f t false r.dsta _⟩
      · exact ⟨_, rfl, FiringFrame.sendTwo f t r _ _⟩
    | gate nul q =>
      cases hs
      refine ⟨_, exec_gate nul r s, fun f t => ⟨_, rfl, ?_⟩⟩
      split
      · exact FiringFrame.sendBoth f t r _
      · split
        · exact FiringFrame.sendBoth f t r _
        · exact FiringFrame.refl f t
    | _ => cases hp

/-- A plain record whose set is no count mismatch stays in the frame of its firing. -/
theorem FiringFrame.exec {i : Instr} {r : Shell} {s u : State} {f : Firing} {t : State} (hs : i.shell? = some r) (hp : plainRecord i = true)
    (g : s.gather r = some (f, t)) (m : ∀ k, f.verdict ≠ .mismatch k) (e : exec i s = .next u) : FiringFrame f s u := by
  obtain ⟨value, hvalue, hframe⟩ := exec_of_plainRecord_frame hs hp s
  have hgather := FiringFrame.gather g
  rw [hvalue] at e
  cases hv : f.verdict with
  | mismatch k => exact absurd hv (m k)
  | eos =>
    rw [fire_of_eos g hv] at e
    cases e
    exact hgather.trans (FiringFrame.sendBoth f t r _)
  | null =>
    rw [fire_of_null g hv] at e
    cases e
    exact hgather.trans (FiringFrame.sendBoth f t r _)
  | value =>
    obtain ⟨w, hw, hsame⟩ := hframe f t
    rw [fire_of_fires ⟨g, hv⟩, hw] at e
    cases e
    exact hgather.trans hsame

/-- Settles O12: the set, what is left and what is sent each stay in the frame of the firing. -/
theorem computeFrame : Obligations.ComputeFrame := by
  unfold Obligations.ComputeFrame
  intro i r s u f t hp hs g m e
  have hframe := FiringFrame.exec hs hp g m e
  refine ⟨hframe.beyond, hframe.islands, hframe.agenda, hframe.site, hframe.picks, fun h x y hsite => ?elem, fun n node tag hsite => ?inst⟩
  case elem =>
    obtain ⟨-, hpin, rfl, rfl, rfl⟩ := FiringFrame.gatherElem (State.gather_of_elem hsite r ▸ g)
    refine ⟨hframe.tiles hpin, hframe.otherForme hpin, fun g hg _ => ?_⟩
    obtain ⟨g', hg', h⟩ := hframe.ownForme hpin g hg
    exact ⟨g', hg', h.cfg, h.status, h.held, h.round, h.staging, h.start, h.elem, h.fifos, h.tile, h.back, h.cas, h.wins, h.planes, h.ags,
      h.route⟩
  case inst =>
    obtain ⟨-, hpool, rfl⟩ := FiringFrame.gatherInst (State.gather_of_inst hsite r ▸ g)
    exact ⟨hframe.formes hpool, hframe.otherTile hpool⟩

end Sys2Proof.Machine

namespace Sys2Proof.Machine

/-! # Events of a dataflow tile (R42, R44, R142, R144, R300, R326) -/

/-! ## Lists -/

theorem mem_insertBy_iff {α : Type} {lt : α → α → Bool} {x a : α} {l : List α} : x ∈ insertBy lt a l ↔ x = a ∨ x ∈ l := by
  induction l with
  | nil => simp [insertBy]
  | cons b l ih =>
    unfold insertBy
    split
    · simp
    · rw [List.mem_cons, ih, List.mem_cons]
      exact or_left_comm

/-- A sort keeps the elements. -/
theorem mem_sortBy_iff {α : Type} {lt : α → α → Bool} {x : α} {l : List α} : x ∈ sortBy lt l ↔ x ∈ l := by
  have hfold : ∀ acc, x ∈ l.foldl (fun acc a => insertBy lt a acc) acc ↔ x ∈ acc ∨ x ∈ l := by
    induction l with
    | nil => simp
    | cons a l ih =>
      intro acc
      rw [List.foldl_cons, ih, mem_insertBy_iff, List.mem_cons]
      constructor
      · rintro ((h | h) | h)
        · exact .inr (.inl h)
        · exact .inl h
        · exact .inr (.inr h)
      · rintro (h | h | h)
        · exact .inl (.inr h)
        · exact .inl (.inl h)
        · exact .inr h
  exact (hfold []).trans (by simp)

/-- What each step of a fold keeps, the fold keeps. -/
theorem foldl_keeps {σ α β : Type} {f : σ → α → σ} {m : σ → β} (h : ∀ s a, m (f s a) = m s) (l : List α) (s : σ) : m (l.foldl f s) = m s := by
  induction l generalizing s with
  | nil => rfl
  | cons a l ih => rw [List.foldl_cons, ih, h]

theorem leastBy_isSome {α : Type} {lt : α → α → Bool} {l : List α} {a : α} (h : a ∈ l) : ∃ b, leastBy lt l = some b := by
  cases l with
  | nil => cases h
  | cons c l => exact ⟨_, rfl⟩

/-- The one element below all others is the least. -/
theorem leastBy_eq_of_unique {α : Type} {m : α → Nat} {l : List α} {a : α} (ha : a ∈ l) (hleast : ∀ b ∈ l, b = a ∨ m a < m b) :
    leastBy (fun a b => decide (m a < m b)) l = some a := by
  obtain ⟨b, hb⟩ := leastBy_isSome (lt := fun a b => decide (m a < m b)) ha
  have hle := leastBy_key_le (key := m) (fun a b => decide_eq_true_iff) hb a ha
  rcases hleast b (leastBy_mem hb) with rfl | hlt
  · exact hb
  · exact absurd hlt (not_lt.2 hle)

/-! ## The clock, while instances are dropped -/

@[simp] theorem State.writePieces_clock (s : State) (l : List (Nat × Nat)) (b : List Byte) : (s.writePieces l b).clock = s.clock := by
  induction l generalizing s b with
  | nil => rfl
  | cons c l ih => exact ih _ _

theorem State.returnNow_clock {s u : State} {p : Nat} {h : QHold} (e : s.returnNow p h = some u) : u.clock = s.clock := by
  unfold State.returnNow at e
  split at e
  · cases e
  · cases e
    simp
  · cases e; rfl

theorem State.returnHold_clock (s : State) (p : Nat) (h : QHold) : (s.returnHold p h).clock = s.clock := by
  unfold State.returnHold
  split
  · rfl
  · split
    · rename_i e; exact State.returnNow_clock e
    · rfl
    · rfl

theorem State.stopWaiting_clock (s : State) (c : Nat) : (s.stopWaiting c).clock = s.clock := by
  unfold State.stopWaiting
  split
  · rfl
  · split
    · rfl
    · split
      · rfl
      · split <;> rfl

theorem State.dropWaits_clock (s : State) (t : Nat) (l : List Galley) : (s.dropWaits t l).clock = s.clock :=
  foldl_keeps (m := State.clock) State.stopWaiting_clock _ _

theorem State.giveBits_clock (s : State) (t : Nat) (l : List Galley) : (s.giveBits t l).clock = s.clock := by
  unfold State.giveBits
  dsimp only
  split <;> rfl

theorem State.clock_ite {c : Prop} [Decidable c] {s u : State} {n : Nat} (h : s.clock = n) (k : u.clock = n) : (if c then s else u).clock = n := by
  split
  · exact h
  · exact k

theorem State.dropGalley_clock (s : State) (t : Nat) (g : Galley) : (s.dropGalley t g).clock = s.clock := by
  unfold State.dropGalley
  dsimp only
  rw [State.setTile_clock, foldl_keeps (m := State.clock)]
  · have hreturn : ∀ (s : State) (x : Galley), (x.holds.reverse.foldl (fun s h => s.returnHold (s.unitPart t) h) s).clock = s.clock :=
      fun s x => foldl_keeps (m := State.clock) (fun s h => s.returnHold_clock _ h) _ s
    have hdrop := fun l => (State.dropWaits_clock (l.foldl
      (fun s (x : Galley) => x.holds.reverse.foldl (fun s h => s.returnHold (s.unitPart t) h) s) s) t ((s.tile t).fallen g)).trans
        (foldl_keeps (m := State.clock) hreturn l s)
    exact State.clock_ite (hdrop _) ((State.setIsland_clock ..).trans (hdrop _))
  · intro s x
    split <;> rfl

/-! ## Acceptance -/

/-- A token with the age of its acceptance. -/
def PTok.aged (k : PTok) (clock : Nat) : PTok := { k with age := if k.age = 0 then clock else k.age }

section
variable {s : State} {t : Nat} {k : PTok} {l : List PTok}

theorem execMatchTokenAccept_head (h : (s.tile t).inbox = k :: l) :
    exec (.matchTokenAccept t 0) s = settle s (s.accept (s.setTile { s.tile t with inbox := l }) t (s.tile t).held k) := by
  show execMatchTokenAccept t 0 s = _
  have hfirst : k.first [] = true := rfl
  simp only [execMatchTokenAccept, State.matchAccept, h, List.drop_zero, List.take_zero, hfirst, if_true, List.nil_append]

/-- A token whose context, record or galley is not there is a stray. -/
theorem State.accept_of_gone {taken : State} {older : List PTok} (h : s.ctx? (tagCtx k.tag) = none ∨
      (∃ x, s.ctx? (tagCtx k.tag) = some x ∧ x.part ≠ s.unitPart t) ∨ (s.tile t).record? k.node.toNat = none ∨
      (s.tile t).header? k.node.toNat = none) :
    s.accept taken t older k = (taken.stray (s.unitPart t) 1 (t % 32) (k.aged s.clock)).map fun u => u.setTile (u.tile t).spent := by
  unfold State.accept
  dsimp only
  split
  · rename_i x i n hx hi hn
    obtain ⟨y, hy, hpart⟩ : ∃ y, s.ctx? (tagCtx k.tag) = some y ∧ y.part ≠ s.unitPart t := by
      rcases h with h | h | h | h
      · rw [h] at hx; cases hx
      · exact h
      · rw [h] at hi; cases hi
      · rw [h] at hn; cases hn
    obtain rfl := Option.some.inj (hx.symm.trans hy)
    split
    · rfl
    · have hother : (x.part != s.unitPart t) = true := bne_iff_ne.2 hpart
      rw [hother, Bool.true_or, if_pos rfl]
      rfl
  · rfl

/-- A token of an open instance joins the matching store. -/
theorem State.accept_of_open {taken : State} {older : List PTok} {x : Ctx} {i : Instr} {r : Shell} {n : Nat} {g : Galley}
    (hx : s.ctx? (tagCtx k.tag) = some x) (hi : (s.tile t).record? k.node.toNat = some i) (hn : (s.tile t).header? k.node.toNat = some n)
    (hr : i.shell? = some r) (hpart : x.part = s.unitPart t) (hport : k.port.toNat ∈ expectedPorts r) (hg : (s.tile t).galley? n k.tag = some g) :
    s.accept taken t older k = (taken.storeIn t g i r (k.aged s.clock)).map fun u => u.setTile (u.tile t).spent := by
  have hin : (x.part != s.unitPart t || !((expectedPorts r).contains k.port.toNat)) = false := by
    simp [hpart, hport]
  unfold State.accept
  dsimp only
  simp only [hx, hi, hn, hr, hin, hg, Bool.false_eq_true, if_false]
  rfl

end

/-- A token that the store takes, where the spill area can be written. -/
theorem State.storeIn_of_done {s : State} {t : Nat} {g g' : Galley} {i : Instr} {r : Shell} {k : PTok} {d : DTile} {st : Sticky}
    (hg' : g' = { g with inputs := if k.src == .inst g.hdr g.tag then g.inputs else g.inputs ++ [k], last := s.clock
                         heard := if k.src == .inst g.hdr g.tag then g.heard else s.clock })
    (hstore : ((s.setGalley t g').tile t).store ((s.setGalley t g').spillRoom t) i r k = .done d st)
    (hwait : (s.setGalley t g').spillWaits d = false) :
    s.storeIn t g i r k = some ((s.setGalley t g').keepTile (d.setGalley { g' with sticky := g.sticky ||| st })) := by
  unfold State.storeIn
  dsimp only
  rw [← hg', hstore]
  dsimp only
  rw [hwait, if_neg Bool.false_ne_true, hg']

/-! ## The spill area -/

/-- A refill brings back the oldest spilled entry, and only below the low-water mark. -/
theorem DTile.refill_eq_some {d d' : DTile} (h : d.refill = some d') : d.occ < d.low ∧ ∃ e ∈ d.entries, e.spilled = true ∧
    (∀ x ∈ d.entries, x.spilled = true → e.age ≤ x.age) ∧ d'.entries = d.entries.map fun x => if x == e then { x with spilled := false } else x := by
  unfold DTile.refill at h
  split at h
  · rename_i hlow
    obtain ⟨e, he, rfl⟩ := Option.map_eq_some_iff.1 h
    obtain ⟨hmem, hspill⟩ := List.mem_filter.1 (leastBy_mem he)
    refine ⟨of_decide_eq_true hlow, e, hmem, hspill, fun x hx hxs => ?_, rfl⟩
    have hle := leastBy_key_le (key := fun e : MEntry => [e.age, e.node, e.tag.toNat]) (fun a b => keyLt_iff _ _) he x
      (List.mem_filter.2 ⟨hx, hxs⟩)
    exact head_le_of_not_lt (not_lt.2 hle)
  · cases h

theorem execSpillRefill_of_ready {s : State} {t : Nat} {d : DTile} (hready : s.homeReady (t / 32) 0 (t / 32) = true)
    (h : (s.tile t).refill = some d) : exec (.spillRefill t) s = .next (s.setTile d) := by
  show execSpillRefill t s = _
  rw [execSpillRefill, if_pos hready, h]
  rfl

/-! ## Commits -/

/-- The records of an instance in record order. -/
def Galley.ordered (g : Galley) : List Act := sortBy (fun (a b : Act) => decide (a.node < b.node)) g.acts

/-- The range entries that a commit marks. -/
def State.markRanges (t : Nat) (ps : List Prepared) (u : State) : State :=
  ps.foldl (fun v q => if q.act.obj = 0 then v else v.useXl (t / 32) (64 + t % 32) (v.unitPart t) q.act.addr) u

section
variable {s u : State} {t : Nat} {g : Galley} {ps : List Prepared} {node : Nat} {e : Failed}

theorem execGalleyCommit_of_done (hg : (s.tile t).committing = some g) (hps : s.prepAll (s.unitPart t) (tagCtx g.tag) g.ordered = some (.ok ps))
    (hu : s.commitNow t g ps = some (.ok u)) : exec (.galleyCommit t) s = .next (State.markRanges t ps u) := by
  rw [Galley.ordered] at hps
  show execGalleyCommit t s = _
  simp only [execGalleyCommit, State.galleyCommit, hg, hps, hu]
  rfl

theorem execGalleyCommit_of_failed (hg : (s.tile t).committing = some g)
    (hfail : s.prepAll (s.unitPart t) (tagCtx g.tag) g.ordered = some (.error (node, e)) ∨
      ∃ ps, s.prepAll (s.unitPart t) (tagCtx g.tag) g.ordered = some (.ok ps) ∧ s.commitNow t g ps = some (.error (node, e)))
    (hu : s.faultGalley t g node e.cls 0 (.access e.va e.size e.kind) = some u) : exec (.galleyCommit t) s = .next u := by
  rw [Galley.ordered] at hfail
  show execGalleyCommit t s = _
  rcases hfail with hfail | ⟨ps, hps, hfail⟩
  · simp only [execGalleyCommit, State.galleyCommit, hg, hfail, hu, settle_some]
  · simp only [execGalleyCommit, State.galleyCommit, hg, hps, hfail, hu, settle_some]

end

section
variable {a : Act}

theorem State.prepAct_of_store (hs : isStore a.instr = true) (s : State) (p c : Nat) : s.prepAct p c a = s.prepAccess p a a.size 1 .write := by
  unfold State.prepAct
  cases h : a.instr with
  | st | sti | scatter => rfl
  | _ => rw [h] at hs; cases hs

/-- A store as the first memory record of a commit: its bytes, and its token. -/
theorem Done.memory_of_store (hs : isStore a.instr = true) (g : Galley) (s : State) (st : Sticky) (pa : Nat) :
    Done.memory g { s := s, st := st } { act := a, pa := pa } =
      { s := s.writeN pa (leBytes a.size a.a.toNat), outs := g.answers a 0, st := st } := by
  obtain ⟨node, lsid, i, x, y, z, obj, off, size, hnd⟩ := a
  cases i with
  | st | sti | scatter => rfl
  | _ => cases hs

theorem isMemory_of_store (hs : isStore a.instr = true) : isMemory a.instr = true := by rw [isMemory, hs, Bool.true_or]

/-- The commit of an instance whose only record is a store. -/
theorem State.commitNow_of_store {s : State} {t : Nat} {g : Galley} (hs : isStore a.instr = true) (hholds : g.holds = []) (pa : Nat) :
    s.commitNow t g [{ act := a, pa := pa }] =
      (((((s.writeN pa (leBytes a.size a.a.toNat)).writeKregs g).closeGalley t g).foldStatus (tagCtx g.tag) g.sticky).sendOuts t g
        (g.outs ++ g.answers a 0)).map .ok := by
  have hmem := isMemory_of_store hs
  have hkeep : [({ act := a, pa := pa } : Prepared)].filter (fun p => isMemory p.act.instr) = [{ act := a, pa := pa }] := by simp [hmem]
  have hnone : [({ act := a, pa := pa } : Prepared)].filter (fun p => !(isMemory p.act.instr)) = [] := by simp [hmem]
  have hstores : s.storesDone t g [{ act := a, pa := pa }] =
      { s := ((s.writeN pa (leBytes a.size a.a.toNat)).writeKregs g).closeGalley t g, outs := g.answers a 0, st := g.sticky } := by
    unfold State.storesDone
    dsimp only
    have hsort : sortBy (fun (a b : Prepared) => decide (a.act.lsid < b.act.lsid)) [{ act := a, pa := pa }] = [{ act := a, pa := pa }] := rfl
    rw [hkeep, hsort, List.foldl_cons, List.foldl_nil, Done.memory_of_store hs]
  unfold State.commitNow
  dsimp only
  rw [hstores, hnone]
  show (Done.finish t g _).map _ = _
  rw [Done.finish, hholds]
  rfl

end

/-! ## Pre-emption -/

theorem DTile.spent_savedPools (d : DTile) : d.spent.savedPools = d.savedPools := by
  unfold DTile.spent
  split
  · split <;> rfl
  · rfl

/-- The tokens that a pre-emption saves: the inputs of the instances it dropped, and the held tokens. -/
theorem DTile.poolOut_saves (d : DTile) (c clock : Nat) (opened : List Galley) : ∃ p : SavedPool,
    (d.poolOut c opened clock).savedPools = d.savedPools ++ [p] ∧ p.ctx = c ∧ p.entries = (d.entries.filter fun e => tagCtx e.tag == c) ∧
      p.ready = (d.ready.filter fun i => tagCtx i.tag == c) ∧
      ∀ k, k ∈ p.toks ↔ (∃ x ∈ d.galleys, x.dropped = true ∧ (∃ o ∈ opened, o.hdr = x.hdr ∧ o.tag = x.tag ∧ o.seq = x.seq) ∧ k ∈ x.inputs) ∨
        (k ∈ d.held ∧ tagCtx k.tag = c) := by
  refine ⟨_, by rw [DTile.poolOut, DTile.spent_savedPools], rfl, rfl, rfl, fun k => ?_⟩
  simp only [List.mem_append, mem_sortBy_iff, List.mem_flatMap, List.mem_filter, Bool.and_eq_true, List.any_eq_true, beq_iff_eq, and_assoc]

theorem execPooledPreempt_of_free {s : State} {t c : Nat} {x : Ctx} (hx : s.ctx? c = some x) (hpart : x.part = s.unitPart t)
    (hnone : ∀ p ∈ (s.tile t).savedPools, p.ctx ≠ c)
    (hredo : ∀ g ∈ (s.tile t).openOf c, ((s.tile t).redone.filter fun r => r == (g.hdr, g.tag)).length < 3) {u : State}
    (hu : (match leastBy (fun (a b : Galley) => decide (a.seq < b.seq)) ((s.tile t).openOf c) with
      | some g => (s.dropGalley t g).giveBits t (((s.dropGalley t g).tile t).droppedFrom c g.seq)
      | none => s) = u) :
    exec (.pooledPreempt t c) s = .next (u.setTile ((u.tile t).poolOut c ((s.tile t).openOf c) u.clock)) := by
  have hsaved : ((s.tile t).savedPools.any fun p => p.ctx == c) = false := by simpa using hnone
  have hoften : ((s.tile t).openOf c).find? (fun g => decide (3 ≤ ((s.tile t).redone.filter fun r => r == (g.hdr, g.tag)).length)) = none := by
    simpa using hredo
  subst hu
  show execPooledPreempt t c s = _
  simp only [execPooledPreempt, State.poolOut, hx, hpart, hsaved, hoften, bne_self_eq_false, Bool.or_false, Bool.false_eq_true, if_false]
  rfl

/-- Settles O52: each event of a tile by the branch it takes. -/
theorem tileEvents : Obligations.TileEvents := by
  unfold Obligations.TileEvents
  refine ⟨fun s t k l hin => ⟨fun hgone u hu => ?stray, fun x i r n g u hx hi hn hr hpart hport hg hu => ?joins⟩,
    fun s t g i r k d st hstore hwait => State.storeIn_of_done rfl hstore hwait,
    fun s t d hready h => ⟨execSpillRefill_of_ready hready h, DTile.refill_eq_some h⟩,
    fun s t g hg => ⟨(List.mem_filter.1 (leastBy_mem hg)).2, fun ps u hps hu => execGalleyCommit_of_done hg hps hu,
      fun node e u hfail hu => execGalleyCommit_of_failed hg hfail hu, fun a pa tier u hacts hs hholds hxl hu => ?store⟩,
    fun s t => rfl, fun d c clock opened => DTile.poolOut_saves d c clock opened,
    fun s t c x hx hpart hnone hredo => ⟨fun g hg hleast => ?oldest, fun hopen => ?idle⟩⟩
  case stray =>
    rw [execMatchTokenAccept_head hin, State.accept_of_gone hgone]
    exact congrArg (fun o => settle s (o.map fun u => u.setTile (u.tile t).spent)) hu
  case joins =>
    rw [execMatchTokenAccept_head hin, State.accept_of_open hx hi hn hr hpart hport hg]
    exact congrArg (fun o => settle s (o.map fun u => u.setTile (u.tile t).spent)) hu
  case store =>
    have hprep : s.prepAll (s.unitPart t) (tagCtx g.tag) g.ordered = some (.ok [{ act := a, pa := pa }]) := by
      have hone : g.ordered = [a] := by rw [Galley.ordered, hacts]; rfl
      rw [hone, State.prepAll, State.prepAct_of_store hs, State.prepAccess, hxl]
      rfl
    refine (execGalleyCommit_of_done hg hprep ?_).trans rfl
    rw [State.commitNow_of_store hs hholds, hu]
    rfl
  case oldest =>
    have hclock : ((s.dropGalley t g).giveBits t (((s.dropGalley t g).tile t).droppedFrom c g.seq)).clock = s.clock := by
      rw [State.giveBits_clock, State.dropGalley_clock]
    rw [execPooledPreempt_of_free hx hpart hnone hredo rfl, leastBy_eq_of_unique hg hleast]
    dsimp only
    rw [hclock]
  case idle =>
    rw [execPooledPreempt_of_free hx hpart hnone hredo rfl, hopen]
    simp only [leastBy, DTile.poolOut, List.any_nil, Bool.and_false, List.filter_false, List.flatMap_nil, List.map_nil, List.append_nil]
    simp [sortBy]

end Sys2Proof.Machine

namespace Sys2Proof.Machine

/-! # A host write on a memory that is not canonical (R336, R376)

The statement asks no canonical memory. In a list with two cells of one address a write of zero, which takes the first cell away, shows the
second: the byte of REPORT that the host writes back as it reads changes. -/

/-- The first byte of REPORT. -/
def reportPlace : Nat := bringUp + 0x3F00000

/-- A memory that holds the first byte of REPORT twice, first as zero. -/
def doubledMemory : Memory := [(reportPlace, 0), (reportPlace, 5)]

/-- The module after power-up with that memory, the memory of die 0 ready. -/
def doubledState : State := { State.reset with mem := doubledMemory, readyUnits := [(0, 1), (4, 1)] }

theorem reportByte_iff (a : Nat) : reportByte a = true ↔ reportPlace ≤ a ∧ a < reportPlace + 128 := by
  unfold reportByte reportPlace
  generalize bringUp + 0x3F00000 = p
  rw [Bool.and_eq_true, decide_eq_true_eq, decide_eq_true_eq]

theorem reportByte_reportPlace : reportByte reportPlace = true := by
  rw [reportByte_iff]
  generalize reportPlace = p
  omega

theorem read_doubledMemory : doubledMemory.read reportPlace = 0 := if_pos rfl

/-- No lease stands behind an address. -/
theorem places_doubledState (a : Nat) : doubledState.places a = [a] := rfl

/-- A host write at the doubled byte writes back the zero that it reads, and uncovers the other cell. -/
theorem hostWrite_doubledState : (doubledState.hostWrite reportPlace [0]).mem = [(reportPlace, 5)] := by
  have hback : (([0] : List Byte).zipIdx.map fun e => if reportByte (reportPlace + e.2) then Memory.read doubledState.mem (reportPlace + e.2) else e.1) =
      [0] := by
    simp only [List.zipIdx_cons, List.zipIdx_nil, List.map_cons, List.map_nil, Nat.add_zero, reportByte_reportPlace, if_true]
    exact congrArg (· :: []) read_doubledMemory
  rw [State.hostWrite, hback, State.writeN, places_doubledState]
  simp [doubledState, doubledMemory, Memory.writeN, Memory.write]

/-- Refutes O56: REPORT does not keep its bytes in `doubledState`, whose memory is not canonical. -/
theorem not_registerEvents : ¬ Obligations.RegisterEvents := by
  unfold Obligations.RegisterEvents
  rintro ⟨-, -, -, hhost⟩
  obtain ⟨-, -, hreport⟩ := hhost doubledState 0 1 0 (by decide) (by decide)
  have hkept := (hreport reportPlace [0]).2 reportPlace reportByte_reportPlace
  rw [hostWrite_doubledState] at hkept
  have hfive : Memory.read [(reportPlace, 5)] reportPlace = 5 := if_pos rfl
  have hzero : Memory.read doubledState.mem reportPlace = 0 := read_doubledMemory
  rw [hfive, hzero] at hkept
  exact absurd hkept (by decide)

end Sys2Proof.Machine

namespace Sys2Proof.Machine

/-! # Integer division (R60, Table 3-7) -/

section
variable (lt : LaneType) (sat : Bool) (r : Shell) (s : State)

theorem exec_div : exec (.div lt sat r) s = s.compute r (intComp lt sat fun x y _ => divInt x y) := rfl
theorem exec_rem : exec (.rem lt r) s = s.compute r (intComp lt false fun x y _ => remInt x y) := rfl
theorem exec_divu : exec (.divu lt r) s = s.compute r (laneComp lt fun w x y _ => if y = 0 then 2 ^ w - 1 else x / y) := rfl
theorem exec_remu : exec (.remu lt r) s = s.compute r (laneComp lt fun _ x y _ => if y = 0 then x else x % y) := rfl

end

/-- The signed value of a lane lies in the lane's range, so .SAT leaves it alone. -/
theorem fitLane_sat_toInt (sat : Bool) {w : Nat} (x : BitVec w) : fitLane sat w x.toInt = x := by
  have hlo : -2 ^ (w - 1) ≤ x.toInt := BitVec.le_toInt x
  have hhi : x.toInt < 2 ^ (w - 1) := BitVec.toInt_lt
  have hclamp : max (-2 ^ (w - 1)) (min (2 ^ (w - 1) - 1) x.toInt) = x.toInt := by omega
  rw [fitLane, hclamp, ite_self, BitVec.ofInt_toInt]

theorem toInt_eq_zero_iff {w : Nat} (x : BitVec w) : x.toInt = 0 ↔ x = 0 := by
  rw [← BitVec.toInt_zero (w := w), BitVec.toInt_inj, BitVec.ofNat_eq_ofNat]

/-- A zero divisor gives −1, which is a lane of ones. -/
theorem fitLane_divInt_zero (sat : Bool) {w : Nat} (hw : 0 < w) (x : Int) : fitLane sat w (divInt x 0) = BitVec.allOnes w := by
  have hones : (BitVec.allOnes w).toInt = -1 := by rw [BitVec.toInt_allOnes, if_pos hw]
  rw [divInt, if_pos rfl, ← hones, fitLane_sat_toInt]

/-- The least number divided by −1 is the one quotient beyond the lane's range. -/
theorem fitLane_divInt_overflow (sat : Bool) {w : Nat} (hw : 0 < w) :
    fitLane sat w (divInt (BitVec.intMin w).toInt (BitVec.allOnes w).toInt) = if sat then BitVec.intMax w else BitVec.intMin w := by
  have hquot : divInt (BitVec.intMin w).toInt (BitVec.allOnes w).toInt = 2 ^ (w - 1) := by
    rw [BitVec.toInt_allOnes, if_pos hw, BitVec.toInt_intMin_of_pos hw, divInt, if_neg (by decide), Int.tdiv_neg, Int.tdiv_one, neg_neg]
  rw [hquot, fitLane]
  have hpos : (0 : Int) < 2 ^ (w - 1) := by positivity
  cases sat with
  | true =>
    have hclamp : max (-2 ^ (w - 1)) (min (2 ^ (w - 1) - 1) (2 ^ (w - 1))) = (2 ^ (w - 1) - 1 : Int) := by omega
    rw [if_pos rfl, if_pos rfl, hclamp, ← BitVec.toInt_intMax, BitVec.ofInt_toInt]
  | false =>
    rw [if_neg Bool.false_ne_true, if_neg Bool.false_ne_true]
    refine BitVec.eq_of_toNat_eq ?_
    rw [BitVec.toNat_ofInt, BitVec.intMin, BitVec.toNat_twoPow]
    norm_cast

/-- Every other quotient lies in the lane's range. -/
theorem fitLane_divInt_of_ne (sat : Bool) {w : Nat} {x y : BitVec w} (hy : y ≠ 0) (hxy : ¬(x = BitVec.intMin w ∧ y = BitVec.allOnes w)) :
    fitLane sat w (divInt x.toInt y.toInt) = BitVec.ofInt w (Int.tdiv x.toInt y.toInt) := by
  have hquot : (x.sdiv y).toInt = Int.tdiv x.toInt y.toInt :=
    BitVec.toInt_sdiv_of_ne_or_ne x y (by rw [BitVec.neg_one_eq_allOnes]; exact not_and_or.1 hxy)
  rw [divInt, if_neg (mt (toInt_eq_zero_iff y).1 hy), ← hquot, fitLane_sat_toInt, BitVec.ofInt_toInt]

/-- The signed quotient of a lane (Table 3-7). -/
theorem fitLane_divInt (sat : Bool) {w : Nat} (hw : 0 < w) (x y : BitVec w) : fitLane sat w (divInt x.toInt y.toInt) =
    if y = 0 then BitVec.allOnes w else if x = BitVec.intMin w ∧ y = BitVec.allOnes w then (if sat then BitVec.intMax w else BitVec.intMin w)
    else BitVec.ofInt w (Int.tdiv x.toInt y.toInt) := by
  split
  case isTrue hy => rw [(toInt_eq_zero_iff y).2 hy, fitLane_divInt_zero sat hw]
  case isFalse hy =>
    split
    case isTrue hxy => rw [hxy.1, hxy.2, fitLane_divInt_overflow sat hw]
    case isFalse hxy => exact fitLane_divInt_of_ne sat hy hxy

/-- The signed remainder of a lane: it has the sign of the dividend, and a zero divisor leaves the dividend (Table 3-7). -/
theorem fitLane_remInt {w : Nat} (x y : BitVec w) :
    fitLane false w (remInt x.toInt y.toInt) = if y = 0 then x else BitVec.ofInt w (Int.tmod x.toInt y.toInt) := by
  rw [remInt, ← Int.tmod_def]
  simp only [toInt_eq_zero_iff]
  split
  · exact fitLane_toInt x
  · rfl

/-- The unsigned quotient and remainder of a lane (Table 3-7). -/
theorem ofNat_divu {w : Nat} (x y : BitVec w) :
    BitVec.ofNat w (if y.toNat = 0 then 2 ^ w - 1 else x.toNat / y.toNat) = if y = 0 then BitVec.allOnes w else x / y := by
  simp only [BitVec.toNat_eq (x := y), BitVec.ofNat_eq_ofNat, BitVec.toNat_zero]
  split
  · exact BitVec.eq_of_toNat_eq (by simp)
  · rw [← BitVec.toNat_udiv, BitVec.ofNat_toNat, BitVec.setWidth_eq]

theorem ofNat_remu {w : Nat} (x y : BitVec w) :
    BitVec.ofNat w (if y.toNat = 0 then x.toNat else x.toNat % y.toNat) = if y = 0 then x else x % y := by
  simp only [BitVec.toNat_eq (x := y), BitVec.ofNat_eq_ofNat, BitVec.toNat_zero]
  split
  · rw [BitVec.ofNat_toNat, BitVec.setWidth_eq]
  · rw [← BitVec.toNat_umod, BitVec.ofNat_toNat, BitVec.setWidth_eq]

/-- Settles O16: each record computes its row of Table 3-7 on the numbers of the lanes. -/
theorem integerDivision : Obligations.IntegerDivision := by
  unfold Obligations.IntegerDivision
  intro lt sat r s f t h ho
  refine ⟨laneAnswer_of_laneComp h ho (exec_div ..) fun w x y z hw => ?div,
    laneAnswer_of_intComp h ho (exec_rem ..) fun w x y _ => fitLane_remInt x y,
    laneAnswer_of_laneComp h ho (exec_divu ..) fun _ x y _ _ => ofNat_divu x y,
    laneAnswer_of_laneComp h ho (exec_remu ..) fun _ x y _ _ => ofNat_remu x y⟩
  case div => rw [ofNat_exactLane hw, fitLane_divInt sat hw]

end Sys2Proof.Machine

namespace Sys2Proof.Machine

/-! # Shifts, bit counts and bit fields of lanes (R59, R100 to R102) -/

section
variable (lt : LaneType) (pos : BitVec 5) (len : BitVec 6) (r : Shell) (s : State)

theorem exec_shl : exec (.shl lt r) s = s.compute r (laneComp lt fun w x y _ => if w ≤ y then 0 else x * 2 ^ y % 2 ^ w) := rfl
theorem exec_shr : exec (.shr lt r) s = s.compute r (laneComp lt fun w x y _ => if w ≤ y then 0 else x / 2 ^ y) := rfl
theorem exec_sar : exec (.sar lt r) s =
    s.compute r (laneComp lt fun w x y _ => wrapLane w (signedLane w x / 2 ^ min y (w - 1))) := rfl
theorem exec_fshl : exec (.fshl lt r) s = s.compute r (laneComp lt (funnel true)) := rfl
theorem exec_fshr : exec (.fshr lt r) s = s.compute r (laneComp lt (funnel false)) := rfl
theorem exec_popc : exec (.popc lt r) s = s.compute r (laneComp lt fun w x _ _ => popLane w x) := rfl
theorem exec_clz : exec (.clz lt r) s = s.compute r (laneComp lt fun w x _ _ => clzLane w x) := rfl
theorem exec_brev : exec (.brev lt r) s = s.compute r (laneComp lt fun w x _ _ => revLane w x) := rfl
theorem exec_bfx (sx : Bool) : exec (.bfx lt pos len sx r) s =
    s.compute r (laneComp lt fun w x _ _ => bfxLane pos.toNat len.toNat sx w x) := rfl
theorem exec_bfi : exec (.bfi lt pos len r) s = s.compute r (laneComp lt fun _ x y _ => bfiLane pos.toNat len.toNat x y) := rfl

end

/-! ## Shifts -/

theorem ofNat_shl {w : Nat} (x y : BitVec w) :
    BitVec.ofNat w (if w ≤ y.toNat then 0 else x.toNat * 2 ^ y.toNat % 2 ^ w) = if w ≤ y.toNat then 0 else x <<< y.toNat := by
  split
  · rfl
  · exact BitVec.eq_of_toNat_eq (by simp [Nat.shiftLeft_eq])

theorem ofNat_shr {w : Nat} (x y : BitVec w) :
    BitVec.ofNat w (if w ≤ y.toNat then 0 else x.toNat / 2 ^ y.toNat) = if w ≤ y.toNat then 0 else x >>> y.toNat := by
  split
  · rfl
  · rw [← Nat.shiftRight_eq_div_pow, ← BitVec.toNat_ushiftRight, BitVec.ofNat_toNat, BitVec.setWidth_eq]

/-- A signed lane divided by a power of two, rounded down, is its arithmetic shift. -/
theorem ofNat_sar {w : Nat} (hw : 0 < w) (x : BitVec w) (n : Nat) :
    BitVec.ofNat w (wrapLane w (signedLane w x.toNat / 2 ^ n)) = x.sshiftRight n := by
  rw [ofNat_wrapLane, signedLane_toNat hw, BitVec.sshiftRight, Int.shiftRight_eq_div_pow]
  push_cast
  rfl

/-- Two lanes joined, as a number. -/
theorem toNat_append_eq {w : Nat} (x y : BitVec w) : (x ++ y).toNat = x.toNat * 2 ^ w + y.toNat := by
  rw [BitVec.toNat_append, ← Nat.shiftLeft_add_eq_or_of_lt y.isLt, Nat.shiftLeft_eq]

theorem ofNat_funnel_left {w : Nat} (x y z : BitVec w) :
    BitVec.ofNat w (funnel true w x.toNat y.toNat z.toNat) = ((x ++ y) <<< min z.toNat w).extractLsb' w w := by
  apply BitVec.eq_of_toNat_eq
  rw [BitVec.extractLsb'_toNat, BitVec.toNat_shiftLeft, toNat_append_eq, Nat.shiftRight_eq_div_pow, Nat.shiftLeft_eq, Nat.pow_add,
    Nat.mod_mul_right_div_self, Nat.mod_mod, BitVec.toNat_ofNat]
  exact Nat.mod_mod _ _

theorem ofNat_funnel_right {w : Nat} (x y z : BitVec w) :
    BitVec.ofNat w (funnel false w x.toNat y.toNat z.toNat) = ((x ++ y) >>> min z.toNat w).extractLsb' 0 w := by
  apply BitVec.eq_of_toNat_eq
  rw [BitVec.extractLsb'_toNat, BitVec.toNat_ushiftRight, toNat_append_eq, Nat.shiftRight_zero, Nat.shiftRight_eq_div_pow, BitVec.toNat_ofNat]
  exact Nat.mod_mod _ _

/-! ## Counts and the reversal -/

/-- POPC counts the bits that are set. -/
theorem popLane_eq_countP (w x : Nat) : popLane w x = (List.range w).countP fun k => x.testBit k := by
  induction w generalizing x with
  | zero => rfl
  | succ w ih =>
    have hlow : x % 2 = if x.testBit 0 then 1 else 0 := by
      simp only [Nat.testBit_zero, decide_eq_true_eq]; split <;> omega
    rw [popLane, ih, hlow, List.range_succ_eq_map, List.countP_cons, List.countP_map, Nat.add_comm]
    simp only [Function.comp_def, Nat.succ_eq_add_one, Nat.testBit_add_one]

/-- The search for the leading one from bit `n` on, after the bits above it. -/
theorem clzAuxRec_eq_clzLane {w : Nat} (x : BitVec w) (n : Nat) (hn : n < w) :
    x.clzAuxRec n = BitVec.ofNat w (w - 1 - n + clzLane (n + 1) x.toNat) := by
  have hbit (k : Nat) : (x.toNat / 2 ^ k % 2 = 1) = (x.getLsbD k = true) := by
    rw [BitVec.getLsbD, Nat.testBit_eq_decide_div_mod_eq, decide_eq_true_eq]
  induction n with
  | zero =>
    rw [BitVec.clzAuxRec_zero, clzLane]
    simp only [hbit]
    split
    · rfl
    · congr 1; simp only [clzLane]; omega
  | succ n ih =>
    rw [BitVec.clzAuxRec_succ, clzLane]
    simp only [hbit]
    split
    · rfl
    · rw [ih (by omega)]; congr 1; omega

theorem ofNat_clzLane {w : Nat} (hw : 0 < w) (x : BitVec w) : BitVec.ofNat w (clzLane w x.toNat) = x.clz := by
  rw [BitVec.clz, clzAuxRec_eq_clzLane x (w - 1) (by omega), Nat.sub_self, Nat.zero_add, Nat.sub_add_cancel hw]

theorem revLane_lt (w x : Nat) : revLane w x < 2 ^ w := by
  induction w generalizing x with
  | zero => exact Nat.one_pos
  | succ w ih =>
    have hrest := ih (x / 2)
    have hlow : x % 2 * 2 ^ w ≤ 1 * 2 ^ w := Nat.mul_le_mul_right _ (by omega)
    rw [revLane, Nat.pow_succ]
    omega

/-- BREV puts bit `w - 1 - k` at `k`. -/
theorem testBit_revLane (w x k : Nat) : (revLane w x).testBit k = (decide (k < w) && x.testBit (w - 1 - k)) := by
  induction w generalizing x k with
  | zero => rw [revLane, Nat.zero_testBit]; simp
  | succ w ih =>
    rw [revLane, Nat.mul_comm, Nat.testBit_two_pow_mul_add _ (revLane_lt w _)]
    rcases lt_trichotomy k w with hk | rfl | hk
    · rw [if_pos hk, ih, ← Nat.testBit_add_one, decide_eq_true hk, decide_eq_true (by omega), show w - 1 - k + 1 = w + 1 - 1 - k by omega]
    · rw [if_neg (lt_irrefl _), Nat.sub_self]; simp
    · rw [if_neg (by omega), decide_eq_false (by omega), Bool.false_and]
      exact Nat.testBit_lt_two_pow (by have : 2 ^ 1 ≤ 2 ^ (k - w) := Nat.pow_le_pow_right (by decide) (by omega); omega)

theorem ofNat_revLane {w : Nat} (x : BitVec w) : BitVec.ofNat w (revLane w x.toNat) = x.reverse := by
  refine BitVec.eq_of_getLsbD_eq fun k hk => ?_
  rw [BitVec.getLsbD_ofNat, testBit_revLane, BitVec.getLsbD_reverse, BitVec.getMsbD, decide_eq_true hk, Bool.true_and, Bool.true_and,
    Bool.true_and, BitVec.getLsbD]

/-! ## Fields -/

/-- BFX takes the field as a number of `len` bits. -/
theorem bfx_field_eq {w : Nat} (pos len : Nat) (x : BitVec w) : x.toNat / 2 ^ pos % 2 ^ len = (x.extractLsb' pos len).toNat := by
  rw [BitVec.extractLsb'_toNat, Nat.shiftRight_eq_div_pow]

theorem ofNat_bfxLane_zero {w : Nat} (pos len : Nat) (x : BitVec w) :
    BitVec.ofNat w (bfxLane pos len false w x.toNat) = (x.extractLsb' pos len).setWidth w := by
  rw [← BitVec.ofNat_toNat, ← bfx_field_eq]
  rfl

theorem ofNat_bfxLane_sign {w : Nat} (pos : Nat) {len : Nat} (hlen : 0 < len) (x : BitVec w) :
    BitVec.ofNat w (bfxLane pos len true w x.toNat) = (x.extractLsb' pos len).signExtend w := by
  rw [bfxLane, if_pos rfl, ofNat_wrapLane, bfx_field_eq, signedLane_toNat hlen, BitVec.signExtend]

/-- The bits of a number with a field put in. -/
theorem testBit_setBits (lo w n v k : Nat) :
    (setBits lo w n v).testBit k = if lo ≤ k ∧ k < lo + w then v.testBit (k - lo) else n.testBit k := by
  have hlow : n % 2 ^ lo < 2 ^ lo := Nat.mod_lt _ (Nat.two_pow_pos lo)
  have hfield : v % 2 ^ w * 2 ^ lo + n % 2 ^ lo < 2 ^ (lo + w) := by
    have hv : v % 2 ^ w + 1 ≤ 2 ^ w := Nat.mod_lt _ (Nat.two_pow_pos w)
    calc v % 2 ^ w * 2 ^ lo + n % 2 ^ lo < (v % 2 ^ w + 1) * 2 ^ lo := by rw [Nat.add_mul]; omega
      _ ≤ 2 ^ w * 2 ^ lo := Nat.mul_le_mul_right _ hv
      _ = 2 ^ (lo + w) := by rw [Nat.mul_comm, Nat.pow_add]
  have hsum : setBits lo w n v = 2 ^ (lo + w) * (n / 2 ^ (lo + w)) + (2 ^ lo * (v % 2 ^ w) + n % 2 ^ lo) := by
    unfold setBits; ring
  rw [hsum, Nat.testBit_two_pow_mul_add _ (by rwa [Nat.mul_comm (2 ^ lo)]), Nat.testBit_two_pow_mul_add _ hlow]
  rcases lt_or_ge k lo with hk | hk
  · rw [if_pos (by omega), if_pos hk, if_neg (by omega), Nat.testBit_mod_two_pow, decide_eq_true hk, Bool.true_and]
  · rcases lt_or_ge k (lo + w) with hk' | hk'
    · rw [if_pos hk', if_neg (by omega), if_pos ⟨hk, hk'⟩, Nat.testBit_mod_two_pow, decide_eq_true (by omega), Bool.true_and]
    · rw [if_neg (by omega), if_neg (by omega), Nat.testBit_div_two_pow, Nat.sub_add_cancel hk']

/-- BFI as masks: the field is cut out of port 0 and the low bits of port 1 are put there. -/
theorem ofNat_bfiLane {w : Nat} (pos len : Nat) (x y : BitVec w) : BitVec.ofNat w (bfiLane pos len x.toNat y.toNat) =
    (x &&& ~~~((BitVec.ofNat w (2 ^ len - 1)) <<< pos)) ||| ((y &&& BitVec.ofNat w (2 ^ len - 1)) <<< pos) := by
  refine BitVec.eq_of_getLsbD_eq fun k hk => ?_
  rw [BitVec.getLsbD_ofNat, bfiLane, testBit_setBits]
  simp only [BitVec.getLsbD_or, BitVec.getLsbD_and, BitVec.getLsbD_not, BitVec.getLsbD_shiftLeft,
    BitVec.getLsbD_ofNat, Nat.testBit_two_pow_sub_one, hk, decide_true, Bool.true_and]
  have hsub : k - pos < w := by omega
  rcases lt_or_ge k pos with hpos | hpos
  · simp [hpos, Nat.not_le.2 hpos, BitVec.getLsbD]
  · by_cases hlen : k - pos < len
    · have hin : pos ≤ k ∧ k < pos + len := ⟨hpos, by omega⟩
      simp [hin, hlen, hsub, Nat.not_lt.2 hpos, BitVec.getLsbD]
    · have hout : ¬(pos ≤ k ∧ k < pos + len) := by omega
      simp [hout, hlen, BitVec.getLsbD]

/-- Settles O17: each record computes on the numbers of the lanes what its clause says of their bits. A field that reaches beyond the lane
is cut off alike on both sides, so of R102 only a length that is not 0 is used, for the sign of BFX. -/
theorem shiftsAndFields : Obligations.ShiftsAndFields := by
  unfold Obligations.ShiftsAndFields
  intro lt pos len r s f t h ho hlen _
  exact ⟨laneAnswer_of_laneComp h ho (exec_shl ..) fun _ x y _ _ => ofNat_shl x y,
    laneAnswer_of_laneComp h ho (exec_shr ..) fun _ x y _ _ => ofNat_shr x y,
    laneAnswer_of_laneComp h ho (exec_sar ..) fun _ x _ _ hw => ofNat_sar hw x _,
    laneAnswer_of_laneComp h ho (exec_fshl ..) fun _ x y z _ => ofNat_funnel_left x y z,
    laneAnswer_of_laneComp h ho (exec_fshr ..) fun _ x y z _ => ofNat_funnel_right x y z,
    laneAnswer_of_laneComp h ho (exec_popc ..) fun _ x _ _ _ => congrArg _ (popLane_eq_countP _ x.toNat),
    laneAnswer_of_laneComp h ho (exec_clz ..) fun _ x _ _ hw => ofNat_clzLane hw x,
    laneAnswer_of_laneComp h ho (exec_brev ..) fun _ x _ _ _ => ofNat_revLane x,
    laneAnswer_of_laneComp h ho (exec_bfx ..) fun _ x _ _ _ => ofNat_bfxLane_zero _ _ x,
    laneAnswer_of_laneComp h ho (exec_bfx ..) fun _ x _ _ _ => ofNat_bfxLane_sign _ hlen x,
    laneAnswer_of_laneComp h ho (exec_bfi ..) fun _ x y _ _ => ofNat_bfiLane _ _ x y⟩

end Sys2Proof.Machine

namespace Sys2Proof.Machine

/-! # FP32: the special cases and the records of group 0x3 (R50 to R57, R107 to R111) -/

/-! ## Operands as results (R108) -/

/-- The sign and the magnitude of an FP32 encoding make it up. -/
theorem signBit_add_magnitude {x : Nat} (hx : x < 2 ^ 32) : Fmt.fp32.signBit (x / 2 ^ 31 % 2 == 1) + x % 2 ^ 31 = x := by
  simp only [Fmt.signBit, Fmt.fp32, beq_iff_eq]
  split <;> omega

/-- An FP32 encoding that is no NaN: an infinity, or a finite value that is zero just when its magnitude is. -/
theorem decode_fp32_of_not_nan {x : Nat} (h : (Fmt.fp32.decode x).isNan = false) :
    let n := x / 2 ^ 31 % 2 == 1
    (Fmt.fp32.decode x = .inf n ∧ x % 2 ^ 31 = Fmt.fp32.infBits) ∨ ∃ m e, Fmt.fp32.decode x = .fin n m e ∧ (m = 0 → x % 2 ^ 31 = 0) := by
  revert h
  simp only [Fmt.decode, Fmt.fp32, Fmt.infBits, Bool.false_and, Bool.not_false, Bool.true_and, Bool.false_eq_true, if_false, beq_iff_eq]
  split
  case isTrue hex =>
    split
    case isTrue hfrac => exact fun _ => .inl ⟨rfl, by omega⟩
    case isFalse => simp [FVal.isNan]
  case isFalse =>
    split
    case isTrue hex => exact fun _ => .inr ⟨_, _, rfl, fun hm => by omega⟩
    case isFalse => exact fun _ => .inr ⟨_, _, rfl, fun hm => by omega⟩

/-- An operand that is no NaN is its own encoding as a result. -/
theorem encodeVal_fp32_of_not_nan {x : Nat} (hx : x < 2 ^ 32) (h : (Fmt.fp32.decode x).isNan = false) : Fmt.fp32.encodeVal x = x := by
  have hparts := signBit_add_magnitude hx
  rcases decode_fp32_of_not_nan h with ⟨hinf, hmag⟩ | ⟨m, e, hfin, hzero⟩
  · simp only [Fmt.encodeVal, hinf]
    rwa [hmag] at hparts
  · simp only [Fmt.encodeVal, hfin, beq_iff_eq]
    split
    case isTrue hm => rwa [hzero hm, Nat.add_zero] at hparts
    case isFalse => rfl

/-- FMIN and FMAX of two NaN (R108). -/
theorem minmax_of_nan_nan {f : Fmt} {x y : Nat} (hx : (f.decode x).isNan = true) (hy : (f.decode y).isNan = true) (mx : Bool) :
    (f.minmax mx x y).bits = f.canonicalNan := by simp [Fmt.minmax, hx, hy]

/-- FMIN and FMAX of one NaN answer with the other operand (R108). -/
theorem minmax_of_nan_left {f : Fmt} {x y : Nat} (hx : (f.decode x).isNan = true) (hy : (f.decode y).isNan = false) (mx : Bool) :
    (f.minmax mx x y).bits = f.encodeVal y := by simp [Fmt.minmax, hx, hy]

theorem minmax_of_nan_right {f : Fmt} {x y : Nat} (hx : (f.decode x).isNan = false) (hy : (f.decode y).isNan = true) (mx : Bool) :
    (f.minmax mx x y).bits = f.encodeVal x := by simp [Fmt.minmax, hx, hy]

/-- FABS and FNEG of an operand that is no NaN give its magnitude a sign and set nothing (R108). -/
theorem signOp_fp32_of_not_nan {x : Nat} (h : (Fmt.fp32.decode x).isNan = false) (flip : Bool) :
    Fmt.fp32.signOp flip x = ⟨Fmt.fp32.signBit (flip && !(x / 2 ^ 31 % 2 == 1)) + x % 2 ^ 31, 0⟩ := by
  rcases decode_fp32_of_not_nan h with ⟨hinf, hmag⟩ | ⟨m, e, hfin, hzero⟩
  · simp only [Fmt.signOp, hinf, hmag]
    rfl
  · simp only [Fmt.signOp, hfin, beq_iff_eq]
    split
    case isTrue hm => rw [hzero hm]
    case isFalse => rfl

/-! ## Division, products and roots (R52) -/

/-- A finite value that is not zero, divided by zero. -/
theorem div_by_zero (f : Fmt) (m : Rnd) (k : Nat) (sa sb : Bool) {i : Nat} (hi : i ≠ 0) (e e' : Int) :
    f.div m k (.fin sa i e) (.fin sb 0 e') = ⟨f.infinity (sa != sb), stDZ⟩ := by
  simp [Fmt.div, hi]

/-- A product that is invalid makes a fused sum invalid, whatever is added to it. -/
theorem fma_flags_of_invalid {a b : FVal} (h : (a.mul b).2 = true) (f : Fmt) (m : Rnd) (k : Nat) (c : FVal) :
    (f.fma m k a b c).flags &&& stNV = stNV := by
  have habsorb : ∀ x y : Sticky, (x ||| y ||| stNV) &&& stNV = stNV := by decide
  simp only [Fmt.fma, Fmt.sum, h, Bool.true_or, nvIf, if_true]
  exact habsorb _ _

theorem sqrt_of_zero (f : Fmt) (m : Rnd) (k : Nat) (n : Bool) (e : Int) : f.sqrt m k (.fin n 0 e) = ⟨f.signBit n, 0⟩ := rfl

theorem decode_fp32_negZero : Fmt.fp32.decode 0x80000000 = .fin true 0 (-149) := by decide

/-! ## The estimate of a reciprocal root (R109) -/

theorem frsqe_two : frsqe 0x40000000 = ⟨0x3F350000, stNX⟩ := by decide +kernel
theorem frsqe_nine : frsqe 0x41100000 = ⟨0x3EAAB000, stNX⟩ := by decide +kernel

/-! ## The rounding LFSR (R55) -/

/-- A step shifts out one bit, and when that was the only one it shifts a bit in. -/
theorem lfsrStep_ne_zero {q : BitVec 16} (hq : q ≠ 0) : lfsrStep q ≠ 0 := by
  intro hzero
  obtain ⟨hshift, -⟩ := BitVec.or_eq_zero_iff.1 hzero
  have hhalf : q.toNat / 2 = 0 := by
    have htoNat := congrArg BitVec.toNat hshift
    rwa [BitVec.toNat_ushiftRight, Nat.shiftRight_one] at htoNat
  have hone : q = 1 := by
    have hne : q.toNat ≠ 0 := fun h => hq (BitVec.eq_of_toNat_eq h)
    exact BitVec.eq_of_toNat_eq (show q.toNat = 1 by omega)
  rw [hone] at hzero
  exact absurd hzero (by decide)

/-- Settles O21: each case by the lemma of its operation. -/
theorem floatSpecialCases : Obligations.FloatSpecialCases := by
  unfold Obligations.FloatSpecialCases
  refine ⟨fun m k sa sb i e e' hi => div_by_zero _ m k sa sb hi e e', fun m k sa sb e c => fma_flags_of_invalid rfl _ m k c, fun m k => ?sqrt,
    fun mx x y _ _ hx hy => minmax_of_nan_nan hx hy mx, fun mx x y hlx hly hx hy => ⟨?left, ?right⟩, fun x hlx hx => ⟨?abs, ?neg⟩,
    frsqe_two, frsqe_nine, by decide, fun q => lfsrStep_ne_zero⟩
  case sqrt => rw [decode_fp32_negZero, sqrt_of_zero]; rfl
  case left => rw [minmax_of_nan_left hx hy, encodeVal_fp32_of_not_nan hly hy]
  case right => rw [minmax_of_nan_right hy hx, encodeVal_fp32_of_not_nan hly hy]
  case abs => rw [signOp_fp32_of_not_nan hx]; simp [Fmt.signBit]
  case neg =>
    have hflip : Fmt.fp32.signBit (true && !(x / 2 ^ 31 % 2 == 1)) + x % 2 ^ 31 = (x + 2 ^ 31) % 2 ^ 32 := by
      simp only [Fmt.signBit, Fmt.fp32, Bool.true_and, Bool.not_eq_true', beq_eq_false_iff_ne]
      split <;> omega
    rw [signOp_fp32_of_not_nan hx, hflip]

/-! ## The records of group 0x3 (R107 to R111) -/

section
variable (m : Rnd) (r : Shell) (s : State)

theorem exec_fadd : exec (.fadd m r) s = s.compute r fun o => fpComp m o fun k => Fmt.fp32.add m k o.fa o.fb := rfl
theorem exec_fsub : exec (.fsub m r) s = s.compute r fun o => fpComp m o fun k => Fmt.fp32.sub m k o.fa o.fb := rfl
theorem exec_fmul : exec (.fmul m r) s = s.compute r fun o => fpComp m o fun k => Fmt.fp32.mul m k o.fa o.fb := rfl
theorem exec_ffma : exec (.ffma m r) s = s.compute r fun o => fpComp m o fun k => Fmt.fp32.fma m k o.fa o.fb o.fc := rfl
theorem exec_fdiv : exec (.fdiv m r) s = s.compute r fun o => fpComp m o fun k => Fmt.fp32.div m k o.fa o.fb := rfl
theorem exec_fsqrt : exec (.fsqrt m r) s = s.compute r fun o => fpComp m o fun k => Fmt.fp32.sqrt m k o.fa := rfl
theorem exec_fexp2 : exec (.fexp2 m r) s = s.compute r fun o => fpComp m o fun k => fexp2 m k o.a.value.toNat := rfl
theorem exec_flog2 : exec (.flog2 m r) s = s.compute r fun o => fpComp m o fun k => flog2 m k o.a.value.toNat := rfl
theorem exec_fsin (cos : Bool) : exec (.fsin cos m r) s = s.compute r fun o => fpComp m o fun k => fsin cos m k o.a.value.toNat := rfl
theorem exec_frnd (x : Bool) : exec (.frnd m x r) s = s.compute r fun o => fpComp m o fun k => frnd m x k o.a.value.toNat := rfl
theorem exec_fmin : exec (.fmin r) s = s.compute r fun o => fpExact o (Fmt.fp32.minmax false o.a.value.toNat o.b.value.toNat) := rfl
theorem exec_fmax : exec (.fmax r) s = s.compute r fun o => fpExact o (Fmt.fp32.minmax true o.a.value.toNat o.b.value.toNat) := rfl
theorem exec_fabs : exec (.fabs r) s = s.compute r fun o => fpExact o (Fmt.fp32.signOp false o.a.value.toNat) := rfl
theorem exec_fneg : exec (.fneg r) s = s.compute r fun o => fpExact o (Fmt.fp32.signOp true o.a.value.toNat) := rfl
theorem exec_frcpe : exec (.frcpe r) s = s.compute r fun o => fpExact o (frcpe o.a.value.toNat) := rfl
theorem exec_frsqe : exec (.frsqe r) s = s.compute r fun o => fpExact o (frsqe o.a.value.toNat) := rfl

end

section
variable {i : Instr} {r : Shell} {s : State} {f : Firing} {t : State}

/-- A rounded record answers with its result at the rounding number of the firing. -/
theorem floatAnswer_of_fpComp (h : Fires s r f t) (ho : Whole (t.opnds f r)) {m : Rnd} {c : Opnds → Nat → FRes} {g : Nat → FRes}
    (hi : exec i s = s.compute r fun o => fpComp m o (c o)) (hg : c (t.opnds f r) = g) : FloatAnswer i m r s f t g :=
  hg ▸ floatAnswer_of_whole h ho hi (fpComp_eq ..)

/-- A record that no mode rounds answers with its result and steps nothing. -/
theorem floatAnswer_of_fpExact (h : Fires s r f t) (ho : Whole (t.opnds f r)) {c : Opnds → FRes} {v : FRes}
    (hi : exec i s = s.compute r fun o => fpExact o (c o)) (hv : c (t.opnds f r) = v) : FloatAnswer i .rne r s f t fun _ => v :=
  hv ▸ floatAnswer_of_whole h ho hi rfl

end

/-- Settles O20: each record computes its clause on the decoded operands. -/
theorem floatArithmetic : Obligations.FloatArithmetic := by
  unfold Obligations.FloatArithmetic
  intro m x cos r s f t h ho a b c u v
  exact ⟨floatAnswer_of_fpComp h ho (exec_fadd ..) rfl, floatAnswer_of_fpComp h ho (exec_fsub ..) rfl,
    floatAnswer_of_fpComp h ho (exec_fmul ..) rfl, floatAnswer_of_fpComp h ho (exec_ffma ..) rfl,
    floatAnswer_of_fpComp h ho (exec_fdiv ..) rfl, floatAnswer_of_fpComp h ho (exec_fsqrt ..) rfl,
    floatAnswer_of_fpComp h ho (exec_fexp2 ..) rfl, floatAnswer_of_fpComp h ho (exec_flog2 ..) rfl, floatAnswer_of_fpComp h ho (exec_fsin ..) rfl,
    floatAnswer_of_fpComp h ho (exec_frnd ..) rfl, floatAnswer_of_fpExact h ho (exec_fmin ..) rfl, floatAnswer_of_fpExact h ho (exec_fmax ..) rfl,
    floatAnswer_of_fpExact h ho (exec_fabs ..) rfl, floatAnswer_of_fpExact h ho (exec_fneg ..) rfl, floatAnswer_of_fpExact h ho (exec_frcpe ..) rfl,
    floatAnswer_of_fpExact h ho (exec_frsqe ..) rfl⟩

end Sys2Proof.Machine

namespace Sys2Proof.Laws.Coding

/-! # Decoding of encoded records (R69, R80) -/

/-- Every record by its own law; an event is not well-formed. -/
theorem decodeOp_encodeParts (i : Instr) : Statement i := by
  cases i with
  | add => exact add _ _ _ | sub => exact sub _ _ _ | mul => exact mul _ _ _ | mulh => exact mulh _ _ | mulhu => exact mulhu _ _
  | mad => exact mad _ _ _ | div => exact div _ _ _ | divu => exact divu _ _ | rem => exact rem _ _ | remu => exact remu _ _ | min => exact min _ _
  | max => exact max _ _ | minu => exact minu _ _ | maxu => exact maxu _ _ | abs => exact abs _ _ _ | neg => exact neg _ _ _ | andW => exact andW _
  | orW => exact orW _ | xorW => exact xorW _ | andn => exact andn _ | lut3 => exact lut3 _ _ | maj => exact maj _ | shl => exact shl _ _
  | shr => exact shr _ _ | sar => exact sar _ _ | fshl => exact fshl _ _ | fshr => exact fshr _ _ | popc => exact popc _ _ | clz => exact clz _ _
  | brev => exact brev _ _ | bfx => exact bfx _ _ _ _ _ | bfi => exact bfi _ _ _ _ | icmp => exact icmp _ _ | icmpv => exact icmpv _ _ _
  | fcmp => exact fcmp _ _ | fcmpv => exact fcmpv _ _ | sel => exact sel _ | fclass => exact fclass _ | pand => exact pand _ | por => exact por _
  | pxor => exact pxor _ | pnot => exact pnot _ | pconst => exact pconst _ _ | ptest => exact ptest _ _ | fadd => exact fadd _ _
  | fsub => exact fsub _ _ | fmul => exact fmul _ _ | ffma => exact ffma _ _ | fmin => exact fmin _ | fmax => exact fmax _ | fabs => exact fabs _
  | fneg => exact fneg _ | fdiv => exact fdiv _ _ | fsqrt => exact fsqrt _ _ | frcpe => exact frcpe _ | frsqe => exact frsqe _
  | fexp2 => exact fexp2 _ _ | flog2 => exact flog2 _ _ | fsin => exact fsin _ _ _ | frnd => exact frnd _ _ _ | hadd => exact hadd _ _ _
  | hsub => exact hsub _ _ _ | hmul => exact hmul _ _ _ | hfma => exact hfma _ _ _ | hmin => exact hmin _ _ | hmax => exact hmax _ _
  | habs => exact habs _ _ | hneg => exact hneg _ _ | hdot2 => exact hdot2 _ _ _ | hcmp => exact hcmp _ _ _ | hsel => exact hsel _ _
  | hmask => exact hmask _ _ | cvtif => exact cvtif _ _ _ _ | cvtfi => exact cvtfi _ _ _ _ | cvtff => exact cvtff _ _ _ | packh => exact packh _ _ _
  | unpkh => exact unpkh _ _ _ | cvtf8 => exact cvtf8 _ _ _ _ _ | cvt8f => exact cvt8f _ _ _ | twenc => exact twenc _ _ | twdec => exact twdec _ _ _
  | scq => exact scq _ _ | scdq => exact scdq _ _ _ | copy => exact copy _ | steer => exact steer _ _ | merge => exact merge _ _
  | gate => exact gate _ _ | sink => exact sink _ | join => exact join _ | const => exact const _ _ | repeatN => exact repeatN _ _ _
  | seq => exact seq _ _ | nullout => exact nullout _ | eosout => exact eosout _ | eoswait => exact eoswait _ _ | loopin => exact loopin _ _ _ _
  | nexti => exact nexti _ _ | loopout => exact loopout _ _ | call => exact call _ _ _ | ret => exact ret _ _ | gettag => exact gettag _ _
  | settag => exact settag _ _ _ | window => exact window _ _ | route => exact route _ _ | unroute => exact unroute _ _ | ctxnew => exact ctxnew _
  | ctxfree => exact ctxfree _ | nextg => exact nextg _ | ld => exact ld _ _ _ _ _ | st => exact st _ _ _ _ | ldi => exact ldi _ _ _ _
  | sti => exact sti _ _ _ | kld => exact kld _ _ _ | kst => exact kst _ _ _ | gather => exact gather _ _ _ _ | scatter => exact scatter _ _ _
  | sopen => exact sopen _ _ _ _ _ | sclose => exact sclose _ _ | sseek => exact sseek _ _ | pref => exact pref _ _ | tld => exact tld _ _ _ _ _ _
  | tst => exact tst _ _ _ _ _ | pshift => exact pshift _ _ _ _ _ | pbound => exact pbound _ _ _ _ _ _ | pact => exact pact _ _ _ _
  | pmark => exact pmark _ _ | prule => exact prule _ _ | phalo => exact phalo _ _ _ _ | pflip => exact pflip _ _ | pcnt => exact pcnt _ _
  | cmb => exact cmb _ _ | aadd => exact aadd _ _ _ _ _ | amin => exact amin _ _ _ _ _ | amax => exact amax _ _ _ _ _ | aand => exact aand _ _ _ _ _
  | aor => exact aor _ _ _ _ _ | axor => exact axor _ _ _ _ _ | axchg => exact axchg _ _ _ _ _ | acas => exact acas _ _ _ _ _
  | afadd => exact afadd _ _ _ _ _ | red => exact red _ _ _ _ | redwait => exact redwait _ _ _ | lockacq => exact lockacq _ _ _ _
  | lockrel => exact lockrel _ _ _ _ | fence => exact fence _ _ _ _ | bararr => exact bararr _ _ _ | bardrop => exact bardrop _ _ _
  | barwait => exact barwait _ _ _ | waitw => exact waitw _ _ _ _ _ | wakew => exact wakew _ _ _ | roundend => exact roundend _
  | quiesce => exact quiesce _ | handover => exact handover _ _ _ | ordtok => exact ordtok _ _ _ | event => exact event _ _ | yield => exact yield _
  | mma => exact mma _ _ _ _ | mmas => exact mmas _ _ _ _ _ _ _ | mdrain => exact mdrain _ _ _ _ _ | mzero => exact mzero _ _ _
  | mtask => exact mtask _ _ _ | scin => exact scin _ | smul => exact smul _ _ | sfma => exact sfma _ _ | spchk => exact spchk _
  | mstat => exact mstat _ _ _ | tex => exact tex _ _ | texn => exact texn _ _ | march => exact march _ _ _ _ | cadd => exact cadd _ _ _ _
  | cwmk => exact cwmk _ _ _ | cres => exact cres _ _ _ | cclr => exact cclr _ _ _ | clog => exact clog _ _ _ | cadj => exact cadj _
  | frel => exact frel _ | copye => exact copye _ | copyw => exact copyw _ | qresv => exact qresv _ | qcommit => exact qcommit _
  | qtake => exact qtake _ | loffer => exact loffer _ | ltake => exact ltake _ | lreclaim => exact lreclaim _ | lquery => exact lquery _
  | degrade => exact degrade _ | fload => exact fload _ | fswap => exact fswap _ | ovld => exact ovld _ | ovfree => exact ovfree _
  | nop => exact nop _ | trap => exact trap _ _ | brk => exact brk _ _ | halt => exact halt _ | sysrd => exact sysrd _ _ _ _
  | syswr => exact syswr _ _ _ | eret => exact eret _ | perf => exact perf _ _ _ | marker => exact marker _ | snap => exact snap _
  | _ => exact fun _ _ hw _ => absurd hw Bool.false_ne_true

end Sys2Proof.Laws.Coding

namespace Sys2Proof

/-- The instructions with parts are the records. -/
theorem encodeParts_isSome (i : Instr) : (encodeParts i).isSome = i.isRecord := by
  cases i <;> rfl

/-- The reserved bits of a record are zero (R69). -/
theorem Parts.word_reserved {p : Parts} (h : p.Fit) : fld 64 7 p.word = 0 := by
  have hlit := h.lit
  have hb := p.shell.dstb.isLt
  have ha := p.shell.dsta.isLt
  unfold Parts.word
  cases hl : p.shell.lit with
  | none => simp only [fld]; omega
  | some q => have hv := q.2.isLt; simp only [fld]; omega

/-- A well-formed record passes every check on one record alone (R88). -/
theorem Instr.check_of_wf {pl : Placement} {i : Instr} {r : Shell} (hs : i.shell? = some r) (h : i.wf pl = true) :
    i.check pl r true true = none := by
  simpa only [Instr.wf, hs, beq_iff_eq] using h

/-- A word decodes to the instruction of its parts when they are that instruction's own and pass its checks. -/
theorem decode_eq_ok {pl : Placement} {w : BitVec 96} {p : Parts} {i : Instr} (hw : splitWord w.toNat = p) (hres : fld 64 7 w.toNat = 0)
    (hd : decodeOp p = .ok i) (he : encodeParts i = some p) (hc : i.check pl p.shell true true = none) : decode pl w = .ok i := by
  simp only [decode, hw, hd, he, hres, ne_eq, not_true_eq_false, if_false, decide_true, beq_self_eq_true, Bool.and_self, hc]

/-- The word of a well-formed record decodes to it: its parts fit the word, and the word gives them back. -/
theorem decode_of_encode {pl : Placement} {i : Instr} {w : BitVec 96} (hwf : i.wf pl = true) (he : encode i = some w) : decode pl w = .ok i := by
  obtain ⟨p, hp, rfl⟩ := Option.map_eq_some_iff.1 he
  obtain ⟨hfit, hd, hs⟩ := Laws.Coding.decodeOp_encodeParts i pl p hwf hp
  have hw : (BitVec.ofNat 96 p.word).toNat = p.word := by rw [BitVec.toNat_ofNat, Nat.mod_eq_of_lt (p.word_lt hfit)]
  refine decode_eq_ok ?_ ?_ hd hp (Instr.check_of_wf hs hwf)
  · rw [hw, Parts.split_word hfit]
  · rw [hw, Parts.word_reserved hfit]

theorem Instr.isRecord_of_wf {pl : Placement} {i : Instr} (h : i.wf pl = true) : i.isRecord = true := by
  cases hs : i.shell? with
  | none => simp [Instr.wf, hs] at h
  | some r => simp [Instr.isRecord, hs]

/-- Settles O5: a well-formed record has parts and so a word, and that word decodes to it. -/
theorem decodeEncode : Obligations.DecodeEncode := by
  unfold Obligations.DecodeEncode
  intro pl i hwf
  obtain ⟨p, hp⟩ := Option.isSome_iff_exists.1 ((encodeParts_isSome i).trans (Instr.isRecord_of_wf hwf))
  have he : encode i = some (BitVec.ofNat 96 p.word) := by rw [encode, hp, Option.map_some]
  exact ⟨_, he, decode_of_encode hwf he⟩

/-! ## Words of the manual (Table 4-1) -/

/-- A record that both placements allow decodes in both. -/
theorem decode_of_encode_both {i : Instr} {w : BitVec 96} (hwf : i.wf .pinned = true ∧ i.wf .pooled = true) (he : encode i = some w)
    (pl : Placement) : decode pl w = .ok i := by
  cases pl with
  | pinned => exact decode_of_encode hwf.1 he
  | pooled => exact decode_of_encode hwf.2 he

/-- Settles O4: each word is that of its record, which is well-formed in the placements named. -/
theorem decodeWords : Obligations.DecodeWords := by
  unfold Obligations.DecodeWords
  exact ⟨decode_of_encode_both (by decide) (by decide), decode_of_encode_both (by decide) (by decide), decode_of_encode_both (by decide) (by decide),
    decode_of_encode_both (by decide) (by decide), decode_of_encode (by decide) (by decide), decode_of_encode (by decide) (by decide),
    decode_of_encode (by decide) (by decide), decode_of_encode (by decide) (by decide)⟩

end Sys2Proof

namespace Sys2Proof.Machine

/-! # Scope codes (R84, Table 4-8) -/

/-- The records of group 0xA that take a scope read it from MOD[2:0]; RED (low nibble 10) then reads its operation. -/
theorem decodeGA_scope {o : Nat} (h : o ∈ [10, 1, 2, 3, 4, 5, 6, 7, 8, 9, 11, 12, 13]) (m l : Nat) (v : Bool) (r : Shell) :
    ∃ k, decodeGA o m v l r = need .modVar (Scope.ofBits (fld 0 3 m)) >>= k ∧ ∀ c i, k c = .ok i → scopeOf i = some c := by
  simp only [List.mem_cons, List.not_mem_nil, or_false] at h
  rcases h with rfl | rfl | rfl | rfl | rfl | rfl | rfl | rfl | rfl | rfl | rfl | rfl | rfl
  · refine ⟨_, rfl, fun c i hk => ?_⟩
    cases hop : CombineOp.ofBits (fld 0 4 l) with
    | none => simp [hop, need, bind, Except.bind] at hk
    | some cop => simp only [hop] at hk; cases hk; rfl
  all_goals exact ⟨_, rfl, fun c i hk => by cases hk; rfl⟩

/-- The records of group 0xB that take a scope read it from MOD[2:0]. -/
theorem decodeGB_scope {o : Nat} (h : o ∈ [0, 1, 2, 3, 4, 5, 9]) (m l : Nat) (v : Bool) (r : Shell) :
    ∃ k, decodeGB o m v l r = need .modVar (Scope.ofBits (fld 0 3 m)) >>= k ∧ ∀ c i, k c = .ok i → scopeOf i = some c := by
  simp only [List.mem_cons, List.not_mem_nil, or_false] at h
  rcases h with rfl | rfl | rfl | rfl | rfl | rfl | rfl
  all_goals exact ⟨_, rfl, fun c i hk => by cases hk; rfl⟩

/-- A scoped record has the scope of its code; without a scope for the code there is no record. -/
theorem scopeOf_of_decodeOp {p : Parts} {i : Instr} (hop : scopedOps.contains p.op = true) (hd : decodeOp p = .ok i) :
    ∃ c, Scope.ofBits (fld 0 3 p.mod) = some c ∧ scopeOf i = some c := by
  have hscope : ∃ k, decodeOp p = need .modVar (Scope.ofBits (fld 0 3 p.mod)) >>= k ∧ ∀ c i, k c = .ok i → scopeOf i = some c := by
    have hgroup : (p.op / 16 = 10 ∧ p.op % 16 ∈ [10, 1, 2, 3, 4, 5, 6, 7, 8, 9, 11, 12, 13]) ∨
        (p.op / 16 = 11 ∧ p.op % 16 ∈ [0, 1, 2, 3, 4, 5, 9]) :=
      (by decide : ∀ o ∈ scopedOps, (o / 16 = 10 ∧ o % 16 ∈ [10, 1, 2, 3, 4, 5, 6, 7, 8, 9, 11, 12, 13]) ∨
        (o / 16 = 11 ∧ o % 16 ∈ [0, 1, 2, 3, 4, 5, 9])) p.op (List.contains_iff_mem.1 hop)
    rcases hgroup with ⟨hg, ho⟩ | ⟨hg, ho⟩
    · simpa only [decodeOp, hg] using decodeGA_scope ho p.mod p.lit p.var p.shell
    · simpa only [decodeOp, hg] using decodeGB_scope ho p.mod p.lit p.var p.shell
  obtain ⟨k, hk, hscope⟩ := hscope
  cases hc : Scope.ofBits (fld 0 3 p.mod) with
  | none => simp [hk, hc, need, bind, Except.bind] at hd
  | some c => exact ⟨c, rfl, hscope c i (by rw [hc] at hk; exact hk.symm.trans hd)⟩

/-- A word that decodes has an instruction for its parts. -/
theorem decodeOp_of_decode {pl : Placement} {w : BitVec 96} {i : Instr} (h : decode pl w = .ok i) : decodeOp (splitWord w.toNat) = .ok i := by
  cases hd : decodeOp (splitWord w.toNat) with
  | error e => cases e <;> (simp only [decode, hd] at h; split at h <;> cases h)
  | ok j =>
    simp only [decode, hd] at h
    split at h
    · cases h
    · split at h
      · cases h
      · split at h
        · cases h
        · exact h

/-- The opcode and the scope code of a word, as its parts give them. -/
theorem splitWord_op (w : BitVec 96) : (splitWord w.toNat).op = (w.extractLsb' 88 8).toNat := by
  simp [splitWord, fld, BitVec.extractLsb'_toNat, Nat.shiftRight_eq_div_pow]

theorem splitWord_scopeCode (w : BitVec 96) : fld 0 3 (splitWord w.toNat).mod = (w.extractLsb' 84 3).toNat := by
  simp only [splitWord, fld, BitVec.extractLsb'_toNat, Nat.shiftRight_eq_div_pow]
  omega

/-- The scopes of Table 4-8 by their codes. -/
theorem Scope.ofBits_eq_getElem? {n : Nat} (h : n < 8) : Scope.ofBits n = [Scope.element, .forme, .die, .package, .system][n]? :=
  (by decide : ∀ n, n < 8 → Scope.ofBits n = [Scope.element, .forme, .die, .package, .system][n]?) n h

/-- Settles O6: the scope is read from MOD[2:0] before anything else of the record is. -/
theorem scopeCodes : Obligations.ScopeCodes := by
  unfold Obligations.ScopeCodes
  intro pl w hop
  have hlt : (w.extractLsb' 84 3).toNat < 8 := (w.extractLsb' 84 3).isLt
  have hscope : ∀ i, decode pl w = .ok i → ∃ c, Scope.ofBits (w.extractLsb' 84 3).toNat = some c ∧ scopeOf i = some c := fun i hi => by
    rw [← splitWord_scopeCode]
    exact scopeOf_of_decodeOp (splitWord_op w ▸ hop) (decodeOp_of_decode hi)
  refine ⟨fun hcode => ?_, fun i hi => ?_⟩
  · cases hd : decode pl w with
    | error e => exact ⟨e, rfl⟩
    | ok i =>
      obtain ⟨c, hc, -⟩ := hscope i hd
      rw [Scope.ofBits_eq_getElem? hlt, List.getElem?_eq_none hcode] at hc
      cases hc
  · obtain ⟨c, hc, hi⟩ := hscope i hi
    rw [hi, ← hc, Scope.ofBits_eq_getElem? hlt]

end Sys2Proof.Machine

namespace Sys2Proof.Machine

/-! # Results of a galley instance (R73, R93, R144) -/

/-- Settles O11: the three ways of a pooled result, by its destination. -/
theorem sendPooled : Obligations.SendPooled := by
  unfold Obligations.SendPooled
  intro s f second d k g hp hg p
  have htok : f.token g.hnd d k = p := Firing.token_eq ..
  have hnode : d.toNat % 2 ^ 14 = (d.extractLsb' 0 14).toNat := by simp
  simp only [State.send, hp, hg, State.output, htok, hnode]
  rfl

end Sys2Proof.Machine

namespace Sys2Proof.Machine

/-! # CTXNEW, CTXFREE and NEXTG (R140, R141, R143) -/

theorem failure_1 : failure 1 = 0x80000000 ||| 1 := by decide
theorem failure_2 : failure 2 = 0x80000000 ||| 2 := by decide
theorem failure_3 : failure 3 = 0x80000000 ||| 3 := by decide

theorem and_not_eq_false {a b : Bool} (h : a = false ∨ b = true) : (a && !b) = false := by
  rcases h with rfl | rfl <;> simp

section
variable {r : Shell} {s t : State} {f : Firing} (hg : s.gather r = some (f, t)) (hm : ∀ k, f.verdict ≠ .mismatch k)
include hg hm

/-- A record that acts on an active token, on one. -/
theorem fireTrigger_of_active (ha : (f.port r 0).isActive = true) (act : Firing → State → Word → Option State) :
    s.fireTrigger r act = settleFire s (act f t (f.port r 0).value) := by
  rw [State.fireTrigger, fireTag_of_gather hg hm]
  simp only [ha, if_true]

/-- Bit 3 of the trigger asks for a system context, which only a system context may (R140). -/
theorem execCtxnew_of_not_permitted (ha : (f.port r 0).isActive = true) (hbit : (f.port r 0).value.getLsbD 3 = true)
    (hsys : (t.ctxOf f).sys = false) : exec (.ctxnew r) s = .next ((t.privFault f).getD s.park) := by
  show execCtxnew r s = _
  rw [execCtxnew, fireTrigger_of_active hg hm ha]
  simp only [hbit, hsys, Bool.not_false, Bool.and_self, if_true]
  rfl

/-- A value beyond the context's priority, or with a bit above [3], is refused by reason 3 (R140). -/
theorem execCtxnew_of_bad_value (ha : (f.port r 0).isActive = true) (hper : (f.port r 0).value.getLsbD 3 = false ∨ (t.ctxOf f).sys = true)
    (hbad : (f.port r 0).value.toNat / 16 ≠ 0 ∨ (t.ctxOf f).prio.toNat < (f.port r 0).value.toNat % 8) :
    exec (.ctxnew r) s = .next (t.sendBoth f r (.data (0x80000000 ||| 3))) := by
  have hno := and_not_eq_false hper
  show execCtxnew r s = _
  rw [execCtxnew, fireTrigger_of_active hg hm ha, ← failure_3]
  simp only [hno, Bool.false_eq_true, if_false, if_pos hbad, settleFire_some, failure]

/-- With a value that it may ask for, CTXNEW looks at THROTTLE, then at the free ids (log 112). -/
theorem execCtxnew_of_value (ha : (f.port r 0).isActive = true) (hper : (f.port r 0).value.getLsbD 3 = false ∨ (t.ctxOf f).sys = true)
    (hval : ¬((f.port r 0).value.toNat / 16 ≠ 0 ∨ (t.ctxOf f).prio.toNat < (f.port r 0).value.toNat % 8)) :
    ((t.tile f.tile).throttle = true → exec (.ctxnew r) s = .next (t.sendBoth f r (.data (0x80000000 ||| 2)))) ∧
    ((t.tile f.tile).throttle = false → t.freeCtx = none → exec (.ctxnew r) s = .next (t.sendBoth f r (.data (0x80000000 ||| 1)))) ∧
    ∀ (c : Nat) (g : Galley), (t.tile f.tile).throttle = false → t.freeCtx = some c → t.galleyOf f = some g →
      exec (.ctxnew r) s = .next (((t.setGalley f.tile { g with reserved := g.reserved ++ [c] }).addAct f
        { node := f.node, lsid := 0, instr := .ctxnew r, a := (f.port r 0).value, b := BitVec.ofNat 32 c }).sendBoth f r
          (.data (BitVec.ofNat 32 c))) := by
  have hno := and_not_eq_false hper
  have hexec : exec (.ctxnew r) s = execCtxnew r s := rfl
  rw [hexec, execCtxnew, fireTrigger_of_active hg hm ha]
  simp only [hno, Bool.false_eq_true, if_false, if_neg hval]
  refine ⟨fun hthr => ?_, fun hthr hnone => ?_, fun c g hthr hc hgal => ?_⟩
  · rw [if_pos hthr, ← failure_2]; rfl
  · rw [if_neg (ne_true_of_eq_false hthr), hnone, ← failure_1]; rfl
  · rw [if_neg (ne_true_of_eq_false hthr), hc, hgal]; rfl

theorem execCtxfree_of_active (ha : (f.port r 0).isActive = true) {c : Nat} (hc : (f.port r 0).value.toNat % 4096 = c) :
    exec (.ctxfree r) s = .next ((if t.freeCode f c = 1 then
      t.addAct f { node := f.node, lsid := 0, instr := .ctxfree r, a := BitVec.ofNat 32 c } else t).sendBoth f r
        (.data (BitVec.ofNat 32 (t.freeCode f c)))) := by
  subst hc
  show execCtxfree r s = _
  rw [execCtxfree, fireTrigger_of_active hg hm ha]
  rfl

/-- NEXTG counts the branch and sends by its predicate (R143). -/
theorem execNextg_of_galley {g : Galley} (hgal : t.galleyOf f = some g) :
    let u := t.setGalley f.tile { g with ng := g.ng + 1 }
    let k := f.port r 0
    exec (.nextg r) s = .next (if r.pin = false then u.sendBoth f r k
      else if k.flag = .null ∨ (f.p3.getD {}).flag = .null then u.sendBoth f r .null else if k.flag = .eos then u.sendBoth f r .eos
      else if f.pred then u.sendTwo f r k .null else u.sendTwo f r .null k) := by
  intro u k
  show execNextg r s = _
  rw [execNextg, fireTag_of_gather hg hm]
  simp only [hgal, Bool.not_eq_true', Bool.or_eq_true, Tok.isNull_eq_true, Tok.isEos_eq_true, ← apply_ite some, settleFire_some]
  rfl

end

/-- Settles O32: CTXNEW by the order of its reasons, CTXFREE by its code, NEXTG by its predicate. -/
theorem contextsAndNextg : Obligations.ContextsAndNextg := by
  unfold Obligations.ContextsAndNextg
  refine ⟨fun r s f t hg hm ha => ?active, fun r s f t hg hm ha => ⟨?inactive, ?inactive'⟩, fun r s f t g hg hm hgal => execNextg_of_galley hg hm hgal⟩
  case active =>
    intro v me fail
    refine ⟨execCtxnew_of_not_permitted hg hm ha, fun hper => ?_, fun hfree => ?_, fun hfree => ?_⟩
    · refine ⟨fun hbad => ?_, fun hv hprio => ?_⟩
      · have hrefused : v.toNat / 16 ≠ 0 ∨ me.prio.toNat < v.toNat % 8 := by omega
        exact execCtxnew_of_bad_value hg hm ha hper hrefused
      · have hallowed : ¬(v.toNat / 16 ≠ 0 ∨ me.prio.toNat < v.toNat % 8) := by omega
        exact execCtxnew_of_value hg hm ha hper hallowed
    · rw [execCtxfree_of_active hg hm ha rfl, if_pos hfree, hfree]; rfl
    · rw [execCtxfree_of_active hg hm ha rfl, if_neg hfree]
  case inactive =>
    obtain ⟨act, hact⟩ := exec_of_trigger (.inl rfl) s
    rw [hact, fireTrigger_of_inactive hg hm ha]
  case inactive' =>
    obtain ⟨act, hact⟩ := exec_of_trigger (.inr rfl) s
    rw [hact, fireTrigger_of_inactive hg hm ha]

end Sys2Proof.Machine

namespace Sys2Proof.Machine

/-! # FENCE, ORDTOK, EVENT, YIELD, ROUNDEND and QUIESCE (R182, R185, R186, R188, R189, R299) -/

/-- No destination is a control input of an AG. -/
theorem isAg_noDest (p : Nat) : isAg p noDest = false := rfl

@[simp] theorem State.send_noDest (s : State) (f : Firing) (second : Bool) (k : Tok) : s.send f second noDest k = s := by
  simp only [State.send, if_true]

/-- An element's ROUNDEND takes one token in a round and keeps its route tag for the commit (R185). -/
theorem execRoundend_of_gather {r : Shell} {s t : State} {f : Firing} {g : Forme} (hgather : s.gather r = some (f, t)) (hg : t.forme? f.h = some g) :
    ((∀ e ∈ g.run.core.ends, ¬(e.1 = f.x ∧ e.2.1 = f.y)) →
      exec (.roundend r) s = .next (t.setCore g { g.run.core with ends := g.run.core.ends ++ [(f.x, f.y, f.rt)] })) ∧
    ((∃ e ∈ g.run.core.ends, e.1 = f.x ∧ e.2.1 = f.y) → exec (.roundend r) s = .next s.park) := by
  have hexec : exec (.roundend r) s = execRoundend r s := rfl
  have hdone : (g.run.core.ends.any fun e => e.1 == f.x && e.2.1 == f.y) = true ↔ ∃ e ∈ g.run.core.ends, e.1 = f.x ∧ e.2.1 = f.y := by simp
  simp only [hexec, execRoundend, hgather, hg, hdone]
  refine ⟨fun hnew => ?_, fun hold => by rw [if_pos hold, settleFire_none]⟩
  rw [if_neg fun ⟨e, he, hxy⟩ => hnew e he hxy, settleFire_some]

section
variable {r : Shell} {s t : State} {f : Firing} (h : FiresAwake s r f t)
include h

/-- FENCE passes where nothing before it is left to do (R182). -/
theorem execFence_of_clear (hclear : f.pinned = true ∨ ∀ g, t.galleyOf f = some g → (t.tile f.tile).mustAwait g f.node = false ∧
      ∀ o ∈ (t.tile f.tile).openOf f.ctx, g.seq ≤ o.seq) (acq rel : Bool) (c : Scope) :
    exec (.fence acq c rel r) s = .next (t.sendBoth f r (f.port r 0)) := by
  show execFence acq c rel r s = _
  rw [execFence, fireActive_of_awake h]
  rcases hclear with hp | hopen
  · simp [hp]
  · cases hg : t.galleyOf f with
    | none => simp
    | some g =>
      obtain ⟨hawait, hfirst⟩ := hopen g hg
      have hnone : ((t.tile f.tile).openOf f.ctx).any (fun o => decide (o.seq < g.seq)) = false :=
        List.any_eq_false.2 fun o ho => by simpa using hfirst o ho
      simp [hawait, hnone]

/-- ORDTOK sends its completion to each of its destinations in turn (R188). -/
theorem execOrdtok_of_awake (c : Scope) (n : BitVec 3) : exec (.ordtok c n r) s =
    settleFire s ((t.sendOrder f r (.ordtok c n r) false (.data 0)).bind fun u => u.sendOrder f r (.ordtok c n r) true (.data 0)) := by
  obtain ⟨hgather, hvalue, hidle⟩ := h.parts
  show execOrdtok c n r s = _
  simp only [execOrdtok, hgather, hvalue, hidle, Bool.false_eq_true, if_false]

/-- A destination that is no control input of an AG gets the completion as a value. -/
theorem execOrdtok_of_no_ag (hd : f.pinned = false ∨ (isAg 0 r.dsta = false ∧ isAg 0 r.dstb = false)) (c : Scope) (n : BitVec 3) :
    exec (.ordtok c n r) s = .next (t.sendBoth f r (.data 0)) := by
  rw [execOrdtok_of_awake h]
  rcases hd with hp | ⟨ha, hb⟩
  · simp [State.sendOrder, hp, State.sendBoth]
  · simp [State.sendOrder, ha, hb, State.sendBoth]

/-- An AG with room gets it as a control token (R162, R188). -/
theorem execOrdtok_of_ag (c : Scope) (n : BitVec 3) {g : Forme} {bay port : Nat} (hp : f.pinned = true) (hg : t.forme? f.h = some g)
    (ha : isAg 0 r.dsta = true) (hb : r.dstb = noDest) (hdest : g.dest f.x f.y r.dsta = .ag bay port)
    (hroom : ((g.run.core.ag bay).input port).length < 8) :
    exec (.ordtok c n r) s = .next (agJoined t f r (.ordtok c n r) (.data 0) 0 0 g bay port) := by
  rw [execOrdtok_of_awake h]
  have hfirst : t.sendOrder f r (.ordtok c n r) false (.data 0) = some (agJoined t f r (.ordtok c n r) (.data 0) 0 0 g bay port) := by
    simp only [State.sendOrder, hp, ha, Bool.and_self, Bool.false_eq_true, if_true, if_false, State.agPushTo, hg, hdest, Nat.not_le.2 hroom]
    rfl
  rw [hfirst, Option.bind_some]
  simp only [State.sendOrder, hb, isAg_noDest, Bool.and_false, Bool.false_eq_true, if_true, if_false, State.send_noDest, settleFire_some]

/-- EVENT passes its token once its post is noted, staged or made (R189). -/
theorem execEvent_of_posted (c : BitVec 16) {u : State}
    (hu : (if !f.pinned then some (t.addAct f { node := f.node, lsid := 0, instr := .event c r, a := (f.port r 0).value })
      else if t.inRound f then (if t.stageRoom f.part 32 then some (t.stage f (.act (.event c r) (f.port r 0).value 0 0)) else none)
      else t.postEvent f.ctx 0 f.h c.toNat (f.port r 0).value.toNat) = some u) :
    exec (.event c r) s = .next (u.sendBoth f r (f.port r 0)) := by
  show execEvent c r s = _
  rw [execEvent, fireActive_of_awake h]
  simp only [hu, Option.map_some, settleFire_some]

/-- A pooled YIELD is noted for its galley's commit (R189). -/
theorem execYield_of_pooled (hp : f.pinned = false) :
    exec (.yield r) s = .next ((t.addAct f { node := f.node, lsid := 0, instr := .yield r }).sendBoth f r (f.port r 0)) := by
  show execYield r s = _
  rw [execYield, fireActive_of_awake h]
  simp only [hp, Bool.false_eq_true, if_false, settleFire_some]

/-- A pinned one marks its forme: for the round's commit, or, in stream mode, where a load of its priority waits (R301). -/
theorem execYield_of_pinned (hp : f.pinned = true) {g : Forme} (hg : t.forme? f.h = some g) :
    exec (.yield r) s = .next ((if g.cfg.stream then t.weigh g else t.setForme { g with run := { g.run with yielding := true } }).sendBoth f r
      (f.port r 0)) := by
  show execYield r s = _
  rw [execYield, fireActive_of_awake h]
  simp only [hp, hg, if_true, settleFire_some]

/-- QUIESCE is for system contexts (R186). -/
theorem execQuiesce_of_user (hsys : (t.ctxOf f).sys = false) : exec (.quiesce r) s = .next ((t.privFault f).getD s.park) := by
  show execQuiesce r s = _
  rw [execQuiesce, fireActive_of_awake h]
  simp only [hsys, Bool.not_false, if_true, settleFire]

/-- On a quiet chase it answers 1 and waits no longer. -/
theorem execQuiesce_of_quiet (hsys : (t.ctxOf f).sys = true) {g : Forme} (hg : s.forme? (f.port r 0).value.toNat = some g) (hq : s.quiet g = true) :
    exec (.quiesce r) s = .next (({ t with quiesces := t.quiesces.filter fun q =>
      !(q.tile == f.tile && q.node == f.node && q.tag == f.tag) } : State).sendBoth f r (.data 1)) := by
  show execQuiesce r s = _
  rw [execQuiesce, fireActive_of_awake h]
  simp only [hsys, Bool.not_true, Bool.false_eq_true, if_false, hg, hq, if_true, settleFire_some]

end

/-- A load to which a context of priority `n` gives way is one of the partition's loaders. -/
theorem State.loadWaits_eq_decide (s : State) (p n : Nat) : s.loadWaits p n = decide (∃ d ∈ s.loaders p, n ≤ s.prio d) := by
  rw [Bool.eq_iff_iff]
  simp [State.loadWaits]

/-- Settles O42: each record by its lemma above. -/
theorem syncRecords : Obligations.SyncRecords := by
  unfold Obligations.SyncRecords
  refine ⟨fun r s f t g hgather hg => execRoundend_of_gather hgather hg, fun r s f t h => ?_⟩
  intro k
  refine ⟨fun acq rel c hclear => execFence_of_clear h hclear acq rel c, fun c n hd => execOrdtok_of_no_ag h hd c n,
    fun c n g bay port hp hg ha hb hdest hroom => execOrdtok_of_ag h c n hp hg ha hb hdest hroom, fun c => ⟨fun hp => ?pooled,
      fun hp hround hroom => ?staged, fun u hp hround hu => ?posted⟩, execYield_of_pooled h, fun g hp hg => ⟨fun hround => ?round, fun hstream => ?stream⟩,
    execQuiesce_of_user h, fun g hsys hg hq => execQuiesce_of_quiet h hsys hg hq⟩
  case pooled => exact execEvent_of_posted h c (by rw [hp]; rfl)
  case staged => exact execEvent_of_posted h c (by rw [hp, hround, hroom]; rfl)
  case posted => exact execEvent_of_posted h c (by rw [hp, hround]; exact hu)
  case round => rw [execYield_of_pinned h hp hg, hround]; rfl
  case stream => rw [execYield_of_pinned h hp hg, hstream, if_pos rfl, State.weigh, State.loadWaits_eq_decide]

end Sys2Proof.Machine

namespace Sys2Proof.Machine

/-! # COPYW, QRESV, QTAKE, LQUERY, NOP, SYSRD and PERF (R192, R216 to R219, R223, R225, R339) -/

section
variable {r : Shell} {s t : State} {f : Firing} (h : FiresAwake s r f t)
include h

/-- COPYW of a copy that has ended answers and frees its id (R217). -/
theorem execCopyw_of_ended {d : Die} {c : CopyJob} (hd : t.die? f.die = some d)
    (hc : (d.copies.find? fun c => c.id == (f.port r 0).value.toNat) = some c) (hended : c.status ≠ 0) :
    exec (.copyw r) s = .next ((t.setDie { d with copies := d.copies.filter fun x => x.id != (f.port r 0).value.toNat }).sendBoth f r
      (.data (if c.status = 1 then 1 else BitVec.ofNat 32 (2 ^ 31 + (c.status - 2))))) := by
  show execCopyw r s = _
  rw [execCopyw, fireActive_of_awake h]
  simp only [hd, hc, if_neg hended, settleFire_some]
  rfl

/-- COPYW of an id that no copy has answers 2. -/
theorem execCopyw_of_unused {d : Die} (hd : t.die? f.die = some d) (hfree : ∀ c ∈ d.copies, c.id ≠ (f.port r 0).value.toNat) :
    exec (.copyw r) s = .next (t.sendBoth f r (.data 2)) := by
  have hnone : (d.copies.find? fun c => c.id == (f.port r 0).value.toNat) = none := by simpa using hfree
  show execCopyw r s = _
  rw [execCopyw, fireActive_of_awake h]
  simp only [hd, hnone, settleFire_some]

theorem execLquery_of_awake : exec (.lquery r) s = .next (t.sendBoth f r (.data (t.lquery (f.port r 0).value))) := by
  show execLquery r s = _
  rw [execLquery, fireActive_of_awake h, settleFire_some]

theorem execNop_of_awake : exec (.nop r) s = .next (t.sendBoth f r (f.port r 0)) := by
  show execNop r s = _
  rw [execNop, fireActive_of_awake h, settleFire_some]

/-- SYSRD of an index that the context may read sends the half it names; with .CLR the bits it sends are cleared (R225, R339). -/
theorem execSysrd_of_readable {n : BitVec 16} (hread : (t.ctxOf f).sys = true ∨ regUser n.toNat = true) (clr hi : Bool) :
    let v := (t.keepLatch f).sysRead f.regBy f.ctx hi n.toNat
    exec (.sysrd clr hi n r) s = .next ((if clr && !hi then v.2.clearStatus f.ctx v.1 else v.2).sendBoth f r (.data v.1)) := by
  have hmay : (!(t.ctxOf f).sys && !regUser n.toNat) = false := by
    rcases hread with hsys | huser
    · rw [hsys]; rfl
    · rw [huser, Bool.not_true, Bool.and_false]
  show execSysrd clr hi n r s = _
  rw [execSysrd, fireActive_of_awake h]
  simp only [hmay, Bool.false_eq_true, if_false, settleFire_some]

/-- One that a user context may not read is a permission fault. -/
theorem execSysrd_of_denied {n : BitVec 16} (hsys : (t.ctxOf f).sys = false) (huser : regUser n.toNat = false) (clr hi : Bool) :
    exec (.sysrd clr hi n r) s = .next ((t.privFault f).getD s.park) := by
  show execSysrd clr hi n r s = _
  rw [execSysrd, fireActive_of_awake h]
  simp only [hsys, huser, Bool.not_false, Bool.and_self, if_true, settleFire]

theorem execPerf_of_awake (hi : Bool) (n : BitVec 8) : exec (.perf hi n r) s =
    .next (t.sendBoth f r (.data (BitVec.ofNat 32 (if hi then t.perf f.tile n.toNat / 2 ^ 32 else t.perf f.tile n.toNat)))) := by
  show execPerf hi n r s = _
  rw [execPerf, fireActive_of_awake h, settleFire_some]

end

/-- A queue record with nothing to follow, on a descriptor that translates, acts after the home's late returns (R218, R223). -/
theorem State.onQueue_of_translated {t : State} {f : Firing} {x : Addr} {pa tier : Nat} {q : Part} (hfollow : t.follows f = false)
    (hx : t.translate f.part x 64 .both = .ok pa tier) (hq : (t.lateReturns f.part).part? f.part = some q)
    (k : State → Part → VA → Nat → Option State) : t.onQueue f x k = k (t.lateReturns f.part) q (BitVec.ofNat 64 x.va) pa := by
  simp only [State.onQueue, hfollow, Bool.false_eq_true, if_false, State.queueAt, hx, hq]

section
variable {r : Shell} {s t : State} {f : Firing} {pa tier : Nat} {q : Part} (h : FiresAwake s r f t) (hfollow : t.follows f = false)
  (hx : t.translate f.part (pairAddr f r 0) 64 .both = .ok pa tier) (hq : (t.lateReturns f.part).part? f.part = some q)
include h hfollow hx hq

/-- QRESV reserves where the ring has room, and else reports RSVDE and 0 (R218). -/
theorem execQresv_of_translated :
    let va : VA := BitVec.ofNat 64 (pairAddr f r 0).va
    let t := t.lateReturns f.part
    let d := t.readLe pa 64
    let n := (f.port r 2).value.toNat
    let rsvde := bits 160 32 d
    let used := (rsvde + 2 ^ 32 - bits 256 32 d) % 2 ^ 32
    (used + n ≤ bits 0 32 d → exec (.qresv r) s =
      .next (((((t.setPart (q.setHome { q.home va with open_ := (q.home va).open_ ++ [(rsvde, n, false)] })).writeLe pa 64
        (setBits 160 32 d (rsvde + n))).hold f { va := va, take := false, start := rsvde, count := n })).sendTwo f r
          (.data (BitVec.ofNat 32 rsvde)) (.data (BitVec.ofNat 32 n)))) ∧
    (bits 0 32 d < used + n → exec (.qresv r) s = .next (t.sendTwo f r (.data (BitVec.ofNat 32 rsvde)) (.data 0))) := by
  intro va u d n rsvde used
  have hexec : exec (.qresv r) s = execQresv r s := rfl
  rw [hexec, execQresv, fireActive_of_awake h, State.onQueue_of_translated hfollow hx hq]
  refine ⟨fun hroom => ?_, fun hfull => ?_⟩
  · exact congrArg (settleFire s) (if_neg (Nat.not_lt.2 hroom))
  · exact congrArg (settleFire s) (if_pos hfull)

/-- QTAKE sends what the home gives it and writes the descriptor (R218). -/
theorem execQtake_of_translated :
    let va : VA := BitVec.ofNat 64 (pairAddr f r 0).va
    let t := t.lateReturns f.part
    let k := (q.home va).takeFrom (t.readLe pa 64) (f.port r 2).value.toNat
    exec (.qtake r) s = .next ((((t.setPart (q.setHome k.2.2.2)).writeLe pa 64 k.2.2.1).hold f
      { va := va, take := true, start := k.1, count := k.2.1 }).sendTwo f r (.data (BitVec.ofNat 32 k.1)) (.data (BitVec.ofNat 32 k.2.1))) := by
  intro va u k
  show execQtake r s = _
  rw [execQtake, fireActive_of_awake h, State.onQueue_of_translated hfollow hx hq]
  rfl

end

/-- Settles O47: each record by its lemma above. -/
theorem immediateRecords : Obligations.ImmediateRecords := by
  unfold Obligations.ImmediateRecords
  intro r s f t h p0 x va
  refine ⟨fun d c hd hc hended => execCopyw_of_ended h hd hc hended, fun d hd hfree => execCopyw_of_unused h hd hfree,
    fun pa tier q hfollow hx hq => ?queue, execLquery_of_awake h, execNop_of_awake h, fun hi n hread => ⟨?plain, ?clear⟩,
    fun clr hi n hsys huser => execSysrd_of_denied h hsys huser clr hi, fun hi n => execPerf_of_awake h hi n⟩
  case queue =>
    obtain ⟨hroom, hfull⟩ := execQresv_of_translated h hfollow hx hq
    exact ⟨hroom, hfull, execQtake_of_translated h hfollow hx hq⟩
  case plain => exact execSysrd_of_readable h hread false hi
  case clear =>
    rw [execSysrd_of_readable h hread true hi]
    cases hi <;> rfl

end Sys2Proof.Machine

namespace Sys2Proof.Machine

/-! # Predicate records (R106) -/

theorem exec_pand (r : Shell) (s : State) : exec (.pand r) s = s.compute r (predComp fun o => o.p.p && o.q) := rfl
theorem exec_por (r : Shell) (s : State) : exec (.por r) s = s.compute r (predComp fun o => o.p.p || o.q) := rfl
theorem exec_pxor (r : Shell) (s : State) : exec (.pxor r) s = s.compute r (predComp fun o => o.p.p != o.q) := rfl
theorem exec_pnot (r : Shell) (s : State) : exec (.pnot r) s = s.compute r (predComp fun o => !o.p.p) := rfl
theorem exec_pconst (val : Bool) (r : Shell) (s : State) : exec (.pconst val r) s = s.compute r (predComp fun _ => val) := rfl
theorem exec_ptest (z : Bool) (r : Shell) (s : State) :
    exec (.ptest z r) s = s.compute r (predComp fun o => ((o.a.value &&& o.b.value) != 0) != z) := rfl

/-- A predicate record sends 1 or 0 for its predicate of the operands, none of which is dormant. -/
theorem wordAnswer_of_predComp {i : Instr} {r : Shell} {s : State} {f : Firing} {t : State} {p : Opnds → Bool} (h : Fires s r f t)
    (ho : Whole (t.opnds f r)) (hi : exec i s = s.compute r (predComp p)) {b : Bool} (hb : p (t.opnds f r) = b) :
    WordAnswer i r s f t (if b then 1 else 0) :=
  wordAnswer_of_whole h ho hi (by rw [predComp, hb])

/-- PTEST's test of a word: not zero, or zero with .Z. -/
theorem bne_zero_bne (w : Word) (z : Bool) : ((w != 0) != z) = ((w == 0) == z) := by
  cases z with
  | false => rw [Bool.bne_false, beq_false, bne]
  | true => rw [Bool.bne_true, beq_true, bne, Bool.not_not]

/-- Settles O19: each record computes its predicate on P and the words, PTEST by its two forms. -/
theorem predicates : Obligations.Predicates := by
  unfold Obligations.Predicates
  intro val z r s f t h ho p q bit
  exact ⟨wordAnswer_of_predComp h ho (exec_pand ..) rfl, wordAnswer_of_predComp h ho (exec_por ..) rfl,
    wordAnswer_of_predComp h ho (exec_pxor ..) rfl, wordAnswer_of_predComp h ho (exec_pnot ..) rfl,
    wordAnswer_of_predComp h ho (exec_pconst ..) rfl, wordAnswer_of_predComp h ho (exec_ptest ..) (bne_zero_bne _ z)⟩

end Sys2Proof.Machine

namespace Sys2Proof.Machine

/-! # ST, STI, SCATTER and KST of a galley (R144, R156 to R158, R160) -/

/-! ## What a firing notes in its instance leaves memory alone -/

@[simp] theorem State.seeStore_mem (s : State) (f : Firing) (aux : BitVec 5) : (s.seeStore f aux).mem = s.mem := by
  unfold State.seeStore
  cases s.galleyOf f <;> rfl

@[simp] theorem State.addAct_mem (s : State) (f : Firing) (a : Act) : (s.addAct f a).mem = s.mem := by
  unfold State.addAct
  cases s.galleyOf f <;> rfl

@[simp] theorem State.countOuts_mem (s : State) (f : Firing) (r : Shell) : (s.countOuts f r).mem = s.mem := by
  unfold State.countOuts
  cases s.galleyOf f <;> rfl

/-! ## The records -/

section
variable {r : Shell} {s t : State} {f : Firing} (h : Fires s r f t) (hp : f.pinned = false)
include h hp

theorem exec_st_of_pooled (hdata : ∀ k ∈ [0, 1], (f.port r k).isDormant = false) (sz : Size) (disp : BitVec 24) (kb : BitVec 6) :
    exec (.st sz disp kb r) s = .next ((t.seeStore f r.aux).storeAt f r (.st sz disp kb r)
      ((t.seeStore f r.aux).kAddr f kb (f.port r 0).value.toNat disp) (Size.bytes sz) (f.port r 1).value) := by
  show execSt sz disp kb r s = _
  rw [execSt, fireData_of_fires h _ _ _ hdata, noteStore_of_pooled hp, settleFire_some]

theorem exec_sti_of_pooled (hdata : ∀ k ∈ [0, 1, 2], (f.port r k).isDormant = false) (sz : Size) (disp : BitVec 24) :
    exec (.sti sz disp r) s = .next ((t.seeStore f r.aux).storeAt f r (.sti sz disp r)
      (pairAddr f r disp.toInt) (Size.bytes sz) (f.port r 2).value) := by
  show execSti sz disp r s = _
  rw [execSti, fireData_of_fires h _ _ _ hdata, noteStore_of_pooled hp, settleFire_some]

/-- A pooled SCATTER notes its lanes one after the other, each at its own address. -/
theorem exec_scatter_of_pooled (hdata : ∀ k ∈ [0, 1], (f.port r k).isDormant = false) {sz : Size} {lm : BitVec 2}
    (hlm : laneLm sz ((f.port r 0).lmask &&& (f.port r 1).lmask) = lm) (hactive : lm ≠ 0) (raw : BitVec 32) :
    exec (.scatter sz raw r) s = .next (((activeLanes sz lm).foldl (fun u l =>
      let x := u.kAddr f (rawKb raw) (elemOf sz (f.port r 0).value l * Size.bytes sz) (rawDisp raw)
      u.addAct f { node := f.node, lsid := r.aux.toNat, instr := .scatter sz raw r, a := BitVec.ofNat 32 (elemOf sz (f.port r 1).value l)
                   obj := x.obj, off := x.off, size := Size.bytes sz, hnd := f.hnd }) (t.seeStore f r.aux)).countOuts f r) := by
  show execScatter sz raw r s = _
  rw [execScatter, fireData_of_fires h _ _ _ hdata, noteStore_of_pooled hp]
  simp only [hlm, hactive, hp, Bool.false_eq_true, if_false, settleFire_some]

end

/-- A KST is counted and noted whatever the flag of its token. -/
theorem exec_kst_of_gather {r : Shell} {s t : State} {f : Firing} (g : s.gather r = some (f, t)) (hi : Bool) (kn : BitVec 6) :
    exec (.kst hi kn r) s = .next ((t.seeKst f).addAct f
      { node := f.node, lsid := 0, instr := .kst hi kn r, a := (f.port r 0).value, b := if (f.port r 0).isActive then 0 else 1 }) := by
  show execKst hi kn r s = _
  simp only [execKst, g, settleFire_some]

/-- Settles O35: each record by its lemma above; noting a store leaves memory as it was. -/
theorem storesHeld : Obligations.StoresHeld := by
  unfold Obligations.StoresHeld
  refine ⟨fun sz disp kb r s f t h hp h0 h1 => ⟨?st, fun h2 => ?sti, fun m hm => ?memory⟩,
    fun sz raw r s f t h hp h0 h1 => fun hactive => ?scatter, fun hi kn r s f t g => exec_kst_of_gather g hi kn⟩
  case st => exact exec_st_of_pooled h hp (by simp [h0, h1]) sz disp kb
  case sti => exact exec_sti_of_pooled h hp (by simp [h0, h1, h2]) sz disp
  case memory => rw [State.countOuts_mem, State.addAct_mem, State.seeStore_mem, hm]
  case scatter => exact exec_scatter_of_pooled h hp (by simp [h0, h1]) rfl hactive raw

end Sys2Proof.Machine

namespace Sys2Proof.Machine

/-! # Every step keeps memory canonical (log 3; R149, R152, R157, R185, R268)

For each operation of the model that answers a state, one lemma: from a state with canonical memory it answers one (`State.Canon m false`
asks nothing of the tile memories). The proofs follow the branches of the operations. -/

section
-- One theorem at a time, as in the tests: together they would ask for more memory than one compile of the package has.
set_option Elab.async false

variable {m : Bool} {s u : State}

/-- A state with the same memory. -/
theorem State.Canon.of_mem (hs : s.Canon m false) (hm : u.mem = s.mem := by rfl) : u.Canon m false :=
  ⟨hm ▸ hs.1, fun _ _ k => nomatch k⟩

theorem State.Canon.putForme (hs : s.Canon m false) {f : Forme} : (s.setForme f).Canon m false := hs.of_mem

theorem State.Canon.drawn {p : Word × State} (hs : s.Canon m false) (e : s.draw = p) : p.2.Canon m false := e ▸ hs.draw

theorem State.Canon.picked {n : Nat} {p : Nat × State} (hs : s.Canon m false) (e : s.pick n = p) : p.2.Canon m false := e ▸ hs.pick n

/-- A step that may wait, and leaves the state as it is then. -/
theorem State.Canon.getD {o : Option State} (hs : s.Canon m false) (ho : ∀ {u}, o = some u → u.Canon m false) : (o.getD s).Canon m false := by
  cases o with
  | none => exact hs
  | some u => exact ho rfl

/-- What every step of a fold that may wait keeps, the fold keeps. -/
theorem State.Canon.foldOpt {α : Type} {g : State → α → Option State} {l : List α}
    (hg : ∀ {s a u}, s.Canon m false → g s a = some u → u.Canon m false) (hs : s.Canon m false) (e : foldOpt g s l = some u) :
    u.Canon m false := by
  induction l generalizing s with
  | nil => cases e; exact hs
  | cons a l ih =>
    unfold Machine.foldOpt at e
    split at e
    · rename_i ha
      exact ih (hg hs ha) e
    · cases e

theorem State.Canon.settle {r : Option State} (hs : s.Canon m false) (hr : ∀ {u}, r = some u → u.Canon m false) (e : settle s r = .next u) :
    u.Canon m false := by
  cases e
  exact hs.getD hr

/-- Clearing a range of memory. -/
theorem State.Canon.clearMem {a n : Nat} (hs : s.Canon m false) : State.Canon m false { s with mem := Memory.clear s.mem a n } :=
  ⟨fun k => Memory.clear_wf (hs.1 k) a n, fun _ _ k => nomatch k⟩

/-- Putting cells over a cleared range of memory. -/
theorem State.Canon.copyMem {a n b : Nat} {l : List Host.Cell} (hs : s.Canon m false) :
    State.Canon m false { s with mem := Memory.putCells (Memory.clear s.mem a n) b l } :=
  ⟨fun k => Memory.putCells_wf (Memory.clear_wf (hs.1 k) a n) b l, fun _ _ k => nomatch k⟩

theorem State.Canon.optMap {o : Option State} {g : State → State} (hg : ∀ {v}, v.Canon m false → (g v).Canon m false)
    (ho : ∀ {v}, o = some v → v.Canon m false) (e : o.map g = some u) : u.Canon m false := by
  obtain ⟨v, hv, rfl⟩ := Option.map_eq_some_iff.1 e
  exact hg (ho hv)

theorem State.Canon.optIte {c : Prop} [Decidable c] {a b : Option State} (ha : a = some u → u.Canon m false)
    (hb : b = some u → u.Canon m false) (e : (if c then a else b) = some u) : u.Canon m false := by
  split at e
  · exact ha e
  · exact hb e

/-- A record that acts at the commit without a result. -/
theorem State.Canon.quiet {o : Option State} {r : State × Option Word × Sticky} (ho : ∀ {v}, o = some v → v.Canon m false)
    (e : (o.map fun s => .ok (s, none, 0) : Acted) = some (.ok r)) : r.1.Canon m false := by
  obtain ⟨v, hv, e⟩ := Option.map_eq_some_iff.1 e
  cases e
  exact ho hv

/-- The state that a round's commit has come to, if it has come to one. -/
def Round.Canon (m : Bool) (r : Round) : Prop := ∀ u, r = .ok u → u.Canon m false

/-! ## Shared operations -/

theorem State.Canon.writeLe (hs : s.Canon m false) {a n v : Nat} : (s.writeLe a n v).Canon m false := hs.writeN ..

theorem State.Canon.useXl (hs : s.Canon m false) {die xl part : Nat} {a : Addr} : (s.useXl die xl part a).Canon m false := by
  unfold State.useXl
  split
  · exact hs.setDie ..
  · exact hs

theorem State.Canon.unrecorded (hs : s.Canon m false) {x : Ctx} {f : FaultHead} {reason : Nat} {work : FaultWork}
    (e : s.unrecorded x f reason work = some u) : u.Canon m false := (hs.setCtx ..).postHost e

theorem State.Canon.drawWords {n : Nat} {p : List Word × State} (hs : s.Canon m false) (e : s.drawWords n = p) : p.2.Canon m false := by
  subst e
  induction n generalizing s with
  | zero => exact hs
  | succ n ih => exact ih hs.draw

theorem State.Canon.storeSpilled (hs : s.Canon m false) {t : Nat} {e : MEntry} : (State.storeSpilled t s e).Canon m false := by
  unfold State.storeSpilled
  split
  rename_i e1
  exact (hs.drawWords e1).writeN ..

theorem State.Canon.keepTile (hs : s.Canon m false) {d : DTile} : (s.keepTile d).Canon m false := .foldl (fun _ _ k => k.storeSpilled) _
    (hs.setTile ..)

theorem State.Canon.lateReturns (hs : s.Canon m false) {p : Nat} : (s.lateReturns p).Canon m false := by
  unfold State.lateReturns
  split
  · exact hs
  · exact .ite hs (.foldl (fun _ _ k => k.returnHold ..) _ (hs.setPart ..))

/-! ## Operands and sets -/

theorem State.Canon.setCore (hs : s.Canon m false) {f : Forme} {c : Core} : (s.setCore f c).Canon m false := hs.putForme

theorem State.Canon.setElem (hs : s.Canon m false) {h : Nat} {e : ElemState} : (s.setElem h e).Canon m false := by
  unfold State.setElem
  split
  · exact hs.setCore
  · exact hs

theorem State.Canon.setRt (hs : s.Canon m false) {h x y : Nat} {r : RtState} : (s.setRt h x y r).Canon m false := by
  unfold State.setRt
  split
  · exact hs.setElem
  · exact hs

theorem State.Canon.takeAt {u : Firing × State} (hs : s.Canon m false) {f : Forme} {x y : Nat} {ports : List Nat} {rt : BitVec 4}
    (e : s.takeAt f x y ports rt = u) : u.2.Canon m false := by
  unfold State.takeAt at e
  cases e; exact hs.setCore

theorem State.Canon.gatherElem {u : Firing × State} (hs : s.Canon m false) {h x y : Nat} {ports : List Nat}
    (e : s.gatherElem h x y ports = some u) : u.2.Canon m false := by
  unfold State.gatherElem at e
  split at e
  · cases e
  · split at e
    · cases e
    · obtain ⟨v1, e1, rfl⟩ := Option.map_eq_some_iff.1 e
      exact hs.takeAt rfl

theorem State.Canon.gatherThis {u : Firing × State} (hs : s.Canon m false) {t : Nat} {i : Inst} (e : s.gatherThis t i = some u) : u.2.Canon
    m false := by
  unfold State.gatherThis at e
  dsimp only at e
  split at e
  · split at e
    · cases e
    · split at e
      · cases e
      · cases e; exact hs.setTile ..
  · cases e

theorem State.Canon.gatherInst {u : Firing × State} (hs : s.Canon m false) {t node : Nat} {tag : Tag}
    (e : s.gatherInst t node tag = some u) : u.2.Canon m false := by
  unfold State.gatherInst at e
  obtain ⟨v1, e1, e⟩ := Option.bind_eq_some_iff.1 e
  exact hs.gatherThis e

theorem State.Canon.gather {u : Firing × State} (hs : s.Canon m false) {r : Shell} (e : s.gather r = some u) : u.2.Canon m false := by
  unfold State.gather at e
  split at e
  · cases e
  · exact hs.gatherElem e
  · exact hs.gatherInst e

theorem State.Canon.setGalley (hs : s.Canon m false) {t : Nat} {g : Galley} : (s.setGalley t g).Canon m false := hs.setTile ..

/-! ## Results, faults and firings -/

theorem State.Canon.sendLink (hs : s.Canon m false) {h : Nat} {l : LinkTok} : (s.sendLink h l).Canon m false := by
  unfold State.sendLink
  split
  · exact hs.putForme
  · exact hs

theorem State.Canon.output (hs : s.Canon m false) {f : Firing} {second : Bool} {d : BitVec 16} {t : Tok} : (s.output f second d t).Canon m
    false := by
  unfold State.output
  split
  · exact hs
  · exact hs.setGalley

theorem State.Canon.stage (hs : s.Canon m false) {f : Firing} {w : StagedWork} : (s.stage f w).Canon m false := by
  unfold State.stage
  split
  · exact hs
  · exact hs.putForme

theorem State.Canon.send (hs : s.Canon m false) {f : Firing} {second : Bool} {d : BitVec 16} {t : Tok} : (s.send f second d t).Canon m
    false := by
  unfold State.send
  split
  · exact hs
  · split
    · split
      · exact hs.sendLink
      · exact hs
    · split
      · exact hs
      · exact .ite (hs.sendTile ..) hs.output

theorem State.Canon.sendBoth (hs : s.Canon m false) {f : Firing} {r : Shell} {t : Tok} : (s.sendBoth f r t).Canon m false := hs.send.send

theorem State.Canon.sendTwo (hs : s.Canon m false) {f : Firing} {r : Shell} {a b : Tok} : (s.sendTwo f r a b).Canon m false := hs.send.send

theorem State.Canon.leave (hs : s.Canon m false) {f : Firing} {st : Sticky} {steps : Nat} : (s.leave f st steps).Canon m false := by
  unfold State.leave
  split
  · split
    · exact hs
    · exact hs.setElem
  · split
    · exact hs
    · exact hs.setGalley

theorem State.Canon.faultAt (hs : s.Canon m false) {f : Firing} {port cls reason : Nat} {pay : Pay}
    (e : s.faultAt f port cls reason pay = some u) : u.Canon m false := by
  unfold State.faultAt at e
  split at e
  · exact hs.faultForme e
  · split at e
    · exact hs.faultGalley e
    · cases e; exact hs

theorem State.Canon.countFault (hs : s.Canon m false) {f : Firing} {port : Nat} (e : s.countFault f port = some u) : u.Canon m false :=
    hs.faultAt e

theorem State.Canon.tagFault (hs : s.Canon m false) {f : Firing} (e : s.tagFault f = some u) : u.Canon m false := hs.faultAt e

theorem State.Canon.privFault (hs : s.Canon m false) {f : Firing} (e : s.privFault f = some u) : u.Canon m false := hs.faultAt e

theorem State.Canon.spillFault (hs : s.Canon m false) {f : Firing} {port : Nat} (e : s.spillFault f port = some u) : u.Canon m false :=
    hs.faultAt e

theorem State.Canon.accessFault (hs : s.Canon m false) {f : Firing} {cls va size kind : Nat}
    (e : s.accessFault f cls va size kind = some u) : u.Canon m false := hs.faultAt e

theorem State.Canon.parkInst (hs : s.Canon m false) {t : Nat} {i : Inst} : (s.parkInst t i).Canon m false := by
  unfold State.parkInst
  split
  exact hs.setTile ..

theorem State.Canon.park (hs : s.Canon m false) : (s.park).Canon m false := by
  unfold State.park
  split
  · dsimp only
    split
    · exact .ite hs.parkInst hs
    · exact hs
  · exact hs

theorem State.Canon.settleFire {r : Option State} (hs : s.Canon m false) (hr : ∀ {u}, r = some u → u.Canon m false)
    (e : settleFire s r = .next u) : u.Canon m false := by
  cases e
  exact hs.park.getD hr

theorem State.Canon.fire (hs : s.Canon m false) {r : Shell} {value : Firing → State → Option State}
    (hvalue : ∀ x0 t v, t.Canon m false → value x0 t = some v → v.Canon m false) (e : s.fire r value = .next u) : u.Canon m false := by
  unfold State.fire at e
  refine hs.settleFire (fun e => ?_) e
  split at e
  · cases e
  · rename_i e1
    split at e
    · exact (hs.gather e1).countFault e
    · cases e; exact (hs.gather e1).sendBoth
    · cases e; exact (hs.gather e1).sendBoth
    · exact hvalue _ _ _ (hs.gather e1) e

theorem State.Canon.fireActive (hs : s.Canon m false) {r : Shell} {value : Firing → State → Option State}
    (hvalue : ∀ x0 t v, t.Canon m false → value x0 t = some v → v.Canon m false) (e : s.fireActive r value = .next u) : u.Canon m false := by
  unfold State.fireActive at e
  refine hs.fire (fun f t v k e => ?_) e
  split at e
  · cases e; exact k.sendBoth
  · exact hvalue _ _ _ k e

theorem State.Canon.emitComp (hs : s.Canon m false) {f : Firing} {r : Shell} {c : Option Comp} : (s.emitComp f r c).Canon m false := by
  unfold State.emitComp
  split
  · exact hs.sendBoth
  · exact hs.leave.sendBoth

theorem State.Canon.compute (hs : s.Canon m false) {r : Shell} {comp : Opnds → Option Comp} (e : s.compute r comp = .next u) : u.Canon m
    false := by
  unfold State.compute at e
  refine hs.fire (fun f t v k e => ?_) e
  cases e; exact k.emitComp

/-! ## Dataflow control -/

theorem State.Canon.holdCounter (hs : s.Canon m false) {f : Firing} {count : Word} {flags : BitVec 4} : (s.holdCounter f count flags).Canon
    m false := by
  unfold State.holdCounter
  split
  · split
    · exact hs.setRt
    · exact hs
  · exact hs.keepTile

theorem State.Canon.keep (hs : s.Canon m false) {f : Firing} {count : Word} {flags : BitVec 4} : (s.keep f count flags).Canon m false :=
    .ite (hs.setTile ..) hs.holdCounter

theorem State.Canon.keepThen (hs : s.Canon m false) {f : Firing} {port : Nat} {count : Word} {flags : BitVec 4} {go : State → State}
    (hgo : ∀ t, t.Canon m false → (go t).Canon m false) (e : s.keepThen f port count flags go = some u) : u.Canon m false := by
  unfold State.keepThen at e
  split at e
  · exact hs.spillFault e
  · dsimp only at e
    split at e
    · cases e
    · cases e; exact hgo _ hs.keep

theorem State.Canon.execCopy (hs : s.Canon m false) {r : Shell} (e : execCopy r s = .next u) : u.Canon m false := by
  unfold Machine.execCopy at e
  refine hs.fire (fun f t v k e => ?_) e
  cases e; exact k.sendBoth

theorem State.Canon.execSteer (hs : s.Canon m false) {nul : Bool} {r : Shell} (e : execSteer nul r s = .next u) : u.Canon m false := by
  unfold Machine.execSteer at e
  refine hs.fire (fun f t v k e => ?_) e
  split at e <;> (cases e; exact .ite k.sendTwo k.send)

theorem State.Canon.execGate (hs : s.Canon m false) {nul : Bool} {r : Shell} (e : execGate nul r s = .next u) : u.Canon m false := by
  unfold Machine.execGate at e
  refine hs.fire (fun f t v k e => ?_) e
  cases e; exact .ite k.sendBoth (.ite k.sendBoth k)

theorem State.Canon.execSink (hs : s.Canon m false) {r : Shell} (e : execSink r s = .next u) : u.Canon m false := by
  unfold Machine.execSink at e
  refine hs.fire (fun x t v k e => ?_) e
  cases e; exact k

theorem State.Canon.execJoin (hs : s.Canon m false) {r : Shell} (e : execJoin r s = .next u) : u.Canon m false := by
  unfold Machine.execJoin at e
  refine hs.fire (fun f t v k e => ?_) e
  cases e; exact k.sendBoth

theorem State.Canon.execNullout (hs : s.Canon m false) {r : Shell} (e : execNullout r s = .next u) : u.Canon m false := by
  unfold Machine.execNullout at e
  refine hs.fire (fun f t v k e => ?_) e
  cases e; exact k.sendBoth

theorem State.Canon.mergePred (hs : s.Canon m false) {f : Firing} {r : Shell} (e : s.mergePred f r = some u) : u.Canon m false := by
  unfold State.mergePred at e
  dsimp only at e
  split at e
  · split at e
    · cases e; exact hs.sendBoth
    · exact hs.countFault e
  · split at e
    · split at e
      · exact hs.countFault e
      · split at e <;> (cases e; exact hs.sendBoth)
    · split at e
      · exact hs.countFault e
      · split at e <;> (cases e; exact hs.sendBoth)

theorem State.Canon.gatherMerge {u : Firing × State} (hs : s.Canon m false) {h x y : Nat} (e : s.gatherMerge h x y = some u) : u.2.Canon m
    false := by
  unfold State.gatherMerge at e
  split at e
  · cases e
  · split at e
    · cases e
    · obtain ⟨v1, e1, rfl⟩ := Option.map_eq_some_iff.1 e
      exact hs.takeAt rfl

theorem State.Canon.mergeAny (hs : s.Canon m false) {f : Firing} {r : Shell} {k : Nat} {t : Tok} (e : s.mergeAny f r k t = some u) :
    u.Canon m false := by
  unfold State.mergeAny at e
  split at e
  dsimp only at e
  split at e
  · split at e
    · split at e
      · cases e; exact hs.keep.sendBoth
      · exact hs.keepThen (fun _ k => k) e
    · split at e
      · cases e; exact hs.keep.sendBoth
      · exact hs.keepThen (fun _ k => k) e
  · cases e; exact hs.sendBoth

theorem State.Canon.gatherAny {u : Nat × Firing × State} (hs : s.Canon m false) {h x y : Nat} (e : s.gatherAny h x y = some u) :
    u.2.2.Canon m false := by
  unfold State.gatherAny at e
  split at e
  · cases e
  · split at e
    · cases e
    · obtain ⟨v1, e1, rfl⟩ := Option.map_eq_some_iff.1 e
      exact hs.takeAt rfl

theorem State.Canon.anyInst {u : Nat × Firing × State} (hs : s.Canon m false) {t node : Nat} {tag : Tag}
    (e : s.anyInst t node tag = some u) : u.2.2.Canon m false := by
  unfold State.anyInst at e
  obtain ⟨v1, e1, e⟩ := Option.bind_eq_some_iff.1 e
  obtain ⟨v2, e2, rfl⟩ := Option.map_eq_some_iff.1 e
  exact hs.gatherThis e2

theorem State.Canon.execMerge (hs : s.Canon m false) {kind : MergeKind} {r : Shell} (e : execMerge kind r s = .next u) : u.Canon m false :=
    by
  unfold Machine.execMerge at e
  split at e
  · refine hs.settleFire (fun e => ?_) e
    split at e
    · cases e
    · rename_i e1
      split at e
      · exact (hs.gather e1).countFault e
      · cases e; exact (hs.gather e1).sendBoth
      · dsimp only at e
        split at e
        · cases e; exact (hs.gather e1).sendBoth
        · split at e
          · cases e; exact (hs.gather e1).sendBoth
          · exact (hs.gather e1).countFault e
  · refine hs.settleFire (fun e => ?_) e
    split at e
    · cases e
    · rename_i e1
      exact (hs.gatherMerge e1).mergePred e
  · refine hs.settleFire (fun e => ?_) e
    split at e
    · cases e
    · rename_i e1
      exact (hs.gather e1).mergePred e
  · refine hs.settleFire (fun e => ?_) e
    split at e
    · cases e
    · rename_i e1
      exact (hs.gatherAny e1).mergeAny e
  · refine hs.settleFire (fun e => ?_) e
    split at e
    · cases e
    · rename_i e1
      exact (hs.anyInst e1).mergeAny e
  · cases e; exact hs

theorem State.Canon.emitNext (hs : s.Canon m false) {h x y : Nat} {r : Shell} (e : s.emitNext h x y r = some u) : u.Canon m false := by
  unfold State.emitNext at e
  split at e
  · cases e
  · dsimp only at e
    split at e
    · cases e
    · split at e
      · cases e
      · split at e
        · cases e; exact .ite hs.setElem.sendBoth hs.setElem
        · cases e; exact hs.setElem.sendBoth

theorem State.Canon.startStream (hs : s.Canon m false) {f : Firing} {r : Shell} {n : Nat} {v step : Word} {eos : Bool}
    (e : s.startStream f r n v step eos = some u) : u.Canon m false := by
  unfold State.startStream at e
  split at e
  · split at e
    · cases e; exact hs
    · split at e
      · cases e; exact hs
      · cases e; exact .getD hs.setElem fun e => hs.setElem.emitNext e
  · cases e; exact .ite ((State.Canon.foldl (fun _ _ k => k.sendBoth) _ hs).sendBoth) (.foldl (fun _ _ k => k.sendBoth) _ hs)

theorem State.Canon.fireOnce (hs : s.Canon m false) {go : Firing → State → Option State}
    (hgo : ∀ x0 t v, t.Canon m false → go x0 t = some v → v.Canon m false) (e : s.fireOnce go = some u) : u.Canon m false := by
  unfold State.fireOnce at e
  split at e
  · split at e
    · cases e
    · dsimp only at e
      split at e
      · cases e
      · exact hgo _ _ _ hs.setElem e
  · cases e

theorem State.Canon.execConst (hs : s.Canon m false) {value : BitVec 32} {r : Shell} (e : execConst value r s = .next u) : u.Canon m false
    := by
  unfold Machine.execConst at e
  split at e
  · refine hs.settleFire (fun e => ?_) e
    refine hs.fireOnce (fun f t v k e => ?_) e
    cases e; exact k.sendBoth
  · refine hs.fireActive (fun f t v k e => ?_) e
    cases e; exact k.sendBoth

theorem State.Canon.execRepeatN (hs : s.Canon m false) {eos : Bool} {raw : BitVec 32} {r : Shell} (e : execRepeatN eos raw r s = .next u) :
    u.Canon m false := by
  unfold Machine.execRepeatN at e
  split at e
  · exact hs.settleFire (fun e => hs.emitNext e) e
  · split at e
    · exact hs.settleFire (fun e => hs.fireOnce (fun _ _ _ k e => k.startStream e) e) e
    · exact hs.fireActive (fun _ _ _ k e => k.startStream e) e

theorem State.Canon.execSeq (hs : s.Canon m false) {eos : Bool} {r : Shell} (e : execSeq eos r s = .next u) : u.Canon m false := by
  unfold Machine.execSeq at e
  split at e
  · exact hs.settleFire (fun e => hs.emitNext e) e
  · exact hs.fireActive (fun _ _ _ k e => k.startStream e) e

theorem State.Canon.execEosout (hs : s.Canon m false) {r : Shell} (e : execEosout r s = .next u) : u.Canon m false := by
  unfold Machine.execEosout at e
  refine hs.settleFire (fun e => ?_) e
  split at e
  · cases e
  · rename_i e1
    split at e
    · cases e; exact (hs.gather e1).sendBoth
    · split at e
      · exact (hs.gather e1).countFault e
      · cases e; exact (hs.gather e1).sendBoth
      · cases e; exact (hs.gather e1).sendBoth
      · cases e; exact .ite (((hs.gather e1).sendBoth).sendBoth) ((hs.gather e1).sendBoth)

theorem State.Canon.execEoswait (hs : s.Canon m false) {fwd : Bool} {r : Shell} (e : execEoswait fwd r s = .next u) : u.Canon m false := by
  unfold Machine.execEoswait at e
  refine hs.settleFire (fun e => ?_) e
  split at e
  · cases e
  · rename_i e1
    split at e
    split at e
    · cases e; exact ((hs.gather e1).keep).sendTwo
    · exact (hs.gather e1).keepThen (fun _ k => k) e

/-! ## Tags, routes, windows, contexts -/

theorem State.Canon.setRoute (hs : s.Canon m false) {h : Nat} {rt : BitVec 4} {e : RouteEntry} : (s.setRoute h rt e).Canon m false := by
  unfold State.setRoute
  split
  · exact hs.setCore
  · exact hs

theorem State.Canon.fireTag (hs : s.Canon m false) {r : Shell} {act : Firing → State → Option State}
    (hact : ∀ x0 t v, t.Canon m false → act x0 t = some v → v.Canon m false) (e : s.fireTag r act = .next u) : u.Canon m false := by
  unfold State.fireTag at e
  refine hs.settleFire (fun e => ?_) e
  split at e
  · cases e
  · rename_i e1
    split at e
    · exact (hs.gather e1).countFault e
    · exact hact _ _ _ (hs.gather e1) e

theorem State.Canon.retag {u : Firing × State} (hs : s.Canon m false) {f : Firing} {rt : BitVec 4} {t : Tag} (e : s.retag f rt t = u) :
    u.2.Canon m false := by
  unfold State.retag at e
  split at e
  · cases e; exact hs.setRoute
  · cases e; exact hs

theorem State.Canon.tagStep (hs : s.Canon m false) {r : Shell} {rt : BitVec 4} {g : Tag → Option Tag} (e : s.tagStep r rt g = .next u) :
    u.Canon m false := by
  unfold State.tagStep at e
  refine hs.fireTag (fun f t v k e => ?_) e
  split at e
  · exact k.tagFault e
  · split at e
    rename_i e3
    cases e; exact (k.retag e3).sendBoth

theorem State.Canon.execCall (hs : s.Canon m false) {callSite : BitVec 16} {rt : BitVec 4} {r : Shell}
    (e : execCall callSite rt r s = .next u) : u.Canon m false := by
  unfold Machine.execCall at e
  refine hs.fireTag (fun f t v k e => ?_) e
  split at e
  · split at e
    · exact k.tagFault e
    · split at e
      rename_i e3
      cases e; exact (k.retag e3).sendBoth
  · split at e
    · split at e
      · exact k.tagFault e
      · cases e; exact k.output
    · split at e
      · cases e; exact k
      · cases e; exact k.setGalley

theorem State.Canon.execRet (hs : s.Canon m false) {rt : BitVec 4} {r : Shell} (e : execRet rt r s = .next u) : u.Canon m false := by
  unfold Machine.execRet at e
  refine hs.fireTag (fun f t v k e => ?_) e
  split at e
  · exact k.tagFault e
  · split at e
    rename_i e3
    split at e
    · cases e; exact (k.retag e3).sendTwo
    · cases e; exact (k.retag e3).output

theorem State.Canon.execGettag (hs : s.Canon m false) {sel : GetSel} {r : Shell} (e : execGettag sel r s = .next u) : u.Canon m false := by
  unfold Machine.execGettag at e
  refine hs.fireTag (fun f t v k e => ?_) e
  cases e; exact k.sendBoth

theorem State.Canon.execSettag (hs : s.Canon m false) {sel : SetSel} {rt : BitVec 4} {r : Shell} (e : execSettag sel rt r s = .next u) :
    u.Canon m false := by
  unfold Machine.execSettag at e
  refine hs.fireTag (fun f t v k e => ?_) e
  dsimp only at e
  split at e
  · exact k.tagFault e
  · split at e
    · cases e; exact (k.retag rfl).sendBoth
    · split at e
      · split at e
        · exact k.tagFault e
        · cases e; exact (k.retag rfl).sendBoth
      · split at e
        · exact k.privFault e
        · split at e
          · exact k.tagFault e
          · cases e; exact k.sendBoth

theorem State.Canon.release (hs : s.Canon m false) {f : Firing} {t : Tok} (e : s.release f t = some u) : u.Canon m false := by
  unfold State.release at e
  split at e
  · cases e; exact hs
  · split at e
    split at e
    · exact hs.countFault e
    · cases e; exact hs.holdCounter

theorem State.Canon.letIn (hs : s.Canon m false) {f : Firing} {r : Shell} {t : Tok} (e : s.letIn f r t = some u) : u.Canon m false := by
  unfold State.letIn at e
  split at e
  split at e
  · cases e; exact hs.keep.sendBoth
  · exact hs.keepThen (fun _ k => k.sendBoth) e

theorem State.Canon.windowElem {h x y : Nat} {k : BitVec 8} {r : Shell} (hs : s.Canon m false) (e : s.windowElem h x y k r = some u) :
    u.Canon m false := by
  unfold State.windowElem at e
  split at e
  · cases e
  · split at e
    · cases e
    · dsimp only at e
      split at e
      · cases e
      · split at e
        · cases e
        · rename_i t hafter
          have ht : t.Canon m false := by
            split at hafter
            · cases hafter; exact hs
            · exact (hs.takeAt rfl).release hafter
          split at e
          · split at e
            · exact (ht.takeAt rfl).letIn e
            · cases e; exact ht
          · cases e; exact ht

theorem State.Canon.windowInst (hs : s.Canon m false) {t node : Nat} {tag : Tag} {k : BitVec 8} {r : Shell}
    (e : s.windowInst t node tag k r = some u) : u.Canon m false := by
  unfold State.windowInst at e
  obtain ⟨v1, e1, e⟩ := Option.bind_eq_some_iff.1 e
  obtain ⟨v2, e2, e⟩ := Option.bind_eq_some_iff.1 e
  split at e
  · exact (hs.gatherThis e2).release e
  · split at e
    · exact (hs.gatherThis e2).letIn e
    · cases e
  · cases e

theorem State.Canon.execWindow (hs : s.Canon m false) {k : BitVec 8} {r : Shell} (e : execWindow k r s = .next u) : u.Canon m false := by
  unfold Machine.execWindow at e
  refine hs.settleFire (fun e => ?_) e
  split at e
  · exact hs.windowElem e
  · exact hs.windowInst e
  · cases e

theorem State.Canon.execRoute (hs : s.Canon m false) {mask : BitVec 16} {r : Shell} (e : execRoute mask r s = .next u) : u.Canon m false :=
    by
  unfold Machine.execRoute at e
  refine hs.settleFire (fun e => ?_) e
  split at e
  · split at e
    · cases e
    · split at e
      · cases e
      · dsimp only at e
        split at e
        · cases e
        · split at e
          · cases e
          · split at e
            · cases e
            · cases e; exact hs.setCore.sendBoth
  · cases e

theorem State.Canon.execUnroute (hs : s.Canon m false) {pdest : BitVec 16} {r : Shell} (e : execUnroute pdest r s = .next u) : u.Canon m
    false := by
  unfold Machine.execUnroute at e
  refine hs.fireTag (fun f t v k e => ?_) e
  dsimp only at e
  split at e
  · cases e; exact k
  · split at e
    · split at e
      · split at e
        · cases e; exact k.stage
        · exact k.stray e
      · cases e; exact .ite ((State.Canon.ite k.setRoute k).stage) ((State.Canon.ite k.setRoute k).sendTile ..)
    · cases e; exact k

theorem State.Canon.fireTrigger (hs : s.Canon m false) {r : Shell} {act : Firing → State → Word → Option State}
    (hact : ∀ x0 t x1 v, t.Canon m false → act x0 t x1 = some v → v.Canon m false) (e : s.fireTrigger r act = .next u) : u.Canon m false := by
  unfold State.fireTrigger at e
  refine hs.fireTag (fun f t v k e => ?_) e
  dsimp only at e
  split at e
  · exact hact _ _ _ _ k e
  · cases e; exact k.sendBoth

theorem State.Canon.addAct (hs : s.Canon m false) {f : Firing} {a : Act} : (s.addAct f a).Canon m false := by
  unfold State.addAct
  split
  · exact hs
  · exact hs.setGalley

theorem State.Canon.execCtxnew (hs : s.Canon m false) {r : Shell} (e : execCtxnew r s = .next u) : u.Canon m false := by
  unfold Machine.execCtxnew at e
  refine hs.fireTrigger (fun f t v v k e => ?_) e
  dsimp only at e
  split at e
  · exact k.privFault e
  · split at e
    · cases e; exact k.sendBoth
    · split at e
      · cases e; exact k.sendBoth
      · split at e
        · cases e; exact k.setGalley.addAct.sendBoth
        · cases e; exact k.sendBoth

theorem State.Canon.execCtxfree (hs : s.Canon m false) {r : Shell} (e : execCtxfree r s = .next u) : u.Canon m false := by
  unfold Machine.execCtxfree at e
  refine hs.fireTrigger (fun f t v v k e => ?_) e
  cases e; exact (State.Canon.ite k.addAct k).sendBoth

theorem State.Canon.execNextg (hs : s.Canon m false) {r : Shell} (e : execNextg r s = .next u) : u.Canon m false := by
  unfold Machine.execNextg at e
  refine hs.fireTag (fun f t v k e => ?_) e
  dsimp only at e
  split at e
  · cases e; refine State.Canon.sendBoth ?_
    split
    · exact k.setGalley
    · exact k
  · split at e
    · cases e; refine State.Canon.sendBoth ?_
      split
      · exact k.setGalley
      · exact k
    · split at e
      · cases e; refine State.Canon.sendBoth ?_
        split
        · exact k.setGalley
        · exact k
      · split at e
        · cases e; refine State.Canon.sendTwo ?_
          split
          · exact k.setGalley
          · exact k
        · cases e; refine State.Canon.sendTwo ?_
          split
          · exact k.setGalley
          · exact k

/-! ## Accesses -/

theorem State.Canon.noteRead (hs : s.Canon m false) {f : Firing} {x : Addr} {size kind acc : Nat} : (s.noteRead f x size kind acc).Canon m
    false := by
  unfold State.noteRead
  split
  · exact hs.useXl.setGalley
  · exact hs

theorem State.Canon.noteLoad (hs : s.Canon m false) {f : Firing} {lsid : Nat} {x : Addr} {size : Nat} : (s.noteLoad f lsid x size).Canon m
    false := by
  unfold State.noteLoad
  split
  · exact hs.useXl.setGalley
  · exact hs

theorem State.Canon.noteAtomic (hs : s.Canon m false) {f : Firing} {lsid : Nat} {x : Addr} : (s.noteAtomic f lsid x).Canon m false := by
  unfold State.noteAtomic
  split
  · exact hs.setGalley
  · exact hs

theorem State.Canon.runAgain (hs : s.Canon m false) {t : Nat} {o : Galley} : (s.runAgain t o).Canon m false := (hs.dropGalley ..).reopen ..

theorem State.Canon.runOvertaken {f : Firing} {g : Galley} {lsid size : Nat} {l : List Addr} {p : State × Bool} (hs : s.Canon m false)
    (e : s.runOvertaken f g lsid size l = p) : p.1.Canon m false := by
  subst e
  induction l generalizing s with
  | nil => exact hs
  | cons x l ih =>
    unfold State.runOvertaken
    split
    · exact ih hs
    · split
      · exact hs.runAgain
      · exact ih hs.runAgain

theorem State.Canon.usePort (hs : s.Canon m false) {f : Forme} {bay : Nat} {x : Addr} : (s.usePort f bay x).Canon m false := by
  unfold State.usePort
  split
  · exact hs.useXl
  · exact hs

theorem State.Canon.touch (hs : s.Canon m false) {f : Firing} {x : Addr} {size : Nat} {kind : optParam Nat 0} {acc : optParam Nat size} :
    (s.touch f x size kind acc).Canon m false := by
  unfold State.touch
  split
  · split
    · exact hs.usePort.putForme
    · exact hs
  · exact hs.noteRead

theorem State.Canon.seeStore (hs : s.Canon m false) {f : Firing} {aux : BitVec 5} : (s.seeStore f aux).Canon m false := by
  unfold State.seeStore
  split
  · exact hs.setGalley
  · exact hs

theorem State.Canon.countOuts (hs : s.Canon m false) {f : Firing} {r : Shell} : (s.countOuts f r).Canon m false := by
  unfold State.countOuts
  split
  · exact hs.setGalley
  · exact hs

/-! ## Streams -/

theorem State.Canon.putCore (hs : s.Canon m false) {f : Forme} {c : Core} : (s.putCore f c).Canon m false := hs.putForme

theorem State.Canon.agFault (hs : s.Canon m false) {h x y cls : Nat} {pay : Pay} (e : s.agFault h x y cls pay = some u) : u.Canon m false
    := hs.faultForme e

theorem State.Canon.deposit (hs : s.Canon m false) {part logobj : Nat} {d : Deposit} (e : s.deposit part logobj d = some (.ok u)) : u.Canon
    m false := by
  unfold State.deposit at e
  dsimp only at e
  split at e
  · cases e; exact hs
  · split at e
    · cases e
    · cases e
    · split at e
      · cases e; exact .writePieces _ _ hs
      · split at e
        · cases e
        · cases e
        · cases e; exact .writePieces _ _ (State.Canon.writePieces _ _ hs)

theorem State.Canon.writeLine (hs : s.Canon m false) {part : Nat} {sl : Slot} {w : WinState} {line : Nat}
    (e : s.writeLine part sl w line = some u) : u.Canon m false := by
  unfold State.writeLine at e
  dsimp only at e
  split at e
  · cases e; exact .writePieces _ _ hs
  · cases e
  · cases e; exact hs

theorem State.Canon.writeBack (hs : s.Canon m false) {h : Nat} {sl : Slot} {w : WinState} {below : Nat}
    (e : s.writeBack h sl w below = some u) : u.Canon m false := by
  unfold State.writeBack at e
  split at e
  · cases e; exact hs
  · dsimp only at e
    split at e
    · cases e
    · rename_i e1
      cases e; exact (State.Canon.foldOpt (fun k e => k.writeLine e) hs e1).putCore

theorem State.Canon.flushSlot (hs : s.Canon m false) {h bay : Nat} {sl : Slot} (e : s.flushSlot h bay sl = some u) : u.Canon m false := by
  unfold State.flushSlot at e
  split at e
  · cases e; exact hs
  · split at e
    · split at e
      · exact hs.writeBack e
      · cases e; exact hs
    · cases e; exact hs

theorem State.Canon.agOpen (hs : s.Canon m false) {f : Forme} {bay : Nat} {k : AgTok} {sz : Size} {wport dir : Bool} {n : Nat}
    (e : s.agOpen f bay k sz wport dir n = some u) : u.Canon m false := by
  unfold State.agOpen at e
  dsimp only at e
  split at e
  · exact hs.agFault e
  · split at e
    · exact hs.agFault e
    · split at e
      · split at e
        · cases e
        · split at e
          · exact hs.agFault e
          · cases e; exact hs.putCore
      · split at e
        · cases e
        · split at e
          · exact hs.agFault e
          · cases e; exact hs.putCore

theorem State.Canon.agClose {f : Forme} {bay n : Nat} {k : AgTok} (hs : s.Canon m false) (e : s.agClose f bay k n = some u) :
    u.Canon m false := by
  unfold State.agClose at e
  dsimp only at e
  split at e
  · exact hs.agFault e
  · split at e
    · split at e
      · cases e
      · split at e
        · cases e
        · rename_i hflush
          split at e
          · cases e; exact hs.flushSlot hflush
          · split at e
            · split at e
              · cases e
              · exact (hs.flushSlot hflush).agFault e
              · rename_i hdep
                cases e
                split at hdep
                · exact ((hs.flushSlot hflush).deposit hdep).putCore
                · cases hdep; exact (hs.flushSlot hflush).putCore
            · cases e; exact (hs.flushSlot hflush).putCore
    · cases e; exact hs.putCore

theorem State.Canon.agSeek {f : Forme} {bay n : Nat} {k : AgTok} (hs : s.Canon m false) (e : s.agSeek f bay k n = some u) :
    u.Canon m false := by
  unfold State.agSeek at e
  dsimp only at e
  split at e
  · exact hs.agFault e
  · split at e
    · cases e
    · rename_i t hflush
      have ht : t.Canon m false := .optIte (fun e => Option.some.inj e ▸ hs) hs.flushSlot hflush
      split at e
      · cases e; exact ht
      · cases e; exact ht.putCore

theorem State.Canon.agHand (hs : s.Canon m false) {f : Forme} {bay : Nat} {k : AgTok} {nslot oslot : Nat}
    (e : s.agHand f bay k nslot oslot = some u) : u.Canon m false := by
  unfold State.agHand at e
  dsimp only at e
  split at e
  · split at e
    · exact hs.agFault e
    · split at e
      · exact hs.agFault e
      · split at e
        · exact hs.agFault e
        · split at e
          · split at e
            · cases e
            · split at e
              · cases e
              · rename_i e1
                split at e
                · cases e; exact hs.flushSlot e1
                · cases e; exact (hs.flushSlot e1).putCore
          · split at e
            · cases e
            · split at e
              · cases e
              · rename_i e1
                split at e
                · cases e; exact hs.flushSlot e1
                · cases e; exact (hs.flushSlot e1).putCore
  · cases e; exact hs

theorem State.Canon.agControl0 (hs : s.Canon m false) {f : Forme} {bay : Nat} {k : AgTok} (e : s.agControl0 f bay k = some u) : u.Canon m
    false := by
  unfold State.agControl0 at e
  split at e
  · exact hs.agOpen e
  · exact hs.agClose e
  · exact hs.agSeek e
  · exact hs.agHand e
  · cases e; exact hs

theorem State.Canon.fillWord {b : List Byte} {p : Word × State} (hs : s.Canon m false) (e : s.fillWord b = p) : p.2.Canon m false := by
  subst e
  unfold State.fillWord
  split
  · exact hs
  · exact hs.draw

theorem State.Canon.streamRead (hs : s.Canon m false) {h bay n : Nat} (e : s.streamRead h bay n = some u) : u.Canon m false := by
  unfold State.streamRead at e
  split at e
  · cases e
  · dsimp only at e
    split at e
    · cases e
    · split at e
      · exact hs.agFault e
      · split at e
        · cases e; exact hs.putCore
        · split at e
          · cases e
          · exact hs.agFault e
          · obtain rfl := Option.some.inj e
            exact ((hs.fillWord rfl).usePort).putCore

theorem State.Canon.streamStore {u : Forme × State} (hs : s.Canon m false) {f : Forme} {bay : Nat} {sl : Slot} {pas : List Nat}
    {b : List Byte} (e : s.streamStore f bay sl pas b = u) : u.2.Canon m false := by
  unfold State.streamStore at e
  split at e
  · cases e; exact hs
  · split at e
    · split at e
      · cases e; exact hs
      · cases e; exact .foldl (fun _ _ k => k.writeN ..) _ hs
    · cases e; exact .foldl (fun _ _ k => k.writeN ..) _ hs

theorem State.Canon.streamWrite (hs : s.Canon m false) {f : Forme} {bay : Nat} {sl : Slot} {t : Tok}
    (e : s.streamWrite f bay sl t = some u) : u.Canon m false := by
  unfold State.streamWrite at e
  dsimp only at e
  split at e
  · cases e; exact hs.putCore
  · split at e
    · cases e; exact hs.putCore
    · split at e
      · cases e
      · split at e
        · exact hs.agFault e
        · split at e
          · cases e
          · exact hs.agFault e
          · split at e
            · cases e
            · cases e; exact (hs.usePort.streamStore rfl).putCore

theorem State.Canon.winStep (hs : s.Canon m false) {h bay n : Nat} (e : s.winStep h bay n = some u) : u.Canon m false := by
  unfold State.winStep at e
  split at e
  · cases e
  · dsimp only at e
    split at e
    · cases e
    · split at e
      · cases e
      · split at e
        · cases e
        · exact hs.agFault e
        · split at e
          · cases e
          · rename_i e1
            split at e
            · cases e; exact hs.writeBack e1
            · split at e
              · cases e; exact hs.writeBack e1
              · cases e; exact ((hs.writeBack e1).usePort).putCore

/-! ## Planes and passes -/

theorem State.Canon.agShift (hs : s.Canon m false) {f : Forme} {bay : Nat} {k : AgTok} {dx dy : Int} {pid n : Nat}
    (e : s.agShift f bay k dx dy pid n = some u) : u.Canon m false := by
  unfold State.agShift at e
  dsimp only at e
  split at e
  · cases e
  · cases e; exact hs
  · split at e
    · exact hs.agFault e
    · cases e; exact hs.putCore

theorem State.Canon.agHalo (hs : s.Canon m false) {f : Forme} {bay : Nat} {k : AgTok} {hw edge pid : Nat}
    (e : s.agHalo f bay k hw edge pid = some u) : u.Canon m false := by
  unfold State.agHalo at e
  dsimp only at e
  split at e
  · cases e; exact hs
  · split at e
    · cases e
    · exact hs.agFault e
    · cases e; exact hs.putCore

theorem State.Canon.agControl1 (hs : s.Canon m false) {f : Forme} {bay : Nat} {k : AgTok} (e : s.agControl1 f bay k = some u) : u.Canon m
    false := by
  unfold State.agControl1 at e
  split at e
  · exact hs.agShift e
  · cases e; exact hs.putCore
  · cases e; exact hs.putCore
  · cases e; exact hs.putCore
  · exact hs.agHalo e
  · cases e; exact hs.putCore
  · cases e; exact hs.putForme
  · cases e; exact hs

theorem State.Canon.agTake (hs : s.Canon m false) {h bay port : Nat} (e : s.agTake h bay port = some u) : u.Canon m false := by
  unfold State.agTake at e
  split at e
  · cases e
  · dsimp only at e
    split at e
    · cases e
    · split at e
      · cases e
      · split at e
        · exact hs.putForme.agControl0 e
        · exact hs.putForme.agControl1 e

theorem State.Canon.agDrain {h bay n : Nat} (hs : s.Canon m false) : (State.agDrain h bay n s).Canon m false := by
  induction n generalizing s with
  | zero => exact hs
  | succ n ih =>
    unfold State.agDrain
    split
    · rename_i e1
      exact ih (hs.agTake e1)
    · split
      · rename_i e1
        exact ih (hs.agTake e1)
      · exact hs

theorem State.Canon.agPushTo (hs : s.Canon m false) {f : Firing} {r : Shell} {d : BitVec 16} {i : Instr} {t : Tok} {b c : Word}
    (e : s.agPushTo f r d i t b c = some u) : u.Canon m false := by
  unfold State.agPushTo at e
  split at e
  · cases e; exact hs
  · split at e
    · dsimp only at e
      split at e
      · cases e
      · cases e; exact hs.putCore.agDrain
    · cases e; exact hs

theorem State.Canon.agPush (hs : s.Canon m false) {f : Firing} {r : Shell} {i : Instr} {t : Tok} {b c : Word}
    (e : s.agPush f r i t b c = some u) : u.Canon m false := hs.agPushTo e

theorem State.Canon.passStep (hs : s.Canon m false) {h bay n : Nat} (e : s.passStep h bay n = some u) : u.Canon m false := by
  unfold State.passStep at e
  split at e
  · cases e
  · dsimp only at e
    split at e
    · cases e
    · split at e
      · cases e
      · split at e
        · split at e
          · cases e; exact hs.putCore.agDrain
          · split at e
            · cases e
            · cases e; exact hs.putCore
        · split at e
          · cases e; exact hs.putCore.agDrain
          · split at e
            · cases e
            · cases e; exact hs.putCore

theorem State.Canon.writePort (hs : s.Canon m false) {h bay : Nat} {wport : Bool} (e : s.writePort h bay wport = some u) : u.Canon m false
    := by
  unfold State.writePort at e
  split at e
  · cases e
  · dsimp only at e
    split at e
    · cases e
    · split at e
      · cases e
      · split at e
        · split at e
          · cases e
          · split at e
            · cases e
            · rename_i e1
              cases e; exact (hs.putForme.streamWrite e1).agDrain
        · split at e
          · cases e
          · split at e
            · split at e
              · cases e
              · cases e; exact hs.putCore
            · split at e
              · cases e
              · cases e; exact hs.putCore

/-! ## Memory records -/

theorem State.Canon.fireData (hs : s.Canon m false) {r : Shell} {data : List Nat} {note : Firing → State → State}
    {value : Firing → State → Option State} (hnote : ∀ x0 t, t.Canon m false → (note x0 t).Canon m false)
    (hvalue : ∀ x0 t v, t.Canon m false → value x0 t = some v → v.Canon m false)
    (e : s.fireData r data note value = .next u) : u.Canon m false := by
  unfold State.fireData at e
  refine hs.settleFire (fun e => ?_) e
  split at e
  · cases e
  · rename_i e1
    split at e
    · exact (hs.gather e1).countFault e
    · cases e; exact (hnote _ _ (hs.gather e1)).sendBoth
    · cases e; exact (hnote _ _ (hs.gather e1)).sendBoth
    · split at e
      · cases e; exact (hnote _ _ (hs.gather e1)).sendBoth
      · exact hvalue _ _ _ (hnote _ _ (hs.gather e1)) e

theorem State.Canon.noNote (hs : s.Canon m false) {x0 : Firing} : (noNote x0 s).Canon m false := hs

theorem State.Canon.noteStore (hs : s.Canon m false) {r : Shell} {f : Firing} : (noteStore r f s).Canon m false := .ite hs hs.seeStore

theorem State.Canon.loadAt (hs : s.Canon m false) {f : Firing} {r : Shell} {x : Addr} {sz : Size} {sx : Bool}
    (e : s.loadAt f r x sz sx = some u) : u.Canon m false := by
  unfold State.loadAt at e
  split at e
  · cases e; exact hs
  · split at e
    rename_i e1
    split at e
    · cases e; exact hs.runOvertaken e1
    · split at e
      · cases e
      · exact (hs.runOvertaken e1).accessFault e
      · cases e; exact ((hs.runOvertaken e1).noteLoad).sendBoth

theorem State.Canon.storeAt (hs : s.Canon m false) {f : Firing} {r : Shell} {i : Instr} {x : Addr} {size : Nat} {v : Word} :
    (s.storeAt f r i x size v).Canon m false := hs.addAct.countOuts

theorem State.Canon.execLd (hs : s.Canon m false) {sz : Size} {sx : Bool} {disp : BitVec 24} {kb : BitVec 6} {r : Shell}
    (e : execLd sz sx disp kb r s = .next u) : u.Canon m false := hs.fireData (fun _ _ k => k.noNote) (fun _ _ _ k e => k.loadAt e) e

theorem State.Canon.execLdi (hs : s.Canon m false) {sz : Size} {sx : Bool} {disp : BitVec 24} {r : Shell}
    (e : execLdi sz sx disp r s = .next u) : u.Canon m false := hs.fireData (fun _ _ k => k.noNote) (fun _ _ _ k e => k.loadAt e) e

theorem State.Canon.execSt (hs : s.Canon m false) {sz : Size} {disp : BitVec 24} {kb : BitVec 6} {r : Shell}
    (e : execSt sz disp kb r s = .next u) : u.Canon m false := by
  unfold Machine.execSt at e
  refine hs.fireData (fun _ _ k => k.noteStore) (fun f t v k e => ?_) e
  cases e; exact k.storeAt

theorem State.Canon.execSti (hs : s.Canon m false) {sz : Size} {disp : BitVec 24} {r : Shell} (e : execSti sz disp r s = .next u) : u.Canon
    m false := by
  unfold Machine.execSti at e
  refine hs.fireData (fun _ _ k => k.noteStore) (fun f t v k e => ?_) e
  cases e; exact k.storeAt

theorem State.Canon.execKld (hs : s.Canon m false) {hi : Bool} {kn : BitVec 6} {r : Shell} (e : execKld hi kn r s = .next u) : u.Canon m
    false := by
  unfold Machine.execKld at e
  refine hs.fireData (fun _ _ k => k.noNote) (fun f t v k e => ?_) e
  split at e
  · cases e; exact k
  · dsimp only at e
    split at e
    · cases e
    · cases e; exact k.sendBoth

theorem State.Canon.seeKst (hs : s.Canon m false) {f : Firing} : (s.seeKst f).Canon m false := by
  unfold State.seeKst
  split
  · exact hs.setGalley
  · exact hs

theorem State.Canon.execKst (hs : s.Canon m false) {hi : Bool} {kn : BitVec 6} {r : Shell} (e : execKst hi kn r s = .next u) : u.Canon m
    false := by
  unfold Machine.execKst at e
  refine hs.settleFire (fun e => ?_) e
  split at e
  · cases e
  · rename_i e1
    cases e; exact ((hs.gather e1).seeKst).addAct

theorem State.Canon.execGather (hs : s.Canon m false) {sz : Size} {sx : Bool} {raw : BitVec 32} {r : Shell}
    (e : execGather sz sx raw r s = .next u) : u.Canon m false := by
  unfold Machine.execGather at e
  refine hs.fireData (fun _ _ k => k.noNote) (fun f t v k e => ?_) e
  dsimp only at e
  split at e
  · split at e
    · cases e; exact k
    · split at e
      · exact k.accessFault e
      · cases e; exact k.sendBoth
  · split at e
    · cases e; exact k
    · split at e
      · cases e; exact k.runOvertaken rfl
      · split at e
        · cases e
        · exact (k.runOvertaken rfl).accessFault e
        · cases e; exact (State.Canon.foldl (fun _ _ k => k.noteLoad) _ (k.runOvertaken rfl)).sendBoth

theorem State.Canon.tileStores (hs : s.Canon m false) {g : Forme} {bay size : Nat} {l : List (Nat × Nat)}
    (e : s.tileStores g bay size l = some u) : u.Canon m false := by
  unfold State.tileStores at e
  split at e
  · cases e
  · cases e; exact hs.putForme

theorem State.Canon.execScatter (hs : s.Canon m false) {sz : Size} {raw : BitVec 32} {r : Shell} (e : execScatter sz raw r s = .next u) :
    u.Canon m false := by
  unfold Machine.execScatter at e
  refine hs.fireData (fun _ _ k => k.noteStore) (fun f t v k e => ?_) e
  dsimp only at e
  split at e
  · cases e; exact k.sendBoth
  · split at e
    · split at e
      · cases e; exact k
      · split at e
        · exact k.accessFault e
        · obtain ⟨v2, e2, rfl⟩ := Option.map_eq_some_iff.1 e
          exact (k.tileStores e2).sendBoth
    · cases e; exact (State.Canon.foldl (fun _ _ k => k.addAct) _ k).countOuts

theorem State.Canon.execPref (hs : s.Canon m false) {raw : BitVec 32} {r : Shell} (e : execPref raw r s = .next u) : u.Canon m false := by
  unfold Machine.execPref at e
  refine hs.fireData (fun _ _ k => k.noNote) (fun f t v k e => ?_) e
  cases e; exact k.sendBoth

theorem State.Canon.execTld (hs : s.Canon m false) {sz : Size} {sx : Bool} {base : BitVec 19} {dx dy : BitVec 6} {r : Shell}
    (e : execTld sz sx base dx dy r s = .next u) : u.Canon m false := by
  unfold Machine.execTld at e
  refine hs.fireData (fun _ _ k => k.noNote) (fun f t v k e => ?_) e
  dsimp only at e
  split at e
  · cases e; exact k
  · split at e
    · cases e; exact k.sendBoth
    · exact k.accessFault e

theorem State.Canon.execTst (hs : s.Canon m false) {sz : Size} {base : BitVec 19} {dx dy : BitVec 6} {r : Shell}
    (e : execTst sz base dx dy r s = .next u) : u.Canon m false := by
  unfold Machine.execTst at e
  refine hs.fireData (fun _ _ k => k.noNote) (fun f t v k e => ?_) e
  dsimp only at e
  split at e
  · cases e; exact k
  · split at e
    · exact k.accessFault e
    · obtain ⟨v2, e2, rfl⟩ := Option.map_eq_some_iff.1 e
      exact (k.tileStores e2).sendBoth

theorem State.Canon.sendConsumer (hs : s.Canon m false) {f : Firing} {r : Shell} {t : Tok} : (s.sendConsumer f r t).Canon m false := .ite
    hs hs.send

theorem State.Canon.fireControl (hs : s.Canon m false) {r : Shell} {act : Firing → State → Option State}
    (hact : ∀ x0 t v, t.Canon m false → act x0 t = some v → v.Canon m false) (e : s.fireControl r act = .next u) : u.Canon m false := by
  unfold State.fireControl at e
  refine hs.settleFire (fun e => ?_) e
  split at e
  · cases e
  · rename_i e1
    split at e
    · exact (hs.gather e1).countFault e
    · cases e; exact (hs.gather e1).sendConsumer
    · cases e; exact (hs.gather e1).sendConsumer
    · split at e
      · cases e; exact (hs.gather e1).sendConsumer
      · exact hact _ _ _ (hs.gather e1) e

theorem State.Canon.execSopen (hs : s.Canon m false) {sz : Size} {wport dir : Bool} {slot : BitVec 3} {r : Shell}
    (e : execSopen sz wport dir slot r s = .next u) : u.Canon m false := hs.fireControl (fun _ _ _ k e => k.agPush e) e

theorem State.Canon.execSclose (hs : s.Canon m false) {slot : BitVec 3} {r : Shell} (e : execSclose slot r s = .next u) : u.Canon m false
    := hs.fireControl (fun _ _ _ k e => k.agPush e) e

theorem State.Canon.execSseek (hs : s.Canon m false) {slot : BitVec 3} {r : Shell} (e : execSseek slot r s = .next u) : u.Canon m false :=
    hs.fireControl (fun _ _ _ k e => k.agPush e) e

/-! ## Plane records -/

theorem State.Canon.execPshift (hs : s.Canon m false) {dy dx : BitVec 6} {pid slot : BitVec 3} {r : Shell}
    (e : execPshift dy dx pid slot r s = .next u) : u.Canon m false := hs.fireControl (fun _ _ _ k e => k.agPush e) e

theorem State.Canon.execPbound (hs : s.Canon m false) {all : Bool} {slot : BitVec 3} {hw : BitVec 5} {kind : BitVec 2} {edges : BitVec 4}
    {r : Shell} (e : execPbound all slot hw kind edges r s = .next u) : u.Canon m false := hs.fireControl (fun _ _ _ k e => k.agPush e) e

theorem State.Canon.execPact (hs : s.Canon m false) {on all : Bool} {slot : BitVec 3} {r : Shell} (e : execPact on all slot r s = .next u)
    : u.Canon m false := hs.fireControl (fun _ _ _ k e => k.agPush e) e

theorem State.Canon.execPhalo (hs : s.Canon m false) {hw : BitVec 5} {edge : BitVec 2} {pid : BitVec 3} {r : Shell}
    (e : execPhalo hw edge pid r s = .next u) : u.Canon m false := hs.fireControl (fun _ _ _ k e => k.agPush e) e

theorem State.Canon.execPflip (hs : s.Canon m false) {pid : BitVec 3} {r : Shell} (e : execPflip pid r s = .next u) : u.Canon m false :=
    hs.fireControl (fun _ _ _ k e => k.agPush e) e

theorem State.Canon.execPmark (hs : s.Canon m false) {pid : BitVec 3} {r : Shell} (e : execPmark pid r s = .next u) : u.Canon m false := by
  unfold Machine.execPmark at e
  refine hs.settleFire (fun e => ?_) e
  split at e
  · cases e
  · rename_i e1
    obtain ⟨v2, e2, rfl⟩ := Option.map_eq_some_iff.1 e
    split at e2
    · exact (((hs.gather e1).setRt).agPush e2).send
    · cases e2; exact ((hs.gather e1).setRt).send

theorem State.Canon.execPcnt (hs : s.Canon m false) {pid : BitVec 3} {r : Shell} (e : execPcnt pid r s = .next u) : u.Canon m false := by
  unfold Machine.execPcnt at e
  refine hs.settleFire (fun e => ?_) e
  split at e
  · cases e
  · rename_i e1
    dsimp only at e
    split at e
    · obtain ⟨v2, e2, rfl⟩ := Option.map_eq_some_iff.1 e
      split at e2
      · exact (((hs.gather e1).setRt).agPush e2).send
      · cases e2; exact ((hs.gather e1).setRt).send
    · split at e
      · exact ((hs.gather e1).setRt).agPush e
      · cases e; exact (hs.gather e1).setRt

theorem State.Canon.execPrule (hs : s.Canon m false) {mask : BitVec 16} {r : Shell} (e : execPrule mask r s = .next u) : u.Canon m false :=
    by
  unfold Machine.execPrule at e
  refine hs.fire (fun f t v k e => ?_) e
  cases e; exact .ite k.sendTwo k.sendTwo

/-! ## Combines, atomics and reduction lines -/

theorem State.Canon.execCmb (hs : s.Canon m false) {cop : CombineOp} {r : Shell} (e : execCmb cop r s = .next u) : u.Canon m false := by
  unfold Machine.execCmb at e
  refine hs.settleFire (fun e => ?_) e
  split at e
  · cases e
  · rename_i e1
    dsimp only at e
    split at e
    · cases e; exact (hs.gather e1).sendBoth
    · split at e
      · split at e
        · cases e; exact (hs.gather e1).sendBoth
        · exact (hs.gather e1).countFault e
      · split at e
        · cases e; exact ((hs.gather e1).setRt).leave
        · cases e; exact (((hs.gather e1).setRt).leave).sendBoth

theorem State.Canon.atomicMem {u : State × Word × Sticky} (hs : s.Canon m false) {part ctx : Nat} {x : Addr} {i : Instr} {v w : Word}
    (e : s.atomicMem part ctx x i v w = some (.ok u)) : u.1.Canon m false := by
  unfold State.atomicMem at e
  split at e
  · cases e
  · cases e
  · split at e
    · cases e
    · split at e
      cases e; exact hs.writeLe

theorem State.Canon.atomicTile (hs : s.Canon m false) {f : Firing} {r : Shell} {i : Instr} {raw : Word} {a : Nat} {v w : Word}
    (e : s.atomicTile f r i raw a v w = some u) : u.Canon m false := by
  unfold State.atomicTile at e
  split at e
  · cases e; exact hs
  · split at e
    · exact hs.accessFault e
    · split at e
      · cases e; exact hs.putForme.leave.sendBoth
      · split at e
        · cases e
        · cases e; exact hs.stage.sendBoth

theorem State.Canon.fireAtomic (hs : s.Canon m false) {r : Shell} {i : Instr} {raw : Word} {data : List Nat}
    (e : s.fireAtomic r i raw data = .next u) : u.Canon m false := by
  unfold State.fireAtomic at e
  refine hs.fireData (fun _ _ k => k.noteStore) (fun f t v k e => ?_) e
  dsimp only at e
  split at e
  · exact k.atomicTile e
  · split at e
    · split at e
      · cases e
      · split at e
        · cases e
        · exact k.accessFault e
        · rename_i e2
          cases e; exact ((k.noteAtomic.atomicMem e2).leave).sendBoth
    · cases e; exact k.addAct.countOuts

theorem State.Canon.redAt {u : State × Sticky} (hs : s.Canon m false) {pa ca : Nat} {op : CombineOp} {v : Word}
    (e : s.redAt pa ca op v = u) : u.1.Canon m false := by
  unfold State.redAt at e
  split at e
  cases e
  dsimp only
  split
  · exact hs.writeLe.writeLe.writeLe
  · exact hs.writeLe.writeLe

theorem State.Canon.execRed (hs : s.Canon m false) {scope : Scope} {rel : Bool} {cop : CombineOp} {r : Shell}
    (e : execRed scope rel cop r s = .next u) : u.Canon m false := by
  unfold Machine.execRed at e
  refine hs.fireData (fun _ _ k => k.noteStore) (fun f t v k e => ?_) e
  dsimp only at e
  split at e
  · cases e; exact k.addAct
  · split at e
    · cases e
    · exact k.accessFault e
    · split at e
      · split at e
        · cases e; exact k.touch.stage
        · cases e
      · cases e; exact (k.redAt rfl).leave

theorem State.Canon.execRedwait (hs : s.Canon m false) {acq : Bool} {scope : Scope} {r : Shell} (e : execRedwait acq scope r s = .next u) :
    u.Canon m false := by
  unfold Machine.execRedwait at e
  refine hs.fireData (fun _ _ k => k.noNote) (fun f t v k e => ?_) e
  dsimp only at e
  split at e
  · split at e
    · cases e
    · exact k.accessFault e
    · split at e
      · cases e
      · exact k.accessFault e
      · cases e
      · exact k.accessFault e
      · split at e
        · cases e; exact k.touch.sendBoth
        · cases e
  · split at e
    · cases e; exact k
    · split at e
      · cases e; exact k.runOvertaken rfl
      · split at e
        · cases e
        · exact (k.runOvertaken rfl).accessFault e
        · cases e
        · exact (k.runOvertaken rfl).accessFault e
        · split at e
          · cases e; exact ((k.runOvertaken rfl).noteLoad).sendBoth
          · cases e

/-! ## Synchronisation -/

theorem State.Canon.execFence (hs : s.Canon m false) {acq : Bool} {scope : Scope} {rel : Bool} {r : Shell}
    (e : execFence acq scope rel r s = .next u) : u.Canon m false := by
  unfold Machine.execFence at e
  refine hs.fireActive (fun f t v k e => ?_) e
  dsimp only at e
  split at e
  · split at e
    · cases e
    · cases e; exact k.sendBoth
  · split at e
    · cases e
    · cases e; exact k.sendBoth

theorem State.Canon.execRoundend (hs : s.Canon m false) {r : Shell} (e : execRoundend r s = .next u) : u.Canon m false := by
  unfold Machine.execRoundend at e
  refine hs.settleFire (fun e => ?_) e
  split at e
  · cases e
  · rename_i e1
    split at e
    · cases e; exact hs.gather e1
    · split at e
      · cases e
      · cases e; exact (hs.gather e1).setCore

theorem State.Canon.weigh (hs : s.Canon m false) {f : Forme} : (s.weigh f).Canon m false := hs.putForme

theorem State.Canon.reweigh (hs : s.Canon m false) {p : Nat} : (s.reweigh p).Canon m false := hs.of_mem

theorem State.Canon.execYield (hs : s.Canon m false) {r : Shell} (e : execYield r s = .next u) : u.Canon m false := by
  unfold Machine.execYield at e
  refine hs.fireActive (fun f t v k e => ?_) e
  cases e; refine State.Canon.sendBoth ?_
  split
  · split
    · exact .ite k.weigh k.putForme
    · exact k
  · exact k.addAct

theorem State.Canon.execEvent (hs : s.Canon m false) {code : BitVec 16} {r : Shell} (e : execEvent code r s = .next u) : u.Canon m false :=
    by
  unfold Machine.execEvent at e
  refine hs.fireActive (fun f t v k e => ?_) e
  obtain ⟨v2, e2, rfl⟩ := Option.map_eq_some_iff.1 e
  split at e2
  · cases e2; exact k.addAct.sendBoth
  · split at e2
    · split at e2
      · cases e2; exact k.stage.sendBoth
      · cases e2
    · exact (k.postEvent e2).sendBoth

theorem State.Canon.barCycle {u : BarCycle × State} (hs : s.Canon m false) {pa : Nat} (e : s.barCycle pa = u) : u.2.Canon m false := by
  unfold State.barCycle at e
  dsimp only at e
  split at e
  · cases e; exact hs
  · split at e
    · cases e; exact hs
    · split at e
      · cases e; exact hs
      · split at e
        · cases e; exact hs.picked rfl
        · cases e; exact hs

theorem State.Canon.barOp {u : State × Word} (hs : s.Canon m false) {pa : Nat} {drop : Bool} (e : s.barOp pa drop = u) : u.1.Canon m false
    := by
  unfold State.barOp at e
  split at e
  rename_i e1
  cases e; exact ((hs.barCycle e1).of_mem).writeLe

theorem State.Canon.barAt {u : State × Word} (hs : s.Canon m false) {part : Nat} {x : Addr} {drop : Bool}
    (e : s.barAt part x drop = some (.ok u)) : u.1.Canon m false := by
  unfold State.barAt at e
  split at e
  · cases e
  · cases e
  · cases e; exact hs.barOp rfl

theorem State.Canon.wake {u : State × Nat} (hs : s.Canon m false) {part : Nat} {va : VA} {n : Nat} (e : s.wake part va n = u) : u.1.Canon m
    false := by
  unfold State.wake at e
  cases e; exact hs.of_mem

theorem State.Canon.wakeAt {u : State × Word} (hs : s.Canon m false) {part : Nat} {x : Addr} {n : Word}
    (e : s.wakeAt part x n = some (.ok u)) : u.1.Canon m false := by
  unfold State.wakeAt at e
  split at e
  · cases e
  · cases e
  · split at e
    rename_i e1
    cases e; exact hs.wake e1

theorem State.Canon.fireSync (hs : s.Canon m false) {r : Shell} {i : Instr} {size : Nat}
    {act : State → Nat → Addr → Word → Option (Except Nat (State × Word))} {answers : Bool}
    (hact : ∀ t x0 x1 x2 v, t.Canon m false → act t x0 x1 x2 = some (.ok v) → v.1.Canon m false)
    (e : s.fireSync r i size act answers = .next u) : u.Canon m false := by
  unfold State.fireSync at e
  refine hs.fireActive (fun f t v k e => ?_) e
  dsimp only at e
  split at e
  · cases e; exact .ite k.addAct.countOuts k.addAct
  · split at e
    · split at e
      · cases e
      · exact k.accessFault e
      · split at e
        · cases e; exact k.touch.stage
        · cases e
    · split at e
      · cases e
      · exact k.accessFault e
      · rename_i e2
        cases e; exact .ite ((hact _ _ _ _ _ k e2).sendBoth) (hact _ _ _ _ _ k e2)

theorem State.Canon.execBararr (hs : s.Canon m false) {scope : Scope} {rel : Bool} {r : Shell} (e : execBararr scope rel r s = .next u) :
    u.Canon m false := hs.fireSync (fun _ _ _ _ _ k e => k.barAt e) e

theorem State.Canon.execBardrop (hs : s.Canon m false) {scope : Scope} {rel : Bool} {r : Shell} (e : execBardrop scope rel r s = .next u) :
    u.Canon m false := hs.fireSync (fun _ _ _ _ _ k e => k.barAt e) e

theorem State.Canon.execWakew (hs : s.Canon m false) {scope : Scope} {rel : Bool} {r : Shell} (e : execWakew scope rel r s = .next u) :
    u.Canon m false := hs.fireSync (fun _ _ _ _ _ k e => k.wakeAt e) e

theorem State.Canon.execBarwait (hs : s.Canon m false) {acq : Bool} {scope : Scope} {r : Shell} (e : execBarwait acq scope r s = .next u) :
    u.Canon m false := by
  unfold Machine.execBarwait at e
  refine hs.fireActive (fun f t v k e => ?_) e
  dsimp only at e
  split at e
  · cases e
  · split at e
    · cases e
    · exact k.accessFault e
    · split at e
      · cases e
      · cases e; exact k.touch.sendBoth

theorem State.Canon.startWait (hs : s.Canon m false) {w : Waiter} : (s.startWait w).Canon m false := by
  unfold State.startWait
  dsimp only
  split
  · exact .ite ((State.Canon.ite hs hs.of_mem).setCtx ..) (.ite hs hs.of_mem)
  · exact .ite hs hs.of_mem

theorem State.Canon.execWaitw (hs : s.Canon m false) {acq : Bool} {scope : Scope} {disp : BitVec 24} {kb : BitVec 6} {r : Shell}
    (e : execWaitw acq scope disp kb r s = .next u) : u.Canon m false := by
  unfold Machine.execWaitw at e
  refine hs.fireActive (fun f t v k e => ?_) e
  dsimp only at e
  split at e
  · cases e
  · split at e
    · cases e
    · exact k.accessFault e
    · split at e
      · cases e; exact (k.of_mem.stopWaiting ..).sendBoth
      · cases e; exact hs.startWait.park

theorem State.Canon.execQuiesce (hs : s.Canon m false) {r : Shell} (e : execQuiesce r s = .next u) : u.Canon m false := by
  unfold Machine.execQuiesce at e
  refine hs.fireActive (fun f t v k e => ?_) e
  split at e
  · exact k.privFault e
  · dsimp only at e
    split at e
    · split at e
      · cases e; exact k.of_mem.sendBoth
      · cases e; exact hs.of_mem.park
    · cases e; exact hs.of_mem.park

theorem State.Canon.execHandover (hs : s.Canon m false) {nslot oslot : BitVec 3} {r : Shell} (e : execHandover nslot oslot r s = .next u) :
    u.Canon m false := hs.fireControl (fun _ _ _ k e => k.agPush e) e

theorem State.Canon.sendOrder (hs : s.Canon m false) {f : Firing} {r : Shell} {i : Instr} {second : Bool} {t : Tok}
    (e : s.sendOrder f r i second t = some u) : u.Canon m false := by
  unfold State.sendOrder at e
  dsimp only at e
  split at e
  · split at e
    · exact hs.agPushTo e
    · cases e; exact hs.send
  · split at e
    · exact hs.agPushTo e
    · cases e; exact hs.send

theorem State.Canon.execOrdtok (hs : s.Canon m false) {scope : Scope} {slot : BitVec 3} {r : Shell}
    (e : execOrdtok scope slot r s = .next u) : u.Canon m false := by
  unfold Machine.execOrdtok at e
  refine hs.settleFire (fun e => ?_) e
  split at e
  · cases e
  · rename_i e1
    split at e
    · exact (hs.gather e1).countFault e
    · obtain ⟨v2, e2, e⟩ := Option.bind_eq_some_iff.1 e
      exact ((hs.gather e1).sendOrder e2).sendOrder e
    · obtain ⟨v2, e2, e⟩ := Option.bind_eq_some_iff.1 e
      exact ((hs.gather e1).sendOrder e2).sendOrder e
    · obtain ⟨v2, e2, e⟩ := Option.bind_eq_some_iff.1 e
      exact ((hs.gather e1).sendOrder e2).sendOrder e

/-! ## Islands -/

theorem State.Canon.takeIsland (hs : s.Canon m false) {u' c : Nat} : (s.takeIsland u' c).Canon m false := .ite (hs.setIsland ..) hs

theorem State.Canon.mma (hs : s.Canon m false) {f : Firing} {r : Shell} {q : Issue} {a : MmaArgs} (e : s.mma f r q a = some u) : u.Canon m
    false := by
  unfold State.mma at e
  dsimp only at e
  split at e
  · exact hs.countFault e
  · split at e
    · exact hs.privFault e
    · split at e
      · cases e
      · split at e
        · cases e
        · split at e
          · split at e
            · split at e
              · exact hs.countFault e
              · split at e
                · exact hs.faultAt e
                · cases e; exact (hs.setIsland ..).sendBoth
            · split at e
              · exact hs.countFault e
              · split at e
                · exact hs.faultAt e
                · cases e; exact (hs.setIsland ..).sendBoth
          · cases e

theorem State.Canon.fireMma {r : Shell} {a : Firing → MmaArgs} (hs : s.Canon m false) (e : s.fireMma r a = .next u) : u.Canon m false := by
  unfold State.fireMma at e
  refine hs.fireActive (fun f t v k e => ?_) e
  rcases Option.or_eq_some_iff.1 e with e | ⟨-, e⟩
  · split at e
    · cases e
    · exact k.mma e
  · cases e; exact hs.park.takeIsland

theorem State.Canon.execMma (hs : s.Canon m false) {fmt : MFmt} {n1 m1 : BitVec 7} {r : Shell} (e : execMma fmt n1 m1 r s = .next u) :
    u.Canon m false := hs.fireMma e

theorem State.Canon.execMmas (hs : s.Canon m false) {fmt : MFmt} {spkt sp24 bmap : Bool} {n1 m1 : BitVec 7} {r : Shell}
    (e : execMmas fmt spkt sp24 bmap n1 m1 r s = .next u) : u.Canon m false := hs.fireMma e

theorem State.Canon.execMzero (hs : s.Canon m false) {n1 m1 : BitVec 7} {r : Shell} (e : execMzero n1 m1 r s = .next u) : u.Canon m false
    := by
  unfold Machine.execMzero at e
  refine hs.fireActive (fun f t v k e => ?_) e
  split at e
  · cases e
  · cases e; exact (k.setIsland ..).sendBoth

theorem State.Canon.execMdrain (hs : s.Canon m false) {zero : Bool} {ofmt : OFmt} {n1 m1 : BitVec 7} {r : Shell}
    (e : execMdrain zero ofmt n1 m1 r s = .next u) : u.Canon m false := by
  unfold Machine.execMdrain at e
  refine hs.fireActive (fun f t v k e => ?_) e
  split at e
  · cases e
  · cases e; exact k.addAct.countOuts

theorem State.Canon.execMtask (hs : s.Canon m false) {isl : BitVec 5} {pdest : BitVec 16} {r : Shell}
    (e : execMtask isl pdest r s = .next u) : u.Canon m false := by
  unfold Machine.execMtask at e
  refine hs.fireTag (fun f t v k e => ?_) e
  dsimp only at e
  split at e
  · cases e; exact .ite k.send k.sendBoth
  · split at e
    · exact k.tagFault e
    · split at e
      · exact k.tagFault e
      · split at e
        · split at e
          · cases e; exact k
          · split at e
            · split at e
              · cases e; exact (k.setIsland ..).send
              · split at e
                · cases e
                · cases e; exact k.stage.send
            · cases e; exact k.send
        · split at e
          · exact k.privFault e
          · cases e; exact k.addAct.sendBoth

theorem State.Canon.execScin (hs : s.Canon m false) {r : Shell} (e : execScin r s = .next u) : u.Canon m false := by
  unfold Machine.execScin at e
  refine hs.settleFire (fun e => ?_) e
  split at e
  · cases e
  · rename_i e1
    dsimp only at e
    split at e
    · exact (hs.gather e1).countFault e
    · cases e; exact .ite (hs.gather e1) ((hs.gather e1).sendBoth)
    · cases e; exact .ite (hs.gather e1) ((hs.gather e1).sendBoth)
    · split at e
      · cases e; exact .ite (hs.gather e1) ((hs.gather e1).sendBoth)
      · split at e
        · split at e
          · cases e; exact hs.gather e1
          · cases e; exact .ite (.ite (hs.gather e1) ((hs.gather e1).sendLink)) ((State.Canon.ite (hs.gather e1) ((hs.gather e1).sendLink)).sendLink)
        · split at e
          · cases e
          · cases e; exact ((hs.gather e1).setIsland ..).sendBoth

theorem State.Canon.gatherScaled {u : Firing × Nat × State} (hs : s.Canon m false) {r : Shell} (e : s.gatherScaled r = some u) :
    u.2.2.Canon m false := by
  unfold State.gatherScaled at e
  split at e
  · split at e
    · cases e
    · split at e
      · cases e
      · obtain ⟨v1, e1, rfl⟩ := Option.map_eq_some_iff.1 e
        exact hs.takeAt rfl
  · cases e

theorem State.Canon.stepBlock (hs : s.Canon m false) {f : Firing} {eos : Bool} : (s.stepBlock f eos).Canon m false := by
  unfold State.stepBlock
  split
  · exact hs
  · exact hs.setElem

theorem State.Canon.scaledProduct (hs : s.Canon m false) {r : Shell} {fmt : MFmt} {withC : Bool}
    (e : s.scaledProduct r fmt withC = .next u) : u.Canon m false := by
  unfold State.scaledProduct at e
  refine hs.settleFire (fun e => ?_) e
  split at e
  · cases e
  · rename_i e1
    split at e
    · exact (hs.gatherScaled e1).countFault e
    · cases e; exact ((hs.gatherScaled e1).stepBlock).sendBoth
    · cases e; exact ((hs.gatherScaled e1).stepBlock).sendBoth
    · dsimp only at e
      split at e
      · cases e; exact ((hs.gatherScaled e1).stepBlock).sendBoth
      · cases e; exact (((hs.gatherScaled e1).stepBlock).leave).sendBoth

theorem State.Canon.execMstat (hs : s.Canon m false) {sel : BitVec 3} {isl : BitVec 5} {r : Shell} (e : execMstat sel isl r s = .next u) :
    u.Canon m false := by
  unfold Machine.execMstat at e
  refine hs.fireActive (fun f t v k e => ?_) e
  dsimp only at e
  split at e
  · exact k.privFault e
  · cases e; exact k.sendBoth

theorem State.Canon.islandPacket (hs : s.Canon m false) {u' n : Nat} (e : s.islandPacket u' n = some u) : u.Canon m false := by
  unfold State.islandPacket at e
  dsimp only at e
  split at e
  · cases e
  · split at e
    · cases e
    · split at e
      · cases e
      · split at e
        · exact (hs.setIsland ..).postPart e
        · split at e
          · cases e; exact hs.setIsland ..
          · split at e
            · cases e; exact hs.setIsland ..
            · split at e
              · cases e; exact hs.setIsland ..
              · cases e; exact (hs.setIsland ..).sendTile ..

/-! ## The compositing accumulator -/

theorem State.Canon.caStore (hs : s.Canon m false) {h x y : Nat} {rt : BitVec 4} {staged : Bool} {a : Addr} {pieces : List (Nat × Nat)}
    {b : List Byte} : (s.caStore h x y rt staged a pieces b).Canon m false := by
  unfold State.caStore
  split
  · split
    · exact hs.putForme
    · exact hs
  · exact .writePieces _ _ hs

theorem State.Canon.logRecs {part h x y : Nat} {rt : BitVec 4} {staged : Bool} {c : CaState} {l : List Nat} {p : CaState × State}
    (hs : s.Canon m false) (e : s.logRecs part h x y rt staged c l = some (.ok p)) : p.2.Canon m false := by
  induction l generalizing s c with
  | nil => cases e; exact hs
  | cons r l ih =>
    unfold State.logRecs at e
    split at e
    · cases e; exact hs
    · dsimp only at e
      split at e
      · cases e
      · cases e
      · split at e
        · exact ih hs.caStore e
        · split at e
          · cases e
          · cases e
          · exact ih hs.caStore.caStore e

theorem State.Canon.caDo {u : State × Sticky} (hs : s.Canon m false) {h x y : Nat} {rt : BitVec 4} {bay : Nat} {op : CaState → CaRes}
    (e : s.caDo h x y rt bay op = some (.ok u)) : u.1.Canon m false := by
  unfold State.caDo at e
  split at e
  · cases e; exact hs
  · dsimp only at e
    split at e
    · cases e
    · split at e
      · cases e
      · cases e
      · rename_i e1
        split at e
        · cases e; exact hs.logRecs e1
        · cases e; exact (hs.logRecs e1).putCore

theorem State.Canon.caLog (hs : s.Canon m false) {h x y : Nat} {rt : BitVec 4} {bay : Nat} {va : VA}
    (e : s.caLog h x y rt bay va = some (.ok u)) : u.Canon m false := by
  unfold State.caLog at e
  split at e
  · cases e; exact hs
  · split at e
    · cases e; exact hs.putCore
    · split at e
      · cases e
      · cases e
      · cases e; exact hs.putCore.caStore

theorem State.Canon.caResolve {u : State × Sticky} (hs : s.Canon m false) {h x y : Nat} {rt : BitVec 4} {bay : Nat} {va : VA}
    (e : s.caResolve h x y rt bay va = some (.ok u)) : u.1.Canon m false := by
  unfold State.caResolve at e
  split at e
  · cases e; exact hs
  · dsimp only at e
    split at e
    · cases e
    · cases e
    · split at e
      · cases e
      · split at e
        · cases e
        · cases e
        · rename_i e1
          cases e; exact (hs.caDo e1).caStore

/-! ## Sampling and compositing records -/

theorem State.Canon.drawHalves {n : Nat} {p : List Nat × State} (hs : s.Canon m false) (e : s.drawHalves n = p) : p.2.Canon m false := by
  subst e
  induction n generalizing s with
  | zero => exact hs
  | succ n ih => exact ih hs.draw

theorem State.Canon.sample {u : List Nat × Sticky × State} (hs : s.Canon m false) {r : Ssr} {n u' v : Nat} {lod : FVal}
    {get : List Tap → Option (Except (Nat × Nat) (List FRes))} (e : r.sample s n u' v lod get = some (.ok u)) : u.2.2.Canon m false := by
  unfold Ssr.sample at e
  split at e
  · cases e; exact hs
  · split at e
    · split at e
      rename_i e1
      cases e; exact hs.drawHalves e1
    · split at e
      · cases e
      · cases e
      · cases e; exact hs

theorem State.Canon.sendRgba (hs : s.Canon m false) {f : Firing} {r : Shell} {c : List Nat} {st : Sticky} : (s.sendRgba f r c st).Canon m
    false := hs.leave.sendTwo

theorem State.Canon.execTex (hs : s.Canon m false) {ssr : BitVec 12} {r : Shell} (e : execTex ssr r s = .next u) : u.Canon m false := by
  unfold Machine.execTex at e
  refine hs.fireActive (fun f t v k e => ?_) e
  split at e
  · cases e
  · exact k.accessFault e
  · split at e
    · exact k.accessFault e
    · dsimp only at e
      split at e
      · cases e
      · exact k.accessFault e
      · rename_i e2
        cases e; exact ((k.sample e2).touch).sendRgba

theorem State.Canon.execTexn (hs : s.Canon m false) {ssr : BitVec 12} {r : Shell} (e : execTexn ssr r s = .next u) : u.Canon m false := by
  unfold Machine.execTexn at e
  refine hs.fireActive (fun f t v k e => ?_) e
  split at e
  · cases e
  · exact k.accessFault e
  · split at e
    · exact k.accessFault e
    · dsimp only at e
      split at e
      · cases e
      · exact k.accessFault e
      · rename_i e2
        split at e
        · cases e
        · exact (k.sample e2).accessFault e
        · split at e
          · cases e
          · exact (k.sample e2).accessFault e
          · cases e; exact (((k.sample e2).touch).touch).sendRgba

theorem State.Canon.execMarch (hs : s.Canon m false) {base : BitVec 19} {dx dy : BitVec 6} {r : Shell}
    (e : execMarch base dx dy r s = .next u) : u.Canon m false := by
  unfold Machine.execMarch at e
  refine hs.fireActive (fun f t v k e => ?_) e
  split at e
  · cases e; exact k
  · dsimp only at e
    split at e
    · exact k.accessFault e
    · cases e; exact k.sendTwo

theorem State.Canon.opFault (hs : s.Canon m false) {f : Firing} {e' : Failed} (e : s.opFault f e' = some u) : u.Canon m false :=
    hs.accessFault e

theorem State.Canon.caAt (hs : s.Canon m false) {f : Firing} {r : Shell} {dx dy : BitVec 6} {op : CaState → CaRes} {reply : Option Tok}
    (e : s.caAt f r dx dy op reply = some u) : u.Canon m false := by
  unfold State.caAt at e
  split at e
  · cases e
  · exact hs.opFault e
  · rename_i e1
    cases e; split
    · exact ((hs.caDo e1).leave).sendBoth
    · exact (hs.caDo e1).leave

theorem State.Canon.execCadd (hs : s.Canon m false) {page : BitVec 4} {dx dy : BitVec 6} {r : Shell}
    (e : execCadd page dx dy r s = .next u) : u.Canon m false := by
  unfold Machine.execCadd at e
  refine hs.fireActive (fun f t v k e => ?_) e
  exact k.caAt e

theorem State.Canon.execCwmk (hs : s.Canon m false) {dx dy : BitVec 6} {r : Shell} (e : execCwmk dx dy r s = .next u) : u.Canon m false :=
    by
  unfold Machine.execCwmk at e
  refine hs.fireActive (fun f t v k e => ?_) e
  exact k.caAt e

theorem State.Canon.pooledCa (hs : s.Canon m false) {f : Firing} {r : Shell} {i : Instr} {port : Nat} (e : s.pooledCa f r i port = some u)
    : u.Canon m false := by
  unfold State.pooledCa at e
  split at e
  · exact hs.faultAt e
  · cases e; exact hs.addAct.countOuts

theorem State.Canon.execCres (hs : s.Canon m false) {dx dy : BitVec 6} {r : Shell} (e : execCres dx dy r s = .next u) : u.Canon m false :=
    by
  unfold Machine.execCres at e
  refine hs.fireActive (fun f t v k e => ?_) e
  split at e
  · split at e
    · cases e
    · exact k.opFault e
    · rename_i e2
      cases e; exact (((k.caResolve e2).touch).leave).sendBoth
  · exact k.pooledCa e

theorem State.Canon.execCclr (hs : s.Canon m false) {dx dy : BitVec 6} {r : Shell} (e : execCclr dx dy r s = .next u) : u.Canon m false :=
    by
  unfold Machine.execCclr at e
  refine hs.fireActive (fun f t v k e => ?_) e
  split at e
  · exact k.caAt e
  · exact k.pooledCa e

theorem State.Canon.execClog (hs : s.Canon m false) {dx dy : BitVec 6} {r : Shell} (e : execClog dx dy r s = .next u) : u.Canon m false :=
    by
  unfold Machine.execClog at e
  refine hs.fireActive (fun f t v k e => ?_) e
  split at e
  · split at e
    · cases e
    · exact k.opFault e
    · rename_i e2
      cases e; exact ((k.caLog e2).touch).sendBoth
  · exact k.pooledCa e

theorem State.Canon.execCadj (hs : s.Canon m false) {r : Shell} (e : execCadj r s = .next u) : u.Canon m false := by
  unfold Machine.execCadj at e
  refine hs.fireActive (fun f t v k e => ?_) e
  dsimp only at e
  split at e
  · cases e; exact k.addAct.countOuts
  · split at e
    · cases e
    · exact k.opFault e
    · split at e
      · cases e
      · cases e; exact ((State.Canon.ite k.touch.touch k.touch.touch.caStore).leave).sendBoth

theorem State.Canon.frelTo {u : State × Word} (hs : s.Canon m false) {ctx desc : Nat} (e : s.frelTo ctx desc = u) : u.1.Canon m false := by
  unfold State.frelTo at e
  dsimp only at e
  split at e
  · cases e; exact hs
  · split at e
    · cases e; exact hs
    · split at e
      · cases e; exact hs
      · split at e
        · cases e; exact hs
        · cases e; exact hs.of_mem

theorem State.Canon.execFrel (hs : s.Canon m false) {r : Shell} (e : execFrel r s = .next u) : u.Canon m false := by
  unfold Machine.execFrel at e
  refine hs.fireActive (fun f t v k e => ?_) e
  dsimp only at e
  split at e
  · cases e; exact k.addAct.countOuts
  · split at e
    · cases e
    · exact k.opFault e
    · split at e
      · split at e
        · cases e; exact k.touch.stage
        · cases e
      · cases e; exact (k.frelTo rfl).sendBoth

/-! ## Copies, queues, leases at their package -/

theorem State.Canon.actLater (hs : s.Canon m false) {f : Firing} {r : Shell} {i : Instr} {size : Nat} : (s.actLater f r i size).Canon m
    false := hs.addAct.countOuts

theorem State.Canon.fireLater (hs : s.Canon m false) {r : Shell} {i : Instr} {size : Nat} (e : s.fireLater r i size = .next u) : u.Canon m
    false := by
  unfold State.fireLater at e
  refine hs.fireActive (fun f t v k e => ?_) e
  cases e; exact k.actLater

theorem State.Canon.firePriv (hs : s.Canon m false) {r : Shell} {i : Instr} {size : Nat} (e : s.firePriv r i size = .next u) : u.Canon m
    false := by
  unfold State.firePriv at e
  refine hs.fireActive (fun f t v k e => ?_) e
  split at e
  · cases e; exact k.actLater
  · exact k.privFault e

theorem State.Canon.copyStart {u : State × Word} (hs : s.Canon m false) {die ctx part desc : Nat} {hnd : Bool}
    (e : s.copyStart die ctx part desc hnd = u) : u.1.Canon m false := by
  unfold State.copyStart at e
  dsimp only at e
  split at e
  · cases e; exact hs
  · cases e; exact hs.setDie ..

theorem State.Canon.execCopyw (hs : s.Canon m false) {r : Shell} (e : execCopyw r s = .next u) : u.Canon m false := by
  unfold Machine.execCopyw at e
  refine hs.fireActive (fun f t v k e => ?_) e
  dsimp only at e
  split at e
  · cases e; exact k.sendBoth
  · split at e
    · cases e; exact k.sendBoth
    · split at e
      · cases e
      · cases e; exact (k.setDie ..).sendBoth

theorem State.Canon.onQueue (hs : s.Canon m false) {f : Firing} {x : Addr} {k : State → Part → VA → Nat → Option State}
    (hk : ∀ t x0 x1 x2 v, t.Canon m false → k t x0 x1 x2 = some v → v.Canon m false) (e : s.onQueue f x k = some u) : u.Canon m false := by
  unfold State.onQueue at e
  split at e
  · cases e
  · split at e
    · cases e
    · exact hs.accessFault e
    · dsimp only at e
      split at e
      · cases e; exact hs.lateReturns
      · exact hk _ _ _ _ _ hs.lateReturns e

theorem State.Canon.hold (hs : s.Canon m false) {f : Firing} {h : QHold} : (s.hold f h).Canon m false := by
  unfold State.hold
  split
  · exact hs.setGalley
  · exact hs

theorem State.Canon.sendRange (hs : s.Canon m false) {f : Firing} {r : Shell} {start count : Nat} : (s.sendRange f r start count).Canon m
    false := hs.sendTwo

theorem State.Canon.execQresv (hs : s.Canon m false) {r : Shell} (e : execQresv r s = .next u) : u.Canon m false := by
  unfold Machine.execQresv at e
  refine hs.fireActive (fun f t v k e => ?_) e
  refine k.onQueue (fun t q va pa v k e => ?_) e
  dsimp only at e
  split at e
  · cases e; exact k.sendRange
  · cases e; exact (((k.setPart ..).writeLe).hold).sendRange

theorem State.Canon.execQtake (hs : s.Canon m false) {r : Shell} (e : execQtake r s = .next u) : u.Canon m false := by
  unfold Machine.execQtake at e
  refine hs.fireActive (fun f t v k e => ?_) e
  refine k.onQueue (fun t q va pa v k e => ?_) e
  split at e
  cases e; exact (((k.setPart ..).writeLe).hold).sendRange

theorem State.Canon.queueCommit {u : State × Word} (hs : s.Canon m false) {part : Nat} {va : VA} {pa start : Nat}
    (e : s.queueCommit part va pa start = u) : u.1.Canon m false := by
  unfold State.queueCommit at e
  split at e
  · cases e; exact hs
  · dsimp only at e
    split at e
    · cases e; exact hs
    · cases e; exact (hs.setPart ..).writeLe

theorem State.Canon.settleHold (hs : s.Canon m false) {part ctx : Nat} {h : QHold} (e : s.settleHold part ctx h = some u) : u.Canon m false
    := by
  unfold State.settleHold at e
  split at e
  · cases e; exact hs
  · split at e
    · cases e
    · cases e; exact .writePieces _ _ (hs.setPart ..)
    · cases e; exact hs

theorem State.Canon.leaseOffer {u : State × Word} (hs : s.Canon m false) {die ctx part desc : Nat} (e : s.leaseOffer die ctx part desc = u)
    : u.1.Canon m false := by
  unfold State.leaseOffer at e
  dsimp only at e
  split at e
  · cases e; exact hs
  · split at e
    · cases e; exact hs
    · split at e
      · cases e; exact hs
      · cases e; exact hs.setDie ..

theorem State.Canon.sendLease (hs : s.Canon m false) {die dest : Nat} {m' : LeaseMsg} : (s.sendLease die dest m').Canon m false := by
  unfold State.sendLease
  split
  · exact hs.setDie ..
  · exact hs

theorem State.Canon.leaseTake {u : State × Option Word} (hs : s.Canon m false) {die ctx part desc : Nat} {reply : Reply}
    (e : s.leaseTake die ctx part desc reply = u) : u.1.Canon m false := by
  unfold State.leaseTake at e
  dsimp only at e
  split at e
  · cases e; exact hs
  · cases e; exact (hs.setDie ..).sendLease

theorem State.Canon.leaseReclaim (hs : s.Canon m false) {die idx : Nat} (e : s.leaseReclaim die idx = some u) : u.Canon m false := by
  unfold State.leaseReclaim at e
  split at e
  · cases e
  · split at e
    · cases e
    · split at e
      · cases e
      · cases e; exact (hs.setDie ..).sendLease

theorem State.Canon.lreclaim {u : State × Word} (hs : s.Canon m false) {v : Word} (e : s.lreclaim v = u) : u.1.Canon m false := by
  unfold State.lreclaim at e
  split at e
  · cases e; exact hs
  · split at e
    · rename_i e1
      cases e; exact hs.leaseReclaim e1
    · cases e; exact hs

theorem State.Canon.execLquery (hs : s.Canon m false) {r : Shell} (e : execLquery r s = .next u) : u.Canon m false := by
  unfold Machine.execLquery at e
  refine hs.fireActive (fun f t v k e => ?_) e
  cases e; exact k.sendBoth

theorem State.Canon.degrade {u : State × Word} (hs : s.Canon m false) {part : Nat} {id level : Word} (e : s.degrade part id level = u) :
    u.1.Canon m false := by
  unfold State.degrade at e
  split at e
  · cases e; exact hs
  · dsimp only at e
    split at e
    · cases e; exact hs
    · cases e; exact hs.setPart ..

/-! ## The loader -/

theorem State.Canon.postIllegal (hs : s.Canon m false) {door : Bool} {part ctx srcid : Nat} {f : Failure} {hnd : optParam Bool false}
    (e : s.postIllegal door part ctx srcid f hnd = some u) : u.Canon m false := by
  unfold State.postIllegal at e
  split at e
  · exact hs.postHost e
  · exact hs.postFault e

theorem State.Canon.placeOverlay {u : Nat × State} (hs : s.Canon m false) {t : Nat} {ws : List (BitVec 96)} {door : Option Nat}
    (e : s.placeOverlay t ws door = some u) : u.2.Canon m false := by
  unfold State.placeOverlay at e
  dsimp only at e
  split at e
  · cases e
  · cases e; exact (hs.picked rfl).setTile ..

theorem State.Canon.ovld {u : State × Word} (hs : s.Canon m false) {t ctx : Nat} {b : List Byte} {hnd : Bool}
    (e : s.ovld t ctx b hnd = some u) : u.1.Canon m false := by
  unfold State.ovld at e
  dsimp only at e
  split at e
  · obtain ⟨v1, e1, rfl⟩ := Option.map_eq_some_iff.1 e
    exact hs.postIllegal e1
  · split at e
    · cases e; exact hs
    · rename_i e1
      cases e; exact hs.placeOverlay e1

theorem State.Canon.ovfree {u : State × Word} (hs : s.Canon m false) {t base : Nat} (e : s.ovfree t base = u) : u.1.Canon m false := by
  unfold State.ovfree at e
  dsimp only at e
  split at e
  · cases e; exact hs
  · split at e
    · cases e; exact hs
    · split at e
      · cases e; exact hs.setTile ..
      · cases e; exact (hs.setTile ..).setPart ..

theorem State.Canon.loadRanges (hs : s.Canon m false) {f : Forme} : (s.loadRanges f).Canon m false := by
  unfold State.loadRanges
  split
  · exact hs
  · exact hs.setDie ..

theorem State.Canon.newHandle {p : Nat × State} (hs : s.Canon m false) (e : s.newHandle = p) : p.2.Canon m false := by
  subst e
  exact hs.pick 65536

theorem State.Canon.impose {u : Nat × State} (hs : s.Canon m false) {part ctx : Nat} {g : FormeCfg} {ox oy : Nat}
    (e : s.impose part ctx g ox oy = u) : u.2.Canon m false := by
  unfold State.impose at e
  split at e
  rename_i e1
  cases e; exact ((State.Canon.foldl (fun _ _ k => (k.doorsAbsent ..).dropForme ..) _ (hs.newHandle e1)).putForme).loadRanges

theorem State.Canon.placeForme {u : Nat × State} (hs : s.Canon m false) {part ctx : Nat} {g : FormeCfg} {placement : Word}
    (e : s.placeForme part ctx g placement = some (some u)) : u.2.Canon m false := by
  unfold State.placeForme at e
  dsimp only at e
  split at e
  · split at e
    · cases e; exact hs.impose rfl
    · split at e <;> cases e
  · split at e
    · cases e
    · split at e
      · cases e
      · split at e
        · cases e
        · cases e; exact hs.impose rfl

theorem State.Canon.takeChase {u : Nat × State} (hs : s.Canon m false) {part ctx : Nat} {g : FormeCfg} {placement : Word}
    (e : s.takeChase part ctx g placement = some (some u)) : u.2.Canon m false := by
  unfold State.takeChase at e
  split at e
  · rename_i e1
    split at e
    · cases e
    · cases e; exact hs.placeForme e1
  · exact hs.placeForme e

theorem State.Canon.answer (hs : s.Canon m false) {r : Reply} {t : Tok} : (s.answer r t).Canon m false := .ite (.ite hs (hs.sendTile ..))
    ((State.Canon.ite hs (hs.sendTile ..)).sendTile ..)

theorem State.Canon.answerOpt (hs : s.Canon m false) {r : Option Reply} {t : Tok} : (s.answerOpt r t).Canon m false := by
  unfold State.answerOpt
  split
  · exact hs.answer
  · exact hs

theorem State.Canon.fload {u : State × Option Word} (hs : s.Canon m false) {part ctx : Nat} {placement : Word} {r : Read FormeCfg}
    {reply : Reply} (e : s.fload part ctx placement r reply = some u) : u.1.Canon m false := by
  unfold State.fload at e
  split at e
  · cases e; exact hs
  · split at e
    · cases e
    · cases e; exact hs
    · cases e; exact hs
    · obtain ⟨v1, e1, rfl⟩ := Option.map_eq_some_iff.1 e
      exact hs.postIllegal e1
    · split at e
      · cases e; exact hs.of_mem
      · cases e; exact hs
      · rename_i e1
        cases e; exact hs.takeChase e1

theorem State.Canon.retryLoad (hs : s.Canon m false) {l : LoadWait} (e : s.retryLoad l = some u) : u.Canon m false := by
  unfold State.retryLoad at e
  split at e
  · cases e
  · cases e; exact hs.answerOpt
  · rename_i e1
    cases e; exact (hs.takeChase e1).answerOpt

theorem State.Canon.retryLoads (hs : s.Canon m false) : (s.retryLoads).Canon m false := .foldl (fun _ _ k => k.reweigh) _
    (.foldl (fun _ _ k => .getD k.of_mem fun e => k.retryLoad e) _ hs.of_mem)

theorem State.Canon.fswap {u : State × Option Word} (hs : s.Canon m false) {part h : Nat} {reply : Reply} (e : s.fswap part h reply = u) :
    u.1.Canon m false := by
  unfold State.fswap at e
  split at e
  · cases e; exact hs
  · split at e
    · cases e; exact hs
    · cases e; exact hs.putForme

/-! ## Extent changes and the walker -/

theorem State.Canon.dropWindow (hs : s.Canon m false) {h id : Nat} {rs : List (Nat × Nat)} {w : WinState} : (s.dropWindow h id rs w).Canon
    m false := by
  unfold State.dropWindow
  split
  · exact hs
  · dsimp only
    split
    · split
      · exact hs
      · rename_i e1
        split
        · exact hs.flushSlot e1
        · exact (hs.flushSlot e1).putCore
    · exact hs

theorem State.Canon.redo (hs : s.Canon m false) {t : Nat} {g : Galley} : (s.redo t g).Canon m false :=
    ((hs.dropGalley ..).setTile ..).reopen ..

theorem State.Canon.voidMoved (hs : s.Canon m false) {f : Forme} {id : Nat} {rs : List (Nat × Nat)} : (s.voidMoved f id rs).Canon m false
    := .ite hs.putForme (.getD hs.putForme fun e => hs.faultForme e)

theorem State.Canon.redoOr (hs : s.Canon m false) {t : Nat} {g : Galley} {cls : Nat} {pay : Pay} : (s.redoOr t g cls pay).Canon m false :=
    by
  unfold State.redoOr
  dsimp only
  split
  · exact hs.redo
  · split
    · exact hs.redo
    · rename_i e1
      exact .ite ((hs.setTile ..).faultGalley e1) (((hs.setTile ..).faultGalley e1).redo)

theorem State.Canon.redoLoads (hs : s.Canon m false) {id : Nat} {rs : List (Nat × Nat)} {t : Nat} : (s.redoLoads id rs t).Canon m false :=
    by
  unfold State.redoLoads
  refine .foldl (fun s a k => ?_) _ hs
  split
  · split
    · exact k.redoOr
    · exact k
  · exact k

theorem State.Canon.dropWindows (hs : s.Canon m false) {p id : Nat} {rs : List (Nat × Nat)} : (s.dropWindows p id rs).Canon m false :=
    .foldl (fun _ _ k => .foldl (fun _ _ k => k.dropWindow) _ k) _ hs

theorem State.Canon.purge (hs : s.Canon m false) {p id : Nat} {rs : List (Nat × Nat)} : (s.purge p id rs).Canon m false := by
  unfold State.purge
  refine State.Canon.of_mem ?_
  refine .foldl (fun s a k => ?_) _ ?_
  · exact k.redoLoads
  · refine .foldl (fun s a k => ?_) _ hs.dropWindows
    split
    · exact .ite k.putForme.voidMoved k.putForme
    · exact k

theorem State.Canon.setMov (hs : s.Canon m false) {p : Nat} {o : Obj} {idx : Nat} {b : Bool} : (s.setMov p o idx b).Canon m false := .foldl
    (fun _ _ k => k.writeLe) _ hs

theorem State.Canon.extBegin (hs : s.Canon m false) {p : Nat} {v : BitVec 64} : (s.extBegin p v).Canon m false := by
  unfold State.extBegin
  split
  · exact hs
  · dsimp only
    split
    · exact hs.setPart ..
    · split
      · exact hs.setPart ..
      · split
        · exact hs.setPart ..
        · split
          · exact hs.setPart ..
          · split
            · exact hs.purge.setMov
            · exact hs.purge.setMov.setPart ..

theorem State.Canon.purgeLeft (hs : s.Canon m false) {p : Nat} {c : ExtChange} : (s.purgeLeft p c).Canon m false := by
  unfold State.purgeLeft
  split
  · dsimp only
    split
    · exact ((((hs.setPart ..).setMov).dropWindows).setMov).setPart ..
    · exact hs
  · exact hs

theorem State.Canon.extHeld (hs : s.Canon m false) {p : Nat} : (s.extHeld p).Canon m false := by
  unfold State.extHeld
  split
  · exact hs
  · split
    · exact .ite hs (.ite hs.purgeLeft (hs.setPart ..))
    · exact hs

theorem State.Canon.closeChange (hs : s.Canon m false) {p id idx : Nat} {count : Bool} : (s.closeChange p id idx count).Canon m false := by
  unfold State.closeChange
  split
  · exact hs
  · exact (State.Canon.ite hs.writeLe hs).setMov

theorem State.Canon.extEnd (hs : s.Canon m false) {p : Nat} {v : BitVec 64} : (s.extEnd p v).Canon m false := by
  unfold State.extEnd
  split
  · exact hs
  · dsimp only
    split
    · exact hs.setPart ..
    · split
      · exact hs.setPart ..
      · split
        · exact hs.setPart ..
        · exact .ite (hs.closeChange.setPart ..) (hs.setPart ..)

theorem State.Canon.extAbort (hs : s.Canon m false) {p : Nat} {v : BitVec 64} : (s.extAbort p v).Canon m false := by
  unfold State.extAbort
  split
  · exact hs
  · dsimp only
    split
    · exact hs.setPart ..
    · exact hs.closeChange.setPart ..

theorem State.Canon.execExtChgBegin (hs : s.Canon m false) {part : Nat} {value : BitVec 64} (e : execExtChgBegin part value s = .next u) :
    u.Canon m false := by
  unfold Machine.execExtChgBegin at e
  cases e; exact hs.extBegin

theorem State.Canon.execExtChgHeld (hs : s.Canon m false) {part : Nat} (e : execExtChgHeld part s = .next u) : u.Canon m false := by
  unfold Machine.execExtChgHeld at e
  cases e; exact hs.extHeld

theorem State.Canon.walk (hs : s.Canon m false) {die xl part : Nat} {va : VA} : (s.walk die xl part va).Canon m false := by
  unfold State.walk
  split
  · exact hs.setDie ..
  · exact hs

theorem State.Canon.execWalkerWalk (hs : s.Canon m false) {die xl part : Nat} {va : BitVec 64}
    (e : execWalkerWalk die xl part va s = .next u) : u.Canon m false := by
  unfold Machine.execWalkerWalk at e
  cases e; exact hs.walk

theorem State.Canon.firmwareParts (hs : s.Canon m false) {die : Nat} : (s.firmwareParts die).Canon m false := hs.of_mem

theorem State.Canon.splitWrite (hs : s.Canon m false) {die : Nat} {v : BitVec 64} : (s.splitWrite die v).Canon m false := by
  unfold State.splitWrite
  split
  · exact hs
  · exact .ite (hs.setDie ..) (.ite (hs.setDie ..) ((hs.setDie ..).firmwareParts))

theorem State.Canon.execDieSplitWrite (hs : s.Canon m false) {die : Nat} {value : BitVec 64} (e : execDieSplitWrite die value s = .next u)
    : u.Canon m false := by
  unfold Machine.execDieSplitWrite at e
  cases e; exact hs.splitWrite

/-! ## Leases at both ends -/

theorem State.Canon.lentEvent (hs : s.Canon m false) {die : Nat} {l : Lent} {code : Nat} (e : s.lentEvent die l code = some u) : u.Canon m
    false := hs.postEvent e

theorem State.Canon.setLent (hs : s.Canon m false) {die : Nat} {l : Lent} : (s.setLent die l).Canon m false := by
  unfold State.setLent
  split
  · exact hs.setDie ..
  · exact hs

theorem State.Canon.returned (hs : s.Canon m false) {die gran : Nat} : (s.returned die gran).Canon m false := by
  unfold State.returned
  split
  · exact hs.setDie ..
  · exact hs

theorem State.Canon.nak (hs : s.Canon m false) {die borrower idx reason : Nat} : (s.nak die borrower idx reason).Canon m false :=
    hs.sendLease

theorem State.Canon.sendLost (hs : s.Canon m false) {die idx borrower : Nat} {l : Lent} : (s.sendLost die idx borrower l).Canon m false :=
    hs.sendLease

theorem State.Canon.withdraw (hs : s.Canon m false) {die : Nat} {l : Lent} (e : s.withdraw die l = some u) : u.Canon m false := by
  unfold State.withdraw at e
  refine State.Canon.lentEvent ?_ e
  refine State.Canon.returned ?_
  split
  · exact hs.setLent.nak
  · exact hs.setLent

theorem State.Canon.demandRun {die n : Nat} (hs : s.Canon m false) (e : s.demandRun die n = some u) : u.Canon m false := by
  induction n generalizing s with
  | zero => cases e; exact hs
  | succ n ih =>
    unfold State.demandRun at e
    split at e
    · cases e; exact hs
    · split at e
      · obtain ⟨v, e1, e⟩ := Option.bind_eq_some_iff.1 e
        exact ih (hs.withdraw e1) e
      · split at e
        · rename_i e1
          exact ih (hs.leaseReclaim e1) e
        · cases e; exact hs

theorem State.Canon.takeNow (hs : s.Canon m false) {die : Nat} {l : Lent} {borrower : Nat} {f : LeasePlace}
    (e : s.takeNow die l borrower f = some u) : u.Canon m false := by
  unfold State.takeNow at e
  dsimp only at e
  split at e
  · cases e; exact hs.setLent.nak
  · exact hs.setLent.sendLease.lentEvent e

theorem State.Canon.leaseTaken (hs : s.Canon m false) {die idx borrower : Nat} {f : LeasePlace}
    (e : s.leaseTaken die idx borrower f = some u) : u.Canon m false := by
  unfold State.leaseTaken at e
  split at e
  · cases e; exact hs.nak
  · split at e
    · split at e
      · cases e; exact hs.nak
      · split at e
        · cases e; exact hs.setLent
        · obtain ⟨v2, e2, e⟩ := Option.bind_eq_some_iff.1 e
          exact (hs.takeNow e2).demandRun e
    · cases e; exact hs.sendLost
    · cases e; exact hs.nak
    · cases e; exact hs.nak

theorem State.Canon.zeroDone (hs : s.Canon m false) {die idx : Nat} (e : s.zeroDone die idx = some u) : u.Canon m false := by
  unfold State.zeroDone at e
  split at e
  · cases e; exact hs
  · split at e
    · cases e; exact hs
    · dsimp only at e
      split at e
      · obtain ⟨v1, e1, e⟩ := Option.bind_eq_some_iff.1 e
        exact (hs.clearMem.setLent.takeNow e1).demandRun e
      · cases e; exact hs.clearMem.setLent

theorem State.Canon.sendPush (hs : s.Canon m false) {die : Nat} {l : Lent} {page : Nat} : (s.sendPush die l page).Canon m false :=
    hs.sendLease

theorem State.Canon.leaseStopped (hs : s.Canon m false) {die idx : Nat} : (s.leaseStopped die idx).Canon m false := by
  unfold State.leaseStopped
  split
  · exact hs
  · exact .ite hs.sendLost (.ite hs (((State.Canon.foldl (fun _ _ k => k.sendPush) _ hs).sendLease).setLent))

theorem State.Canon.leaseDemoted (hs : s.Canon m false) {die idx : Nat} (e : s.leaseDemoted die idx = some u) : u.Canon m false := by
  unfold State.leaseDemoted at e
  split at e
  · cases e; exact hs
  · split at e
    · cases e; exact hs.sendLost
    · split at e
      · cases e; exact hs
      · exact hs.setLent.returned.lentEvent e

theorem State.Canon.quarantine (hs : s.Canon m false) {die idx : Nat} (e : s.quarantine die idx = some u) : u.Canon m false := by
  unfold State.quarantine at e
  split at e
  · cases e; exact hs
  · split at e
    · cases e; exact hs
    · exact (((State.Canon.ite hs (.ite (.foldl (fun _ _ k => k.sendPush) _ hs) hs.clearMem)).setLent).returned).lentEvent e

theorem State.Canon.quarantineOver (hs : s.Canon m false) {die idx : Nat} (e : s.quarantineOver die idx = some u) : u.Canon m false := by
  unfold State.quarantineOver at e
  split at e
  · cases e; exact hs
  · split at e
    · exact hs.setLent.lentEvent e
    · cases e; exact hs

theorem State.Canon.termOver (hs : s.Canon m false) {die idx : Nat} (e : s.termOver die idx = some u) : u.Canon m false := by
  unfold State.termOver at e
  split at e
  · cases e; exact hs
  · split at e
    · cases e; exact hs
    · split at e
      · exact hs.withdraw e
      · exact hs.leaseReclaim e
      · cases e; exact hs

theorem State.Canon.leaseCfg (hs : s.Canon m false) {die : Nat} {v : BitVec 64} (e : s.leaseCfg die v = some u) : u.Canon m false := by
  unfold State.leaseCfg at e
  split at e
  · cases e; exact hs
  · exact (hs.setDie ..).demandRun e

theorem State.Canon.offerRun {u : State × Word} (hs : s.Canon m false) {die ctx part desc : Nat}
    (e : s.offerRun die ctx part desc = some u) : u.1.Canon m false := by
  unfold State.offerRun at e
  obtain ⟨v1, e1, rfl⟩ := Option.map_eq_some_iff.1 e
  exact (hs.leaseOffer rfl).demandRun e1

theorem State.Canon.setBorrow (hs : s.Canon m false) {die : Nat} {b : Borrow} : (s.setBorrow die b).Canon m false := by
  unfold State.setBorrow
  split
  · exact hs.setDie ..
  · exact hs

theorem State.Canon.dropAsk (hs : s.Canon m false) {die : Nat} {b : Borrow} : (s.dropAsk die b).Canon m false := by
  unfold State.dropAsk
  split
  · exact hs.setDie ..
  · exact hs

theorem State.Canon.retarget (hs : s.Canon m false) {b : Borrow} {tier loc pfn : Nat} : (s.retarget b tier loc pfn).Canon m false := by
  unfold State.retarget
  dsimp only
  split
  · exact hs.writeLe.writeLe
  · exact hs

theorem State.Canon.stopTarget (hs : s.Canon m false) {b : Borrow} : (s.stopTarget b).Canon m false := by
  unfold State.stopTarget
  split
  · exact hs.purge.setMov
  · exact hs

theorem State.Canon.borrowAck (hs : s.Canon m false) {die lender lease : Nat} {g : LeaseGrant}
    (e : s.borrowAck die lender lease g = some u) : u.Canon m false := by
  unfold State.borrowAck at e
  split at e
  · cases e; exact hs
  · split at e
    · cases e; exact hs.dropAsk.setBorrow.answerOpt
    · split at e
      · cases e; exact hs.dropAsk.setBorrow.answerOpt
      · split at e
        · cases e
        · cases e; exact hs.dropAsk.stopTarget.retarget.clearMem.setBorrow.answerOpt

theorem State.Canon.borrowNak (hs : s.Canon m false) {die lender lease reason : Nat} : (s.borrowNak die lender lease reason).Canon m false
    := by
  unfold State.borrowNak
  split
  · exact hs.dropAsk.answerOpt
  · exact hs

theorem State.Canon.borrowReclaim (hs : s.Canon m false) {die lender lease : Nat} : (s.borrowReclaim die lender lease).Canon m false := by
  unfold State.borrowReclaim
  split
  · exact hs
  · split
    · exact hs.sendLease
    · exact .ite hs.setBorrow hs.stopTarget.setBorrow.sendLease
    · exact hs

theorem State.Canon.resumeReclaims (hs : s.Canon m false) : (s.resumeReclaims).Canon m false := .foldl
    (fun _ _ k => .foldl (fun _ _ k => .ite k.borrowReclaim k) _ k) _ hs

theorem State.Canon.pushedPages (hs : s.Canon m false) {b : Borrow} {at_ : LeasePlace} {sure : Bool} : (s.pushedPages b at_ sure).Canon m
    false := by
  unfold State.pushedPages
  split
  · exact hs
  · refine .foldl (fun s a k => ?_) _ hs
    dsimp only
    split
    · exact .ite k.copyMem k
    · exact .ite ((k.picked rfl).copyMem) (k.picked rfl)

theorem State.Canon.demote (hs : s.Canon m false) {die : Nat} {b : Borrow} {sure : Bool} : (s.demote die b sure).Canon m false :=
    hs.pushedPages.retarget.setBorrow

theorem State.Canon.borrowEvent (hs : s.Canon m false) {b : Borrow} {code : Nat} (e : s.borrowEvent b code = some u) : u.Canon m false :=
    hs.postEvent e

theorem State.Canon.borrowDone (hs : s.Canon m false) {die lender lease : Nat} (e : s.borrowDone die lender lease = some u) : u.Canon m
    false := by
  unfold State.borrowDone at e
  split at e
  · cases e; exact hs
  · split at e
    · cases e; exact hs.sendLease
    · obtain ⟨v1, e1, rfl⟩ := Option.map_eq_some_iff.1 e
      exact (hs.demote.borrowEvent e1).sendLease
    · cases e; exact hs

theorem State.Canon.borrowLost (hs : s.Canon m false) {die lender lease : Nat} {pushed : Bool}
    (e : s.borrowLost die lender lease pushed = some u) : u.Canon m false := by
  unfold State.borrowLost at e
  split at e
  · cases e; exact hs.borrowNak
  · split at e
    · split at e
      · cases e
      · dsimp only at e
        split at e
        · exact ((State.Canon.ite hs.stopTarget hs).demote).borrowEvent e
        · exact ((State.Canon.ite hs.stopTarget hs).demote).faultOp e
    · split at e
      · cases e
      · dsimp only at e
        split at e
        · exact ((State.Canon.ite hs.stopTarget hs).demote).borrowEvent e
        · exact ((State.Canon.ite hs.stopTarget hs).demote).faultOp e
    · cases e; exact hs.borrowNak

theorem State.Canon.loseUnreachable (hs : s.Canon m false) (e : s.loseUnreachable = some u) : u.Canon m false := by
  unfold State.loseUnreachable at e
  refine .foldOpt (fun k e => ?_) hs e
  split at e
  · cases e; exact k
  · split at e
    · exact k.borrowLost e
    · exact k.borrowLost e
    · cases e; exact k

theorem State.Canon.extEndAll (hs : s.Canon m false) {p : Nat} {v : BitVec 64} : (s.extEndAll p v).Canon m false :=
    hs.extEnd.lateReturns.resumeReclaims

theorem State.Canon.extAbortAll (hs : s.Canon m false) {p : Nat} {v : BitVec 64} : (s.extAbortAll p v).Canon m false :=
    hs.extAbort.lateReturns.resumeReclaims

theorem State.Canon.extWrite (hs : s.Canon m false) {p : Nat} {v : BitVec 64} : (s.extWrite p v).Canon m false := by
  unfold State.extWrite
  split
  · exact hs.extBegin
  · exact hs.extEndAll
  · exact hs.extAbortAll
  · split
    · exact hs.setPart ..
    · exact hs

theorem State.Canon.execExtChgEnd (hs : s.Canon m false) {part : Nat} {value : BitVec 64} (e : execExtChgEnd part value s = .next u) :
    u.Canon m false := by
  unfold Machine.execExtChgEnd at e
  cases e; exact hs.extEndAll

theorem State.Canon.execExtChgAbort (hs : s.Canon m false) {part : Nat} {value : BitVec 64} (e : execExtChgAbort part value s = .next u) :
    u.Canon m false := by
  unfold Machine.execExtChgAbort at e
  cases e; exact hs.extAbortAll

theorem State.Canon.remoteWrite (hs : s.Canon m false) {addr : Nat} {b : List Byte} : (s.remoteWrite addr b).Canon m false := .ite
    (hs.writeN ..) hs

theorem State.Canon.execTakeNak (hs : s.Canon m false) {die lender lease reason : Nat}
    (e : execTakeNak die lender lease reason s = .next u) : u.Canon m false := by
  unfold Machine.execTakeNak at e
  cases e; exact hs.borrowNak

theorem State.Canon.execReclaim (hs : s.Canon m false) {die lender lease : Nat} (e : execReclaim die lender lease s = .next u) : u.Canon m
    false := by
  unfold Machine.execReclaim at e
  cases e; exact hs.borrowReclaim

theorem State.Canon.execStopped (hs : s.Canon m false) {die idx : Nat} (e : execStopped die idx s = .next u) : u.Canon m false := by
  unfold Machine.execStopped at e
  cases e; exact hs.leaseStopped

theorem State.Canon.execPush (hs : s.Canon m false) {addr : Nat} {data : List (BitVec 8)} (e : execPush addr data s = .next u) : u.Canon m
    false := by
  unfold Machine.execPush at e
  cases e; exact hs.remoteWrite

theorem State.Canon.execLeaseStopTimerExpiry (hs : s.Canon m false) {die idx : Nat} {reachable : Bool}
    (e : execLeaseStopTimerExpiry die idx reachable s = .next u) : u.Canon m false := by
  unfold Machine.execLeaseStopTimerExpiry at e
  refine hs.settle (fun e => ?_) e
  split at e
  · exact hs.quarantine e
  · cases e

theorem State.Canon.endCopy (hs : s.Canon m false) {die id status : Nat} : (s.endCopy die id status).Canon m false := by
  unfold State.endCopy
  split
  · exact hs.setDie ..
  · exact hs

theorem State.Canon.copyEnd (hs : s.Canon m false) {die id : Nat} (e : s.copyEnd die id = some u) : u.Canon m false := by
  unfold State.copyEnd at e
  split at e
  · cases e; exact hs
  · split at e
    · cases e
    · dsimp only at e
      split at e
      · obtain ⟨v2, e2, rfl⟩ := Option.map_eq_some_iff.1 e
        exact (hs.faultOp e2).endCopy
      · obtain ⟨v2, e2, rfl⟩ := Option.map_eq_some_iff.1 e
        exact (hs.faultOp e2).endCopy
      · split at e
        · obtain ⟨v2, e2, rfl⟩ := Option.map_eq_some_iff.1 e
          exact (hs.faultOp e2).endCopy
        · cases e; exact (State.Canon.writePieces _ _ hs).endCopy
      · split at e
        · obtain ⟨v2, e2, rfl⟩ := Option.map_eq_some_iff.1 e
          exact (hs.faultOp e2).endCopy
        · cases e

theorem State.Canon.markDirty (hs : s.Canon m false) {a size : Nat} : (s.markDirty a size).Canon m false := hs.of_mem

theorem State.Canon.flitHere (hs : s.Canon m false) {b : FlitBody} : (s.flitHere b).Canon m false := by
  unfold State.flitHere
  split
  · exact hs
  · split
    · exact (hs.writeN ..).setLent
    · exact hs
  · split
    · exact hs.writeLe.setLent
    · exact hs
  · exact .ite ((hs.redAt rfl).markDirty) hs
  · exact .ite hs hs.remoteWrite.markDirty

theorem State.Canon.flit (hs : s.Canon m false) {f : Flit} : (s.flit f).Canon m false := by
  unfold State.flit
  split
  · exact hs.flitHere
  · split
    · exact hs.of_mem
    · exact hs

theorem State.Canon.execFijanFlitArrival (hs : s.Canon m false) {flit : Flit} (e : execFijanFlitArrival flit s = .next u) : u.Canon m false
    := by
  unfold Machine.execFijanFlitArrival at e
  cases e; exact hs.flit

/-! ## Registers -/

theorem State.Canon.ctxCmd (hs : s.Canon m false) {p cmd handle : Nat} (e : s.ctxCmd p cmd handle = some u) : u.Canon m false := by
  unfold State.ctxCmd at e
  split at e
  · cases e; exact hs
  · split at e
    · exact hs.eret e
    · exact hs.eret e
    · exact hs.eret e
    · split at e
      · split at e
        · cases e; exact ((hs.setCtx ..).killForme ..).restoreState ..
        · cases e; exact hs
      · cases e; exact hs
    · split at e
      · cases e; exact (hs.setCtx ..).refreshSwapped ..
      · cases e; exact hs
    · cases e; exact hs.replayUnposted ..
    · cases e; exact hs

theorem State.Canon.doorWrite (hs : s.Canon m false) {p d : Nat} {v : BitVec 128} : (s.doorWrite p d v).Canon m false := by
  unfold State.doorWrite
  split
  · exact hs
  · exact hs.setPart ..

theorem State.Canon.jobWrite (hs : s.Canon m false) {p j : Nat} {v : BitVec 256} : (s.jobWrite p j v).Canon m false := by
  unfold State.jobWrite
  split
  · exact hs.setPart ..
  · exact hs

theorem State.Canon.setMode (hs : s.Canon m false) {m' : BitVec 3} : (s.setMode m').Canon m false := .ite hs.of_mem hs

theorem State.Canon.fwGo (hs : s.Canon m false) : (s.fwGo).Canon m false := .ite hs.of_mem hs

theorem State.Canon.nowsRead (hs : s.Canon m false) : (s.nowsRead).Canon m false := hs.of_mem

theorem State.Canon.setLink (hs : s.Canon m false) {l : LinkState} : (s.setLink l).Canon m false := hs.of_mem

theorem State.Canon.spillWrite (hs : s.Canon m false) {q : Part} {v : Nat} : (s.spillWrite q v).Canon m false := .ite (hs.setPart ..)
    (.foldl (fun _ _ k => .ite (k.setTile ..) k) _ (hs.setPart ..))

theorem State.Canon.tileWrite (hs : s.Canon m false) {t : Nat} {issue : Bool} {v : Nat} : (s.tileWrite t issue v).Canon m false := .ite
    (.ite (hs.setTile ..) hs) (hs.setTile ..)

theorem State.Canon.moduleWrite (hs : s.Canon m false) {i : Nat} {v : BitVec 64} (e : s.moduleWrite i v = some u) : u.Canon m false := by
  unfold State.moduleWrite at e
  split at e
  · cases e; exact hs.of_mem
  · split at e
    · cases e; split
      · exact .ite hs hs.setLink
      · exact hs
    · split at e
      · cases e; exact hs.of_mem
      · split at e
        · exact hs.leaseCfg e
        · split at e
          · cases e; exact hs.of_mem
          · split at e
            · cases e; exact .ite ((State.Canon.ite hs.setMode.fwGo hs.setMode).of_mem) (.ite hs.setMode.fwGo hs.setMode)
            · cases e; exact hs

theorem State.Canon.regWrite {b : RegBy} {i : Nat} {v : BitVec 64} (hs : s.Canon m false) (e : s.regWrite b i v = some u) :
    u.Canon m false := by
  unfold State.regWrite at e
  refine .optIte ?_ (.optIte ?_ ?_) e
  · rintro ⟨⟩
    split
    · exact hs.setCtx ..
    · exact hs
  · rintro ⟨⟩
    split
    · exact hs.tileWrite
    · exact hs
  · cases s.part? b.part with
    | none => rintro ⟨⟩; exact hs
    | some q =>
      refine .optIte ?_ <| .optIte ?_ <| .optIte ?_ <| .optIte ?_ <| .optIte ?_ <| .optIte ?_ <| .optIte ?_ <| .optIte ?_ <| .optIte ?_ <|
        .optIte (.optIte ?_ ?_) <| .optIte ?_ <| .optIte ?_ <| .optIte (.optIte ?_ ?_) <| .optIte ?_ <| .optIte ?_ ?_
      · rintro ⟨⟩; exact hs.setPart ..
      · rintro ⟨⟩; exact hs.setPart ..
      · rintro ⟨⟩; exact hs.setPart ..
      · rintro ⟨⟩; exact hs.spillWrite
      · rintro ⟨⟩; exact hs.extWrite
      · rintro ⟨⟩; exact .ite (hs.setPart ..) hs
      · rintro ⟨⟩; exact hs.setPart ..
      · rintro ⟨⟩; exact hs.setPart ..
      · rintro ⟨⟩; exact hs.splitWrite
      · rintro ⟨⟩; exact hs.setPart ..
      · rintro ⟨⟩; exact (hs.setPart ..).doorWrite
      · rintro ⟨⟩; exact hs.setPart ..
      · rintro ⟨⟩
        split
        · exact hs.tileWrite
        · exact hs
      · rintro ⟨⟩; exact hs.setPart ..
      · rintro ⟨⟩; exact (hs.setPart ..).jobWrite
      · exact hs.ctxCmd
      · rintro ⟨⟩
        split
        · exact hs.setCtx ..
        · exact hs
      · exact hs.moduleWrite

theorem State.Canon.sysWrite (hs : s.Canon m false) {b : RegBy} {c : Nat} {hi : Bool} {i : Nat} {v : Word}
    (e : s.sysWrite b c hi i v = some u) : u.Canon m false := by
  unfold State.sysWrite at e
  split at e
  · cases e; exact hs
  · split at e
    · split at e
      · cases e; exact hs.setCtx ..
      · exact (hs.setCtx ..).regWrite e
    · split at e
      · exact (hs.setCtx ..).regWrite e
      · cases e; exact hs.setCtx ..

theorem State.Canon.regTouched (hs : s.Canon m false) {i : Nat} : (s.regTouched i).Canon m false := .ite hs.nowsRead hs

theorem State.Canon.sysRead {u : Word × State} (hs : s.Canon m false) {b : RegBy} {c : Nat} {hi : Bool} {i : Nat}
    (e : s.sysRead b c hi i = u) : u.2.Canon m false := by
  unfold State.sysRead at e
  split at e
  · cases e; exact hs
  · split at e
    · split at e
      · cases e; exact hs.setCtx ..
      · cases e; exact hs.regTouched
    · cases e; exact hs.regTouched.setCtx ..

theorem State.Canon.hostRegWrite (hs : s.Canon m false) {acc : RegAccess} {i : Nat} {v : BitVec 64} (e : s.hostRegWrite acc i v = some u) :
    u.Canon m false := by
  unfold State.hostRegWrite at e
  dsimp only at e
  split at e
  · split at e
    · cases e; exact hs
    · split at e
      · exact hs.regWrite e
      · split at e
        · exact (hs.setPart ..).regWrite e
        · cases e; exact hs.setPart ..
  · split at e
    · cases e; exact hs
    · split at e
      · exact hs.regWrite e
      · split at e
        · split at e
          · cases e; exact hs.setPart ..
          · exact (hs.setPart ..).regWrite e
        · split at e
          · exact (hs.setPart ..).regWrite e
          · cases e; exact hs.setPart ..
  · split at e
    · cases e; exact hs
    · split at e
      · exact hs.regWrite e
      · split at e
        · split at e
          · cases e; exact hs.setPart ..
          · exact (hs.setPart ..).regWrite e
        · split at e
          · exact (hs.setPart ..).regWrite e
          · cases e; exact hs.setPart ..

theorem State.Canon.hostRegRead {u : BitVec 64 × State} (hs : s.Canon m false) {acc : RegAccess} {i : Nat} (e : s.hostRegRead acc i = u) :
    u.2.Canon m false := by
  unfold State.hostRegRead at e
  dsimp only at e
  split at e
  · split at e
    · cases e; exact hs
    · split at e
      · cases e; exact hs.regTouched
      · cases e; exact hs.regTouched.setPart ..
  · split at e
    · cases e; exact hs
    · split at e
      · cases e; exact hs.regTouched
      · split at e
        · split at e
          · cases e; exact hs.setPart ..
          · cases e; exact hs.regTouched
        · cases e; exact hs.regTouched.setPart ..
  · split at e
    · cases e; exact hs
    · split at e
      · cases e; exact hs.regTouched
      · split at e
        · split at e
          · cases e; exact hs.setPart ..
          · cases e; exact hs.regTouched
        · cases e; exact hs.regTouched.setPart ..

/-! ## System records -/

theorem State.Canon.execNop (hs : s.Canon m false) {r : Shell} (e : execNop r s = .next u) : u.Canon m false := by
  unfold Machine.execNop at e
  refine hs.fireActive (fun f t v k e => ?_) e
  cases e; exact k.sendBoth

theorem State.Canon.keepLatch (hs : s.Canon m false) {f : Firing} : (s.keepLatch f).Canon m false := by
  unfold State.keepLatch
  split
  · exact .ite hs.setGalley hs
  · exact hs

theorem State.Canon.clearStatus (hs : s.Canon m false) {c : Nat} {v : Word} : (s.clearStatus c v).Canon m false := by
  unfold State.clearStatus
  split
  · exact hs.setCtx ..
  · exact hs

theorem State.Canon.execSysrd (hs : s.Canon m false) {clr hi : Bool} {index : BitVec 16} {r : Shell}
    (e : execSysrd clr hi index r s = .next u) : u.Canon m false := by
  unfold Machine.execSysrd at e
  refine hs.fireActive (fun f t v k e => ?_) e
  dsimp only at e
  split at e
  · exact k.privFault e
  · cases e; exact (State.Canon.ite ((k.keepLatch.sysRead rfl).clearStatus) (k.keepLatch.sysRead rfl)).sendBoth

theorem State.Canon.execSyswr (hs : s.Canon m false) {hi : Bool} {index : BitVec 16} {r : Shell} (e : execSyswr hi index r s = .next u) :
    u.Canon m false := by
  unfold Machine.execSyswr at e
  refine hs.fireActive (fun f t v k e => ?_) e
  split at e
  · cases e; exact k.actLater
  · exact k.privFault e

theorem State.Canon.execEret (hs : s.Canon m false) {r : Shell} (e : execEret r s = .next u) : u.Canon m false := by
  unfold Machine.execEret at e
  refine hs.fireActive (fun f t v k e => ?_) e
  dsimp only at e
  split at e
  · split at e
    · cases e; exact k.actLater
    · exact k.privFault e
  · split at e
    · cases e; exact k.actLater
    · exact k.privFault e

theorem State.Canon.execPerf (hs : s.Canon m false) {hi : Bool} {sel : BitVec 8} {r : Shell} (e : execPerf hi sel r s = .next u) : u.Canon
    m false := by
  unfold Machine.execPerf at e
  refine hs.fireActive (fun f t v k e => ?_) e
  cases e; exact k.sendBoth

/-! ## Swaps and markers -/

theorem State.Canon.foldStatus (hs : s.Canon m false) {c : Nat} {st : Sticky} : (s.foldStatus c st).Canon m false := by
  unfold State.foldStatus
  split
  · exact hs.setCtx ..
  · exact hs

theorem State.Canon.foldForme (hs : s.Canon m false) {f : Forme} : (s.foldForme f).Canon m false := .ite hs.putCore.foldStatus hs

theorem State.Canon.reportQuiet (hs : s.Canon m false) {h : Nat} (e : s.reportQuiet h = some u) : u.Canon m false := by
  unfold State.reportQuiet at e
  split at e
  · cases e
  · split at e
    · cases e
    · dsimp only at e
      split at e
      · cases e; split
        · refine State.Canon.putForme ?_
          split
          · exact hs.foldForme
          · exact hs
        · split
          · exact hs.foldForme
          · exact hs
      · cases e; split
        · exact hs.foldForme
        · exact hs

theorem State.Canon.quiesceOver (hs : s.Canon m false) {tile node : Nat} {tag : Tag} (e : s.quiesceOver tile node tag = some u) : u.Canon m
    false := by
  unfold State.quiesceOver at e
  dsimp only at e
  split at e
  · cases e
  · split at e
    · rename_i e1
      cases e; exact ((hs.gatherInst e1).of_mem).sendBoth
    · cases e

theorem State.Canon.linkStrays {routing : List (List Nat)} {l : List LinkTok} {p : List Stray × State} (hs : s.Canon m false)
    (e : s.linkStrays routing l = p) : p.2.Canon m false := by
  subst e
  exact List.foldlRecOn (motive := fun p : List Stray × State => State.Canon m false p.2) _ _ hs fun _ k _ _ => k.draw

theorem State.Canon.strays {f : Forme} {p : List Stray × State} (hs : s.Canon m false) (e : s.strays f = p) : p.2.Canon m false := by
  subst e
  exact (hs.linkStrays (routing := f.cfg.routing) (l := f.run.core.links) rfl :)

theorem State.Canon.strayPay {u : Nat × State} (hs : s.Canon m false) {f : Forme} (e : s.strayPay f = u) : u.2.Canon m false := by
  unfold State.strayPay at e
  split at e
  rename_i e1
  cases e; exact hs.strays e1

theorem State.Canon.swapRefused (hs : s.Canon m false) {h : Nat} (e : s.swapRefused h = some u) : u.Canon m false := by
  unfold State.swapRefused at e
  split at e
  · cases e
  · split at e
    · cases e
    · obtain ⟨v1, e1, rfl⟩ := Option.map_eq_some_iff.1 e
      split at e1
      · cases e1; exact hs.putForme.answerOpt.retryLoads
      · exact ((((hs.strayPay rfl).postPart e1).putForme).answerOpt).retryLoads

theorem State.Canon.exchangePlanes (hs : s.Canon m false) {h : Nat} (e : s.exchangePlanes h = some u) : u.Canon m false := by
  unfold State.exchangePlanes at e
  split at e
  · cases e
  · split at e
    · cases e
    · split at e
      · cases e; exact hs.putForme
      · cases e; exact ((hs.doorsAbsent ..).putForme).putForme

theorem State.Canon.unowed (hs : s.Canon m false) {p h : Nat} : (s.unowed p h).Canon m false := by
  unfold State.unowed
  split
  · exact hs.setPart ..
  · exact hs

theorem State.Canon.firstLive (hs : s.Canon m false) {h : Nat} (e : s.firstLive h = some u) : u.Canon m false := by
  unfold State.firstLive at e
  split at e
  · cases e
  · split at e
    · cases e
    · cases e; exact ((((State.Canon.ite hs.unowed hs).putForme).answerOpt).refreshSwapped ..).retryLoads

theorem State.Canon.startMarker {u : State × Option Word} (hs : s.Canon m false) {part h : Nat} {reply : Option Reply}
    (e : s.startMarker part h reply = u) : u.1.Canon m false := by
  unfold State.startMarker at e
  split at e
  · cases e; exact hs
  · cases e; exact hs.putForme

theorem State.Canon.markElem (hs : s.Canon m false) {h n : Nat} (e : s.markElem h n = some u) : u.Canon m false := by
  unfold State.markElem at e
  split at e
  · cases e
  · split at e
    · cases e; exact hs.putForme
    · cases e; exact hs.putForme
    · cases e

theorem State.Canon.markFifo (hs : s.Canon m false) {h n : Nat} (e : s.markFifo h n = some u) : u.Canon m false := by
  unfold State.markFifo at e
  split at e
  · cases e
  · split at e
    · cases e; exact hs.putForme
    · cases e; exact hs.putForme
    · cases e

theorem State.Canon.flushAll (hs : s.Canon m false) {f : Forme} (e : s.flushAll f = some u) : u.Canon m false := .foldOpt
    (fun k e => k.flushSlot e) hs e

theorem State.Canon.saveDone (hs : s.Canon m false) {h : Nat} (e : s.saveDone h = some u) : u.Canon m false := by
  unfold State.saveDone at e
  split at e
  · cases e
  · split at e
    · cases e
    · split at e
      · cases e
      · split at e
        · cases e
        · rename_i e1
          split at e
          · cases e; exact hs.flushAll e1
          · cases e; exact ((hs.flushAll e1).putForme).answerOpt

theorem State.Canon.markerOver (hs : s.Canon m false) {h : Nat} (e : s.markerOver h = some u) : u.Canon m false := by
  unfold State.markerOver at e
  split at e
  · cases e
  · split at e
    · cases e
    · split at e
      · cases e
      · obtain ⟨v1, e1, rfl⟩ := Option.map_eq_some_iff.1 e
        exact ((hs.postPart e1).putForme).answerOpt

/-! ## Commits -/

theorem State.Canon.writeKregs (hs : s.Canon m false) {g : Galley} : (s.writeKregs g).Canon m false := by
  unfold State.writeKregs
  split
  · exact hs
  · exact hs.setCtx ..

theorem State.Canon.newCtx (hs : s.Canon m false) {c id : Nat} {v : Word} : (s.newCtx c id v).Canon m false := hs.setCtx ..

theorem State.Canon.endCtx (hs : s.Canon m false) {c : Nat} : (s.endCtx c).Canon m false := hs.of_mem

theorem State.Canon.trap (hs : s.Canon m false) {t : Nat} {g : Galley} {node : Nat} {code : BitVec 16} {v : Word} {brk : Bool}
    (e : s.trap t g node code v brk = some u) : u.Canon m false := by
  unfold State.trap at e
  refine State.Canon.postFault ?_ e
  split
  · exact hs.setCtx ..
  · exact hs

theorem State.Canon.halt (hs : s.Canon m false) {t c : Nat} {v : Word} (e : s.halt t c v = some u) : u.Canon m false := by
  unfold State.halt at e
  refine State.Canon.postEvent ?_ e
  split
  · exact hs.setCtx ..
  · exact hs

theorem State.Canon.endFavour (hs : s.Canon m false) {t c : Nat} : (s.endFavour t c).Canon m false := .ite (hs.setTile ..) hs

theorem State.Canon.hand (hs : s.Canon m false) {f : Forme} {h : Handed} : (s.hand f h).Canon m false := by
  unfold State.hand
  split
  · exact hs.putForme
  · exact hs

theorem State.Canon.of {v : Option Word} {r : Option (Except Failed (State × Sticky))} {p : State × Option Word × Sticky}
    (hr : ∀ {q}, r = some (.ok q) → State.Canon m false q.1) (e : Acted.of v r = some (.ok p)) : p.1.Canon m false := by
  unfold Acted.of at e
  obtain ⟨q, hq, e⟩ := Option.map_eq_some_iff.1 e
  cases q with
  | error => cases e
  | ok q => cases e; exact hr hq

theorem State.Canon.caCommit {t : Nat} {g : Galley} {a : Act} {p : State × Option Word × Sticky} (hs : s.Canon m false)
    (e : s.caCommit t g a = some (.ok p)) : p.1.Canon m false := by
  unfold State.caCommit at e
  split at e
  · cases e
  · split at e
    · cases e; exact hs.hand
    · split at e
      · exact .of hs.caResolve e
      · refine .of (fun hq => ?_) e
        obtain ⟨r, hr, hq⟩ := Option.map_eq_some_iff.1 hq
        cases r with
        | error => cases hq
        | ok r => cases hq; exact hs.caLog hr
      · exact .of hs.caDo e

theorem State.Canon.adjCommit {part : Nat} {b : List Byte} {p : State × Option Word × Sticky} (hs : s.Canon m false)
    (e : s.adjCommit part b = some (.ok p)) : p.1.Canon m false := by
  unfold State.adjCommit at e
  obtain ⟨r, -, e⟩ := Option.map_eq_some_iff.1 e
  cases r with
  | error => cases e
  | ok r => cases e; exact .writePieces _ _ hs

theorem State.Canon.drainNow {u : State × Word} (hs : s.Canon m false) {t : Nat} {g : Galley} {p : Prepared} {zero : Bool} {o : OFmt}
    {m' n : Nat} (e : s.drainNow t g p zero o m' n = u) : u.1.Canon m false := by
  unfold State.drainNow at e
  cases e; exact ((State.Canon.writePieces _ _ hs).foldStatus).setIsland ..

theorem State.Canon.performAct {t : Nat} {g : Galley} {p : Prepared} {r : State × Option Word × Sticky} (hs : s.Canon m false)
    (e : s.performAct t g p = some (.ok r)) : r.1.Canon m false := by
  unfold State.performAct at e
  dsimp only at e
  split at e
  · cases e; exact hs.newCtx
  · cases e; exact hs.endCtx
  · cases e; exact hs.setIsland ..
  · exact .quiet hs.postEvent e
  · cases e; exact hs.endFavour
  · exact .quiet hs.trap e
  · split at e
    · exact .quiet hs.trap e
    · cases e; exact hs
  · exact .quiet hs.halt e
  · obtain ⟨v, hv, e⟩ := Option.map_eq_some_iff.1 e
    cases e; exact hs.sysWrite hv
  · exact .quiet hs.eret e
  · cases e; exact hs.startMarker rfl
  · cases e; exact hs.fswap rfl
  · split at e
    · cases e
    · rename_i hload
      cases e; exact hs.fload hload
  · obtain ⟨v, hv, e⟩ := Option.map_eq_some_iff.1 e
    cases e; exact hs.ovld hv
  · cases e; exact hs.ovfree rfl
  · cases e; exact hs.degrade rfl
  · cases e; exact hs.lreclaim rfl
  · obtain ⟨v, hv, e⟩ := Option.map_eq_some_iff.1 e
    cases e; exact hs.offerRun hv
  · cases e; exact hs.leaseTake rfl
  · cases e; exact hs.copyStart rfl
  · cases e; exact hs.queueCommit rfl
  · cases e; exact hs.frelTo rfl
  · exact hs.adjCommit e
  · cases e; exact hs.drainNow rfl
  · cases e; exact .writePieces _ _ hs
  · split at e
    · cases e
    · cases e
    · rename_i hword
      cases e; exact hs.barAt hword
  · split at e
    · cases e
    · cases e
    · rename_i hword
      cases e; exact hs.barAt hword
  · split at e
    · cases e
    · cases e
    · rename_i hword
      cases e; exact hs.wakeAt hword
  · exact hs.caCommit e
  · exact hs.caCommit e
  · exact hs.caCommit e
  · cases e; exact hs

theorem State.Canon.act {t : Nat} {g : Galley} {d d' : Done} {p : Prepared} (hd : d.s.Canon m false)
    (e : Done.act t g d p = some (.ok d')) : d'.s.Canon m false := by
  unfold Done.act at e
  split at e
  · cases e
  · cases e
  · obtain ⟨r, hr, e⟩ := Option.map_eq_some_iff.1 e
    cases r with
    | error => cases e
    | ok r => cases e; exact hd.performAct hr

theorem State.Canon.acts {t : Nat} {g : Galley} {d d' : Done} {l : List Prepared} (hd : d.s.Canon m false)
    (e : Done.acts t g d l = some (.ok d')) : d'.s.Canon m false := by
  induction l generalizing d with
  | nil => cases e; exact hd
  | cons p l ih =>
    unfold Done.acts at e
    split at e
    · cases e
    · cases e
    · rename_i hact
      exact ih (hd.act hact) e

theorem State.Canon.closeGalley (hs : s.Canon m false) {t : Nat} {g : Galley} : (s.closeGalley t g).Canon m false :=
    (State.Canon.ite hs (hs.setIsland ..)).setTile ..

theorem State.Canon.sendOut (hs : s.Canon m false) {t : Nat} {o : HeldOut} (e : State.sendOut t s o = some u) : u.Canon m false := by
  unfold State.sendOut at e
  dsimp only at e
  split at e
  · exact hs.stray e
  · cases e; exact hs.sendTile ..

theorem State.Canon.sendOuts (hs : s.Canon m false) {t : Nat} {g : Galley} {outs : List HeldOut} (e : s.sendOuts t g outs = some u) :
    u.Canon m false := by
  unfold State.sendOuts at e
  exact .foldOpt (fun k e => k.sendOut e) hs e

theorem State.Canon.memory {g : Galley} {d : Done} {p : Prepared} (hd : d.s.Canon m false) : (Done.memory g d p).s.Canon m false := by
  unfold Done.memory
  dsimp only
  split
  · dsimp only
    exact hd.redAt rfl
  · split
    · exact hd.writeN ..
    · exact hd.writeLe

theorem State.Canon.storesDone {t : Nat} {g : Galley} {ps : List Prepared} (hs : s.Canon m false) :
    (s.storesDone t g ps).s.Canon m false :=
  State.Canon.closeGalley (.writeKregs
    (List.foldlRecOn (motive := fun d : Done => d.s.Canon m false) _ _ hs fun _ k _ _ => k.memory))

theorem State.Canon.finish {t : Nat} {g : Galley} {d : Done} (hd : d.s.Canon m false) (e : d.finish t g = some u) : u.Canon m false := by
  unfold Done.finish at e
  obtain ⟨v, hv, e⟩ := Option.bind_eq_some_iff.1 e
  exact (State.Canon.foldOpt (fun k e => k.settleHold e) hd hv).foldStatus.sendOuts e

theorem State.Canon.commitNow {t : Nat} {g : Galley} {ps : List Prepared} (hs : s.Canon m false)
    (e : s.commitNow t g ps = some (.ok u)) : u.Canon m false := by
  unfold State.commitNow at e
  dsimp only at e
  split at e
  · cases e
  · cases e
  · rename_i hacts
    obtain ⟨v, hv, e⟩ := Option.map_eq_some_iff.1 e
    cases e
    exact (hs.storesDone.acts hacts).finish hv

theorem State.Canon.galleyCommit (hs : s.Canon m false) {t : Nat} (e : s.galleyCommit t = some u) : u.Canon m false := by
  unfold State.galleyCommit at e
  split at e
  · cases e
  · split at e
    · cases e
    · exact hs.faultGalley e
    · split at e
      · cases e
      · exact hs.faultGalley e
      · rename_i e1
        cases e; exact .foldl (fun _ _ k => .ite k k.useXl) _ (hs.commitNow e1)

theorem State.Canon.editCore (hs : s.Canon m false) {h : Nat} {g : Core → Core} : (s.editCore h g).Canon m false := by
  unfold State.editCore
  split
  · exact hs.putCore
  · exact hs

theorem State.Canon.sendStaged (hs : s.Canon m false) {h : Nat} {w : Staged} {a b : BitVec 16} {v : Word} : (s.sendStaged h w a b v).Canon
    m false := by
  unfold State.sendStaged
  split
  · exact hs
  · exact hs.putCore

theorem State.Canon.leaveNow (hs : s.Canon m false) {w : Staged} : (s.leaveNow w).Canon m false := by
  unfold State.leaveNow
  split
  · exact hs.sendTile ..
  · exact hs.setIsland ..
  · exact hs

theorem State.Canon.stepJob (hs : s.Canon m false) {h : Nat} : (s.stepJob h).Canon m false := by
  unfold State.stepJob
  split
  · exact hs
  · split
    · exact hs
    · split
      exact .ite ((hs.setPart ..).putCore) (hs.setPart ..)

theorem State.Canon.roundDone (hs : s.Canon m false) {h : Nat} : (s.roundDone h).Canon m false := by
  unfold State.roundDone
  dsimp only
  split
  · exact hs.editCore
  · split
    · exact hs.editCore.editCore.stepJob
    · exact (State.Canon.foldl (fun _ _ k => k.answer) _ hs.editCore.editCore.stepJob.foldStatus).putForme

theorem Round.Canon.then {r : Round} {f : State → Round} (hr : r.Canon m) (hf : ∀ s, s.Canon m false → (f s).Canon m) :
    (r.then f).Canon m := by
  cases r with
  | ok s => exact hf s (hr s rfl)
  | stall => exact fun _ e => nomatch e
  | void => exact fun _ e => nomatch e

theorem Round.Canon.each {α : Type} {f : State → α → Round} (hf : ∀ s a, s.Canon m false → (f s a).Canon m) (l : List α)
    (hs : s.Canon m false) : (Round.each f s l).Canon m := by
  induction l generalizing s with
  | nil => exact fun _ e => by cases e; exact hs
  | cons a l ih => exact (hf s a hs).then fun _ k => ih k

theorem State.Canon.handedNow {h : Nat} {a : Handed} (hs : s.Canon m false) (e : s.handedNow h a = .ok u) : u.Canon m false := by
  unfold State.handedNow at e
  dsimp only at e
  split at e
  · split at e
    · cases e
    · cases e
    · rename_i hca
      cases e
      split
      · exact (hs.caResolve hca).foldStatus
      · exact hs.caResolve hca
  · split at e
    · cases e
    · cases e
    · rename_i hca
      obtain ⟨r, hr, hq⟩ := Option.map_eq_some_iff.1 hca
      cases r with
      | error => cases hq
      | ok r =>
        cases hq
        cases e
        split
        · exact (hs.caLog hr).foldStatus
        · exact hs.caLog hr
  · split at e
    · cases e
    · cases e
    · rename_i hca
      cases e
      split
      · exact (hs.caDo hca).foldStatus
      · exact hs.caDo hca
  · cases e; exact hs

theorem State.Canon.storeNow (hs : s.Canon m false) {part : Nat} {w : Staged} (e : s.storeNow part w = .ok u) : u.Canon m false := by
  unfold State.storeNow at e
  split at e
  · split at e
    · cases e
    · cases e
    · cases e; exact .writePieces _ _ hs
  · cases e; exact hs

theorem State.Canon.atomicNow (hs : s.Canon m false) {h : Nat} {w : Staged} (e : s.atomicNow h w = .ok u) : u.Canon m false := by
  unfold State.atomicNow at e
  split at e
  · split at e
    · split at e
      · cases e
      · cases e
      · split at e
        rename_i e1
        cases e; exact (hs.redAt e1).editCore
    · split at e
      · cases e; exact hs
      · cases e; exact hs.editCore
  · cases e; exact hs

theorem State.Canon.syncNow (hs : s.Canon m false) {h : Nat} {w : Staged} (e : s.syncNow h w = .ok u) : u.Canon m false := by
  unfold State.syncNow at e
  split at e
  · dsimp only at e
    split at e
    · split at e
      · cases e
      · cases e
      · rename_i e1
        cases e; exact .ite ((hs.barAt e1).sendStaged) (hs.barAt e1)
    · split at e
      · cases e
      · cases e
      · rename_i e1
        cases e; exact .ite ((hs.barAt e1).sendStaged) (hs.barAt e1)
    · split at e
      · cases e
      · cases e
      · rename_i e1
        cases e; exact .ite ((hs.wakeAt e1).sendStaged) (hs.wakeAt e1)
    · cases e; exact hs
  · cases e; exact hs

theorem State.Canon.restNow (hs : s.Canon m false) {h : Nat} {w : Staged} (e : s.restNow h w = .ok u) : u.Canon m false := by
  unfold State.restNow at e
  split at e
  · cases e; exact hs
  · split at e
    · split at e
      · cases e
      · rename_i e1
        cases e; exact hs.postEvent e1
    · split at e
      · cases e; exact hs.setIsland ..
      · cases e; exact hs
    · split at e
      · cases e
      · rename_i e1
        cases e; exact hs.stray e1
    · split at e
      rename_i e1
      cases e; exact (hs.frelTo e1).sendStaged
    · cases e; exact hs

theorem State.Canon.depositNow (hs : s.Canon m false) {f : Forme} {d : Deposit} (e : s.depositNow f d = .ok u) : u.Canon m false := by
  unfold State.depositNow at e
  split at e
  · cases e
  · cases e
  · rename_i e1
    cases e; exact hs.deposit e1

theorem State.Canon.roundCommit {h : Nat} (hs : s.Canon m false) (e : s.roundCommit h = some u) : u.Canon m false := by
  unfold State.roundCommit at e
  split at e
  · cases e
  · split at e
    · cases e
    · dsimp only at e
      split at e
      · rename_i hround
        cases e
        refine State.Canon.roundDone ?_
        refine Round.Canon.then (.each (fun _ _ k _ e => k.handedNow e) _ hs) (fun _ k => ?_) _ hround
        refine .then (.then (.then (.each (fun _ _ k _ e => k.storeNow e) _ k) fun _ k => ?_) fun _ k => ?_) fun _ k => ?_
        · exact .each (fun _ _ k _ e => k.atomicNow e) _ k
        · exact .each (fun _ _ k _ e => k.syncNow e) _ k
        · refine .then (.each (fun _ _ k _ e => k.restNow e) _ k) fun _ k => ?_
          refine .then (.each (fun _ _ k _ e => k.depositNow e) _ k) fun _ k _ e => ?_
          cases e; exact .foldl (fun _ _ k => k.leaveNow) _ k
      · cases e
      · exact hs.faultForme e

/-! ## Matching in a dataflow tile -/

theorem State.Canon.execSpillRefill (hs : s.Canon m false) {tile : Nat} (e : execSpillRefill tile s = .next u) : u.Canon m false := by
  unfold Machine.execSpillRefill at e
  refine hs.settle (fun e => ?_) e
  split at e
  · obtain ⟨v1, e1, rfl⟩ := Option.map_eq_some_iff.1 e
    exact hs.setTile ..
  · cases e

theorem State.Canon.withFavour (hs : s.Canon m false) {t : Nat} {k : PTok} : (s.withFavour t k).Canon m false := .ite (hs.setTile ..) hs

theorem State.Canon.storeIn (hs : s.Canon m false) {t : Nat} {g : Galley} {i : Instr} {r : Shell} {k : PTok}
    (e : s.storeIn t g i r k = some u) : u.Canon m false := by
  unfold State.storeIn at e
  dsimp only at e
  split at e
  · split at e
    · split at e
      · cases e
      · cases e; exact hs.setGalley.keepTile
    · split at e
      · cases e
      · cases e; exact hs.setGalley.keepTile
  · exact hs.setGalley.faultGalley e
  · exact hs.setGalley.faultGalley e
  · exact hs.setGalley.faultGalley e

theorem State.Canon.accept {taken : State} {t : Nat} {older : List PTok} {k : PTok} (hs : taken.Canon m false)
    (e : s.accept taken t older k = some u) : u.Canon m false := by
  unfold State.accept at e
  dsimp only at e
  split at e
  · split at e
    · exact .optMap (fun k => k.setTile ..) hs.stray e
    · split at e
      · exact .optMap (fun k => k.setTile ..) hs.stray e
      · split at e
        · exact .optMap (fun k => k.setTile ..) hs.storeIn e
        · refine .optIte (fun e => ?_) (.optIte (fun e => by cases e) fun e => ?_) e
          · split at e
            · exact .optMap (fun k => k.setTile ..) (hs.withFavour.setTile ..).storeIn e
            · cases e
          · cases e; exact hs.withFavour.setTile ..
  · exact .optMap (fun k => k.setTile ..) hs.stray e

theorem State.Canon.matchAccept {t n : Nat} (hs : s.Canon m false) (e : s.matchAccept t n = some u) : u.Canon m false := by
  unfold State.matchAccept at e
  dsimp only at e
  split at e
  · split at e
    · exact (hs.setTile _).accept e
    · cases e
  · split at e
    · split at e
      · cases e
      · exact (hs.setTile _).accept e
    · cases e

theorem State.Canon.execFavourSliceExpiry (hs : s.Canon m false) {tile : Nat} (e : execFavourSliceExpiry tile s = .next u) : u.Canon m
    false := by
  unfold Machine.execFavourSliceExpiry at e
  cases e; exact hs.setTile ..

theorem State.Canon.poolOut (hs : s.Canon m false) {t c : Nat} (e : s.poolOut t c = some u) : u.Canon m false := by
  unfold State.poolOut at e
  split at e
  · cases e
  · split at e
    · cases e
    · dsimp only at e
      split at e
      · cases e; exact hs.redoOr
      · cases e; refine State.Canon.setTile ?_ ..
        split
        · exact (hs.dropGalley ..).giveBits ..
        · exact hs

/-! ## Arrivals in a forme -/

theorem State.Canon.toElem (hs : s.Canon m false) {f : Forme} {c : Core} {l : LinkTok} {x y k : Nat} {t : Tok}
    (e : s.toElem f c l x y k t = some u) : u.Canon m false := by
  unfold State.toElem at e
  split at e
  · split at e
    · cases e; exact hs.putForme
    · split at e
      · cases e; exact hs.putCore
      · cases e
  · split at e
    · cases e; exact hs.putCore
    · cases e

theorem State.Canon.toLatch (hs : s.Canon m false) {f : Forme} {c : Core} {l : LinkTok} {x y : Nat} {btag : BitVec 16} {e' : BitVec 8}
    (e : s.toLatch f c l x y btag e' = some u) : u.Canon m false := by
  unfold State.toLatch at e
  dsimp only at e
  split at e
  · cases e
  · split at e
    · exact hs.faultForme e
    · cases e; exact hs.putCore

theorem State.Canon.toAg (hs : s.Canon m false) {f : Forme} {c : Core} {l : LinkTok} {bay k : Nat} {t : Tok}
    (e : s.toAg f c l bay k t = some u) : u.Canon m false := by
  unfold State.toAg at e
  dsimp only at e
  split at e
  · cases e
  · cases e; exact hs.putCore.agDrain

theorem State.Canon.toIsland (hs : s.Canon m false) {f : Forme} {c : Core} {l : LinkTok} {u' : Nat} {t : Tok}
    (e : s.toIsland f c l u' t = some u) : u.Canon m false := by
  unfold State.toIsland at e
  dsimp only at e
  split at e
  · cases e; exact hs.putForme
  · split at e
    · cases e
    · split at e
      · cases e; exact hs.putForme.setIsland ..
      · cases e; exact hs.putForme

theorem State.Canon.deliver (hs : s.Canon m false) {f : Forme} {n : Nat} (e : s.deliver f n = some u) : u.Canon m false := by
  unfold State.deliver at e
  split at e
  · cases e
  · split at e
    · cases e
    · split at e
      · exact hs.toElem e
      · exact hs.toLatch e
      · exact hs.toAg e
      · exact hs.toIsland e
      · cases e

theorem State.Canon.admitToken (hs : s.Canon m false) {f : Forme} {j : Nat} (e : s.admitToken f j = some u) : u.Canon m false := by
  unfold State.admitToken at e
  split at e
  · cases e
  · split at e
    · cases e
    · dsimp only at e
      split at e
      · cases e
      · cases e; exact hs.setCore

theorem State.Canon.arrive (hs : s.Canon m false) {h n : Nat} (e : s.arrive h n = some u) : u.Canon m false := by
  unfold State.arrive at e
  split at e
  · cases e
  · dsimp only at e
    split at e
    · exact hs.deliver e
    · exact hs.admitToken e

theorem State.Canon.fifoOut (hs : s.Canon m false) {h bay : Nat} (e : s.fifoOut h bay = some u) : u.Canon m false := by
  unfold State.fifoOut at e
  split at e
  · cases e
  · split at e
    · cases e
    · split at e
      · cases e
      · dsimp only at e
        split at e
        · cases e
        · cases e; exact hs.setCore

theorem State.Canon.fifoIn (hs : s.Canon m false) {h bay : Nat} (e : s.fifoIn h bay = some u) : u.Canon m false := by
  unfold State.fifoIn at e
  split at e
  · cases e
  · split at e
    · split at e
      · cases e
      · split at e
        · cases e; exact hs.putForme
        · split at e
          · cases e; exact hs.putCore
          · cases e
    · cases e

/-! ## Doors, launches, pre-emption and restoration -/

theorem State.Canon.doorDeliver (hs : s.Canon m false) {p : Nat} {e' : Door} {k : PTok} (e : s.doorDeliver p e' k = some u) : u.Canon m
    false := by
  unfold State.doorDeliver at e
  split at e
  · cases e; exact hs.sendTile ..
  · dsimp only at e
    split at e
    · split at e
      · cases e; exact hs.putForme
      · exact hs.stray e
    · exact hs.stray e

theorem State.Canon.doorToken (hs : s.Canon m false) {p : Nat} {q : Part} {e' : Door} {k : PTok} (e : s.doorToken p q e' k = some u) :
    u.Canon m false := by
  unfold State.doorToken at e
  split at e
  · cases e; exact hs.setPart ..
  · split at e <;> (cases e; exact hs.setPart ..)
  · exact hs.doorDeliver e
  · cases e; exact hs.setPart ..
  · cases e; exact hs.setPart ..

theorem State.Canon.ingress (hs : s.Canon m false) {p off len : Nat} {data : BitVec 128} (e : s.ingress p off len data = some u) : u.Canon
    m false := by
  unfold State.ingress at e
  split at e
  · cases e; exact hs
  · split at e
    · cases e; exact hs
    · split at e
      · cases e; exact hs.setPart ..
      · split at e
        · cases e; exact hs.setPart ..
        · dsimp only at e
          split at e
          · exact hs.doorToken e
          · cases e; exact hs.setPart ..

theorem State.Canon.wholeWrite (hs : s.Canon m false) {p base n : Nat} : (s.wholeWrite p base n).Canon m false := by
  unfold State.wholeWrite
  split
  · exact hs.setPart ..
  · exact hs

theorem State.Canon.execDoorEntryWrite (hs : s.Canon m false) {part door : Nat} {entry : BitVec 128}
    (e : execDoorEntryWrite part door entry s = .next u) : u.Canon m false := by
  unfold Machine.execDoorEntryWrite at e
  cases e; exact hs.wholeWrite.doorWrite

theorem State.Canon.execJobEntryWrite (hs : s.Canon m false) {part job : Nat} {entry : BitVec 256}
    (e : execJobEntryWrite part job entry s = .next u) : u.Canon m false := by
  unfold Machine.execJobEntryWrite at e
  cases e; exact hs.wholeWrite.jobWrite

theorem State.Canon.doorSet (hs : s.Canon m false) {p : Nat} {e : Door} : (s.doorSet p e).Canon m false := by
  unfold State.doorSet
  split
  · exact hs.setPart ..
  · exact hs

theorem State.Canon.doorPending (hs : s.Canon m false) {p d : Nat} : (s.doorPending p d).Canon m false := by
  unfold State.doorPending
  split
  · dsimp only
    split
    · exact hs.setPart ..
    · exact hs
  · exact hs

theorem State.Canon.doorFail (hs : s.Canon m false) {p : Nat} {e : Door} {reason : Nat} : (s.doorFail p e reason).Canon m false := by
  unfold State.doorFail
  refine State.Canon.doorPending ?_
  refine State.Canon.doorSet ?_
  split
  · exact hs.setPart ..
  · exact hs

theorem State.Canon.doorDone (hs : s.Canon m false) {p : Nat} {e' : Door} (e : s.doorDone p e' = some u) : u.Canon m false := by
  unfold State.doorDone at e
  obtain ⟨v1, e1, rfl⟩ := Option.map_eq_some_iff.1 e
  exact (State.Canon.foldOpt (fun k e => k.doorDeliver e) hs.doorSet e1).doorPending

theorem State.Canon.doorFault (hs : s.Canon m false) {p : Nat} {e' : Door} {cls va : Nat} (e : s.doorFault p e' cls va = some u) : u.Canon
    m false := by
  unfold State.doorFault at e
  obtain ⟨v1, e1, rfl⟩ := Option.map_eq_some_iff.1 e
  exact (hs.postHost e1).doorFail

theorem State.Canon.loadOverlay (hs : s.Canon m false) {p : Nat} {e' : Door} (e : s.loadOverlay p e' = some u) : u.Canon m false := by
  unfold State.loadOverlay at e
  dsimp only at e
  split at e
  · exact hs.doorFault e
  · split at e
    · cases e
    · exact hs.doorFault e
    · split at e
      · obtain ⟨v1, e1, rfl⟩ := Option.map_eq_some_iff.1 e
        exact (hs.postIllegal e1).doorFail
      · split at e
        · split at e
          · cases e
          · cases e; exact hs.doorFail
        · split at e
          · cases e; exact hs.doorFail
          · rename_i e1
            exact (hs.placeOverlay e1).doorDone e

theorem State.Canon.loadForme {p : Nat} {d : Door} (hs : s.Canon m false) (e : s.loadForme p d = some u) : u.Canon m false := by
  unfold State.loadForme at e
  split at e
  · cases e
  · exact hs.doorFault e
  · exact hs.doorFault e
  · exact .optMap (fun k => k.doorFail) hs.postIllegal e
  · split at e
    · rename_i hchase
      refine .optMap (fun k => k.reweigh) (State.Canon.doorDone ?_) e
      split
      · exact (hs.takeChase hchase).putForme
      · exact hs.takeChase hchase
    · cases e

theorem State.Canon.doorLoad (hs : s.Canon m false) {p d : Nat} {formes : Bool} (e : s.doorLoad p d formes = some u) : u.Canon m false := by
  unfold State.doorLoad at e
  split at e
  · cases e
  · dsimp only at e
    split at e
    · cases e
    · split at e
      · exact hs.loadForme e
      · split at e
        · cases e
        · exact hs.loadOverlay e

theorem State.Canon.launch (hs : s.Canon m false) {q : Part} {v : QueueView} (e : s.launch q v = some u) : u.Canon m false := by
  unfold State.launch at e
  split at e
  · cases e
  · exact ((State.Canon.writePieces _ _ hs).setPart ..).doorToken e

theorem State.Canon.launchOne (hs : s.Canon m false) {p : Nat} (e : s.launchOne p = some u) : u.Canon m false := by
  unfold State.launchOne at e
  dsimp only at e
  split at e
  · cases e
  · split at e
    · cases e
    · exact hs.lateReturns.launch e

theorem State.Canon.preempt (hs : s.Canon m false) {h : Nat} (e : s.preempt h = some u) : u.Canon m false := by
  unfold State.preempt at e
  split at e
  · cases e
  · split at e
    · cases e
    · split at e
      · split at e
        · cases e; exact hs.startMarker rfl
        · cases e
      · cases e

theorem State.Canon.swapOut (hs : s.Canon m false) {h : Nat} (e : s.swapOut h = some u) : u.Canon m false := by
  unfold State.swapOut at e
  split at e
  · cases e
  · split at e
    · cases e
    · cases e; exact (((hs.doorsAbsent ..).putForme).refreshSwapped ..).retryLoads

theorem State.Canon.restoreForme (hs : s.Canon m false) {p : Nat} {f : Forme} (e : s.restoreForme p f = some u) : u.Canon m false := by
  unfold State.restoreForme at e
  obtain ⟨v1, e1, rfl⟩ := Option.map_eq_some_iff.1 e
  exact hs.putForme.loadRanges

theorem State.Canon.waitingOut {p : Nat} {x : List Nat × State} (hs : s.Canon m false) (hx : x ∈ s.waitingOut p) : x.2.Canon m false := by
  unfold State.waitingOut at hx
  simp only [List.mem_append, List.mem_filterMap, List.mem_flatMap] at hx
  rcases hx with (⟨f, -, e⟩ | ⟨l, -, e⟩) | ⟨t, -, q, -, e⟩
  · split at e
    · obtain ⟨v, hv, rfl⟩ := Option.map_eq_some_iff.1 e
      exact hs.restoreForme hv
    · cases e
  · split at e
    · obtain ⟨v, hv, rfl⟩ := Option.map_eq_some_iff.1 e
      exact State.Canon.retryLoad (hs.of_mem) hv
    · cases e
  · obtain ⟨d, -, rfl⟩ := Option.map_eq_some_iff.1 e
    exact hs.keepTile

theorem State.Canon.restoreOne {p : Nat} (hs : s.Canon m false) (e : s.restoreOne p = some u) : u.Canon m false := by
  unfold State.restoreOne at e
  obtain ⟨x, hx, rfl⟩ := Option.map_eq_some_iff.1 e
  exact hs.waitingOut (leastBy_mem hx)

/-! ## The host and the module -/

theorem State.Canon.execRegisterWrite (hs : s.Canon m false) {acc : RegAccess} {index : Nat} {value : BitVec 64}
    (e : execRegisterWrite acc index value s = .next u) : u.Canon m false := by
  unfold Machine.execRegisterWrite at e
  refine hs.settle (fun e => ?_) e
  split at e
  · exact hs.hostRegWrite e
  · cases e

theorem State.Canon.execRegisterRead (hs : s.Canon m false) {acc : RegAccess} {index : Nat} (e : execRegisterRead acc index s = .next u) :
    u.Canon m false := by
  unfold Machine.execRegisterRead at e
  cases e; exact .ite (hs.hostRegRead rfl) hs

theorem State.Canon.execIssueStatClr (hs : s.Canon m false) {tile : Nat} (e : execIssueStatClr tile s = .next u) : u.Canon m false := by
  unfold Machine.execIssueStatClr at e
  cases e; exact hs.setTile ..

theorem State.Canon.execIngressStatClr (hs : s.Canon m false) {part : Nat} (e : execIngressStatClr part s = .next u) : u.Canon m false := by
  unfold Machine.execIngressStatClr at e
  cases e; split
  · exact hs.setPart ..
  · exact hs

theorem State.Canon.hostWrite (hs : s.Canon m false) {a : Nat} {b : List Byte} : (s.hostWrite a b).Canon m false := hs.writeN ..

theorem State.Canon.hostMem (hs : s.Canon m false) {write : Bool} {addr size : Nat} {data : BitVec 512}
    (e : s.hostMem write addr size data = some u) : u.Canon m false := by
  unfold State.hostMem at e
  dsimp only at e
  split at e
  · cases e; exact hs
  · split at e
    · cases e
    · split at e
      · cases e; exact hs.hostWrite
      · cases e; exact hs

theorem State.Canon.execPmodeWrite (hs : s.Canon m false) {mode : BitVec 3} (e : execPmodeWrite mode s = .next u) : u.Canon m false := by
  unfold Machine.execPmodeWrite at e
  cases e; exact hs.setMode

theorem State.Canon.execClockDomainSwitch (hs : s.Canon m false) {dom : Nat} (e : execClockDomainSwitch dom s = .next u) : u.Canon m false
    := by
  unfold Machine.execClockDomainSwitch at e
  cases e; exact hs.of_mem

theorem State.Canon.execClockThrottle (hs : s.Canon m false) {dom mhz : Nat} (e : execClockThrottle dom mhz s = .next u) : u.Canon m false
    := by
  unfold Machine.execClockThrottle at e
  cases e; exact .ite hs hs.of_mem

theorem State.Canon.execFwgo (hs : s.Canon m false) (e : execFwgo s = .next u) : u.Canon m false := by
  unfold Machine.execFwgo at e
  cases e; exact hs.fwGo

theorem State.Canon.execCeclr (hs : s.Canon m false) (e : execCeclr s = .next u) : u.Canon m false := by
  unfold Machine.execCeclr at e
  cases e; exact hs.of_mem

theorem State.Canon.fenceBays (hs : s.Canon m false) {l : List (Nat × Nat)} : (s.fenceBays l).Canon m false := .foldl
    (fun _ _ k => k.writeLe) _ hs.of_mem

theorem State.Canon.failedBays {n : Nat} {p : List (Nat × Nat) × State} (hs : s.Canon m false) (e : s.failedBays n = p) :
    p.2.Canon m false := by
  subst e
  induction n with
  | zero => exact hs
  | succ n ih => exact ih.pick (2 ^ 256)

theorem State.Canon.firmware (hs : s.Canon m false) : s.firmware.Canon m false := by
  unfold State.firmware
  refine .foldl (fun s p k => ?_) _ (State.Canon.of_mem (s := List.foldl _ (List.foldl State.firmwareParts s (List.range 4)) _)
    (.foldl (fun s e k => ?_) _ (.foldl (fun _ _ k => k.firmwareParts) _ hs)) rfl)
  · dsimp only
    split
    · exact State.Canon.setLink (k.pick 1024)
    · exact k.pick 1024
  · split
    · exact k.setLink
    · exact k

theorem State.Canon.fwCheck (hs : s.Canon m false) (e : s.fwCheck = some u) : u.Canon m false := by
  unfold State.fwCheck at e
  refine .optIte (fun e => by cases e) (.optIte (fun e => ?_) fun e => ?_) e <;> clear * - hs e
  · generalize hb : s.failedBays 4 = p at e
    obtain ⟨failed, t⟩ := p
    have ht : t.Canon m false := hs.failedBays hb
    have hfirmware : (t.fenceBays (failed ++ s.fenceList)).firmware.Canon m false := .firmware (.fenceBays ht)
    dsimp only at e
    generalize (t.fenceBays (failed ++ s.fenceList)).firmware = v at e hfirmware
    obtain rfl := Option.some.inj e
    exact hfirmware.of_mem
  · obtain rfl := Option.some.inj e
    exact hs.of_mem

theorem State.Canon.execFwCheckDone (hs : s.Canon m false) (e : execFwCheckDone s = .next u) : u.Canon m false :=
  hs.settle hs.fwCheck e

theorem State.Canon.execPowerUp (hs : s.Canon m false) (e : execPowerUp s = .next u) : u.Canon m false := by
  unfold Machine.execPowerUp at e
  cases e
  exact ⟨fun k => Memory.filter_wf (hs.1 k) _, fun _ _ k => nomatch k⟩

theorem State.Canon.notice (hs : s.Canon m false) : (s.notice).Canon m false := hs.of_mem

theorem State.Canon.setUnit (hs : s.Canon m false) {e : Nat} {code : BitVec 2} : (s.setUnit e code).Canon m false := .ite hs.of_mem
    hs.of_mem.notice

theorem State.Canon.postParts (hs : s.Canon m false) {ps : List Nat} {f : FaultHead} {payload : Nat}
    (e : s.postParts ps f payload = some u) : u.Canon m false := .foldOpt (fun k e => k.postPart e) hs e

theorem State.Canon.rowReady (hs : s.Canon m false) {d row : Nat} : (s.rowReady d row).Canon m false := .ite hs hs.of_mem.notice.retryLoads

theorem State.Canon.ready (hs : s.Canon m false) {entry : ReadyEntry} {code : BitVec 2} (e : s.ready entry code = some u) : u.Canon m false
    := by
  unfold State.ready at e
  split at e
  · cases e; exact .ite hs.rowReady hs
  · split at e
    · cases e; exact hs
    · split at e
      · split at e
        · cases e; exact hs
        · split at e
          · cases e; exact hs.setUnit.setLink
          · cases e; exact hs
      · split at e
        · exact hs.setUnit.postParts e
        · cases e; exact hs.setUnit

theorem State.Canon.fruTo (hs : s.Canon m false) {st : FruState} {good : Nat} (e : s.fruTo st good = some u) : u.Canon m false := by
  unfold State.fruTo at e
  split at e
  · cases e; exact hs.of_mem
  · exact .foldOpt (fun k e => k.postHost e) hs.of_mem.notice e

theorem State.Canon.pps (hs : s.Canon m false) {offset : Int} (e : s.pps offset = some u) : u.Canon m false := by
  unfold State.pps at e
  dsimp only at e
  split at e
  · cases e; exact hs
  · split at e
    · exact hs.of_mem.fruTo e
    · exact hs.of_mem.fruTo e
    · split at e <;> split at e <;> exact hs.of_mem.fruTo e
    · split at e
      · exact hs.of_mem.fruTo e
      · cases e; exact hs.of_mem

theorem State.Canon.execFruPpsTimeout (hs : s.Canon m false) (e : execFruPpsTimeout s = .next u) : u.Canon m false := by
  unfold Machine.execFruPpsTimeout at e
  refine hs.settle (fun e => ?_) e
  split at e
  · exact hs.fruTo e
  · cases e; exact hs

theorem State.Canon.execFruNowsRead (hs : s.Canon m false) (e : execFruNowsRead s = .next u) : u.Canon m false := by
  unfold Machine.execFruNowsRead at e
  cases e; exact hs.nowsRead

theorem State.Canon.fruFire (hs : s.Canon m false) {now : Nat} (e : s.fruFire now = some u) : u.Canon m false := by
  unfold State.fruFire at e
  dsimp only at e
  split at e
  · cases e
  · exact .foldOpt (fun k e => k.postEvent e) hs.of_mem e

theorem State.Canon.linkFails {l : LinkState} (hs : s.Canon m false) (e : s.linkFails l = some u) : u.Canon m false := by
  unfold State.linkFails at e
  obtain ⟨v, hv, e⟩ := Option.bind_eq_some_iff.1 e
  exact (hs.of_mem.postParts hv).loseUnreachable e

theorem State.Canon.linkRetrains (hs : s.Canon m false) {n : Nat} (e : s.linkRetrains n = some u) : u.Canon m false := by
  unfold State.linkRetrains at e
  split at e
  · cases e
  · split at e
    · cases e
    · dsimp only at e
      split at e
      · exact hs.linkFails e
      · cases e; exact hs.setLink

theorem State.Canon.execLinkRetrainDone (hs : s.Canon m false) {link : Nat} (e : execLinkRetrainDone link s = .next u) : u.Canon m false :=
    by
  unfold Machine.execLinkRetrainDone at e
  cases e; split
  · exact hs.setLink
  · exact hs

theorem State.Canon.execLinkDown (hs : s.Canon m false) {link : Nat} (e : execLinkDown link s = .next u) : u.Canon m false := by
  unfold Machine.execLinkDown at e
  refine hs.settle (fun e => ?_) e
  split at e
  · split at e
    · exact hs.linkFails e
    · cases e
  · cases e

/-! ## The watchdog and memory errors -/

theorem State.Canon.watchdog (hs : s.Canon m false) {w : Stall} (e : s.watchdog w = some u) : u.Canon m false := by
  unfold State.watchdog at e
  split at e
  · split at e
    · cases e
    · split at e
      · cases e
      · exact hs.faultFormeBy e
  · split at e
    · cases e
    · split at e
      · exact hs.faultFormeBy e
      · cases e
  · split at e
    · cases e
    · split at e
      · exact hs.faultGalleyBy e
      · cases e
  · split at e
    · cases e
    · split at e
      · cases e
      · exact hs.faultGalleyBy e

theorem State.Canon.countError (hs : s.Canon m false) : (s.countError).Canon m false := hs.of_mem

theorem State.Canon.execEccCorrectable (hs : s.Canon m false) (e : execEccCorrectable s = .next u) : u.Canon m false := by
  unfold Machine.execEccCorrectable at e
  cases e; exact hs.countError

theorem State.Canon.execPatrolScrub (hs : s.Canon m false) {addr : Nat} (e : execPatrolScrub addr s = .next u) : u.Canon m false := by
  unfold Machine.execPatrolScrub at e
  cases e; exact hs

theorem State.Canon.eccHost (hs : s.Canon m false) {p srcid : Nat} (e : s.eccHost p srcid = some u) : u.Canon m false := hs.postPart e

theorem State.Canon.eccRound (hs : s.Canon m false) {h x y : Nat} {intact : Bool} {va : VA} (e : s.eccRound h x y intact va = some u) :
    u.Canon m false := by
  unfold State.eccRound at e
  split at e
  · cases e
  · split at e
    · cases e
    · split at e
      · cases e; exact hs.countError
      · split at e
        · cases e; exact hs.countError.putForme
        · exact (State.Canon.ite hs.countError hs).faultFormeBy e

theorem State.Canon.eccGalley (hs : s.Canon m false) {t hdr : Nat} {tag : Tag} {node : Nat} {intact : Bool} {va : VA}
    (e : s.eccGalley t hdr tag node intact va = some u) : u.Canon m false := by
  unfold State.eccGalley at e
  dsimp only at e
  split at e
  · cases e
  · split at e
    · obtain rfl := Option.some.inj e
      exact hs.countError.redo
    · exact ((State.Canon.ite hs.countError hs).setTile ..).faultGalleyBy e

theorem State.Canon.eccSpill (hs : s.Canon m false) {t node : Nat} {tag : Tag} (e : s.eccSpill t node tag = some u) : u.Canon m false := by
  unfold State.eccSpill at e
  dsimp only at e
  split at e
  · cases e
  · refine State.Canon.eccHost ?_ e
    split
    · exact ((hs.dropGalley ..).setTile ..).reopen ..
    · exact hs.setTile ..

theorem State.Canon.eccForme (hs : s.Canon m false) {h : Nat} {ok : Forme → Bool} (e : s.eccForme h ok = some u) : u.Canon m false := by
  unfold State.eccForme at e
  split at e
  · cases e
  · split at e
    · exact (hs.killForme ..).eccHost e
    · cases e

theorem State.Canon.eccData (hs : s.Canon m false) {p ctx : Nat} {intact : Bool} {va : VA} {failed : State → State}
    (hfailed : ∀ t, t.Canon m false → (failed t).Canon m false) (e : s.eccData p ctx intact va failed = some u) : u.Canon m false := by
  unfold State.eccData at e
  split at e
  · cases e; exact hs.countError
  · obtain ⟨v1, e1, rfl⟩ := Option.map_eq_some_iff.1 e
    exact hfailed _ (hs.postPart e1)

theorem State.Canon.eccCopy (hs : s.Canon m false) {die id : Nat} {intact : Bool} {va : VA} (e : s.eccCopy die id intact va = some u) :
    u.Canon m false := by
  unfold State.eccCopy at e
  split at e
  · cases e
  · exact hs.eccData (fun _ k => k.endCopy) e

theorem State.Canon.eccDoor (hs : s.Canon m false) {p d : Nat} {va : VA} (e : s.eccDoor p d va = some u) : u.Canon m false := by
  unfold State.eccDoor at e
  split at e
  · split at e
    · exact hs.eccData (fun _ k => k.doorFail) e
    · cases e
  · cases e

theorem State.Canon.ecc (hs : s.Canon m false) {e' : EccSite} (e : s.ecc e' = some u) : u.Canon m false := by
  unfold State.ecc at e
  split at e
  · exact hs.eccRound e
  · exact hs.eccGalley e
  · exact hs.eccForme e
  · exact hs.eccSpill e
  · exact hs.eccCopy e
  · exact hs.eccDoor e
  · exact hs.eccData (fun _ k => k) e
  · exact hs.eccForme e

theorem State.Canon.unpark (hs : s.Canon m false) : (s.unpark).Canon m false := hs.of_mem

/-! ## Records, events and the step -/

theorem State.Canon.exec {i : Instr} (hs : s.Canon m false) (e : exec i s = .next u) : u.Canon m false := by
  cases i with
  | add | sub | mul | mulh | mulhu | mad | div | divu | rem | remu | min | max | minu | maxu | abs | neg | andW | orW | xorW | andn | lut3
    | maj | shl | shr | sar | fshl | fshr | popc | clz | brev | bfx | bfi | icmp | icmpv | fcmp | fcmpv | sel | fclass | pand | por | pxor
    | pnot | pconst | ptest | fadd | fsub | fmul | ffma | fmin | fmax | fabs | fneg | fdiv | fsqrt | frcpe | frsqe | fexp2 | flog2 | fsin
    | frnd | hadd | hsub | hmul | hfma | hmin | hmax | habs | hneg | hdot2 | hcmp | hsel | hmask | cvtif | cvtfi | cvtff | packh | unpkh |
    cvtf8 | cvt8f | twenc | twdec | scq | scdq | spchk =>
    unfold Machine.exec at e
    exact hs.compute e
  | copy => exact hs.execCopy e
  | steer => exact hs.execSteer e
  | merge => exact hs.execMerge e
  | gate => exact hs.execGate e
  | sink => exact hs.execSink e
  | join => exact hs.execJoin e
  | const => exact hs.execConst e
  | repeatN => exact hs.execRepeatN e
  | seq => exact hs.execSeq e
  | nullout => exact hs.execNullout e
  | eosout => exact hs.execEosout e
  | eoswait => exact hs.execEoswait e
  | loopin | nexti | loopout => exact hs.tagStep e
  | call => exact hs.execCall e
  | ret => exact hs.execRet e
  | gettag => exact hs.execGettag e
  | settag => exact hs.execSettag e
  | window => exact hs.execWindow e
  | route => exact hs.execRoute e
  | unroute => exact hs.execUnroute e
  | ctxnew => exact hs.execCtxnew e
  | ctxfree => exact hs.execCtxfree e
  | nextg => exact hs.execNextg e
  | ld => exact hs.execLd e
  | st => exact hs.execSt e
  | ldi => exact hs.execLdi e
  | sti => exact hs.execSti e
  | kld => exact hs.execKld e
  | kst => exact hs.execKst e
  | gather => exact hs.execGather e
  | scatter => exact hs.execScatter e
  | sopen => exact hs.execSopen e
  | sclose => exact hs.execSclose e
  | sseek => exact hs.execSseek e
  | pref raw => exact hs.execPref (raw := raw) e
  | tld => exact hs.execTld e
  | tst => exact hs.execTst e
  | pshift => exact hs.execPshift e
  | pbound => exact hs.execPbound e
  | pact => exact hs.execPact e
  | pmark => exact hs.execPmark e
  | prule => exact hs.execPrule e
  | phalo => exact hs.execPhalo e
  | pflip => exact hs.execPflip e
  | pcnt => exact hs.execPcnt e
  | cmb => exact hs.execCmb e
  | aadd | amin | amax | aand | aor | axor | axchg | acas | afadd | lockacq | lockrel => exact hs.fireAtomic e
  | red => exact hs.execRed e
  | redwait acq scope => exact hs.execRedwait (acq := acq) (scope := scope) e
  | fence acq scope rel => exact hs.execFence (acq := acq) (scope := scope) (rel := rel) e
  | bararr => exact hs.execBararr e
  | bardrop => exact hs.execBardrop e
  | barwait acq scope => exact hs.execBarwait (acq := acq) (scope := scope) e
  | waitw acq scope => exact hs.execWaitw (acq := acq) (scope := scope) e
  | wakew => exact hs.execWakew e
  | roundend => exact hs.execRoundend e
  | quiesce => exact hs.execQuiesce e
  | handover => exact hs.execHandover e
  | ordtok => exact hs.execOrdtok e
  | event => exact hs.execEvent e
  | yield => exact hs.execYield e
  | mma => exact hs.execMma e
  | mmas => exact hs.execMmas e
  | mdrain => exact hs.execMdrain e
  | mzero => exact hs.execMzero e
  | mtask => exact hs.execMtask e
  | scin => exact hs.execScin e
  | smul | sfma => exact hs.scaledProduct e
  | mstat => exact hs.execMstat e
  | tex => exact hs.execTex e
  | texn => exact hs.execTexn e
  | march => exact hs.execMarch e
  | cadd => exact hs.execCadd e
  | cwmk => exact hs.execCwmk e
  | cres => exact hs.execCres e
  | cclr => exact hs.execCclr e
  | clog => exact hs.execClog e
  | cadj => exact hs.execCadj e
  | frel => exact hs.execFrel e
  | copye | qcommit | loffer | ltake | degrade | fload | fswap | ovld | ovfree | trap | brk | halt => exact hs.fireLater e
  | copyw => exact hs.execCopyw e
  | qresv => exact hs.execQresv e
  | qtake => exact hs.execQtake e
  | lreclaim | marker | snap => exact hs.firePriv e
  | lquery => exact hs.execLquery e
  | nop => exact hs.execNop e
  | sysrd => exact hs.execSysrd e
  | syswr => exact hs.execSyswr e
  | eret => exact hs.execEret e
  | perf => exact hs.execPerf e
  | elementTokenArrival => exact hs.settle (fun e => hs.arrive e) e
  | matchTokenAccept => exact hs.settle (fun e => hs.matchAccept e) e
  | spillRefill => exact hs.execSpillRefill e
  | galleyCommit => exact hs.settle (fun e => hs.galleyCommit e) e
  | roundCommit => exact hs.settle (fun e => hs.roundCommit e) e
  | fifoTileDequeue => exact hs.settle (fun e => hs.fifoOut e) e
  | fifoTileEnqueue => exact hs.settle (fun e => hs.fifoIn e) e
  | winFill => exact hs.settle (fun e => hs.winStep e) e
  | streamReadWord => exact hs.settle (fun e => hs.streamRead e) e
  | streamWriteWord => exact hs.settle (fun e => hs.writePort e) e
  | planePassWord => exact hs.settle (fun e => hs.passStep e) e
  | quiescenceReport => exact hs.settle (fun e => hs.reportQuiet e) e
  | fswapBoundExpiry => exact hs.settle (fun e => hs.swapRefused e) e
  | planeExchange => exact hs.settle (fun e => hs.exchangePlanes e) e
  | formeFirstLiveCycle => exact hs.settle (fun e => hs.firstLive e) e
  | elementMarkerArrival => exact hs.settle (fun e => hs.markElem e) e
  | fifoMarkerArrival => exact hs.settle (fun e => hs.markFifo e) e
  | markerSaveComplete => exact hs.settle (fun e => hs.saveDone e) e
  | markerBoundExpiry => exact hs.settle (fun e => hs.markerOver e) e
  | formePreempt => exact hs.settle (fun e => hs.preempt e) e
  | shadowSwap => exact hs.settle (fun e => hs.swapOut e) e
  | pooledPreempt => exact hs.settle (fun e => hs.poolOut e) e
  | queueLaunch => exact hs.settle (fun e => hs.launchOne e) e
  | favourSliceExpiry => exact hs.execFavourSliceExpiry e
  | ingressWrite => exact hs.settle (fun e => hs.ingress e) e
  | doorEntryWrite => exact hs.execDoorEntryWrite e
  | doorLoadDone | doorLoadRetry => exact hs.settle (fun e => hs.doorLoad e) e
  | jobEntryWrite => exact hs.execJobEntryWrite e
  | extChgBegin => exact hs.execExtChgBegin e
  | extChgHeld => exact hs.execExtChgHeld e
  | extChgEnd => exact hs.execExtChgEnd e
  | extChgAbort => exact hs.execExtChgAbort e
  | walkerWalk => exact hs.execWalkerWalk e
  | dieSplitWrite => exact hs.execDieSplitWrite e
  | issueStatClr => exact hs.execIssueStatClr e
  | ingressStatClr => exact hs.execIngressStatClr e
  | ctxCmdReplay | ctxCmdContinue | ctxCmdKill | ctxCmdKillForme | ctxCmdResume | ctxCmdReplayUnposted =>
    exact hs.settle (fun e => hs.ctxCmd e) e
  | pmodeWrite => exact hs.execPmodeWrite e
  | clockDomainSwitch => exact hs.execClockDomainSwitch e
  | clockThrottle => exact hs.execClockThrottle e
  | fwgo => exact hs.execFwgo e
  | fwCheckDone => exact hs.execFwCheckDone e
  | ceclr => exact hs.execCeclr e
  | powerUp => exact hs.execPowerUp e
  | functionReady => exact hs.settle (fun e => hs.ready e) e
  | ppsEdge => exact hs.settle (fun e => hs.pps e) e
  | fruPpsTimeout => exact hs.execFruPpsTimeout e
  | fruNowsRead => exact hs.execFruNowsRead e
  | fruReleaseFire => exact hs.settle (fun e => hs.fruFire e) e
  | linkRetrain => exact hs.settle (fun e => hs.linkRetrains e) e
  | linkDown => exact hs.execLinkDown e
  | hostMemAccess => exact hs.settle (fun e => hs.hostMem e) e
  | islandPacket => exact hs.settle (fun e => hs.islandPacket e) e
  | copyComplete => exact hs.settle (fun e => hs.copyEnd e) e
  | leaseZeroDone => exact hs.settle (fun e => hs.zeroDone e) e
  | take => exact hs.settle (fun e => hs.leaseTaken e) e
  | takeAck => exact hs.settle (fun e => hs.borrowAck e) e
  | takeNak => exact hs.execTakeNak e
  | reclaim => exact hs.execReclaim e
  | stopped => exact hs.execStopped e
  | push => exact hs.execPush e
  | done => exact hs.settle (fun e => hs.borrowDone e) e
  | demoted => exact hs.settle (fun e => hs.leaseDemoted e) e
  | lost | leaseReplyTimeout => exact hs.settle (fun e => hs.borrowLost e) e
  | leaseStopTimerExpiry => exact hs.execLeaseStopTimerExpiry e
  | leaseTermExpiry => exact hs.settle (fun e => hs.termOver e) e
  | leaseCfgDemand => exact hs.settle (fun e => hs.leaseCfg e) e
  | qtimeExpiry => exact hs.settle (fun e => hs.quarantineOver e) e
  | watchdogExpiry => exact hs.settle (fun e => hs.watchdog e) e
  | eccUncorrectable => exact hs.settle (fun e => hs.ecc e) e
  | eccCorrectable => exact hs.execEccCorrectable e
  | patrolScrub addr => exact hs.execPatrolScrub (addr := addr) e
  | registerWrite => exact hs.execRegisterWrite e
  | linkRetrainDone => exact hs.execLinkRetrainDone e
  | formeRestore => exact hs.settle (fun e => hs.restoreOne e) e
  | quiesceBoundExpiry => exact hs.settle (fun e => hs.quiesceOver e) e
  | registerRead => exact hs.execRegisterRead e
  | fijanFlitArrival => exact hs.execFijanFlitArrival e

theorem State.Canon.issue {p : Site} (hs : s.Canon m false) (e : s.issue p = .next u) : u.Canon m false := by
  unfold State.issue at e
  split at e
  · cases e
  · split at e
    · cases e
    · exact State.Canon.exec hs.of_mem e

theorem State.Canon.perform {a : Action} (hs : s.Canon m false) (e : s.perform a = .next u) : u.Canon m false := by
  unfold State.perform at e
  split at e
  · exact State.Canon.exec hs.of_mem e
  · exact hs.issue e

theorem State.Canon.step (hs : s.Canon m false) (e : step s = .next u) : u.Canon m false := by
  unfold Machine.step at e
  split at e
  · exact State.Canon.perform hs.of_mem e
  · split at e
    · exact State.Canon.perform hs.of_mem e
    · cases e
      exact State.Canon.unpark hs.of_mem

end

/-- Settles O59: the operations of the model write memory only by `Memory.write`, `Memory.writeN`, `Memory.putCells` and by leaving out
entries, each of which keeps the canonical form. -/
theorem stepKeepsMemoryCanonical : Obligations.StepKeepsMemoryCanonical := by
  unfold Obligations.StepKeepsMemoryCanonical
  intro s t hs hstep
  have hcanon : s.Canon true false := ⟨fun _ => hs, fun _ _ k => nomatch k⟩
  exact (hcanon.step hstep).1 rfl

end Sys2Proof.Machine

/-! # The new word and the result of each atomic (R177, R180) -/

namespace Sys2Proof.Machine

/-- The lesser word by the order that `uns` picks is the lesser by that order on numbers. -/
theorem CombineOp.apply_least (uns : Bool) (x y : Word) :
    (CombineOp.apply (if uns then .minu else .min) x y).1 =
      if (if uns then x.toNat ≤ y.toNat else x.toInt ≤ y.toInt) then x else y := by
  cases uns
  · by_cases h : x.toInt ≤ y.toInt
    · simp [CombineOp.apply, BitVec.slt, h, Int.not_lt.mpr h]
    · simp [CombineOp.apply, BitVec.slt, h, Int.not_le.mp h]
  · by_cases h : x.toNat ≤ y.toNat
    · simp [CombineOp.apply, BitVec.ult, h, Nat.not_lt.mpr h]
    · simp [CombineOp.apply, BitVec.ult, h, Nat.not_le.mp h]

/-- The greater word by the order that `uns` picks is the greater by that order on numbers. -/
theorem CombineOp.apply_greatest (uns : Bool) (x y : Word) :
    (CombineOp.apply (if uns then .maxu else .max) x y).1 =
      if (if uns then y.toNat ≤ x.toNat else y.toInt ≤ x.toInt) then x else y := by
  cases uns
  · by_cases h : y.toInt ≤ x.toInt
    · simp [CombineOp.apply, BitVec.slt, h, Int.not_lt.mpr h]
    · simp [CombineOp.apply, BitVec.slt, h, Int.not_le.mp h]
  · by_cases h : y.toNat ≤ x.toNat
    · simp [CombineOp.apply, BitVec.ult, h, Nat.not_lt.mpr h]
    · simp [CombineOp.apply, BitVec.ult, h, Nat.not_le.mp h]

/-- The word of a lock that a context holds, as a number. -/
theorem lockWord_toNat {ctx : Nat} (h : ctx < 4096) :
    (0x80000000 ||| BitVec.ofNat 32 ctx : Word).toNat = 2 ^ 31 + ctx := by
  have hor : 2 ^ 31 * 1 + ctx = 2 ^ 31 * 1 ||| ctx := Nat.two_pow_add_eq_or_of_lt (by omega) 1
  have hmod : ctx % 2 ^ 32 = ctx := Nat.mod_eq_of_lt (by omega)
  calc (0x80000000 ||| BitVec.ofNat 32 ctx : Word).toNat = 2 ^ 31 * 1 ||| ctx % 2 ^ 32 := by simp
    _ = 2 ^ 31 + ctx := by rw [hmod, ← hor, Nat.mul_one]

/-- The word of a held lock has its top bit set. -/
theorem lockWord_held (ctx : Nat) :
    (0x80000000 ||| BitVec.ofNat 32 ctx : Word).getLsbD 31 = true := by
  simp

/-- LOCKACQ stores the lock word of its context in a free word. -/
theorem atomicStep_lockacq_free (acq pin : Bool) (c : Scope) (raw : BitVec 32) (r : Shell) {ctx : Nat} (v w : Word) (h : ctx < 4096) :
    atomicStep (.lockacq acq c raw r) pin ctx 0 v w = (0x80000000 ||| BitVec.ofNat 32 ctx, 1, 0) := by
  have hw : BitVec.ofNat 32 (2 ^ 31 + ctx) = (0x80000000 ||| BitVec.ofNat 32 ctx : Word) :=
    BitVec.eq_of_toNat_eq (by rw [lockWord_toNat h, BitVec.toNat_ofNat]; omega)
  rw [← hw]
  rfl

/-- LOCKREL frees the lock word of its own context. -/
theorem atomicStep_lockrel_own (rel pin : Bool) (c : Scope) (raw : BitVec 32) (r : Shell) {ctx : Nat} (v w : Word) (h : ctx < 4096) :
    atomicStep (.lockrel c rel raw r) pin ctx (0x80000000 ||| BitVec.ofNat 32 ctx) v w = (0, 1, 0) := by
  have hmod : (2 ^ 31 + ctx) % 2 ^ 12 = ctx := by omega
  exact if_pos (by rw [lockWord_held ctx, lockWord_toNat h, hmod]; simp)

/-- LOCKREL leaves a free word and the lock word of another context. -/
theorem atomicStep_lockrel_other (rel pin : Bool) (c : Scope) (raw : BitVec 32) (r : Shell) {ctx : Nat} {old : Word} (v w : Word)
    (h : old.getLsbD 31 = false ∨ old.toNat % 4096 ≠ ctx) :
    atomicStep (.lockrel c rel raw r) pin ctx old v w = (old, 0, 0) := by
  refine if_neg fun hc => ?_
  obtain ⟨hheld, hown⟩ := Bool.and_eq_true_iff.mp hc
  rcases h with h | h
  · exact Bool.false_ne_true (h.symm.trans hheld)
  · exact h (beq_iff_eq.mp hown)

/-- Settles O40: each operation by its definition, the minimum and the maximum by the order that UNS picks. -/
theorem atomicWords : Obligations.AtomicWords := by
  unfold Obligations.AtomicWords
  rintro acq rel uns pin c raw r ctx old v w hctx rfl
  refine ⟨rfl, rfl, rfl, rfl, rfl, rfl, rfl, ?_, ?_, atomicStep_lockacq_free acq pin c raw r v w hctx, fun h => if_neg h,
    atomicStep_lockrel_own rel pin c raw r v w hctx, atomicStep_lockrel_other rel pin c raw r v w⟩
  · exact congrArg (fun x => (x, old, 0)) (CombineOp.apply_least (rawUns pin raw) old v)
  · exact congrArg (fun x => (x, old, 0)) (CombineOp.apply_greatest (rawUns pin raw) old v)

end Sys2Proof.Machine

/-! # Reading memory after a write, a clear and a copy (log 3) -/

namespace Sys2Proof.Machine

/-- What memory reads after bytes were written. -/
theorem Memory.read_writeN {m : Memory} (h : m.wf = true) (a : Nat) (l : List Byte) (i : Nat) :
    (m.writeN a l).read i = if a ≤ i ∧ i < a + l.length then l.getD (i - a) 0 else m.read i := by
  induction l generalizing m a with
  | nil => rw [if_neg (by simp only [List.length_nil]; omega)]; rfl
  | cons b l ih =>
    rw [Memory.writeN, ih (Memory.write_wf h a b), List.length_cons]
    rcases Nat.lt_trichotomy i a with hlt | rfl | hgt
    · rw [if_neg (by omega), if_neg (by omega), Memory.read_write_other h b (by omega)]
    · rw [if_neg (by omega), if_pos (by omega), Memory.read_write_same h, Nat.sub_self, List.getD_cons_zero]
    · obtain ⟨j, rfl⟩ := Nat.exists_eq_add_of_lt hgt
      by_cases hin : j < l.length
      · rw [if_pos (by omega), if_pos (by omega), show a + j + 1 - (a + 1) = j by omega, show a + j + 1 - a = j + 1 by omega,
          List.getD_cons_succ]
      · rw [if_neg (by omega), if_neg (by omega), Memory.read_write_other h b (by omega)]

/-- A first entry gives its byte at its own address; elsewhere the rest, which lies above it, reads the same. -/
theorem Memory.read_cons {c : Host.Cell} {m : Memory} (h : Memory.above c.1 m) (i : Nat) :
    Memory.read (c :: m) i = if c.1 = i then c.2 else m.read i := by
  by_cases hlt : i < c.1
  · have hzero : m.read i = 0 := Memory.read_above fun d hd => Nat.lt_trans hlt (h d hd)
    simp only [Memory.read, if_pos hlt, hzero]
  · simp only [Memory.read, if_neg hlt]

/-- Leaving out entries by their address makes those addresses read zero. -/
theorem Memory.read_filter {m : Memory} (h : m.wf = true) (p : Nat → Bool) (i : Nat) :
    Memory.read (m.filter fun c => p c.1) i = if p i then m.read i else 0 := by
  induction m with
  | nil => simp [Memory.read]
  | cons c m ih =>
    obtain ⟨-, hab, hm⟩ := (Memory.wf_cons c m).1 h
    have hab' : Memory.above c.1 (m.filter fun c => p c.1) := fun d hd => hab d (List.mem_of_mem_filter hd)
    rw [Memory.read_cons hab]
    by_cases hc : p c.1
    · rw [List.filter_cons_of_pos (by exact hc), Memory.read_cons hab', ih hm]
      by_cases hi : c.1 = i
      · subst hi; simp [hc]
      · simp [hi]
    · rw [List.filter_cons_of_neg (by exact hc), ih hm]
      by_cases hi : c.1 = i
      · subst hi; simp [hc]
      · simp [hi]

/-- Cells that are the entries of a canonical memory from `a` on, put at `a`, give their bytes where they have one. -/
theorem Memory.read_putCells {src m : Memory} (hsrc : src.wf = true) (hm : m.wf = true) {a : Nat} (hlo : ∀ c ∈ src, a ≤ c.1) (i : Nat) :
    (m.putCells a (src.map fun c => (c.1 - a, c.2))).read i = if src.read i ≠ 0 then src.read i else m.read i := by
  induction src generalizing m with
  | nil => simp [Memory.putCells, Memory.read]
  | cons c src ih =>
    obtain ⟨hne, hab, hsrc'⟩ := (Memory.wf_cons c src).1 hsrc
    have hat : a + (c.1 - a) = c.1 := Nat.add_sub_of_le (hlo c List.mem_cons_self)
    rw [List.map_cons, Memory.putCells, hat, ih hsrc' (Memory.write_wf hm _ _) fun d hd => hlo d (List.mem_cons_of_mem c hd),
      Memory.read_cons hab]
    by_cases hi : c.1 = i
    · subst hi
      have hzero : Memory.read src c.1 = 0 := Memory.read_above hab
      rw [if_neg (not_not.2 hzero), if_pos rfl, if_pos hne, Memory.read_write_same hm]
    · simp [hi, Memory.read_write_other hm c.2 (Ne.symm hi)]

/-- A range that is cleared and takes the cells of the same range of another memory reads as that memory does; the rest is kept. -/
theorem Memory.read_copied {src m : Memory} (hsrc : src.wf = true) (hm : m.wf = true) (a n i : Nat) :
    ((m.clear a n).putCells a (src.cells a n)).read i = if a ≤ i ∧ i < a + n then src.read i else m.read i := by
  have hlo : ∀ c ∈ src.filter fun c => decide (a ≤ c.1) && decide (c.1 < a + n), a ≤ c.1 := fun c hc => by
    simp only [List.mem_filter, Bool.and_eq_true, decide_eq_true_eq] at hc; exact hc.2.1
  have hcut := Memory.read_filter hsrc (fun j => decide (a ≤ j) && decide (j < a + n)) i
  have hrest := Memory.read_filter hm (fun j => decide (j < a) || decide (a + n ≤ j)) i
  rw [Memory.cells, Memory.read_putCells (Memory.filter_wf hsrc _) (Memory.clear_wf hm a n) hlo, Memory.clear, hcut, hrest]
  by_cases hin : a ≤ i ∧ i < a + n
  · have hout : ¬ (i < a ∨ a + n ≤ i) := by omega
    simp only [hin, hout, and_self, decide_true, Bool.and_self, if_true, ← Bool.decide_or, decide_false, Bool.false_eq_true, if_false]
    exact ite_eq_left_iff.2 fun hz => (not_not.1 hz).symm
  · have hout : i < a ∨ a + n ≤ i := by omega
    simp [hin, hout]

/-! # A tile store (R159, R251) -/

/-- The parts of `tilesCanonical`. -/
theorem Forme.tilesCanonical_iff (f : Forme) : f.tilesCanonical = true ↔
    (Memory.wf f.run.core.tile = true ∧ Memory.wf f.run.core.back = true) ∧
      Memory.wf f.run.start.tile = true ∧ Memory.wf f.run.start.back = true := by
  simp only [Forme.tilesCanonical, Bool.and_eq_true, and_assoc]

/-- A line that the round has written stays as it is. -/
theorem Core.openLine_of_written {c : Core} {line : Nat} (h : c.written.contains line = true) : c.openLine line = c := if_pos h

/-- A line that the round has not written is copied to the back half. -/
theorem Core.openLine_of_unwritten {c : Core} {line : Nat} (h : c.written.contains line = false) :
    c.openLine line = { c with
      written := c.written ++ [line]
      back := Memory.putCells (Memory.clear c.back (line * 128) 128) (line * 128) (Memory.cells c.tile (line * 128) 128) } :=
  if_neg (Bool.eq_false_iff.1 h)

/-- A line of the back half that is opened shows the front there, unless the round has written it before. -/
theorem Core.read_back_openLine {c : Core} (ht : Memory.wf c.tile = true) (hb : Memory.wf c.back = true) (line i : Nat) :
    Memory.read (c.openLine line).back i =
      if i / 128 = line ∧ c.written.contains line = false then Memory.read c.tile i else Memory.read c.back i := by
  cases hw : c.written.contains line with
  | true => rw [Core.openLine_of_written hw, if_neg (by simp)]
  | false =>
    rw [Core.openLine_of_unwritten hw]
    refine (Memory.read_copied ht hb (line * 128) 128 i).trans (if_congr ?_ rfl rfl)
    rw [and_iff_left rfl]
    omega

/-- What opening a line keeps. -/
theorem Core.openLine_keeps (c : Core) (line : Nat) : (c.openLine line).tile = c.tile ∧ (c.openLine line).elems = c.elems ∧
    (c.openLine line).ags = c.ags ∧ (c.openLine line).links = c.links := by
  unfold Core.openLine
  split <;> exact ⟨rfl, rfl, rfl, rfl⟩

/-- Opening a line keeps the back half canonical. -/
theorem Core.openLine_wf {c : Core} (hb : Memory.wf c.back = true) (line : Nat) : Memory.wf (c.openLine line).back = true := by
  unfold Core.openLine
  split
  · exact hb
  · exact Memory.putCells_wf (Memory.clear_wf hb _ _) _ _

/-- A tile store in stream mode writes the tile. -/
theorem Forme.tileStore_stream {g : Forme} (h : g.cfg.stream = true) (bay a : Nat) (b : List Byte) :
    g.tileStore bay a b = g.withCore (g.run.core.tileWrite bay a b) := by
  rw [Forme.tileStore, if_pos h]

/-- A tile store in round mode writes the back half. -/
theorem Forme.tileStore_round {g : Forme} (h : g.cfg.stream = false) (bay a : Nat) (b : List Byte) :
    g.tileStore bay a b = g.withCore (g.run.core.backWrite bay a b) := by
  rw [Forme.tileStore, if_neg (by simp [h])]

/-- What a round-mode tile store makes the back half read: the stored bytes, and the opened line around them. -/
theorem Core.read_back_backWrite {c : Core} (ht : Memory.wf c.tile = true) (hb : Memory.wf c.back = true) (bay a : Nat) (b : List Byte) (i : Nat) :
    Memory.read (c.backWrite bay a b).back i =
      if tileKey bay a ≤ i ∧ i < tileKey bay a + b.length then b.getD (i - tileKey bay a) 0
      else if i / 128 = tileKey bay a / 128 ∧ c.written.contains (tileKey bay a / 128) = false then Memory.read c.tile i
      else Memory.read c.back i := by
  rw [← Core.read_back_openLine ht hb]
  exact Memory.read_writeN (Core.openLine_wf hb _) _ b i

/-- Bytes within one line of a bay lie within one line of the tile memory. -/
theorem tileKey_line {bay a n i : Nat} (hline : a / 128 = (a + n - 1) / 128) (hi : tileKey bay a ≤ i ∧ i < tileKey bay a + n) :
    i / 128 = tileKey bay a / 128 := by
  unfold tileKey at hi ⊢
  omega

/-- Settles O37: in stream mode by the bytes of a write, in round mode by the line that is opened and the bytes written to it. -/
theorem tileStoreFrame : Obligations.TileStoreFrame := by
  unfold Obligations.TileStoreFrame
  intro g bay a i b hcanon _ hline g' k
  obtain ⟨⟨ht, hb⟩, hst, hsb⟩ := g.tilesCanonical_iff.1 hcanon
  cases hmode : g.cfg.stream with
  | true =>
    have hg' : g' = _ := Forme.tileStore_stream hmode bay a b
    clear_value g'
    subst hg'
    exact ⟨fun _ => Memory.read_writeN ht _ b i, nofun,
      (Forme.tilesCanonical_iff _).2 ⟨⟨Memory.writeN_wf ht _ b, hb⟩, hst, hsb⟩, rfl, rfl, rfl, rfl⟩
  | false =>
    have hg' : g' = _ := Forme.tileStore_round hmode bay a b
    clear_value g'
    subst hg'
    have hread := Core.read_back_backWrite ht hb bay a b i
    obtain ⟨htile, helems, hags, hlinks⟩ := g.run.core.openLine_keeps (tileKey bay a / 128)
    refine ⟨nofun, fun _ => ⟨htile, fun hin => ?_, fun hout => ?_⟩,
      (Forme.tilesCanonical_iff _).2 ⟨⟨htile ▸ ht, Memory.writeN_wf (Core.openLine_wf hb _) _ b⟩, hst, hsb⟩, helems, hags, hlinks, rfl⟩
    · refine hread.trans (if_congr Iff.rfl rfl ?_)
      cases g.run.core.written.contains (tileKey bay a / 128) with
      | true => exact (if_neg (by simp)).trans (if_pos rfl).symm
      | false => exact (if_pos ⟨hin, rfl⟩).trans (if_neg Bool.false_ne_true).symm
    · rw [if_neg fun hbytes => hout (tileKey_line hline hbytes), if_neg fun hin => hout hin.1] at hread
      exact hread

end Sys2Proof.Machine

/-! # The checks of an access in their order (R150, R313) -/

namespace Sys2Proof.Machine

section
variable {s : State} {p size : Nat} {a : Addr} {need : Need} {o : Obj} {e : Nat} {x : Ext}

/-- An offset outside the 40 bits of an object is a translation fault. -/
theorem State.translate_of_off_outside (h : a.off < 0 ∨ 2 ^ 40 ≤ a.off) : s.translate p a size need = .fault clsTranslation :=
  if_pos (by simpa using h)

/-- An object that does not exist is a translation fault, unless its walk has to wait. -/
theorem State.translate_of_no_object (hw : s.walkWaits p a.obj = false) (ho : s.obj? p a.obj = none) :
    s.translate p a size need = .fault clsTranslation := by
  simp only [State.translate, hw, ho, Bool.false_eq_true, if_false, ite_self]

/-- A page of an object that no extent covers. -/
theorem State.translate_of_no_extent (hlo : 0 ≤ a.off) (hhi : a.off < 2 ^ 40) (hw : s.walkWaits p a.obj = false)
    (ho : s.obj? p a.obj = some o) (he : s.findExt p o (a.off.toNat / 4096) = none) :
    s.translate p a size need = s.uncovered p a.obj := by
  have hin : ¬((decide (a.off < 0) || decide (a.off ≥ 2 ^ 40)) = true) := by simpa using ⟨hlo, hhi⟩
  simp only [State.translate, if_neg hin, hw, ho, he, Bool.false_eq_true, if_false]

/-- The checks of an access in an extent that does not wait. -/
theorem State.translate_of_extent (hlo : 0 ≤ a.off) (hhi : a.off < 2 ^ 40) (hw : s.walkWaits p a.obj = false)
    (ho : s.obj? p a.obj = some o) (he : s.findExt p o (a.off.toNat / 4096) = some (e, x)) (hx : s.waits p a.obj e x = false) :
    s.translate p a size need =
      if o.len < a.off.toNat + size then .fault clsBounds
      else if a.off.toNat % size ≠ 0 then .fault clsBounds
      else if !(need.holds o) then .fault clsPermission
      else .ok (spaceBase x.tier x.loc + (x.pfn + (a.off.toNat / 4096 - x.start)) * 4096 + a.off.toNat % 4096) x.tier := by
  have hin : ¬((decide (a.off < 0) || decide (a.off ≥ 2 ^ 40)) = true) := by simpa using ⟨hlo, hhi⟩
  simp only [State.translate, if_neg hin, hw, ho, he, hx, Bool.false_eq_true, if_false]

end

/-- Settles O48: the checks in the order of R150, and memory by what it reads after a write. -/
theorem translationChecks : Obligations.TranslationChecks := by
  unfold Obligations.TranslationChecks
  refine ⟨fun s p size a need => ⟨State.translate_of_off_outside, State.translate_of_no_object,
    fun o hlo hhi hw ho he => State.translate_of_no_extent hlo hhi hw ho he, ?_⟩, fun m a b hm => ⟨Memory.writeN_wf hm a b, ?_, ?_⟩⟩
  · intro o e x hlo hhi hw ho he hx off
    have hchecks := State.translate_of_extent (size := size) (need := need) hlo hhi hw ho he hx
    refine ⟨fun hbad => ?_, fun hlen hal => ⟨fun hneed => ?_, fun hneed => ?_⟩⟩
    · rcases Nat.lt_or_ge o.len (off + size) with hlen | hlen
      · exact hchecks.trans (if_pos hlen)
      · exact hchecks.trans ((if_neg (Nat.not_lt.2 hlen)).trans (if_pos (hbad.resolve_left (Nat.not_lt.2 hlen))))
    · rw [hchecks, if_neg (Nat.not_lt.2 hlen), if_neg (not_not.2 hal), if_pos (by simp [hneed])]
    · rw [hchecks, if_neg (Nat.not_lt.2 hlen), if_neg (not_not.2 hal), if_neg (by simp [hneed])]
  · intro i hi
    rw [Memory.read_writeN hm, if_pos (by omega), Nat.add_sub_cancel_left]
  · exact fun k hk => Memory.read_writeN_other hm b hk

end Sys2Proof.Machine

/-! # LD, LDI, GATHER, KLD and PREF (R155 to R157, R160, R161, R272) -/

namespace Sys2Proof.Machine

/-- With no younger load overtaken at any of the addresses, no instance runs again. -/
theorem State.runOvertaken_of_none {s : State} {f : Firing} {g : Galley} {lsid size : Nat} {l : List Addr}
    (h : ∀ x ∈ l, s.overtaken f g lsid x size = none) : s.runOvertaken f g lsid size l = (s, false) := by
  induction l with
  | nil => rfl
  | cons x l ih =>
    rw [State.runOvertaken, h x List.mem_cons_self]
    exact ih fun y hy => h y (List.mem_cons_of_mem x hy)

/-- An overtaken load of the own instance takes that instance back to its inputs. -/
theorem State.runOvertaken_of_own {s : State} {f : Firing} {g o : Galley} {lsid size : Nat} {x : Addr}
    (h : s.overtaken f g lsid x size = some o) (ho : o.seq = g.seq) : s.runOvertaken f g lsid size [x] = (s.runAgain f.tile o, true) := by
  simp only [State.runOvertaken, h, ho, if_true]

/-- A load that overtakes none and has its value notes itself and sends the value. -/
theorem State.loadAt_of_value {t : State} {f : Firing} {r : Shell} {g : Galley} {x : Addr} {sz : Size} {v : Nat} (sx : Bool)
    (hg : t.galleyOf f = some g) (hover : t.overtaken f g r.aux.toNat x (Size.bytes sz) = none)
    (hload : t.galleyLoad f g r.aux.toNat x (Size.bytes sz) = some (.ok v)) :
    t.loadAt f r x sz sx = some ((t.noteLoad f r.aux.toNat x (Size.bytes sz)).sendBoth f r (.data (extendTo sz sx v))) := by
  have hstay : t.runOvertaken f g r.aux.toNat (Size.bytes sz) [x] = (t, false) :=
    State.runOvertaken_of_none (by simpa using hover)
  simp only [State.loadAt, hg, hstay, hload, Bool.false_eq_true, if_false]

/-- A load that overtakes one of its own instance goes with it. -/
theorem State.loadAt_of_own {t : State} {f : Firing} {r : Shell} {g o : Galley} {x : Addr} {sz : Size} (sx : Bool)
    (hg : t.galleyOf f = some g) (hover : t.overtaken f g r.aux.toNat x (Size.bytes sz) = some o) (ho : o.seq = g.seq) :
    t.loadAt f r x sz sx = some (t.runAgain f.tile o) := by
  simp only [State.loadAt, hg, State.runOvertaken_of_own hover ho, if_true]

section
variable {r : Shell} {s t : State} {f : Firing} (h : Fires s r f t) (h0 : (f.port r 0).isDormant = false)
include h h0

theorem exec_ld_of_fires (sz : Size) (sx : Bool) (disp : BitVec 24) (kb : BitVec 6) :
    exec (.ld sz sx disp kb r) s = settleFire s (t.loadAt f r (t.kAddr f kb (f.port r 0).value.toNat disp) sz sx) := by
  show execLd sz sx disp kb r s = _
  rw [execLd, fireData_of_fires h _ _ _ (by simpa using h0), noNote]

theorem exec_ldi_of_fires (h1 : (f.port r 1).isDormant = false) (sz : Size) (sx : Bool) (disp : BitVec 24) :
    exec (.ldi sz sx disp r) s = settleFire s (t.loadAt f r (pairAddr f r disp.toInt) sz sx) := by
  show execLdi sz sx disp r s = _
  rw [execLdi, fireData_of_fires h _ _ _ (by simp [h0, h1]), noNote]

/-- A pooled GATHER whose lanes overtake none and have their values notes each lane and sends them packed. -/
theorem exec_gather_of_pooled (hp : f.pinned = false) {g : Galley} (hg : t.galleyOf f = some g) {sz : Size} (sx : Bool) (raw : BitVec 32)
    {la : List (Nat × Addr)} {vs : List (Nat × Nat)}
    (hla : ((activeLanes sz (laneLm sz (f.port r 0).lmask)).map fun l =>
      (l, t.kAddr f (rawKb raw) (elemOf sz (f.port r 0).value l * Size.bytes sz) (rawDisp raw))) = la)
    (hover : ∀ e ∈ la, t.overtaken f g r.aux.toNat e.2 (Size.bytes sz) = none)
    (hload : t.gatherLanes f g r.aux.toNat (Size.bytes sz) la = some (.ok vs)) :
    exec (.gather sz sx raw r) s = .next ((la.foldl (fun u e => u.noteLoad f r.aux.toNat e.2 (Size.bytes sz)) t).sendBoth f r
      { value := if sz = .w32 then extendTo sz sx ((vs.map (·.2)).headD 0) else packLanes sz vs, lmask := laneLm sz (f.port r 0).lmask }) := by
  have hstay : t.runOvertaken f g r.aux.toNat (Size.bytes sz) (la.map (·.2)) = (t, false) :=
    State.runOvertaken_of_none fun x hx => by
      obtain ⟨e, he, rfl⟩ := List.mem_map.1 hx
      exact hover e he
  show execGather sz sx raw r s = _
  rw [execGather, fireData_of_fires h _ _ _ (by simpa using h0), noNote]
  simp only [hp, hg, hla, hstay, hload, Bool.false_eq_true, if_false, settleFire_some]

/-- KLD reads its half of the register after the older uncommitted writes of it (R157). -/
theorem exec_kld_of_ready {g : Galley} (hg : t.galleyOf f = some g) (hready : (t.tile f.tile).kldReady g f.node = true) (hi : Bool)
    (kn : BitVec 6) :
    exec (.kld hi kn r) s = .next (t.sendBoth f r (.data (((t.tile f.tile).kstBefore g f.node).foldl (fun v a => a.kstTo hi kn v)
      (kHalf ((t.ctxOf f).k kn.toNat) hi)))) := by
  show execKld hi kn r s = _
  rw [execKld, fireData_of_fires h _ _ _ (by simpa using h0), noNote]
  simp only [hg, hready, Bool.not_true, Bool.false_eq_true, if_false, settleFire_some]

theorem exec_pref_of_fires (raw : BitVec 32) : exec (.pref raw r) s = .next (t.sendBoth f r (f.port r 0)) := by
  show execPref raw r s = _
  rw [execPref, fireData_of_fires h _ _ _ (by simpa using h0), noNote, settleFire_some]

end

/-- The address on ports 0 and 1, displaced. -/
theorem pairAddr_eq (f : Firing) (r : Shell) (d : Int) :
    pairAddr f r d = (Addr.ofVa ((f.port r 1).value ++ (f.port r 0).value)).plus d := rfl

/-- Settles O33: each load by its lemma above. -/
theorem loads : Obligations.Loads := by
  unfold Obligations.Loads
  refine ⟨fun sz sx disp kb r s f t g v h hg => ⟨fun h0 hover hload => ?ld, fun h0 h1 hover hload => ?ldi, fun o h0 hover ho => ?again⟩,
    fun sz sx raw r s f t g vs h hp hg h0 => fun hover hload => exec_gather_of_pooled h h0 hp hg sx raw rfl hover hload,
    fun hi kn r s f t g h hg h0 hready => exec_kld_of_ready h h0 hg hready hi kn, fun raw r s f t h h0 => exec_pref_of_fires h h0 raw⟩
  case ld =>
    rw [exec_ld_of_fires h h0, State.kAddr, State.loadAt_of_value sx hg hover hload, settleFire_some]
  case ldi =>
    rw [exec_ldi_of_fires h h0 h1, pairAddr_eq, State.loadAt_of_value sx hg hover hload, settleFire_some]
  case again =>
    rw [exec_ld_of_fires h h0, State.kAddr, State.loadAt_of_own sx hg hover ho, settleFire_some]

end Sys2Proof.Machine

/-! # TLD, TST and the lanes of a pinned GATHER and SCATTER (R150, R158 to R160, R252) -/

namespace Sys2Proof.Machine

theorem Forme.tileOk_iff (g : Forme) (a n : Nat) : g.tileOk a n = true ↔ a + n ≤ g.tileBytes ∧ a % n = 0 := by
  simp only [Forme.tileOk, Bool.and_eq_true, decide_eq_true_eq]

theorem Forme.tileOk_eq_false_iff (g : Forme) (a n : Nat) : g.tileOk a n = false ↔ g.tileBytes < a + n ∨ a % n ≠ 0 := by
  rw [← Bool.not_eq_true, Forme.tileOk_iff, not_and_or, Nat.not_le]

/-- Lanes that all lie in the tile and are aligned leave none that fails the checks. -/
theorem Forme.find_bad_lane_eq_none {g : Forme} {n : Nat} {la : List (Nat × Nat)} (h : ∀ e ∈ la, e.2 + n ≤ g.tileBytes ∧ e.2 % n = 0) :
    (la.find? fun e => !(g.tileOk e.2 n)) = none := by
  rw [List.find?_eq_none]
  intro e he
  rw [(g.tileOk_iff e.2 n).2 (h e he)]
  decide

section
variable {t : State} {g : Forme}

/-- Tile stores in stream mode, or with room in the staging area, write their bytes one after the other. -/
theorem State.tileStores_of_room {size : Nat} {l : List (Nat × Nat)}
    (hroom : g.cfg.stream = true ∨ t.stageRoom g.part (size * l.length) = true) (bay : Nat) :
    t.tileStores g bay size l = some (t.setForme
      ((l.foldl (fun (g : Forme) e => g.tileStore bay e.1 (leBytes size e.2)) g).countStaged (size * l.length))) := by
  refine if_neg ?_
  rcases hroom with h | h <;> simp [h]

/-- Tile stores of a round wait for room in the staging area (R252). -/
theorem State.tileStores_of_full {size : Nat} {l : List (Nat × Nat)} (hs : g.cfg.stream = false)
    (hfull : t.stageRoom g.part (size * l.length) = false) (bay : Nat) : t.tileStores g bay size l = none :=
  if_pos (by simp [hs, hfull])

end

section
variable {r : Shell} {s t : State} {f : Firing} {g : Forme} (h : Fires s r f t) (hg : t.forme? f.h = some g)
  (h0 : (f.port r 0).isDormant = false)
include h hg h0

theorem exec_tld_of_fires (sz : Size) (sx : Bool) (base : BitVec 19) (dx dy : BitVec 6) {a : Nat} (ha : base.toNat + (f.port r 0).value.toNat = a) :
    exec (.tld sz sx base dx dy r) s = settleFire s (if g.tileOk a (Size.bytes sz) then
        some (t.sendBoth f r (.data (extendTo sz sx (g.run.core.tileRead (tileBay f.x f.y dx dy) a (Size.bytes sz)))))
      else t.accessFault f clsBounds a (Size.bytes sz) 0) := by
  show execTld sz sx base dx dy r s = _
  rw [execTld, fireData_of_fires h _ _ _ (by simpa using h0), noNote]
  simp only [hg, ha]

theorem exec_tst_of_fires (h1 : (f.port r 1).isDormant = false) (sz : Size) (base : BitVec 19) (dx dy : BitVec 6) {a : Nat}
    (ha : base.toNat + (f.port r 0).value.toNat = a) :
    exec (.tst sz base dx dy r) s = settleFire s (if g.tileOk a (Size.bytes sz) then
        (t.tileStores g (tileBay f.x f.y dx dy) (Size.bytes sz) [(a, (f.port r 1).value.toNat)]).map fun t => t.sendBoth f r (.data 0)
      else t.accessFault f clsBounds a (Size.bytes sz) 1) := by
  show execTst sz base dx dy r s = _
  rw [execTst, fireData_of_fires h _ _ _ (by simp [h0, h1]), noNote]
  simp only [hg, ha]
  cases g.tileOk a (Size.bytes sz) <;> rfl

/-- A pinned GATHER whose lanes pass the checks sends what the tile shows at each. -/
theorem exec_gather_of_pinned (hp : f.pinned = true) (sz : Size) (sx : Bool) (raw : BitVec 32) {lm : BitVec 2} {la : List (Nat × Nat)}
    (hlm : laneLm sz (f.port r 0).lmask = lm) (hla : tileLanes (rawTileBase raw) sz (f.port r 0).value (activeLanes sz lm) = la)
    (hok : ∀ e ∈ la, e.2 + Size.bytes sz ≤ g.tileBytes ∧ e.2 % Size.bytes sz = 0) {vs : List (Nat × Nat)}
    (hvs : (la.map fun e => (e.1, g.run.core.tileRead (rawTileBay f raw) e.2 (Size.bytes sz))) = vs) :
    exec (.gather sz sx raw r) s = .next (t.sendBoth f r
      { value := if sz = .w32 then extendTo sz sx ((vs.map (·.2)).headD 0) else packLanes sz vs, lmask := lm }) := by
  show execGather sz sx raw r s = _
  rw [execGather, fireData_of_fires h _ _ _ (by simpa using h0), noNote]
  simp only [hp, hg, hlm, hla, Forme.find_bad_lane_eq_none hok, hvs, if_true, settleFire_some]

/-- A pinned SCATTER whose lanes pass the checks stores each lane as TST does. -/
theorem exec_scatter_of_pinned (hp : f.pinned = true) (h1 : (f.port r 1).isDormant = false) (sz : Size) (raw : BitVec 32) {lm : BitVec 2}
    {la : List (Nat × Nat)} (hlm : laneLm sz ((f.port r 0).lmask &&& (f.port r 1).lmask) = lm) (hactive : lm ≠ 0)
    (hla : tileLanes (rawTileBase raw) sz (f.port r 0).value (activeLanes sz lm) = la)
    (hok : ∀ e ∈ la, e.2 + Size.bytes sz ≤ g.tileBytes ∧ e.2 % Size.bytes sz = 0)
    (hroom : g.cfg.stream = true ∨ t.stageRoom g.part (Size.bytes sz * la.length) = true) :
    exec (.scatter sz raw r) s = .next ((t.setForme ((la.foldl (fun (g : Forme) e =>
      g.tileStore (rawTileBay f raw) e.2 (leBytes (Size.bytes sz) (elemOf sz (f.port r 1).value e.1))) g).countStaged
        (Size.bytes sz * la.length))).sendBoth f r (.data 0)) := by
  show execScatter sz raw r s = _
  rw [execScatter, fireData_of_fires h _ _ _ (by simp [h0, h1]), noteStore_of_pinned hp]
  simp only [hlm, hactive, hp, hg, hla, Forme.find_bad_lane_eq_none hok, if_true, if_false]
  rw [State.tileStores_of_room (by simpa using hroom), List.foldl_map, List.length_map, Option.map_some, settleFire_some]

end

/-- Settles O36: TLD and TST by their checks and the room of the staging area, GATHER and SCATTER lane by lane. -/
theorem tileAccess : Obligations.TileAccess := by
  unfold Obligations.TileAccess
  intro sz sx base dx dy raw r s f t g h hp hg h0 n a bay k v lm lanes
  refine ⟨fun hin hal => ⟨?tld, fun h1 hroom => ?tst, fun h1 hround hfull => ?full⟩, fun hbad => ⟨?tldFault, fun h1 => ?tstFault⟩,
    fun hok => exec_gather_of_pinned h hg h0 hp sz sx raw rfl rfl hok rfl,
    fun h1 hactive hok hroom => exec_scatter_of_pinned h hg h0 hp h1 sz raw rfl hactive rfl hok hroom⟩
  case tld => rw [exec_tld_of_fires h hg h0 sz sx base dx dy rfl, if_pos ((g.tileOk_iff a n).2 ⟨hin, hal⟩), settleFire_some]
  case tst =>
    rw [exec_tst_of_fires h hg h0 h1 sz base dx dy rfl, if_pos ((g.tileOk_iff a n).2 ⟨hin, hal⟩),
      State.tileStores_of_room (by simpa using hroom), Option.map_some, settleFire_some, List.length_singleton, Nat.mul_one]
    rfl
  case full =>
    rw [exec_tst_of_fires h hg h0 h1 sz base dx dy rfl, if_pos ((g.tileOk_iff a n).2 ⟨hin, hal⟩),
      State.tileStores_of_full hround (by simpa using hfull), Option.map_none, settleFire_none]
  case tldFault =>
    rw [exec_tld_of_fires h hg h0 sz sx base dx dy rfl, if_neg (Bool.eq_false_iff.1 ((g.tileOk_eq_false_iff a n).2 hbad)), settleFire]
  case tstFault =>
    rw [exec_tst_of_fires h hg h0 h1 sz base dx dy rfl, if_neg (Bool.eq_false_iff.1 ((g.tileOk_eq_false_iff a n).2 hbad)), settleFire]

end Sys2Proof.Machine

/-! # The records that control an AG, PMARK, PCNT and PRULE (R162 to R174) -/

namespace Sys2Proof.Machine

/-- A control token for an AG input with a free entry joins it (R38, R162). -/
theorem State.agPush_of_room {t : State} {f : Firing} {r : Shell} {g : Forme} {bay port : Nat} (hg : t.forme? f.h = some g)
    (hdest : g.dest f.x f.y r.dsta = .ag bay port) (hroom : ((g.run.core.ag bay).input port).length < 8) (i : Instr) (k : Tok) (b c : Word) :
    t.agPush f r i k b c = some (agJoined t f r i k b c g bay port) := by
  simp only [State.agPush, State.agPushTo, hg, hdest, Nat.not_le.2 hroom, if_false]
  rfl

/-- The record answers with what its control of an AG gives. -/
def ControlsAg (i : Instr) (r : Shell) (s : State) (b c : Firing → Word) : Prop :=
  exec i s = s.fireControl r fun f t => t.agPush f r i (f.port r 0) (b f) (c f)

/-- Such a record joins the input that its DSTA names. -/
theorem joinsAg_of_controlsAg {i : Instr} {r : Shell} {s t : State} {f : Firing} {b c : Firing → Word} {g : Forme} {bay port : Nat}
    (hi : ControlsAg i r s b c) (h : FiresAwake s r f t) (hg : t.forme? f.h = some g) (hdest : g.dest f.x f.y r.dsta = .ag bay port)
    (hroom : ((g.run.core.ag bay).input port).length < 8) : JoinsAg i r s f t (b f) (c f) g bay port := by
  rw [JoinsAg, hi, fireControl_of_awake h, State.agPush_of_room hg hdest hroom, settleFire_some]

theorem State.rtOf_of_forme? {t : State} {f : Firing} {g : Forme} (hg : t.forme? f.h = some g) : t.rtOf f = g.rtState f.x f.y f.rt := by
  simp only [State.rtOf, hg]

/-- A token with a flag is not active. -/
theorem Tok.isActive_of_eos {k : Tok} (h : k.flag = .eos) : k.isActive = false := by
  simp [Tok.isActive, h]

/-- An active token has no flag. -/
theorem Tok.flag_ne_eos_of_isActive {k : Tok} (h : k.isActive = true) : k.flag ≠ .eos := fun he => by
  simp [Tok.isActive_of_eos he] at h

/-- The sites of its plane that PCNT finds non-zero in an active word (R174). -/
def State.sitesCounted (t : State) (f : Firing) (r : Shell) (pid : BitVec 3) (index : Word) : Nat :=
  match t.planeAt f r.dsta pid.toNat with
  | some p => if (f.port r 0).isActive then (p.changed index.toNat (f.port r 0).value).1.length else 0
  | none => 0

/-- A route tag's state after PCNT counted `n` sites of a word: the total starts again at word index 0. -/
def RtState.counted (q : RtState) (n : Nat) : RtState :=
  { q with index := q.index + 1, value := (if q.index = 0 then 0 else q.value) + BitVec.ofNat 32 n }

section
variable {r : Shell} {s t : State} {f : Firing} {g : Forme} (h : s.gather r = some (f, t)) (hg : t.forme? f.h = some g)
include h hg

/-- PMARK passes a token that is not active and moves its word index, which EOS resets (R170). -/
theorem exec_pmark_of_inactive (hk : (f.port r 0).isActive = false) (pid : BitVec 3) :
    exec (.pmark pid r) s = .next ((t.setRt f.h f.x f.y { g.rtState f.x f.y f.rt with
      index := if (f.port r 0).isEos then 0 else (g.rtState f.x f.y f.rt).index + 1 }).send f true r.dstb (f.port r 0)) := by
  show execPmark pid r s = _
  simp only [execPmark, h, State.rtOf_of_forme? hg, hk, Bool.false_eq_true, if_false, Option.map_some, settleFire_some]

/-- An active word goes to the AG with its index before it passes. -/
theorem exec_pmark_of_active (hk : (f.port r 0).isActive = true) (pid : BitVec 3) {u : State} {g' : Forme} {bay port : Nat}
    (hu : t.setRt f.h f.x f.y { g.rtState f.x f.y f.rt with index := (g.rtState f.x f.y f.rt).index + 1 } = u)
    (hg' : u.forme? f.h = some g') (hdest : g'.dest f.x f.y r.dsta = .ag bay port) (hroom : ((g'.run.core.ag bay).input port).length < 8) :
    exec (.pmark pid r) s = .next ((agJoined u f r (.pmark pid r) (f.port r 0) (g.rtState f.x f.y f.rt).index 0 g' bay port).send f true r.dstb
      (f.port r 0)) := by
  show execPmark pid r s = _
  simp only [execPmark, h, State.rtOf_of_forme? hg, hk, (Tok.isEos_eq_false _).2 (Tok.flag_ne_eos_of_isActive hk), Bool.false_eq_true,
    if_false, if_true, hu, State.agPush_of_room hg' hdest hroom, Option.map_some, settleFire_some]

/-- PCNT sends its total at EOS; where the EOS is the first token, it goes to the AG before (R174). -/
theorem exec_pcnt_of_eos (hk : (f.port r 0).flag = .eos) (pid : BitVec 3) {w : State}
    (hw : t.setRt f.h f.x f.y { g.rtState f.x f.y f.rt with index := 0, value := 0 } = w) :
    exec (.pcnt pid r) s = settleFire s ((if (g.rtState f.x f.y f.rt).index = 0 then w.agPush f r (.pcnt pid r) (f.port r 0) 0 0 else some w).map
      fun t => t.send f true r.dstb (.data (g.rtState f.x f.y f.rt).value)) := by
  show execPcnt pid r s = _
  simp only [execPcnt, h, State.rtOf_of_forme? hg, (Tok.isEos_eq_true _).2 hk, if_true, hw]

/-- Another token of PCNT adds what it counts and moves the word index; an active one, and the first one, goes to the AG. -/
theorem exec_pcnt_of_not_eos (hk : (f.port r 0).flag ≠ .eos) (pid : BitVec 3) {q : RtState} (hq : g.rtState f.x f.y f.rt = q) {u : State}
    (hu : t.setRt f.h f.x f.y (q.counted (t.sitesCounted f r pid q.index)) = u) :
    exec (.pcnt pid r) s = settleFire s (if (f.port r 0).isActive || q.index == 0 then
      u.agPush f r (.pcnt pid r) (f.port r 0) q.index 0 else some u) := by
  show execPcnt pid r s = _
  subst hu
  simp only [execPcnt, h, State.rtOf_of_forme? hg, hq, (Tok.isEos_eq_false _).2 hk, Bool.false_eq_true, if_false]
  rfl

end

theorem exec_prule_of_fires {r : Shell} {s t : State} {f : Firing} (h : Fires s r f t) (mask : BitVec 16) :
    exec (.prule mask r) s = .next (if mask.getLsbD (if (f.port r 1).isActive then (f.port r 1).value.toNat % 16 else 0) then
      t.sendTwo f r (f.port r 0) .null else t.sendTwo f r .null (f.port r 0)) := by
  show execPrule mask r s = _
  rw [execPrule, fire_of_fires h, settleFire_some]

/-- Settles O38: the controls by the input they join, PMARK, PCNT and PRULE by the flag of their token. -/
theorem agControls : Obligations.AgControls := by
  unfold Obligations.AgControls
  refine ⟨fun sz wp dir all on n m pid dx dy hw kind edge edges r s f t g bay port h hg hdest hroom => ?controls,
    fun pid r s f t g h hg => ⟨fun heos => ⟨?markEos, fun hq => ?countEos, fun g' bay port hq hg' hdest hroom => ?countFirstEos⟩,
      fun hne hk => ?markPasses, fun g' bay port hk hg' hdest hroom => exec_pmark_of_active h hg hk pid rfl hg' hdest hroom⟩,
    fun pid r s f t g h hg hne => ⟨fun hk hq => ?countStill, fun g' bay port hk hg' hdest hroom => ?countJoins⟩,
    fun mask r s f t h => exec_prule_of_fires h mask⟩
  case controls =>
    have joins (i : Instr) (b c : Firing → Word) (hi : ControlsAg i r s b c) : JoinsAg i r s f t (b f) (c f) g bay port :=
      joinsAg_of_controlsAg hi h hg hdest hroom
    exact ⟨joins _ (fun f => (f.port r 1).value) (fun f => (f.port r 2).value) rfl, joins _ (fun _ => 0) (fun _ => 0) rfl,
      joins _ (fun _ => 0) (fun _ => 0) rfl, joins _ (fun _ => 0) (fun _ => 0) rfl, joins _ (fun _ => 0) (fun _ => 0) rfl,
      joins _ (fun _ => 0) (fun _ => 0) rfl, joins _ (fun f => (f.port r 1).value) (fun _ => 0) rfl, joins _ (fun _ => 0) (fun _ => 0) rfl,
      joins _ (fun _ => 0) (fun _ => 0) rfl⟩
  case markEos =>
    rw [exec_pmark_of_inactive h hg (Tok.isActive_of_eos heos), (Tok.isEos_eq_true _).2 heos]
    rfl
  case countEos => rw [exec_pcnt_of_eos h hg heos pid rfl, if_neg hq, Option.map_some, settleFire_some]
  case countFirstEos =>
    rw [exec_pcnt_of_eos h hg heos pid rfl, if_pos hq, State.agPush_of_room hg' hdest hroom, Option.map_some, settleFire_some]
  case markPasses =>
    rw [exec_pmark_of_inactive h hg hk, (Tok.isEos_eq_false _).2 hne]
    rfl
  case countStill =>
    exact (exec_pcnt_of_not_eos h hg hne pid rfl rfl).trans (congrArg (settleFire s) (if_neg (by simpa [hk] using hq)))
  case countJoins =>
    exact (exec_pcnt_of_not_eos h hg hne pid rfl rfl).trans (congrArg (settleFire s)
      ((if_pos (by simpa using hk)).trans (State.agPush_of_room hg' hdest hroom ..)))

end Sys2Proof.Machine

/-! # Atomics and locks (R152, R153, R175, R177, R178, R180, R269) -/

namespace Sys2Proof.Machine

/-- An access that translates for reading and writing outside T3 is one indivisible step on its word (R177). -/
theorem State.atomicMem_of_ok {s : State} {part : Nat} {x : Addr} {pa tier : Nat} (hx : s.translate part x 4 .both = .ok pa tier)
    (htier : tier ≠ 3) (ctx : Nat) (i : Instr) (v w : Word) {e : Word × Word × Sticky}
    (he : atomicStep i false ctx (BitVec.ofNat 32 (s.readLe pa 4)) v w = e) :
    s.atomicMem part ctx x i v w = some (.ok (s.writeLe pa 4 e.1.toNat, e.2.1, e.2.2)) := by
  simp only [State.atomicMem, hx, if_neg htier, he]

section
variable {s t u : State} {r : Shell} {f : Firing} {i : Instr} {raw : Word} {data : List Nat} {x : Addr} (h : Fires s r f t)
  (hdata : ∀ k ∈ data, (f.port r k).isDormant = false) (hp : f.pinned = false) (hu : t.seeStore f r.aux = u)
include h hdata hp hu

/-- Without IMM an atomic of a galley is noted for the commit (R152). -/
theorem State.fireAtomic_of_noted (himm : raw.getLsbD 7 = false) (hx : u.kAddr f (rawKb raw) (f.port r 0).value.toNat (rawDisp raw) = x) :
    s.fireAtomic r i raw data = .next ((u.addAct f
      { node := f.node, lsid := r.aux.toNat, instr := i, a := (f.port r 1).value, b := (f.port r 2).value, obj := x.obj, off := x.off
        size := 4, hnd := f.hnd }).countOuts f r) := by
  rw [State.fireAtomic, fireData_of_fires h _ _ _ hdata, noteStore_of_pooled hp, hu]
  simp only [hp, hx, rawImm, himm, Bool.false_eq_true, if_false, settleFire_some]

/-- With IMM it waits for what it follows or, with .REL, for what precedes it (R153). -/
theorem State.fireAtomic_of_outOfOrder (himm : raw.getLsbD 7 = true) (horder : u.outOfOrder f i r = true) :
    s.fireAtomic r i raw data = .next s.park := by
  rw [State.fireAtomic, fireData_of_fires h _ _ _ hdata, noteStore_of_pooled hp, hu]
  simp only [hp, rawImm, himm, horder, Bool.false_eq_true, if_false, if_true, settleFire_none]

/-- With nothing to wait for it notes its word for older loads (R269), replaces it and sends its result. -/
theorem State.fireAtomic_of_issue (himm : raw.getLsbD 7 = true) (horder : u.outOfOrder f i r = false)
    (hx : u.kAddr f (rawKb raw) (f.port r 0).value.toNat (rawDisp raw) = x) {pa tier : Nat}
    (hword : (u.noteAtomic f r.aux.toNat x).translate f.part x 4 .both = .ok pa tier) (htier : tier ≠ 3) {e : Word × Word × Sticky}
    (he : atomicStep i false f.ctx (BitVec.ofNat 32 ((u.noteAtomic f r.aux.toNat x).readLe pa 4)) (f.port r 1).value (f.port r 2).value = e) :
    s.fireAtomic r i raw data =
      .next ((((u.noteAtomic f r.aux.toNat x).writeLe pa 4 e.1.toNat).leave f e.2.2 0).sendBoth f r (.data e.2.1)) := by
  rw [State.fireAtomic, fireData_of_fires h _ _ _ hdata, noteStore_of_pooled hp, hu]
  simp only [hp, hx, rawImm, himm, horder, State.atomicMem_of_ok hword htier _ _ _ _ he, Bool.false_eq_true, if_false, if_true,
    settleFire_some]

end

/-- A pinned atomic acts on the word of its tile. -/
theorem State.fireAtomic_of_pinned {s t : State} {r : Shell} {f : Firing} {i : Instr} {raw : Word} {data : List Nat} (h : Fires s r f t)
    (hdata : ∀ k ∈ data, (f.port r k).isDormant = false) (hp : f.pinned = true) :
    s.fireAtomic r i raw data = settleFire s (t.atomicTile f r i raw (f.port r 0).value.toNat (f.port r 1).value (f.port r 2).value) := by
  rw [State.fireAtomic, fireData_of_fires h _ _ _ hdata, noteStore_of_pinned hp, if_pos hp]

section
variable {t : State} {r : Shell} {f : Firing} {g : Forme} {a : Nat} (hg : t.forme? f.h = some g) (hin : a + 4 ≤ g.tileBytes) (hal : a % 4 = 0)
include hg hin hal

/-- On a tile word in stream mode it is one step at once. -/
theorem State.atomicTile_of_stream (hs : g.cfg.stream = true) (i : Instr) (raw v w : Word) {bay : Nat}
    (hbay : tileBay f.x f.y (raw.extractLsb' 6 6) (raw.extractLsb' 0 6) = bay) {e : Word × Word × Sticky}
    (he : atomicStep i true f.ctx (BitVec.ofNat 32 (g.run.core.tileRead bay a 4)) v w = e) :
    t.atomicTile f r i raw a v w = some (((t.setForme (g.tileStore bay a (leBytes 4 e.1.toNat))).leave f e.2.2 0).sendBoth f r (.data e.2.1)) := by
  simp only [State.atomicTile, hg, hbay, (g.tileOk_iff a 4).2 ⟨hin, hal⟩, hs, he, Bool.not_true, Bool.false_eq_true, if_false, if_true]

/-- In a round it is staged and sends the round-start word (R178). -/
theorem State.atomicTile_of_round (hs : g.cfg.stream = false) (hroom : t.stageRoom g.part 4 = true) (i : Instr) (raw v w : Word) {bay : Nat}
    (hbay : tileBay f.x f.y (raw.extractLsb' 6 6) (raw.extractLsb' 0 6) = bay) :
    t.atomicTile f r i raw a v w = some ((t.stage f (.act i (BitVec.ofNat 32 a) v w)).sendBoth f r
      (.data (BitVec.ofNat 32 (g.run.core.tileRead bay a 4)))) := by
  simp only [State.atomicTile, hg, hbay, (g.tileOk_iff a 4).2 ⟨hin, hal⟩, hs, hroom, Bool.not_true, Bool.false_eq_true, if_false]

end

/-- Settles O39: pooled by the order it must keep and the access it makes, pinned by the mode of its forme; the records differ in their
data ports alone. -/
theorem atomics : Obligations.Atomics := by
  unfold Obligations.Atomics
  intro acq rel c raw r s f t h v w u x a bay n completes
  have key (i : Instr) (data : List Nat) (staged : Bool) (hi : exec i s = s.fireAtomic r i raw data) : completes i data staged := by
    intro hdata
    have hpinned (hp : f.pinned = true) := hi.trans (State.fireAtomic_of_pinned h hdata hp)
    refine ⟨fun hp himm => ?noted, fun pa tier hp himm horder hx htier => ?now, fun hp himm horder => ?waits,
      fun g hp hg => fun hin hal => ⟨fun hs => ?stream, fun _ hs hroom => ?round⟩⟩
    case noted => exact hi.trans (State.fireAtomic_of_noted h hdata hp rfl himm rfl)
    case now => exact hi.trans (State.fireAtomic_of_issue h hdata hp rfl himm horder rfl hx htier rfl)
    case waits => exact hi.trans (State.fireAtomic_of_outOfOrder h hdata hp rfl himm horder)
    case stream => rw [hpinned hp, State.atomicTile_of_stream hg hin hal hs i raw _ _ rfl rfl, settleFire_some]
    case round => rw [hpinned hp, State.atomicTile_of_round hg hin hal hs hroom i raw _ _ rfl, settleFire_some]
  exact ⟨key _ _ _ rfl, key _ _ _ rfl, key _ _ _ rfl, key _ _ _ rfl, key _ _ _ rfl, key _ _ _ rfl, key _ _ _ rfl, key _ _ _ rfl,
    key _ _ _ rfl, key _ _ _ rfl, key _ _ _ rfl⟩

end Sys2Proof.Machine

/-! # BARARR, BARDROP, BARWAIT, WAITW and WAKEW (R181, R183, R184) -/

namespace Sys2Proof.Machine

/-! ## The cycle of a barrier word -/

/-- The state in which a barrier cycle, counted at this clock, is the one of its word, and the word is as it leaves it. -/
def State.keepCycle (t : State) (pa : Nat) (b : BarCycle) : State :=
  ({ t with bar := (t.bar.filter fun b => b.addr != pa && decide (t.clock ≤ b.clock + 1)) ++ [{ b with clock := t.clock }] } : State).writeLe
    pa 8 b.after

/-- A word whose last cycle is over begins a fresh one. -/
theorem State.barCycle_of_alone {t : State} {pa : Nat}
    (h : (t.bar.find? fun b => b.addr == pa) = none ∨
      ∃ b, (t.bar.find? fun b => b.addr == pa) = some b ∧ (b.after ≠ t.readLe pa 8 ∨ (b.clock ≠ t.clock ∧ b.clock + 1 ≠ t.clock))) :
    t.barCycle pa = ({ addr := pa, word := t.readLe pa 8 }, t) := by
  rcases h with hnone | ⟨b, hown, hover⟩
  · simp only [State.barCycle, hnone]
  · simp only [State.barCycle, hown, bne_iff_ne]
    rcases hover with hword | ⟨hnow, hlast⟩
    · rw [if_pos hword]
    · rw [if_neg hnow, if_neg hlast, ite_self]

/-- A word whose cycle is of this clock and still stands joins it. -/
theorem State.barCycle_of_own {t : State} {pa : Nat} {b : BarCycle} (hown : (t.bar.find? fun b => b.addr == pa) = some b)
    (hword : b.after = t.readLe pa 8) (hclock : b.clock = t.clock) : t.barCycle pa = (b, t) := by
  simp only [State.barCycle, hown, hword, bne_self_eq_false, Bool.false_eq_true, if_false, hclock, if_true]

/-- An operation on a barrier word counts in its cycle and sends the phase that the cycle began in. -/
theorem State.barOp_of_cycle {t : State} {pa : Nat} {c : BarCycle} (hc : t.barCycle pa = (c, t)) (drop : Bool) :
    t.barOp pa drop = (t.keepCycle pa (c.add drop t.clock), BitVec.ofNat 32 (c.word / 2 ^ 32)) := by
  have hphase : BitVec.ofNat 32 (bits 32 32 c.word) = (BitVec.ofNat 32 (c.word / 2 ^ 32) : Word) :=
    BitVec.eq_of_toNat_eq (by rw [BitVec.toNat_ofNat, BitVec.toNat_ofNat, bits, Nat.mod_mod])
  rw [← hphase]
  simp only [State.barOp, hc]
  rfl

/-! ## BARARR, BARDROP and WAKEW by their placement -/

section
variable {s t : State} {r : Shell} {f : Firing} (h : FiresAwake s r f t) (i : Instr) (size : Nat)
  (act : State → Nat → Addr → Word → Option (Except Nat (State × Word))) (answers : Bool)
include h

/-- A pooled one is noted for its galley's commit, and the tokens that it will send are counted (R152). -/
theorem State.fireSync_of_pooled (hp : f.pinned = false) {u : State}
    (hu : t.addAct f { node := f.node, lsid := 0, instr := i, a := (f.port r 2).value, obj := (pairAddr f r 0).obj, off := (pairAddr f r 0).off,
                       size := size, hnd := f.hnd } = u) :
    s.fireSync r i size act answers = .next (if answers then u.countOuts f r else u) := by
  rw [State.fireSync, fireActive_of_awake h]
  simp only [hp, hu, Bool.not_false, if_true, settleFire_some]

/-- One of an open round with room to stage is staged for the round's commit (R181). -/
theorem State.fireSync_of_round (hp : f.pinned = true) (hround : t.inRound f = true) (hroom : t.stageRoom f.part 4 = true) {pa tier : Nat}
    (hx : t.translate f.part (pairAddr f r 0) size (if size = 8 then .both else .any) = .ok pa tier) :
    s.fireSync r i size act answers = .next ((t.touch f (pairAddr f r 0) size (if size = 8 then 2 else 0)).stage f
      (.act i (f.port r 0).value (f.port r 1).value (f.port r 2).value)) := by
  rw [State.fireSync, fireActive_of_awake h]
  simp only [hp, hround, hx, hroom, Bool.not_true, Bool.false_eq_true, if_false, if_true, settleFire_some]

/-- One of a stream-mode forme acts at once. -/
theorem State.fireSync_of_stream (hp : f.pinned = true) (hstream : t.inRound f = false) {u : State} {w : Word}
    (hact : act t f.part (pairAddr f r 0) (f.port r 2).value = some (.ok (u, w))) :
    s.fireSync r i size act answers = .next (if answers then u.sendBoth f r (.data w) else u) := by
  rw [State.fireSync, fireActive_of_awake h]
  simp only [hp, hstream, hact, Bool.not_true, Bool.false_eq_true, if_false, settleFire_some]

end

/-- An operation on a barrier word that translates is done in the word's cycle. -/
theorem State.barAt_of_cycle {t : State} {part : Nat} {x : Addr} {pa tier : Nat} (hx : t.translate part x 8 .both = .ok pa tier) {c : BarCycle}
    (hc : t.barCycle pa = (c, t)) (drop : Bool) :
    t.barAt part x drop = some (.ok (t.keepCycle pa (c.add drop t.clock), BitVec.ofNat 32 (c.word / 2 ^ 32))) := by
  simp only [State.barAt, hx, State.barOp_of_cycle hc]

/-- A word that translates wakes its waiters. -/
theorem State.wakeAt_of_ok {t : State} {part : Nat} {x : Addr} {pa tier : Nat} (hx : t.translate part x 4 .any = .ok pa tier) (n : Word) :
    t.wakeAt part x n = some (.ok ((t.wake part (BitVec.ofNat 64 x.va) n.toNat).1,
      BitVec.ofNat 32 (t.wake part (BitVec.ofNat 64 x.va) n.toNat).2)) := by
  simp only [State.wakeAt, hx]

/-- A pinned BARARR and BARDROP of a stream-mode forme, on a word whose cycle is known. -/
theorem exec_barrier_of_stream {s t : State} {r : Shell} {f : Firing} (h : FiresAwake s r f t) (hp : f.pinned = true)
    (hstream : t.inRound f = false) {pa tier : Nat} (hx : t.translate f.part (pairAddr f r 0) 8 .both = .ok pa tier) {b : BarCycle}
    (hb : t.barCycle pa = (b, t)) (c : Scope) (rel : Bool) :
    exec (.bararr c rel r) s =
      .next ((t.keepCycle pa { b with arrivals := b.arrivals + 1 }).sendBoth f r (.data (BitVec.ofNat 32 (b.word / 2 ^ 32)))) ∧
    exec (.bardrop c rel r) s = .next (t.keepCycle pa { b with drops := b.drops + 1 }) :=
  ⟨State.fireSync_of_stream h _ 8 (fun t p x _ => t.barAt p x false) true hp hstream (State.barAt_of_cycle hx hb false),
    State.fireSync_of_stream h _ 8 (fun t p x _ => t.barAt p x true) false hp hstream (State.barAt_of_cycle hx hb true)⟩

/-! ## BARWAIT and WAITW -/

/-- A waiter of the firing's instance. -/
def Firing.waiter (f : Firing) (w : Waiter) : Bool := w.tile == f.tile && w.node == f.node && w.tag == f.tag

/-- An instance that is not among the waiters has none there. -/
theorem Firing.any_waiter_eq_false {f : Firing} {l : List Waiter} (hl : ∀ w ∈ l, ¬(w.tile = f.tile ∧ w.node = f.node ∧ w.tag = f.tag)) :
    l.any f.waiter = false := by
  refine List.any_eq_false.2 fun w hw => ?_
  simpa [Firing.waiter, and_assoc] using hl w hw

section
variable {s t : State} {r : Shell} {f : Firing} (h : FiresAwake s r f t) (hfollow : t.follows f = false)
include h hfollow

/-- BARWAIT sends a PHASE that differs from port 2 (R184). -/
theorem exec_barwait_of_new_phase {pa tier : Nat} (hx : t.translate f.part (pairAddr f r 0) 8 .read = .ok pa tier)
    (hnew : BitVec.ofNat 32 (t.readLe (pa + 4) 4) ≠ (f.port r 2).value) (acq : Bool) (c : Scope) :
    exec (.barwait acq c r) s =
      .next ((t.touch f (pairAddr f r 0) 8).sendBoth f r (.data (BitVec.ofNat 32 (t.readLe (pa + 4) 4)))) := by
  show execBarwait acq c r s = _
  rw [execBarwait, fireActive_of_awake h]
  simp only [hfollow, hx, if_neg hnew, Bool.false_eq_true, if_false, settleFire_some]

/-- WAITW of an instance that is not among the waiters sends a word that differs from port 1, and else waits on it (R183). -/
theorem exec_waitw_of_no_waiter {disp : BitVec 24} {kb : BitVec 6} {x : Addr} {pa tier : Nat}
    (hkx : t.kAddr f kb (f.port r 0).value.toNat disp = x) (hx : t.translate f.part x 4 .read = .ok pa tier)
    (hs : s.waiters.any f.waiter = false) (acq : Bool) (c : Scope) {now : Word} (hnow : BitVec.ofNat 32 (t.readLe pa 4) = now) :
    exec (.waitw acq c disp kb r) s = .next (if now = (f.port r 1).value then
        (s.startWait { part := f.part, va := BitVec.ofNat 64 x.va, ctx := f.ctx, tile := f.tile, node := f.node, tag := f.tag }).park
      else (({ t with waiters := t.waiters.filter fun w => !(f.waiter w) } : State).stopWaiting f.ctx).sendBoth f r (.data now)) := by
  have hwoken : (s.waiters.any fun w => f.waiter w && w.woken) = false :=
    List.any_eq_false.2 fun w hw => by simp [List.any_eq_false.1 hs w hw]
  show execWaitw acq c disp kb r s = _
  rw [execWaitw, fireActive_of_awake h]
  unfold Firing.waiter at hs hwoken ⊢
  simp only [hfollow, hkx, hx, hnow, hs, hwoken, Bool.false_eq_true, if_false, Bool.false_or, Bool.not_false, Bool.and_true, bne_iff_ne]
  by_cases heq : now = (f.port r 1).value
  · rw [if_neg (not_not.2 heq), if_pos heq, settleFire_some]
  · rw [if_pos heq, if_neg heq, settleFire_some]

end

/-- Settles O43: the barrier records and WAKEW by their placement and cycle, the waits by the word that they find. -/
theorem barriersAndWaits : Obligations.BarriersAndWaits := by
  unfold Obligations.BarriersAndWaits
  intro r s f t h x v noted
  refine ⟨fun c rel hp => ?pooled, fun c rel pa tier hp hstream hx => ?stream, fun c rel pa tier hp hround hroom => ?staged,
    fun c rel pa tier hp hstream hx => ?wake, fun acq c pa tier hfollow hx => fun hnew => exec_barwait_of_new_phase h hfollow hx hnew acq c,
    fun acq c disp kb pa tier => fun hfollow hx hs ht => ?wait⟩
  case pooled =>
    exact ⟨State.fireSync_of_pooled h _ 8 (fun t p x _ => t.barAt p x false) true hp rfl,
      State.fireSync_of_pooled h _ 8 (fun t p x _ => t.barAt p x true) false hp rfl,
      State.fireSync_of_pooled h _ 4 (fun t p x v => t.wakeAt p x v) true hp rfl⟩
  case stream =>
    exact ⟨fun halone => exec_barrier_of_stream h hp hstream hx (State.barCycle_of_alone halone) c rel,
      fun b hown hword hclock => exec_barrier_of_stream h hp hstream hx (State.barCycle_of_own hown hword hclock) c rel⟩
  case staged =>
    exact ⟨fun hx => ⟨State.fireSync_of_round h _ 8 (fun t p x _ => t.barAt p x false) true hp hround hroom hx,
        State.fireSync_of_round h _ 8 (fun t p x _ => t.barAt p x true) false hp hround hroom hx⟩,
      fun hx => State.fireSync_of_round h _ 4 (fun t p x v => t.wakeAt p x v) true hp hround hroom hx⟩
  case wake =>
    exact State.fireSync_of_stream h _ 4 (fun t p x v => t.wakeAt p x v) true hp hstream (State.wakeAt_of_ok hx v)
  case wait =>
    have hwait := exec_waitw_of_no_waiter h hfollow rfl hx (Firing.any_waiter_eq_false hs) acq c rfl
    have hkept : t.waiters.filter (fun w => !(f.waiter w)) = t.waiters :=
      List.filter_eq_self.2 fun w hw => by simpa using List.any_eq_false.1 (Firing.any_waiter_eq_false ht) w hw
    rw [hkept] at hwait
    exact ⟨fun hne => hwait.trans (congrArg _ (if_neg hne)), fun heq => hwait.trans (congrArg _ (if_pos heq))⟩

end Sys2Proof.Machine

/-! # The job of a forme at a round commit (R220, R304) -/

namespace Sys2Proof.Machine

/-- The level in force at a round commit once a request of DEGRADE has taken force (R220). -/
def Job.asked (j : Job) : Nat := max j.level (j.request.getD 0)

/-- A round commit takes the job a level down: a DEADLINE job that is not finished, has a level below, and is late (R304). -/
def Job.lowers (j : Job) (now : Nat) : Bool :=
  !j.bestEffort && decide (j.done + 1 < j.total) && decide (j.asked < j.nlevm1) && j.late (j.done + 1) now

theorem Job.commit_of_lowers {j : Job} {now : Nat} (h : j.lowers now = true) :
    j.commit now = ({ j with done := (j.done + 1) % 2 ^ 32, request := none, level := j.asked + 1, drops := min 255 (j.drops + 1) }, true) :=
  if_pos h

theorem Job.commit_of_not_lowers {j : Job} {now : Nat} (h : j.lowers now = false) :
    j.commit now = ({ j with done := (j.done + 1) % 2 ^ 32, request := none, level := j.asked }, j.asked != j.level) :=
  if_neg (Bool.eq_false_iff.1 h)

theorem Job.lowers_iff (j : Job) (now : Nat) : j.lowers now = true ↔
    j.bestEffort = false ∧ j.done + 1 < j.total ∧ j.asked < j.nlevm1 ∧ j.late (j.done + 1) now = true := by
  simp [Job.lowers, and_assoc]

theorem Job.level_le_asked (j : Job) : j.level ≤ j.asked := Nat.le_max_left ..

/-- Settles O55: by whether the commit takes the job a level down. -/
theorem jobCommit : Obligations.JobCommit := by
  unfold Obligations.JobCommit
  intro j now k level est late
  have hup := j.level_le_asked
  have hlate : j.late (j.done + 1) now = late := rfl
  have hlevel : j.asked = level := rfl
  clear_value late level
  cases hlow : j.lowers now with
  | true =>
    obtain ⟨hdeadline, hmore, hbelow, hbehind⟩ := (j.lowers_iff now).1 hlow
    have hk : k = _ := congrArg Prod.fst (Job.commit_of_lowers hlow)
    rw [Job.commit_of_lowers hlow, hk]
    refine ⟨rfl, rfl, Nat.le_succ_of_le hup, rfl, rfl, rfl, ?stays, fun _ _ _ _ => ⟨congrArg (· + 1) hlevel, rfl⟩, ?changed⟩
    case stays =>
      rintro (h | h | h | h)
      · exact absurd (hdeadline.symm.trans h) (by decide)
      · omega
      · omega
      · exact absurd (hbehind.symm.trans (hlate.trans h)) (by decide)
    case changed => exact iff_of_true rfl (Nat.ne_of_gt (Nat.lt_succ_of_le hup))
  | false =>
    have hk : k = _ := congrArg Prod.fst (Job.commit_of_not_lowers hlow)
    rw [Job.commit_of_not_lowers hlow, hk]
    refine ⟨rfl, rfl, hup, rfl, rfl, rfl, fun _ => ⟨hlevel, rfl⟩, fun hdeadline hmore hbelow hbehind => ?lowers, bne_iff_ne⟩
    case lowers =>
      have hyes := (j.lowers_iff now).2 ⟨hdeadline, hmore, hlevel ▸ hbelow, hlate.trans hbehind⟩
      exact absurd (hlow.symm.trans hyes) (by decide)

end Sys2Proof.Machine

/-! # TEX, TEXN, MARCH and the records of the compositing accumulator (R204 to R215) -/

namespace Sys2Proof.Machine

/-! ## Sampling -/

/-- The channels of a sample: the texels' values, each weighted and rounded once (R206). -/
def blended (n : Nat) (px : List Tap) (vs : List (List FVal)) : List FRes :=
  (List.range n).map fun k => blend ((px.zip vs).map fun e => (e.1.w, e.2.getD k (.nan false)))

/-- A sample whose coordinates are no NaN and name texels gives what the texels give. -/
theorem Ssr.sample_of_taps {q : Ssr} {s : State} {n u v : Nat} {lod : FVal} {px : List Tap} {l : List FRes}
    {get : List Tap → Option (Except (Nat × Nat) (List FRes))} (hu : halfNan u = false) (hv : halfNan v = false)
    (hpx : q.taps u v lod = some px) (hl : get px = some (.ok l)) :
    q.sample s n u v lod get = some (.ok (l.map FRes.bits, l.foldl (fun st x => st ||| x.flags) 0, s)) := by
  simp only [Ssr.sample, hu, hv, hpx, hl, Bool.or_self, Bool.false_eq_true, if_false]

section
variable {r : Shell} {s t : State} {f : Firing} (h : FiresAwake s r f t)
include h

/-- TEX with a sampler state and every texel at hand sends the blended channels (R206). -/
theorem exec_tex_of_taps {n : BitVec 12} {q : Ssr} {size : Nat} {px : List Tap} {vs : List (List FVal)} (hq : t.ssrAt f n = some (.ok q))
    (hsize : texelBytes q.format = some size) (hu : halfNan (half (f.port r 0).value 0) = false)
    (hv : halfNan (half (f.port r 0).value 1) = false)
    (hpx : q.taps (half (f.port r 0).value 0) (half (f.port r 0).value 1) (f32 (f.port r 1).value) = some px)
    (hvs : collect (fun p => q.texel t f.part size p) px = some (.ok vs)) :
    exec (.tex n r) s = .next ((t.touch f q.base (2 ^ 40) 0 size).sendRgba f r ((blended 4 px vs).map FRes.bits)
      ((blended 4 px vs).foldl (fun st x => st ||| x.flags) 0)) := by
  show execTex n r s = _
  rw [execTex, fireActive_of_awake h]
  simp only [hq, hsize]
  rw [Ssr.sample_of_taps (l := blended 4 px vs) hu hv hpx (by rw [hvs]; rfl)]
  exact settleFire_some ..

/-- TEXN with a sampler state, every latent byte and the network at hand sends the network's channels (R207). -/
theorem exec_texn_of_taps {n : BitVec 12} {q : Ssr} {px : List Tap} {vs : List (List FVal)} {hb : List Byte} {o : List Nat} {st : Sticky}
    {fmt : MFmt} (hq : t.ssrAt f n = some (.ok q)) (hformat : q.format = 0x30 ∨ q.format = 0x31)
    (hfmt : (if q.format = 0x30 then MFmt.e4m3 else .tw8) = fmt) (hu : halfNan (half (f.port r 0).value 0) = false)
    (hv : halfNan (half (f.port r 0).value 1) = false)
    (hpx : q.taps (half (f.port r 0).value 0) (half (f.port r 0).value 1) (f32 (f.port r 1).value) = some px)
    (hvs : collect (fun p => q.latent t f.part fmt p) px = some (.ok vs)) (hbytes : t.bytesAt f.part q.mlp 4 = some (.ok hb))
    (hnet : t.network f.part fmt (leNat hb % 4) (q.mlp.plus (4 : Nat)) ((blended q.chans px vs).map FRes.bits)
      ((blended q.chans px vs).foldl (fun st x => st ||| x.flags) 0) = some (.ok (o, st))) :
    exec (.texn n r) s = .next (((t.touch f q.base (2 ^ 40) 0 1).touch f q.mlp (2 ^ 40) 0 4).sendRgba f r o st) := by
  have hknown : ¬(q.format ≠ 0x30 ∧ q.format ≠ 0x31) := by omega
  show execTexn n r s = _
  rw [execTexn, fireActive_of_awake h]
  simp only [hq, if_neg hknown, hfmt]
  rw [Ssr.sample_of_taps (l := blended q.chans px vs) hu hv hpx (by rw [hvs]; rfl)]
  simp only [hbytes, hnet, settleFire_some]

/-! ## MARCH (R208) -/

omit h in
/-- A MARCH whose header and ray lie in the tile reads no word outside it. -/
theorem Forme.march_words_ok {g : Forme} {base ray : Nat} (hal : base % 4 = 0) (hray : ray % 4 = 0) (hhead : base + 12 ≤ g.tileBytes)
    (hin : ray + 28 ≤ g.tileBytes) :
    ((((List.range 3).map fun k => base + 4 * k) ++ (List.range 7).map fun k => ray + 4 * k).find? fun a => !(g.tileOk a 4)) = none := by
  refine List.find?_eq_none.2 fun a ha => ?_
  have hok : g.tileOk a 4 = true := by
    rw [Forme.tileOk_iff]
    rcases List.mem_append.1 ha with ha | ha
    · obtain ⟨k, hk, rfl⟩ := List.mem_map.1 ha
      have := List.mem_range.1 hk
      omega
    · obtain ⟨k, hk, rfl⟩ := List.mem_map.1 ha
      have := List.mem_range.1 hk
      omega
  simp [hok]

/-- A MARCH whose words lie in the tile sends the site word and the next t. -/
theorem exec_march_of_words {base : BitVec 19} {dx dy : BitVec 6} {g : Forme} (hg : t.forme? f.h = some g) {ray : Nat}
    (hray : base.toNat + 32 + 32 * (f.port r 0).value.toNat = ray) (hal : base.toNat % 4 = 0) (hin : ray + 28 ≤ g.tileBytes)
    (hhead : base.toNat + 12 ≤ g.tileBytes) :
    let w (n : Nat) : Nat := g.run.core.tileRead (tileBay f.x f.y dx dy) n 4
    let v (k : Nat) : FVal := Fmt.fp32.decode (w (ray + 4 * k))
    let q : Ray := { dims := [w base.toNat % 65536, w base.toNat / 65536, w (base.toNat + 4) % 65536], step := w (base.toNat + 8)
                     o := [v 0, v 1, v 2], d := [v 3, v 4, v 5], tmax := w (ray + 24) }
    let m := marchStep q (f.port r 1).value.toNat
    exec (.march base dx dy r) s = .next (t.sendTwo f r (.data (BitVec.ofNat 32 m.1)) (.data (BitVec.ofNat 32 m.2))) := by
  subst hray
  have hwords := Forme.march_words_ok (g := g) hal (by omega) hhead hin
  show execMarch base dx dy r s = _
  rw [execMarch, fireActive_of_awake h]
  simp only [hg, hwords, settleFire_some]

/-! ## The compositing accumulator (R204, R210 to R214) -/

theorem exec_cadd_of_caDo (page : BitVec 4) (dx dy : BitVec 6) {u : State} {st : Sticky} :
    let a := (f.port r 0).value
    let b := (f.port r 1).value
    let c := (f.port r 2).value
    t.caDo f.h f.x f.y f.rt (tileBay f.x f.y dx dy) (fun x => x.term (page.toNat * 256 + a.toNat / 2 ^ 24)
      { key := BitVec.ofNat 40 (a.toNat % 2 ^ 24 * 65536 + t.termSeq f), alpha := c.extractLsb' 16 16, cr := b.extractLsb' 0 16
        cg := b.extractLsb' 16 16, cb := c.extractLsb' 0 16 }) = some (.ok (u, st)) →
    exec (.cadd page dx dy r) s = .next (u.leave f st 0) := by
  intro a b c hdo
  show execCadd page dx dy r s = _
  rw [execCadd, fireActive_of_awake h]
  simp only [State.caAt]
  rw [hdo]
  exact settleFire_some ..

theorem exec_cwmk_of_caDo {dx dy : BitVec 6} {u : State} {st : Sticky} (hdo : t.caDo f.h f.x f.y f.rt (tileBay f.x f.y dx dy)
      (fun x => x.watermark (BitVec.ofNat 40 ((f.port r 0).value.toNat % 2 ^ 24 * 65536 + (f.port r 1).value.toNat % 65536))) =
        some (.ok (u, st))) :
    exec (.cwmk dx dy r) s = .next ((u.leave f st 0).sendBoth f r (.data 0)) := by
  show execCwmk dx dy r s = _
  rw [execCwmk, fireActive_of_awake h]
  simp only [State.caAt, hdo, settleFire_some]

section
variable (hp : f.pinned = true) {dx dy : BitVec 6} {u : State} {st : Sticky}
include hp

theorem exec_cclr_of_pinned (hdo : t.caDo f.h f.x f.y f.rt (tileBay f.x f.y dx dy) CaState.clear = some (.ok (u, st))) :
    exec (.cclr dx dy r) s = .next ((u.leave f st 0).sendBoth f r (.data 0)) := by
  show execCclr dx dy r s = _
  rw [execCclr, fireActive_of_awake h]
  simp only [hp, State.caAt, hdo, if_true, settleFire_some]

theorem exec_cres_of_pinned (hdo : t.caResolve f.h f.x f.y f.rt (tileBay f.x f.y dx dy) (pairVa f r) = some (.ok (u, st))) :
    exec (.cres dx dy r) s =
      .next (((u.touch f (Addr.ofVa (pairVa f r)) 32768 3 0).leave f st 0).sendBoth f r (.data 32768)) := by
  show execCres dx dy r s = _
  rw [execCres, fireActive_of_awake h]
  simp only [hp, hdo, if_true, settleFire_some]

theorem exec_clog_of_pinned (hdo : t.caLog f.h f.x f.y f.rt (tileBay f.x f.y dx dy) (pairVa f r) = some (.ok u)) :
    exec (.clog dx dy r) s = .next ((u.touch f (Addr.ofVa (pairVa f r)) 32 3).sendBoth f r (.data 0)) := by
  show execClog dx dy r s = _
  rw [execClog, fireActive_of_awake h]
  simp only [hp, hdo, if_true, settleFire_some]

/-- CADJ of a stream-mode forme on a descriptor that can be read writes its records at once (R214). -/
theorem exec_cadj_of_stream (hstream : t.inRound f = false) {out : Addr} {p : List (Nat × Nat)} {bs : List Byte} {n : Word}
    (hdo : t.cadj f.part (pairAddr f r 0) = some (.ok (out, p, bs, n, st))) (hsome : bs ≠ []) :
    exec (.cadj r) s = .next (((t.touch f (pairAddr f r 0) 64 3).touch f out bs.length 3 0
      |>.caStore f.h f.x f.y f.rt false out p bs |>.leave f st 0).sendBoth f r (.data n)) := by
  have hne : bs.isEmpty = false := List.isEmpty_eq_false_iff.2 hsome
  show execCadj r s = _
  rw [execCadj, fireActive_of_awake h]
  simp only [hp, hdo, hstream, hne, Bool.not_true, Bool.false_and, Bool.false_eq_true, if_false, settleFire_some]

/-- FREL of a stream-mode forme on a descriptor that can be read passes the release at once (R215). -/
theorem exec_frel_of_stream (hstream : t.inRound f = false) {bs : List Byte} (hread : t.bytesAt f.part (pairAddr f r 0) 32 = some (.ok bs)) :
    exec (.frel r) s = .next ((t.frelTo f.ctx (leNat bs)).1.sendBoth f r (.data (t.frelTo f.ctx (leNat bs)).2)) := by
  show execFrel r s = _
  rw [execFrel, fireActive_of_awake h]
  simp only [hp, hread, hstream, Bool.not_true, Bool.false_eq_true, if_false, settleFire_some]

end

section
variable (hp : f.pinned = false)
include hp

section
variable {i : Instr} {act : Firing → State → Option State} {port : Nat}
  (hi : exec i s = s.fireActive r fun f t => if f.pinned then act f t else t.pooledCa f r i port)
include hi

/-- A pooled record that names a CA tile of its context is noted for the commit (R193, R204). -/
theorem exec_caRecord_of_owner (hown : (t.caOwner f ((f.port r port).value.toNat % 256)).isSome = true) :
    exec i s = .next ((t.addAct f { node := f.node, lsid := 0, instr := i, a := (f.port r 0).value, b := (f.port r 1).value
                                    c := (f.port r port).value, obj := (pairAddr f r 0).obj, off := (pairAddr f r 0).off
                                    hnd := f.hnd }).countOuts f r) := by
  obtain ⟨o, ho⟩ := Option.isSome_iff_exists.1 hown
  rw [hi, fireActive_of_awake h]
  simp only [hp, State.pooledCa, ho, Bool.false_eq_true, if_false, settleFire_some]

/-- One that names none takes a permission fault (R204). -/
theorem exec_caRecord_of_no_owner (hown : t.caOwner f ((f.port r port).value.toNat % 256) = none) :
    exec i s = .next ((t.faultAt f 0 clsPermission 0 (.access 0 0 3)).getD s.park) := by
  rw [hi, fireActive_of_awake h]
  simp only [hp, State.pooledCa, hown, Bool.false_eq_true, if_false, settleFire]

end

theorem exec_cadj_of_pooled : exec (.cadj r) s = .next ((t.addAct f { node := f.node, lsid := 0, instr := .cadj r, obj := (pairAddr f r 0).obj
                                                                      off := (pairAddr f r 0).off, size := 64, hnd := f.hnd }).countOuts f r) := by
  show execCadj r s = _
  rw [execCadj, fireActive_of_awake h]
  simp only [hp, Bool.not_false, if_true, settleFire_some]

theorem exec_frel_of_pooled : exec (.frel r) s = .next ((t.addAct f { node := f.node, lsid := 0, instr := .frel r, obj := (pairAddr f r 0).obj
                                                                      off := (pairAddr f r 0).off, size := 32, hnd := f.hnd }).countOuts f r) := by
  show execFrel r s = _
  rw [execFrel, fireActive_of_awake h]
  simp only [hp, Bool.not_false, if_true, settleFire_some]

end

end

/-- Settles O45: each record by its lemma above, the pooled ones by whether the CA tile that they name is their context's. -/
theorem renderRecords : Obligations.RenderRecords := by
  unfold Obligations.RenderRecords
  intro r s f t h a b c
  refine ⟨fun n q size px vs hq hsize hu hv hpx hvs => exec_tex_of_taps h hq hsize hu hv hpx hvs,
    fun n q px vs hb o st hq hformat hu hv hpx hvs hbytes hnet => exec_texn_of_taps h hq hformat rfl hu hv hpx hvs hbytes hnet,
    fun base dx dy g hg hal hin hhead => exec_march_of_words h hg rfl hal hin hhead,
    fun page dx dy u st => exec_cadd_of_caDo h page dx dy,
    fun dx dy u st => ⟨exec_cwmk_of_caDo h, fun hp => exec_cclr_of_pinned h hp, fun hp => exec_cres_of_pinned h hp,
      fun hp => exec_clog_of_pinned h hp⟩,
    fun dx dy hp => ⟨fun hown => ⟨exec_caRecord_of_owner h hp (port := 2) rfl hown, exec_caRecord_of_owner h hp (port := 2) rfl hown⟩,
      fun hown => ⟨exec_caRecord_of_no_owner h hp (port := 2) rfl hown, exec_caRecord_of_no_owner h hp (port := 2) rfl hown⟩,
      exec_caRecord_of_owner h hp (port := 0) rfl, exec_caRecord_of_no_owner h hp (port := 0) rfl⟩,
    fun hp => ⟨exec_cadj_of_pooled h hp, exec_frel_of_pooled h hp⟩,
    fun out p bs n st hp hstream hdo hsome => exec_cadj_of_stream h hp hstream hdo hsome,
    fun bs hp hstream hread => exec_frel_of_stream h hp hstream hread⟩

end Sys2Proof.Machine

/-! # Returning from a fault: ERET and the commands on a context (R224, R354, R356, R358, R359) -/

namespace Sys2Proof.Machine

/-! ## ERET on a fault queue -/

section
variable {s : State} {x : Ctx}

/-- With nothing stopped, an action changes nothing, and waits while the queue's header stalls. -/
theorem settle_eret_of_no_work {c : Nat} (hc : s.ctx? c = some x) (hwork : x.work = []) (a : Nat) : settle s (s.eret c a) = .next s := by
  unfold State.eret
  simp only [hc, hwork]
  split
  · exact settle_none s
  · exact settle_some s s

/-- An action on the record at HEAD: HEAD advances, what the record stopped is acted on, and STATE returns when nothing is left. -/
theorem State.eret_of_record {c : Nat} {w : FaultWork} {l : List FaultWork} {hdr : List (Nat × Nat)} (hc : s.ctx? c = some x)
    (hwork : x.work = w :: l) (hread : s.single x.part (Addr.ofVa x.fqb) 64 .both = .ok hdr) (hpending : s.pendingFaults x ≠ 0) {u : State}
    (hu : s.setCtx { x with work := l } = u) (hadvance : u.single x.part (Addr.ofVa x.fqb) 64 .both = .ok hdr) (a : Nat) :
    s.eret c a = some (((u.writePieces hdr (leBytes 64 (setBits 0 32 (leNat (u.readPieces hdr))
      (bits 0 32 (leNat (u.readPieces hdr)) + 1)))).resolve c a w).restoreState c) := by
  unfold State.eret
  simp only [hc, hread, hwork, if_neg hpending, hu, State.advanceHead, hadvance]

/-- ERET at a commit acts on its own context, with action 3 taken as 2 (R224). -/
theorem State.performAct_eret {t : Nat} {g : Galley} {e : Prepared} {r : Shell} (he : e.act.instr = .eret r) {u : State}
    (hu : s.eret (tagCtx g.tag) (min 2 (e.act.a.toNat % 4)) = some u) : s.performAct t g e = some (.ok (u, none, 0)) := by
  simp only [State.performAct, he, hu, Option.map_some]

/-! ## CTX_CMD (Table 22-4) -/

variable {p : Nat}

/-- CMD 1, 2 and 3 are the actions 0, 1 and 2 of ERET on the selected context. -/
theorem State.ctxCmd_eret_of_selected (hx : s.selected p = some x) (h : Nat) :
    s.ctxCmd p 1 h = s.eret x.id 0 ∧ s.ctxCmd p 2 h = s.eret x.id 1 ∧ s.ctxCmd p 3 h = s.eret x.id 2 := by
  simp only [State.ctxCmd, hx, and_self]

theorem exec_ctxCmd_eret_of_selected (hx : s.selected p = some x) :
    exec (.ctxCmdReplay p) s = settle s (s.eret x.id 0) ∧ exec (.ctxCmdContinue p) s = settle s (s.eret x.id 1) ∧
      exec (.ctxCmdKill p) s = settle s (s.eret x.id 2) := by
  obtain ⟨hreplay, hcontinue, hkill⟩ := State.ctxCmd_eret_of_selected hx 0
  exact ⟨congrArg (settle s) hreplay, congrArg (settle s) hcontinue, congrArg (settle s) hkill⟩

/-- CMD 4 kills a live forme of the context. -/
theorem exec_ctxCmdKillForme_of_live (hx : s.selected p = some x) {h : Nat} {f : Forme} (hf : s.forme? h = some f) (hlive : f.isLive = true)
    (hctx : f.ctx = x.id) : exec (.ctxCmdKillForme p h) s =
      .next (((s.setCtx { x with unposted := x.unposted.filter fun w => w != .round h }).killForme f false).restoreState x.id) := by
  show settle s (s.ctxCmd p 4 h) = _
  simp only [State.ctxCmd, hx, hf, hlive, hctx, beq_self_eq_true, Bool.and_self, if_true, settle_some]

/-- CMD 5 resumes a context that shows HALTED. -/
theorem exec_ctxCmdResume_of_halted (hx : s.selected p = some x) (hst : (s.ctxShown x).state = .halted) :
    exec (.ctxCmdResume p) s = .next ((s.setCtx { x with state := .runnable }).refreshSwapped x.id) := by
  show settle s (s.ctxCmd p 5 0) = _
  simp only [State.ctxCmd, hx, hst, beq_self_eq_true, if_true, settle_some]

theorem exec_ctxCmdResume_of_not_halted (hx : s.selected p = some x) (hst : (s.ctxShown x).state ≠ .halted) :
    exec (.ctxCmdResume p) s = .next s := by
  show settle s (s.ctxCmd p 5 0) = _
  simp only [State.ctxCmd, hx, if_neg (beq_eq_false_iff_ne.2 hst ▸ Bool.false_ne_true), settle_some]

/-- CMD 6 replays what could not be posted. -/
theorem exec_ctxCmdReplayUnposted_of_selected (hx : s.selected p = some x) :
    exec (.ctxCmdReplayUnposted p) s = .next (s.replayUnposted x.id) := by
  show settle s (s.ctxCmd p 6 0) = _
  simp only [State.ctxCmd, hx, settle_some]

/-- Without a selected context every command does nothing (log 73). -/
theorem State.ctxCmd_of_none (hx : s.selected p = none) (n h : Nat) : s.ctxCmd p n h = some s := by
  simp only [State.ctxCmd, hx]

end

/-! ## What an action does to a forme (Table 22-5) -/

section
variable {s : State} {h : Nat} {f : Forme} (hf : s.forme? h = some f) (c : Nat)
include hf

/-- Action 0 on a voided round starts it again with its logged tokens (R354). -/
theorem State.resolve_replay_of_voided (hst : f.status = .voided) :
    s.resolve c 0 (.round h) = s.setForme { f with
      status := .live, held := f.run.inlog ++ f.held
      run := { f.run with core := f.run.start, inlog := [], replaying := f.run.inlog.length + f.run.replaying } } := by
  unfold State.resolve Forme.replay
  simp only [hf, hst, beq_self_eq_true, if_true]
  rfl

/-- Action 0 on a killed forme imposes it again where nothing meets its chase (R356). -/
theorem State.resolve_replay_of_killed_free (hst : f.status = .killed) (hfree : s.meets f.die f.cfg f.bx f.oy = []) :
    s.resolve c 0 (.killed h) = s.setForme { f with status := .entering, run := {}, since := s.clock } := by
  unfold State.resolve
  simp only [hf, hst, hfree]
  rfl

/-- Where a live forme stands on the chase the image goes (log 102). -/
theorem State.resolve_replay_of_killed_met (hst : f.status = .killed) (hmet : ∃ o ∈ s.meets f.die f.cfg f.bx f.oy, o.isLive = true) :
    s.resolve c 0 (.killed h) = s.dropForme h := by
  obtain ⟨o, ho, hlive⟩ := hmet
  have hnot : ((s.meets f.die f.cfg f.bx f.oy).all fun o => !o.isLive && o.bx == f.bx && o.oy == f.oy &&
      o.cfg.w == f.cfg.w && o.cfg.h == f.cfg.h) = false := List.all_eq_false.2 ⟨o, ho, by simp [hlive]⟩
  unfold State.resolve
  simp only [hf, hst, hnot, Bool.and_false]
  rfl

end

/-- Settles O50: the commands by the context that is selected and what it has stopped, the actions by the status of the forme. -/
theorem faultReturn : Obligations.FaultReturn := by
  unfold Obligations.FaultReturn
  refine ⟨fun s p x hx => ?selected, fun s p h hx => ?none, fun s c h f hf hst => State.resolve_replay_of_voided hf c hst,
    fun s c h f hf hst => ⟨State.resolve_replay_of_killed_free hf c hst, State.resolve_replay_of_killed_met hf c hst⟩⟩
  case selected =>
    obtain ⟨hreplay, hcontinue, hkill⟩ := exec_ctxCmd_eret_of_selected hx
    rw [hreplay, hcontinue, hkill]
    refine ⟨fun w l hdr hwork hc hread hpending => ?acts, fun hwork hc => ?idle, fun h f => exec_ctxCmdKillForme_of_live hx,
      exec_ctxCmdResume_of_halted hx, exec_ctxCmdResume_of_not_halted hx, exec_ctxCmdReplayUnposted_of_selected hx⟩
    case acts =>
      intro u hadvance b acted
      have hacts : ∀ a, s.eret x.id a = some (acted a) := State.eret_of_record hc hwork hread hpending rfl hadvance
      rw [hacts, hacts, hacts]
      exact ⟨rfl, rfl, rfl, fun t g e r he hown => State.performAct_eret he (hown ▸ hacts _)⟩
    case idle =>
      exact ⟨settle_eret_of_no_work hc hwork 0, settle_eret_of_no_work hc hwork 1, settle_eret_of_no_work hc hwork 2⟩
  case none =>
    have hcmd (n h : Nat) : settle s (s.ctxCmd p n h) = .next s := congrArg (settle s) (State.ctxCmd_of_none hx n h)
    exact ⟨hcmd 1 0, hcmd 2 0, hcmd 3 0, hcmd 4 h, hcmd 5 0, hcmd 6 0⟩

end Sys2Proof.Machine

/-! # Leases, completed copies, packets and flits (R195, R217, R362 to R374) -/

namespace Sys2Proof.Machine

/-! ## The lender (R363, R366, R368) -/

section
variable {s u : State} {die idx : Nat} {l : Lent} (h : s.lent? die idx = some l)
include h

theorem exec_leaseZeroDone_of_offered (hst : l.state = .offered) (hnew : l.zeroed = false) (hheld : l.heldTake = none) :
    exec (.leaseZeroDone die idx) s = .next (({ s with mem := Memory.clear s.mem (spaceBase 0 die + l.page * 4096) (l.gran * granule) } :
      State).setLent die { l with zeroed := true }) := by
  show settle s (s.zeroDone die idx) = _
  simp only [State.zeroDone, h, hst, hnew, hheld, bne_self_eq_false, Bool.or_self, Bool.false_eq_true, if_false, settle_some]

theorem exec_stopped_of_reclaiming (hst : l.state = .reclaiming) (hpushed : l.pushed = false) :
    exec (.stopped die idx) s = .next (((l.pages.foldl (fun u p => u.sendPush die l p) s).sendLease die l.borrower
      (.done l.borrower (leaseId die idx))).setLent die { l with pushed := true }) := by
  show Host.Outcome.next (s.leaseStopped die idx) = _
  simp only [State.leaseStopped, h, hst, hpushed, bne_self_eq_false, Bool.or_self, Bool.false_eq_true, if_false]
  rfl

theorem exec_demoted_of_reclaiming (hst : l.state = .reclaiming)
    (hu : ((s.setLent die { l with state := .closed }).returned die l.gran).lentEvent die l 17 = some u) :
    exec (.demoted die idx) s = .next u := by
  show settle s (s.leaseDemoted die idx) = _
  simp only [State.leaseDemoted, h, hst, hu, bne_self_eq_false, Bool.false_eq_true, if_false]
  rfl

/-- The stop timer's event applies where its operand is what the routes say of the fallback. -/
theorem exec_leaseStopTimerExpiry_of_reached {r : Bool} (hr : s.fallbackReached l = r) :
    exec (.leaseStopTimerExpiry die idx r) s = settle s (s.quarantine die idx) := by
  show settle s (if (s.lent? die idx).any fun l => s.fallbackReached l == r then s.quarantine die idx else none) = _
  simp only [h, Option.any_some, hr, beq_self_eq_true, if_true]

theorem exec_leaseStopTimerExpiry_of_other {r : Bool} (hr : r ≠ s.fallbackReached l) : exec (.leaseStopTimerExpiry die idx r) s = .next s := by
  have hother : (s.fallbackReached l == r) = false := beq_eq_false_iff_ne.2 hr.symm
  show settle s (if (s.lent? die idx).any fun l => s.fallbackReached l == r then s.quarantine die idx else none) = _
  simp only [h, Option.any_some, hother, Bool.false_eq_true, if_false, settle_none]

/-- A region whose dirty pages cannot be pushed is zeroed (R368). -/
theorem State.quarantine_of_unreached (hst : l.state = .reclaiming) (hpushed : l.pushed = false) (hreached : s.fallbackReached l = false) :
    s.quarantine die idx = ((({ s with mem := Memory.clear s.mem (spaceBase 0 die + l.page * 4096) (l.gran * granule) } :
      State).setLent die { l with state := .quarantined, pushed := false }).returned die l.gran).lentEvent die l 18 := by
  simp only [State.quarantine, h, hst, hpushed, hreached, bne_self_eq_false, Bool.false_and, Bool.or_self, Bool.false_eq_true, if_false]

/-- Dirty pages that are still to be pushed go to a fallback that can be reached; a lease that has pushed them waits only for its borrower. -/
theorem State.quarantine_of_reached (hst : l.state = .reclaiming)
    (hwhy : l.pushed = false ∧ s.fallbackReached l = true ∨ l.pushed = true ∧ s.reachable l.borrower = false) :
    s.quarantine die idx = (((if l.pushed then s else l.pages.foldl (fun v p => v.sendPush die l p) s).setLent die
      { l with state := .quarantined, pushed := true }).returned die l.gran).lentEvent die l 18 := by
  rcases hwhy with ⟨hpushed, hreached⟩ | ⟨hpushed, hlost⟩
  · simp only [State.quarantine, h, hst, hpushed, hreached, bne_self_eq_false, Bool.false_and, Bool.or_self, Bool.or_true,
      Bool.false_eq_true, if_false, if_true]
  · simp only [State.quarantine, h, hst, hpushed, hlost, bne_self_eq_false, Bool.and_false, Bool.or_self, Bool.true_or, Bool.false_eq_true,
      if_false, if_true]

theorem exec_qtimeExpiry_of_quarantined (hst : l.state = .quarantined)
    (hu : (s.setLent die { l with state := .closed }).lentEvent die l 19 = some u) :
    exec (.qtimeExpiry die idx) s = .next u := by
  show settle s (s.quarantineOver die idx) = _
  simp only [State.quarantineOver, h, hst, hu, beq_self_eq_true, if_true, settle_some]

theorem exec_leaseTermExpiry_of_offered (hterm : l.term ≠ 0) (hst : l.state = .offered) (hu : s.withdraw die l = some u) :
    exec (.leaseTermExpiry die idx) s = .next u := by
  show settle s (s.termOver die idx) = _
  simp only [State.termOver, h, if_neg hterm, hst, hu, settle_some]

end

section
variable {s u v : State} {die : Nat} {l : Lent} {b : Nat} {f : LeasePlace}

/-- A zeroed offer whose ports can carry it is taken (R363). -/
theorem State.takeNow_of_canCarry (hheld : l.heldTake = none) (hcarry : s.canCarry l.rbw b f = true) :
    s.takeNow die l b f = ((s.setLent die { l with state := .taken, borrower := b, fallback := f, dirty := [], pushed := false
                                                   order := ((s.die? die).map Die.nextOrder).getD 0 }).sendLease die b
      (.takeAck b (leaseId die l.idx) { gran := l.gran, wt := l.wt, rbw := l.rbw, page := l.page })).lentEvent die l 16 := by
  have hl : { l with heldTake := none } = l := by rw [← hheld]
  simp only [State.takeNow, hl, hheld, hcarry, Bool.not_true, Bool.false_eq_true, if_false]

theorem exec_take_of_offered {idx : Nat} (hfind : ((s.die? die).bind fun d => d.lent.find? fun x => x.idx == idx) = some l)
    (hst : l.state = .offered) (hheld : l.heldTake = none) (hzeroed : l.zeroed = true) (hu : s.takeNow die l b f = some u)
    (hv : u.demandRun die 256 = some v) : exec (.take die idx b f) s = .next v := by
  show settle s (s.leaseTaken die idx b f) = _
  simp only [State.leaseTaken, hfind, hst, hheld, hzeroed, hu, hv, Option.isSome_none, Bool.not_true, Bool.false_eq_true, if_false,
    Option.bind_some, settle_some]

theorem exec_leaseCfgDemand_of_die {d : Die} (hd : s.die? die = some d) (w : BitVec 64)
    (hu : (s.setDie { d with demand := bits 32 16 w.toNat, qtime := bits 16 16 w.toNat }).demandRun die 256 = some u) :
    exec (.leaseCfgDemand die w) s = .next u := by
  show settle s (s.leaseCfg die w) = _
  simp only [State.leaseCfg, hd, hu, settle_some]

end

/-! ## The borrower (R364, R369, R372) -/

section
variable {s u : State} {die lender lease : Nat} {b : Borrow}

/-- TAKE_ACK on a pair whose last checks pass retargets the extent, whose bytes are zero, and answers 1 (R364). -/
theorem exec_takeAck_of_checked {g : LeaseGrant} {e : Nat} (hask : (s.asking die lender lease).head? = some b)
    (hfallback : s.fallbackOk b g.gran = true) (htarget : s.targetExt b g.gran = some e) (hbusy : s.targetBusy b = false) {t : State}
    (ht : ((s.dropAsk die b).stopTarget b).retarget b 2 lender g.page = t) :
    exec (.takeAck die lender lease g) s =
      .next ((({ t with mem := Memory.clear t.mem (spaceBase 2 lender + g.page * 4096) (g.gran * granule) } : State).setBorrow die
        { b with state := .taken, grant := g, reply := none }).answerOpt b.reply (.data 1)) := by
  obtain ⟨rest, hlist⟩ := List.head?_eq_some_iff.1 hask
  show settle s (s.borrowAck die lender lease g) = _
  simp only [State.borrowAck, hlist, hfallback, htarget, hbusy, ht, Bool.not_true, Bool.false_eq_true, if_false, settle_some]

theorem exec_takeNak_of_ask {n : Nat} (hask : s.refusedAsk die lender lease n = some b) : exec (.takeNak die lender lease n) s =
    .next ((s.dropAsk die b).answerOpt b.reply (.data (BitVec.ofNat 32 (2 ^ 31 + n)))) := by
  show Host.Outcome.next (s.borrowNak die lender lease n) = _
  simp only [State.borrowNak, hask, failure]

/-- A write-through lease has nothing to push, so that its demotion is the same whether every page has come or not. -/
theorem State.demote_of_wt (hwt : b.grant.wt = true) (x y : Bool) : s.demote die b x = s.demote die b y := by
  simp only [State.demote, State.pushedPages, hwt, or_true, if_true]

variable (h : s.borrow? die lender lease = some b)
include h

theorem exec_reclaim_of_taken (hst : b.state = .taken) (hbusy : s.targetBusy b = false) : exec (.reclaim die lender lease) s =
    .next (((s.stopTarget b).setBorrow die { b with state := .reclaiming, asked := false }).sendLease die lender (.stopped lender lease)) := by
  show Host.Outcome.next (s.borrowReclaim die lender lease) = _
  simp only [State.borrowReclaim, h, hst, hbusy, Bool.false_eq_true, if_false]

theorem exec_done_of_reclaiming (hst : b.state = .reclaiming) (hu : (s.demote die b true).borrowEvent b 1 = some u) :
    exec (.done die lender lease) s = .next (u.sendLease die lender (.demoted lender lease)) := by
  show settle s (s.borrowDone die lender lease) = _
  simp only [State.borrowDone, h, hst, hu, Option.map_some, settle_some]

/-- A lease under reclaim that is declared lost is demoted: an event where it is write-through, else a fault (R372). -/
theorem State.borrowLost_of_reclaiming (hst : b.state = .reclaiming) (pushed : Bool) :
    s.borrowLost die lender lease pushed = if b.grant.wt then (s.demote die b pushed).borrowEvent b 2
      else (s.demote die b pushed).faultOp b.ctx 3 b.lease clsLease (if pushed then 0 else 1) b.lostPay false := by
  simp only [State.borrowLost, h, hst]
  rfl

theorem State.borrowLost_of_wt (hst : b.state = .reclaiming) (hwt : b.grant.wt = true) (pushed : Bool) :
    s.borrowLost die lender lease pushed = (s.demote die b true).borrowEvent b 2 := by
  rw [State.borrowLost_of_reclaiming h hst, if_pos hwt, State.demote_of_wt hwt pushed true]

theorem State.borrowLost_of_wb (hst : b.state = .reclaiming) (hwb : b.grant.wt = false) (pushed : Bool) :
    s.borrowLost die lender lease pushed =
      (s.demote die b pushed).faultOp b.ctx 3 b.lease clsLease (if pushed then 0 else 1) b.lostPay false := by
  rw [State.borrowLost_of_reclaiming h hst, if_neg (Bool.eq_false_iff.1 hwb)]

end

/-! ## Pushes, copies, packets and flits (R195, R217, R344, R367) -/

theorem exec_push_of_inside {s : State} {a : Nat} {b : List Byte} (h : a + b.length ≤ 8 * Config.spaceSize) :
    exec (.push a b) s = .next (s.writeN a b) := by
  show Host.Outcome.next (s.remoteWrite a b) = _
  rw [State.remoteWrite, if_pos h]

/-- The copy that came first in its class, with both ranges translated and no link down, moves its bytes (R217). -/
theorem exec_copyComplete_of_served {s : State} {die id : Nat} {d : Die} {c : CopyJob} {p q : List (Nat × Nat)} (hd : s.die? die = some d)
    (hc : (d.copies.find? fun c => c.id == id && c.status == 0) = some c) (hsrc : s.range c.part (Addr.ofVa c.src) c.len .read = .ok p)
    (hdst : s.range c.part (Addr.ofVa c.dst) c.len .write = .ok q) (hsrcUp : s.pathDown die c.part (Addr.ofVa c.src) c.len = none)
    (hdstUp : s.pathDown die c.part (Addr.ofVa c.dst) c.len = none) (hserved : d.served c.cls = some c) :
    exec (.copyComplete die id) s = .next ((s.writePieces q (s.readPieces p)).endCopy die id 1) := by
  show settle s (s.copyEnd die id) = _
  simp only [State.copyEnd, hd, Option.bind_some, hc, Option.map_some, hserved, bne_self_eq_false, Bool.false_eq_true, if_false, hsrc, hdst,
    hsrcUp, hdstUp, Option.or_none, settle_some]

/-- A complete packet with a legal header joins the staging buffer of an island without bindings (R195). -/
theorem exec_islandPacket_of_legal {s : State} {u n : Nat} {rt : BitVec 4} {hd : Word} {ws : List Word} {rest : List (BitVec 4 × Word)}
    (hat : (s.island u).inq[n]? = some (rt, hd)) (hfirst : ∀ e ∈ (s.island u).inq.take n, e.1 ≠ rt)
    (htake : takeRt rt (hd.toNat % 65536 + 1) (s.island u).inq = (ws, rest)) (hlen : ws.length = hd.toNat % 65536 + 1)
    (hkind : bits 29 3 hd.toNat < 6) (hzero : bits 24 5 hd.toNat = 0) (hbinds : (s.island u).binds = []) :
    exec (.islandPacket u n) s = .next (s.setIsland { s.island u with
      inq := rest
      packets := (s.island u).packets ++ [{ kind := bits 29 3 hd.toNat, task := bits 16 8 hd.toNat, words := ws.drop 1 }] }) := by
  have hnone : ((s.island u).inq.take n).any (fun t => t.1 == rt) = false := List.any_eq_false.2 fun e he => by simp [hfirst e he]
  have hlegal : ¬(6 ≤ bits 29 3 hd.toNat ∨ bits 24 5 hd.toNat ≠ 0) := by omega
  show settle s (s.islandPacket u n) = _
  simp only [State.islandPacket, hat, hnone, Nat.reducePow, htake, hlen, if_neg hlegal, hbinds, ne_eq, not_true_eq_false,
    Bool.false_eq_true, if_false, List.find?_nil, ite_self, settle_some]

theorem exec_fijanFlitArrival_of_here {s : State} {f : Flit} (h : f.dest = s.fijId.toNat) :
    exec (.fijanFlitArrival f) s = .next (s.flitHere f.body) := by
  show Host.Outcome.next (s.flit f) = _
  rw [State.flit, if_pos h]

/-- Settles O58: each event of the lender and of the borrower by the state of its lease, the rest by their lemmas above. -/
theorem leaseEvents : Obligations.LeaseEvents := by
  unfold Obligations.LeaseEvents
  refine ⟨fun s die idx l h => ?lender, fun s u die d v hd => exec_leaseCfgDemand_of_die hd v, fun s die lender lease b => ?asking,
    fun s die lender lease b h => ?borrower, fun s a b => exec_push_of_inside,
    fun s die id d c p q hd hc hsrc hdst hsrcUp hdstUp hserved => exec_copyComplete_of_served hd hc hsrc hdst hsrcUp hdstUp hserved,
    fun s u n rt hd ws rest => exec_islandPacket_of_legal, fun s f => exec_fijanFlitArrival_of_here⟩
  case lender =>
    refine ⟨exec_leaseZeroDone_of_offered h, fun b f u v hfind hst hheld hzeroed hcarry hu => ?take, exec_stopped_of_reclaiming h,
      fun u => exec_demoted_of_reclaiming h, fun u hst hpushed hreached hu => ?unreached, fun u hst hwhy hu => ?reached,
      fun r => exec_leaseStopTimerExpiry_of_other h, fun u => exec_qtimeExpiry_of_quarantined h, fun u => exec_leaseTermExpiry_of_offered h⟩
    case take => exact exec_take_of_offered hfind hst hheld hzeroed ((State.takeNow_of_canCarry hheld hcarry).trans hu)
    case unreached =>
      rw [exec_leaseStopTimerExpiry_of_reached h hreached]
      exact congrArg (settle s) ((State.quarantine_of_unreached h hst hpushed hreached).trans hu)
    case reached =>
      rw [exec_leaseStopTimerExpiry_of_reached h rfl]
      exact congrArg (settle s) ((State.quarantine_of_reached h hst hwhy).trans hu)
  case asking =>
    exact ⟨fun g e hask hfallback htarget hbusy => exec_takeAck_of_checked hask hfallback htarget hbusy rfl, fun n => exec_takeNak_of_ask⟩
  case borrower =>
    refine ⟨exec_reclaim_of_taken h, fun u => exec_done_of_reclaiming h, fun u hst hwt hu => ?through, fun u pushed hst hwb hu => ?back⟩
    case through =>
      have hlost (pushed : Bool) : settle s (s.borrowLost die lender lease pushed) = .next u :=
        congrArg (settle s) ((State.borrowLost_of_wt h hst hwt pushed).trans hu)
      exact ⟨hlost true, hlost false⟩
    case back =>
      have hlost : settle s (s.borrowLost die lender lease pushed) = .next u :=
        congrArg (settle s) ((State.borrowLost_of_wb h hst hwb pushed).trans hu)
      exact ⟨hlost, fun hno => by subst hno; exact hlost⟩

end Sys2Proof.Machine

/-! # Taking a fault (R342, R351 to R356, R358) -/

namespace Sys2Proof.Machine

/-! ## A fault of a forme (R354, R356) -/

section
variable {s : State} {h : Nat} {f : Forme} (hf : s.forme? h = some f)
include hf

theorem State.faultForme_of_round (hround : f.cfg.stream = false) (x y port cls reason : Nat) (pay : Pay) :
    s.faultForme h x y port cls reason pay = ((s.pick 2).2.setForme f.void).postFault
      { ctx := f.ctx, src := 0, srcid := h, cls := cls, prec := 0, reason := reason, multi := (s.pick 2).1 == 1
        loc := x % 256 * 2 ^ 10 + y % 256 * 4 + port % 4 } (pay.bits 0 f.run.round) false (.round h) := by
  simp only [State.faultForme, State.faultFormeBy, hf, hround, Bool.false_eq_true, if_false]

theorem State.faultForme_of_stream (hstream : f.cfg.stream = true) (x y port cls reason : Nat) (pay : Pay) :
    s.faultForme h x y port cls reason pay = (s.killForme f true).postFault
      { ctx := f.ctx, src := 0, srcid := h, cls := cls, prec := 2, reason := reason
        loc := x % 256 * 2 ^ 10 + y % 256 * 4 + port % 4 } (pay.bits 0 0) false (.killed h) := by
  simp only [State.faultForme, State.faultFormeBy, hf, hstream, if_true]

end

/-- No element of a cleared core holds a token. -/
theorem Core.cleared_elems_empty (c : Core) :
    ∀ e ∈ c.cleared.elems, e.q0 = [] ∧ e.q1 = [] ∧ e.q2 = [] ∧ e.q3 = [] ∧ e.scales = [] := by
  intro e he
  obtain ⟨_, _, rfl⟩ := List.mem_map.1 he
  exact ⟨rfl, rfl, rfl, rfl, rfl⟩

/-! ## What a dropped instance takes with it (R355) -/

/-- `g` has fallen on a tile, with the younger instances of its context. -/
def DTile.AllFell (d : DTile) (g : Galley) : Prop :=
  ∀ x ∈ d.galleys, tagCtx x.tag = tagCtx g.tag → g.seq ≤ x.seq → x.dropped = true

/-- Changes that keep the tag, the number and the fall of every instance keep who has fallen. -/
theorem DTile.AllFell.of_map {d e : DTile} {g : Galley} (hd : d.AllFell g) {f : Galley → Galley} (he : e.galleys = d.galleys.map f)
    (hkeep : ∀ x, (f x).tag = x.tag ∧ (f x).seq = x.seq ∧ (f x).dropped = x.dropped) : e.AllFell g := by
  intro x hx hctx hseq
  rw [he] at hx
  obtain ⟨y, hy, rfl⟩ := List.mem_map.1 hx
  obtain ⟨htag, hnum, hfell⟩ := hkeep y
  exact hfell.trans (hd y hy (htag ▸ hctx) (hnum ▸ hseq))

theorem DTile.mem_fallen {d : DTile} {g x : Galley} :
    x ∈ d.fallen g ↔ x ∈ d.galleys ∧ tagCtx x.tag = tagCtx g.tag ∧ x.dropped = false ∧ g.seq ≤ x.seq := by
  simp only [DTile.fallen, DTile.openOf, List.mem_filter, Bool.and_eq_true, beq_iff_eq, Bool.not_eq_true', decide_eq_true_eq, and_assoc]

@[simp] theorem DTile.dropOne_i (lead : Nat) (d : DTile) (a : Galley) : (d.dropOne lead a).i = d.i := rfl

/-- An instance on the tile after `a` is dropped has fallen, or it was there and is another. -/
theorem DTile.mem_galleys_dropOne {d : DTile} {lead : Nat} {a x : Galley} (hx : x ∈ (d.dropOne lead a).galleys) :
    x.dropped = true ∨ x ∈ d.galleys ∧ x ≠ a := by
  obtain ⟨y, hy, rfl⟩ := List.mem_map.1 hx
  split
  · exact .inl rfl
  · next hother =>
    refine .inr ⟨hy, fun heq => hother ?_⟩
    subst heq
    simp

/-- What has not fallen after the instances of `l` are dropped was there and is none of them. -/
theorem DTile.mem_galleys_foldl_dropOne {lead : Nat} {l : List Galley} {d : DTile} {x : Galley}
    (hx : x ∈ (l.foldl (DTile.dropOne lead) d).galleys) : x.dropped = true ∨ x ∈ d.galleys ∧ x ∉ l := by
  induction l generalizing d with
  | nil => exact .inr ⟨hx, List.not_mem_nil⟩
  | cons a l ih =>
    rcases ih hx with hfell | ⟨hmem, hnot⟩
    · exact .inl hfell
    · exact (DTile.mem_galleys_dropOne hmem).imp_right fun ⟨hd, hne⟩ => ⟨hd, mt List.mem_cons.1 (not_or.2 ⟨hne, hnot⟩)⟩

theorem DTile.allFell_foldl_dropOne (d : DTile) (g : Galley) (lead : Nat) :
    ((d.fallen g).foldl (DTile.dropOne lead) d).AllFell g := by
  intro x hx hctx hseq
  rcases DTile.mem_galleys_foldl_dropOne hx with hfell | ⟨hmem, hnot⟩
  · exact hfell
  · by_contra hopen
    exact hnot (DTile.mem_fallen.2 ⟨hmem, hctx, Bool.eq_false_of_not_eq_true hopen, hseq⟩)

@[simp] theorem DTile.keepBits_i (d : DTile) (l : List Galley) (st : Sticky) : (d.keepBits l st).i = d.i := by
  unfold DTile.keepBits
  split <;> rfl

theorem DTile.AllFell.keepBits {d : DTile} {g : Galley} (hd : d.AllFell g) (l : List Galley) (st : Sticky) : (d.keepBits l st).AllFell g := by
  unfold DTile.keepBits
  split
  · exact hd
  · exact hd.of_map rfl fun x => by split <;> exact ⟨rfl, rfl, rfl⟩

@[simp] theorem DTile.spent_i (d : DTile) : d.spent.i = d.i := by
  unfold DTile.spent
  split
  · split <;> rfl
  · rfl

@[simp] theorem DTile.spent_galleys (d : DTile) : d.spent.galleys = d.galleys := by
  unfold DTile.spent
  split
  · split <;> rfl
  · rfl

/-! ## What a drop keeps of the tiles, before it puts its own in -/

theorem State.writePieces_tiles (s : State) (l : List (Nat × Nat)) (b : List Byte) : (s.writePieces l b).tiles = s.tiles := by
  induction l generalizing s b with
  | nil => rfl
  | cons c l ih => exact ih _ _

theorem State.returnNow_tiles {s u : State} {p : Nat} {h : QHold} (e : s.returnNow p h = some u) : u.tiles = s.tiles := by
  unfold State.returnNow at e
  split at e
  · cases e
  · cases e
    exact State.writePieces_tiles ..
  · cases e
    rfl

theorem State.returnHold_tiles (s : State) (p : Nat) (h : QHold) : (s.returnHold p h).tiles = s.tiles := by
  unfold State.returnHold
  split
  · rfl
  · split
    · next e => exact State.returnNow_tiles e
    · rfl
    · rfl

theorem State.stopWaiting_tiles (s : State) (c : Nat) : (s.stopWaiting c).tiles = s.tiles := by
  unfold State.stopWaiting
  split
  · rfl
  · split_ifs <;> rfl

theorem State.dropWaits_tiles (s : State) (t : Nat) (l : List Galley) : (s.dropWaits t l).tiles = s.tiles :=
  foldl_keeps (m := State.tiles) State.stopWaiting_tiles _ _

/-- The returns of what instances hold and the end of their waits leave every tile. -/
theorem State.foldl_returnHold_dropWaits_tiles (t : Nat) (young fall : List Galley) (s : State) :
    ((young.foldl (fun s x => x.holds.reverse.foldl (fun s h => s.returnHold (s.unitPart t) h) s) s).dropWaits t fall).tiles = s.tiles :=
  (State.dropWaits_tiles ..).trans
    (foldl_keeps (m := State.tiles) (fun s _ => foldl_keeps (m := State.tiles) (fun s h => s.returnHold_tiles _ h) _ s) young s)

theorem State.tiles_ite {c : Prop} [Decidable c] {s u : State} {l : List DTile} (hs : s.tiles = l) (hu : u.tiles = l) :
    (if c then s else u).tiles = l := by
  split
  · exact hs
  · exact hu

theorem State.tile_eq_of_tiles {s u : State} (h : u.tiles = s.tiles) (t : Nat) : u.tile t = s.tile t := by
  rw [State.tile, State.tile, h]

/-- Putting in a tile whose favour is brought up to date keeps who has fallen on it. -/
theorem State.allFell_setTile_spent {s : State} {d : DTile} {t : Nat} {g : Galley} (hi : d.i = t) (hd : d.AllFell g) :
    ((s.setTile d.spent).tile t).AllFell g := by
  rw [State.tile_setTile_of_i (d.spent_i.trans hi)]
  exact fun x hx => hd x (d.spent_galleys ▸ hx)

/-- A dropped instance falls with every younger one of its context on the tile (R355). -/
theorem State.allFell_dropGalley (s : State) (t : Nat) (g : Galley) : ((s.dropGalley t g).tile t).AllFell g := by
  unfold State.dropGalley
  refine State.allFell_setTile_spent ?number (.of_map (.keepBits ?fell _ _) rfl fun x => ?keep)
  case keep => split <;> exact ⟨rfl, rfl, rfl⟩
  case number =>
    exact (DTile.keepBits_i ..).trans ((foldl_keeps (m := DTile.i) (fun d a => d.dropOne_i _ a) _ _).trans (State.tile_i ..))
  case fell =>
    rw [State.tile_eq_of_tiles (s := s)]
    · exact DTile.allFell_foldl_dropOne _ g _
    · exact State.tiles_ite (State.foldl_returnHold_dropWaits_tiles ..)
        ((State.setIsland_tiles ..).trans (State.foldl_returnHold_dropWaits_tiles ..))

/-! ## A record that the fault queue takes (R342, R358) -/

theorem Ctx.faulting_eq (x : Ctx) : x.faulting = { x with state := .faulted, before := if x.state = .faulted then x.before else x.state } := by
  simp only [Ctx.faulting, beq_iff_eq]

section
variable {s u : State} {x : Ctx}

/-- A record in the fault queue goes on by whether the context has a handler, and whether one met a fault of its own. -/
theorem State.postFault_of_done {head : FaultHead} {pay tail : Nat} (hx : s.ctx? head.ctx = some x)
    (hpost : s.postRing x.part x.fqb (faultRecord head pay) = some (.done u tail)) (hnd : Bool) (work : FaultWork) :
    s.postFault head pay hnd work = u.recorded x (faultRecord head pay) tail (x.noHandler || hnd) work := by
  simp only [State.postFault, hx, hpost]

/-- A context without a handler, or one whose last record went without one, has its record copied to the host queue (log 68). -/
theorem State.recorded_of_quiet {full tail : Nat} {quiet : Bool} (hquiet : quiet = true ∨ bit 31 x.fhnd.toNat = false) (work : FaultWork) :
    s.recorded x full tail quiet work =
      (s.setCtx { x.faulting with work := x.work ++ [work], noHandler := true }).postHost x.part full := by
  have h : (quiet || !(bit 31 x.fhnd.toNat)) = true := by simpa using hquiet
  simp only [State.recorded, h, if_true]

/-- A context with a handler tells it of the record. -/
theorem State.recorded_of_handler (hbit : bit 31 x.fhnd.toNat = true) (full tail : Nat) (work : FaultWork) :
    s.recorded x full tail false work =
      some ((s.setCtx { x.faulting with work := x.work ++ [work], noHandler := false }).tellHandler x tail) := by
  simp only [State.recorded, hbit, Bool.not_true, Bool.or_false, Bool.false_eq_true, if_false]

theorem State.tellHandler_of_tag {tail : Nat} {tag : Tag} (htag : pushTag (ctxTag x.id) 16 tail = some tag) :
    s.tellHandler x tail = s.sendTile (x.part / 4 * 32 + bits 26 5 x.fhnd.toNat)
      { tag := tag, port := BitVec.ofNat 2 (bits 24 2 x.fhnd.toNat), node := BitVec.ofNat 14 (bits 0 14 x.fhnd.toNat), hnd := true
        tok := { value := BitVec.ofNat 32 tail } } := by
  simp only [State.tellHandler, htag]

end

/-- Settles O49: a forme by its mode, an instance by what its drop leaves on the tile, a record by whether there is a handler to tell. -/
theorem faultEntry : Obligations.FaultEntry := by
  unfold Obligations.FaultEntry
  refine ⟨fun s h x y port cls reason pay f hf => ⟨fun hround => ?round, fun hstream => ?stream⟩, fun s t node cls reason g pay => rfl,
    State.allFell_dropGalley, fun s u head pay tail work x hx hpost => ?record⟩
  case round =>
    exact ⟨State.faultForme_of_round hf hround .., rfl, rfl, rfl, rfl, rfl, rfl, rfl, rfl, Core.cleared_elems_empty _⟩
  case stream => exact State.faultForme_of_stream hf hstream ..
  case record =>
    have hdone := fun hnd => State.postFault_of_done hx hpost hnd work
    refine ⟨fun hbit hhandler tag htag => ?handler, fun hquiet => ?host, ?nested⟩
    case handler =>
      rw [hdone, hhandler, Bool.or_false, State.recorded_of_handler hbit, State.tellHandler_of_tag htag, Ctx.faulting_eq]
    case host =>
      rw [hdone, Bool.or_false, State.recorded_of_quiet hquiet.symm, Ctx.faulting_eq]
    case nested =>
      rw [hdone, State.recorded_of_quiet (.inl (Bool.or_true _)), Ctx.faulting_eq]

end Sys2Proof.Machine
